-- ==== Sys2Proof/Word.lean ====
section
/-! DEFINITION. The word types of the package and the plainest containers: nothing here computes a rule. -/
namespace Sys2Proof

/-- A scalar register, a fabric word, a BAR0 register (R85, R5). -/
abbrev Word := BitVec 64

/-- A local counter, an arrival counter, a vector lane (R102, R86). -/
abbrev Word32 := BitVec 32

/-- A byte of memory. -/
abbrev Byte := BitVec 8

/-- A vector register or an accumulator row: 32 lanes of 32 bits (R86, R68). -/
abbrev VReg := BitVec 1024

/-- Sparse data by key: pairs in strictly rising order of the key. -/
abbrev AMap (β : Type) := List (Nat × β)

/-- Bytes by address, strictly rising, no byte equal to what an unlisted address reads as. -/
abbrev Bytes := List Host.Cell

end Sys2Proof
end

