-- ==== Sys2Proof/Syntax.lean ====
section
/-! DEFINITION. The commands: one constructor per row of spec/opcode_table.json, with the row's operands (log entry 10). -/
namespace Sys2Proof

/-- A hardware thread by logical placement: compute die 4p + n, logical cluster, logical core, thread (R18, R85). -/
structure ThreadRef where
  die : Nat
  cl : Nat
  core : Nat
  th : Nat
  deriving DecidableEq, Repr

/-- A logical core. -/
structure CoreRef where
  die : Nat
  cl : Nat
  core : Nat
  deriving DecidableEq, Repr

/-- A logical cluster. -/
structure ClusterRef where
  die : Nat
  cl : Nat
  deriving DecidableEq, Repr

/-- What upsets the caches at an access (R200, R214): nothing; the cached sector the access reads; or another sector of the
issuing cluster's cache, or a line of its partition's remote-data cache, by global address, for a later access or write-back to
find. -/
inductive Ecc where
  | good | ue
  | cache (ga : Nat)
  | rdc (ga : Nat)
  deriving DecidableEq, Repr

/-- What the ECC of an HBM stack or a state stack finds in a word that an access reads (R159, R206, R212). -/
inductive HomeEcc where
  | good | ce | ue
  deriving DecidableEq, Repr

/-- Where a State Engine request comes from: a thread's SEREQ word, or block `idx` of a running SE_CMD (R144, R150). -/
inductive SeSource where
  | thread (t : ThreadRef) (w : Word)
  | batch (p op idx : Nat)
  deriving DecidableEq, Repr

/-- A fabric packet at its target hub (R216, R226). -/
structure HubReq where
  /-- issuing partition -/
  part : Nat
  addr : Word
  tag : Nat
  domain : Nat
  glob : Bool
  /-- the port of the issuing hub by which it entered (R540) -/
  port : Nat
  deriving DecidableEq, Repr

/-- A doorbell write: through the tenant's doorbell BAR, or through the hub-local window (R258, R262). -/
inductive Doorbell where
  | bar (tenant ring off size : Nat)
  | window (p ctx off size tag domain : Nat)
  deriving DecidableEq, Repr

/-- A debug command's fields beside its OP (R492). -/
structure DbgCmd where
  pkg : Nat
  part : Nat
  die : Nat
  cl : Nat
  core : Nat
  th : Nat
  arg : BitVec 16
  data : Word
  deriving DecidableEq, Repr

/-- Cycles of one cluster's cores since the last boundary, by the tenant that held them (R132): cause 0 to 10. -/
structure IdleCount where
  die : Nat
  cl : Nat
  tenant : Option Nat
  cause : Nat
  cycles : Nat
  deriving DecidableEq, Repr

/-- What an island counted in the 2 µs just ended (R397, R398): its die by DIE_CAP index, the counts of rows 0 to 10, what of
them ballast made, and the power in mW that pauses withheld. -/
structure IslandAct where
  die : Nat
  counts : List Nat
  ballast : List Nat
  held : Nat
  deriving DecidableEq, Repr

/-- What a field test found (R444, R445): the pattern image passes its check, the cluster cache passes, the physical cores that
fail. -/
structure TestResult where
  image : Bool
  cache : Bool
  failed : List Nat
  deriving DecidableEq, Repr

/-- A stop of a Bramble ring and a direction: compute die, ring, clockwise or not, stop (R284). -/
structure BrAt where
  die : Nat
  ring : Nat
  cw : Bool
  stop : Nat
  deriving DecidableEq, Repr

/-- Where a ring packet goes: a logical cluster, by the map current at injection, or another unit's stop (R284, R293). -/
inductive BrDst where
  | cluster (l : Nat)
  | unit (ring stop : Nat)
  deriving DecidableEq, Repr

/-- A ring packet as its source hands it to the stop: class (0 memory request, 1 memory response, 2 stream, 3 control), type,
payload units, the epoch tag of a packet that comes from the hub, job tag, domain, transaction number, target, payload (R285), and
whether it is the last of what a stream channel carries (R172). -/
structure BrPacket where
  dst : BrDst
  cls : Nat
  ty : Nat
  units : Nat
  epoch : Nat
  tag : Nat
  domain : Nat
  txid : Nat
  target : Word
  poison : Bool
  payload : BitVec 1024
  last : Bool
  deriving DecidableEq, Repr

/-- What SECDED finds in a packet that reaches a stop: nothing, an uncorrectable header, an uncorrectable payload unit (R291). -/
inductive BrErr where
  | good | header | payload
  deriving DecidableEq, Repr

/-- A packet in a hub's router (R296 to R304): its target, domain, source port, the hub-to-hub hops it has taken, whether
this hub issued it, whether it carries Saley's host mark, whether its epoch tag is the previous epoch's, the started operation it
belongs to, the number of the request it answers, its class (0 request, 1 response, 2 stream), the switches and transit packages it
has passed, the GP_PRIO of its header, the rest of its Melux header and its data (R341), whether it came by a general port (R361); and
the notes that hubs on its way hold of it, by partition and number (R300). -/
structure RoutePacket where
  target : Word
  domain : Nat
  srcPort : Nat
  hops : Nat
  issued : Bool
  host : Bool
  old : Bool
  op : Option Nat
  answers : Option Nat
  cls : Nat
  passed : Nat
  prio : Option Nat
  typ : Nat
  poison : Bool
  jobTag : Nat
  txid : Nat
  srcPkg : Nat
  srcPart : Nat
  aux : Word
  data : List (BitVec 8)
  gp : Bool
  track : List (Nat × Nat)
  deriving DecidableEq, Repr

/-- Data bytes of a packet (R341). -/
def RoutePacket.dlen (k : RoutePacket) : Nat := k.data.length

/-- A request that ends under a link timeout (R291, R301): one noted at a hub, or a unit's memory request on a Bramble ring. -/
inductive TimeoutRef where
  | hub (req : Nat)
  | ring (die ring stop txid : Nat)
  deriving DecidableEq, Repr

/-- A steering request (R327): an administrator's write of STEER_CMD, or a group context's request with its domain. -/
inductive SteerReq where
  | admin (tenant die : Nat) (v : Word)
  | group (die domain preset t : Nat)
  deriving DecidableEq, Repr

/-- A flit as the line delivers it: its 2,048 bits, decoded and descrambled (R334, R335, R338); and for each codeword that ended
with it, the wrong symbols that RS decoding finds on each wavelength. -/
structure Flit where
  bits : BitVec 2048
  cws : List (AMap Nat)
  deriving DecidableEq, Repr

/-- A LANE_CHG message (R343). -/
structure LaneChg where
  kind : Nat
  w : Nat
  s : Nat
  role : Nat
  block : Nat
  gen : Nat
  deriving DecidableEq, Repr

/-- A LINK_ID message (R343): package or switch number, whether the peer is a switch port, its optical die, engine and port, its
receive buffers by class. -/
structure LinkIdMsg where
  num : Nat
  switch : Bool
  die : Nat
  eng : Nat
  port : Nat
  bufs : List Nat
  deriving DecidableEq, Repr

/-- The key of a collective instance (R371): job tag, domain, CID, ATTEMPT, and the CRC of the member list or the GID. -/
structure CollKey where
  tag : Nat
  domain : Nat
  cid : Nat
  attempt : Nat
  comm : Bool
  ident : Nat
  deriving DecidableEq, Repr

/-- A join message for the member of rank `dest` at this hub (R371). -/
structure JoinMsg where
  key : CollKey
  dest : Nat
  sender : Nat
  op : Nat
  dtype : Nat
  rop : Nat
  count : Nat
  root : Nat
  chunk : Nat
  n : Nat
  deriving DecidableEq, Repr

/-- Where a collective packet's data comes from: the member of a rank at hub q of this package, or another package, as words of
partials, with bit 32 set where an INT32 sum on the way saturated, or as bytes. -/
inductive CollSrc where
  | near (q : Nat)
  | far (data : List Nat)
  deriving DecidableEq, Repr

/-- A data packet for the member of rank `dest` (R362, R374): the partial of a group, named by its level (0 a member, 1 a partition,
2 a package, 3 + d folded along L2 dimension d, and above those all pods) and its rank, for one chunk. -/
structure CollPacket where
  key : CollKey
  dest : Nat
  level : Nat
  group : Nat
  chunk : Nat
  src : CollSrc
  deriving DecidableEq, Repr

/-- An ABORT for the member of rank `dest` (R380): status code, rank of the failing member. -/
structure CollAbort where
  key : CollKey
  dest : Nat
  status : Nat
  rank : Nat
  deriving DecidableEq, Repr

/-- A message from a member's hub to another member (R371, R380). -/
inductive CollMsg where
  | join (j : JoinMsg)
  | abort (a : CollAbort)
  deriving DecidableEq, Repr

/-- A Currant frame beside its link fields (R391). -/
structure CurFrame where
  kind : Nat
  op : Nat
  rop : Nat
  dtype : Nat
  nelem : Nat
  tid : Nat
  minidx : Nat
  opseq : Nat
  cause : Nat
  data : List Word32
  deriving DecidableEq, Repr

/-- Bytes of one Currant frame as tensor engine `eng` receives them (R391). -/
structure CurArrival where
  eng : Nat
  bytes : List Byte
  deriving DecidableEq, Repr

/-- What Saley finds at the cold start reference (R25, R211, R456, R524): the straps BOOT_SEL, DBG_EN, SMB_ADDR, PCIE_MODE; the
channels of each HBM stack that pass training, by compute die (all 32 where the list is shorter); modules left untrained, as
link, module and lanes failed; the PMBus controllers that answer. -/
structure BootInputs where
  bootSel : Bool
  dbgEn : Bool
  smbAddr : Nat
  pcieMode : Bool
  hbm : List (BitVec 32)
  untrained : List (Nat × Nat × Nat)
  pmbus : List Nat
  deriving DecidableEq, Repr

/-- A TS_SYNC message at engine 8 die + engine (R347): its number, T_TX, LAST_RX, LAST_NUM, MASTER, STRATUM, LOCKED. -/
structure TsSync where
  eng : Nat
  num : Nat
  tTx : Nat
  lastRx : Nat
  lastNum : Nat
  master : Nat
  stratum : Nat
  locked : Bool
  deriving DecidableEq, Repr

/-- A PLDM sensor (R523): VIN48, package power, THM_IN_k, the hottest reading of sensor class k of R419 in the table's order;
READY, SERVICE_N, THERMTRIP_N, coolant input A or B, GPIO_(4 + k). -/
inductive Sensor where
  | vin | power | thmIn (k : Nat) | hottest (k : Nat) | ready | service | thermtrip | cool (b : Bool) | gpio (k : Nat)
  deriving DecidableEq, Repr

/-- A request at the SMBus target (R523): an MCTP control message, a read of a PLDM sensor, another PLDM request. -/
inductive MctpMsg where
  | control
  | read (x : Sensor)
  | pldm (code : Nat)
  deriving DecidableEq, Repr

/-- What a STAGE found (R450, R451): the read-back matches, the image passes its checks, its version. -/
structure StageEnd where
  readBack : Bool
  check : Bool
  version : BitVec 32
  deriving DecidableEq, Repr

/-- A command (the rows of spec/opcode_table.json). -/
inductive Instr where
  /-- COLD_START_REFERENCE (R457). -/
  | coldStartReference (b : BootInputs)
  /-- CAPABILITY_RECORD (R29). -/
  | capabilityRecord (i : Nat) (words : List Word)
  /-- PARTITION_READY (R463). -/
  | partitionReady (p : Nat)
  /-- PCIE_CONFIG_REQUEST (R461). -/
  | pcieConfigRequest (port : Nat) (fn : Nat) (ats : Option Bool)
  /-- PCIE_EARLY_BAR_ACCESS (R461). -/
  | pcieEarlyBarAccess (port : Nat) (write : Bool)
  /-- UCIE_MODULE_RETRAIN (R25). -/
  | ucieModuleRetrain (link : Nat) (module : Nat) (lanes : Nat) (ok : Bool)
  /-- PART_UNREACHABLE (R23). -/
  | partUnreachable (p : Nat) (off : Nat) (tenant : Nat) (write : Bool)
  /-- REFCLK_LOSS (R38). -/
  | refclkLoss (i : Nat)
  /-- REFCLK_SWITCHOVER (R38). -/
  | refclkSwitchover
  /-- REFCLK_GOOD (R39). -/
  | refclkGood (i : Nat)
  /-- REFCLK_PREFER_WRITE (R38). -/
  | refclkPreferWrite (tenant : Nat) (v : Word)
  /-- TS_SYNC (R347). -/
  | tsSync (m : TsSync)
  /-- TB_LOCK_LOSS (R45). -/
  | tbLockLoss
  /-- OPERATING_POINT_CHANGE (R41). -/
  | operatingPointChange (c : ClusterRef) (op : Nat)
  /-- OSCILLATOR_CHECK (R42). -/
  | oscillatorCheck (c : ClusterRef) (ppm : Int)
  /-- MCLAIM (R50). -/
  | mclaim (t : ThreadRef) (w : Word)
  /-- MREL (R53). -/
  | mrel (t : ThreadRef) (w : Word)
  /-- MCFG (R74). -/
  | mcfg (t : ThreadRef) (w : Word)
  /-- MSTREAM (R75). -/
  | mstream (t : ThreadRef) (w : Word)
  /-- MRUN (R62). -/
  | mrun (t : ThreadRef) (w : Word)
  /-- MSWAP (R69). -/
  | mswap (t : ThreadRef) (w : Word)
  /-- MZERO (R69). -/
  | mzero (t : ThreadRef) (w : Word)
  /-- MSTAT (R77). -/
  | mstat (t : ThreadRef) (w : Word)
  /-- ALU (R93). -/
  | alu (t : ThreadRef) (w : Word)
  /-- ALUI (R93). -/
  | alui (t : ThreadRef) (w : Word)
  /-- CMP (R93). -/
  | cmp (t : ThreadRef) (w : Word)
  /-- CMPI (R93). -/
  | cmpi (t : ThreadRef) (w : Word)
  /-- MOVI (R93). -/
  | movi (t : ThreadRef) (w : Word)
  /-- MOVHI (R93). -/
  | movhi (t : ThreadRef) (w : Word)
  /-- SEL (R93). -/
  | sel (t : ThreadRef) (w : Word)
  /-- PLOG (R93). -/
  | plog (t : ThreadRef) (w : Word)
  /-- RDSR (R93). -/
  | rdsr (t : ThreadRef) (w : Word) (cycles : Nat)
  /-- BR (R93). -/
  | br (t : ThreadRef) (w : Word)
  /-- JAL (R93). -/
  | jal (t : ThreadRef) (w : Word)
  /-- JR (R93). -/
  | jr (t : ThreadRef) (w : Word)
  /-- END (R93). -/
  | endThread (t : ThreadRef) (w : Word)
  /-- YIELD (R93). -/
  | yield (t : ThreadRef) (w : Word)
  /-- YIELD_EXPIRY (R93). -/
  | yieldExpiry (t : ThreadRef)
  /-- LDL (R98). -/
  | ldl (t : ThreadRef) (w : Word)
  /-- STL (R98). -/
  | stl (t : ThreadRef) (w : Word)
  /-- LDR (R93). -/
  | ldr (t : ThreadRef) (w : Word)
  /-- STR (R93). -/
  | str (t : ThreadRef) (w : Word)
  /-- LDG (R194). -/
  | ldg (t : ThreadRef) (w : Word) (ecc : Ecc)
  /-- STG (R194). -/
  | stg (t : ThreadRef) (w : Word) (ecc : Ecc)
  /-- ATOM (R195). -/
  | atom (t : ThreadRef) (w : Word)
  /-- STORE_FAULT (R123). -/
  | storeFault (t : ThreadRef) (addr : Nat) (mem : Bool)
  /-- FENCE_REL (R240). -/
  | fenceRel (t : ThreadRef) (w : Word)
  /-- FENCE_ACQ (R240). -/
  | fenceAcq (t : ThreadRef) (w : Word)
  /-- FENCE_FULL (R240). -/
  | fenceFull (t : ThreadRef) (w : Word)
  /-- WAITL (R124). -/
  | waitl (t : ThreadRef) (w : Word)
  /-- WAITC (R246). -/
  | waitc (t : ThreadRef) (w : Word)
  /-- WAIT_INSTR_TIMEOUT (R124). -/
  | waitInstrTimeout (t : ThreadRef)
  /-- BARC (R125). -/
  | barc (t : ThreadRef) (w : Word)
  /-- BARL (R125). -/
  | barl (t : ThreadRef) (w : Word)
  /-- LCSET (R102). -/
  | lcset (t : ThreadRef) (w : Word)
  /-- LCADD (R102). -/
  | lcadd (t : ThreadRef) (w : Word)
  /-- PREF (R126). -/
  | pref (t : ThreadRef) (w : Word)
  /-- SPSET (R202). -/
  | spset (t : ThreadRef) (w : Word)
  /-- SPSTOP (R202). -/
  | spstop (t : ThreadRef) (w : Word)
  /-- CPREQ (R235). -/
  | cpreq (t : ThreadRef) (w : Word)
  /-- NOP (R93). -/
  | nop (t : ThreadRef) (w : Word)
  /-- TRAP (R96). -/
  | trap (t : ThreadRef) (w : Word)
  /-- NWREAD (R128). -/
  | nwread (t : ThreadRef) (w : Word)
  /-- PHINT (R409). -/
  | phint (t : ThreadRef) (w : Word)
  /-- VINT (R108). -/
  | vint (t : ThreadRef) (w : Word)
  /-- VLOG (R108). -/
  | vlog (t : ThreadRef) (w : Word)
  /-- VSHF (R109). -/
  | vshf (t : ThreadRef) (w : Word)
  /-- VFP (R110). -/
  | vfp (t : ThreadRef) (w : Word)
  /-- VFMA (R110). -/
  | vfma (t : ThreadRef) (w : Word)
  /-- VCMP (R111). -/
  | vcmp (t : ThreadRef) (w : Word)
  /-- VSEL (R93). -/
  | vsel (t : ThreadRef) (w : Word)
  /-- VMOV (R106). -/
  | vmov (t : ThreadRef) (w : Word)
  /-- VEXT (R93). -/
  | vext (t : ThreadRef) (w : Word)
  /-- VINS (R93). -/
  | vins (t : ThreadRef) (w : Word)
  /-- VAPX (R113). -/
  | vapx (t : ThreadRef) (w : Word)
  /-- VF2I (R93). -/
  | vf2i (t : ThreadRef) (w : Word)
  /-- VI2F (R93). -/
  | vi2f (t : ThreadRef) (w : Word)
  /-- VPACK (R115). -/
  | vpack (t : ThreadRef) (w : Word)
  /-- VUNPK (R117). -/
  | vunpk (t : ThreadRef) (w : Word)
  /-- VMDE (R119). -/
  | vmde (t : ThreadRef) (w : Word)
  /-- VMDD (R119). -/
  | vmdd (t : ThreadRef) (w : Word)
  /-- VSCALE (R118). -/
  | vscale (t : ThreadRef) (w : Word)
  /-- VRED (R120). -/
  | vred (t : ThreadRef) (w : Word)
  /-- IDLE_PUBLICATION (R132). -/
  | idlePublication (p : Nat) (counts : List IdleCount)
  /-- OPEN (R151). -/
  | seOpen (q : SeSource)
  /-- CLOSE (R152). -/
  | seClose (q : SeSource)
  /-- ATTEND (R153). -/
  | seAttend (q : SeSource)
  /-- SELECT (R154). -/
  | seSelect (q : SeSource)
  /-- ATTEND_SEL (R155). -/
  | seAttendSel (q : SeSource)
  /-- APPEND (R156). -/
  | seAppend (q : SeSource)
  /-- MOVE_KEEP_RANGE (R157). -/
  | seMoveKeepRange (q : SeSource)
  /-- MOVE_KEEP_LIST (R157). -/
  | seMoveKeepList (q : SeSource)
  /-- MOVE_OUT (R157). -/
  | seMoveOut (q : SeSource)
  /-- MOVE_IN (R157). -/
  | seMoveIn (q : SeSource)
  /-- STATS_CONTEXT (R159). -/
  | seStatsContext (q : SeSource)
  /-- STATS_STACK (R159). -/
  | seStatsStack (q : SeSource)
  /-- HUB_LINE_READ (R218). -/
  | hubLineRead (r : HubReq) (ecc : HomeEcc)
  /-- HUB_LINE_WRITE (R232). -/
  | hubLineWrite (r : HubReq) (mask : BitVec 64) (data : BitVec 512)
  /-- HUB_ATOMIC (R233). -/
  | hubAtomic (r : HubReq) (aop : Nat) (v : Word) (cmp : Word)
  /-- ACCESS_DENIED_WINDOW_CLOSE (R228). -/
  | accessDeniedWindowClose (p : Nat) (i : Nat)
  /-- TLB_INV (R225). -/
  | tlbInv (tenant : Nat) (p : Nat) (v : Word)
  /-- TLB_INV_DONE (R225). -/
  | tlbInvDone (p : Nat)
  /-- HBM_SEG_MODE_WRITE (R209). -/
  | hbmSegModeWrite (tenant : Nat) (p : Nat) (i : Nat) (v : Word)
  /-- HBM_SEG_MODE_APPLY (R209). -/
  | hbmSegModeApply (p : Nat) (i : Nat)
  /-- RDC_INV (R214). -/
  | rdcInv (tenant : Nat) (p : Nat) (v : Word)
  /-- COPY (R238). -/
  | copy (p : Nat) (op : Nat)
  /-- COPY_UNIT_ACK (R237). -/
  | copyUnitAck (job : Nat) (unit : Nat) (ecc : Ecc)
  /-- LAUNCH_START (R87). -/
  | launchStart (c : CoreRef)
  /-- KERNEL_COMPLETE (R97). -/
  | kernelComplete (p : Nat) (op : Nat)
  /-- KERNEL_TIMEOUT (R267). -/
  | kernelTimeout (p : Nat) (op : Nat)
  /-- CORE_FAULT (R441). -/
  | coreFault (c : CoreRef)
  /-- CLUSTER_CUTOUT (R294). -/
  | clusterCutout (c : ClusterRef) (abrupt : Bool)
  /-- BRAMBLE_TOKEN (R287). -/
  | brambleToken (a : BrAt) (k : Option BrPacket)
  /-- BRAMBLE_ARRIVAL (R289). -/
  | brambleArrival (a : BrAt) (slot : Nat) (e : BrErr)
  /-- HUB_ROUTE (R299). -/
  | hubRoute (p : Nat) (k : RoutePacket)
  /-- ROUTE_FAILOVER (R300). -/
  | routeFailover (p : Nat) (off : Nat)
  /-- LINK_TIMEOUT (R301). -/
  | linkTimeout (p : Nat) (req : TimeoutRef)
  /-- DESCRIPTOR_FETCH (R263). -/
  | descriptorFetch (p : Nat) (ctx : Nat) (n : Nat)
  /-- DISPATCH (R279). -/
  | dispatch (p : Nat)
  /-- ENERGY_GATE_STARVATION (R415). -/
  | energyGateStarvation (p : Nat) (ctx : Nat)
  /-- SQ_DB (R259). -/
  | sqDb (d : Doorbell) (v : Word)
  /-- CQ_DB (R259). -/
  | cqDb (d : Doorbell) (v : Word)
  /-- SQ_ADD (R259). -/
  | sqAdd (d : Doorbell) (v : Word)
  /-- CREATE (R256). -/
  | ringCreate (tenant : Nat) (p : Nat) (v : Word)
  /-- DESTROY (R257). -/
  | ringDestroy (tenant : Nat) (p : Nat) (v : Word)
  /-- RESET (R257). -/
  | ringReset (tenant : Nat) (p : Nat) (v : Word)
  /-- QUERY (R255). -/
  | ringQuery (tenant : Nat) (p : Nat) (v : Word)
  /-- RING_CLOSING_DONE (R257). -/
  | ringClosingDone (p : Nat) (ctx : Nat)
  /-- KERNEL (R267). -/
  | kernel (p : Nat) (op : Nat)
  /-- SE_CMD (R150). -/
  | seCmd (p : Nat) (op : Nat)
  /-- WAIT_COUNTER (R268). -/
  | waitCounter (p : Nat) (op : Nat)
  /-- WAIT_WORD (R268). -/
  | waitWord (p : Nat) (op : Nat)
  /-- WAIT_WORD_POLL (R268). -/
  | waitWordPoll (p : Nat) (op : Nat)
  /-- WAIT_TIMEOUT (R268). -/
  | waitTimeout (p : Nat) (op : Nat)
  /-- COUNTER_ADD (R269). -/
  | counterAdd (p : Nat) (op : Nat)
  /-- COUNTER_SET (R269). -/
  | counterSet (p : Nat) (op : Nat)
  /-- WRITE64 (R269). -/
  | write64 (p : Nat) (op : Nat)
  /-- SIGNAL_SQ_ADD (R269). -/
  | signalSqAdd (p : Nat) (op : Nat)
  /-- FENCE_DESC_REL (R270). -/
  | fenceDescRel (p : Nat) (op : Nat)
  /-- FENCE_DESC_ACQ (R270). -/
  | fenceDescAcq (p : Nat) (op : Nat)
  /-- FENCE_DESC_FULL (R270). -/
  | fenceDescFull (p : Nat) (op : Nat)
  /-- STEP_BEGIN (R430). -/
  | stepBegin (p : Nat) (op : Nat)
  /-- STEP_COMMIT (R431). -/
  | stepCommit (p : Nat) (op : Nat)
  /-- STEP_ABORT (R436). -/
  | stepAbort (p : Nat) (op : Nat)
  /-- STEP_REPLAY (R434). -/
  | stepReplay (p : Nat) (op : Nat)
  /-- STEP_REEXECUTION (R434). -/
  | stepReexecution (p : Nat) (key : Nat)
  /-- HINT (R409). -/
  | hint (p : Nat) (op : Nat)
  /-- HINT_RAMP_START (R410). -/
  | hintRampStart (p : Nat) (i : Nat)
  /-- HINT_END (R410). -/
  | hintEnd (p : Nat) (i : Nat)
  /-- FIELD_TEST (R444). -/
  | fieldTest (p : Nat) (op : Nat)
  /-- FIELD_TEST_DRAIN_TIMEOUT (R444). -/
  | fieldTestDrainTimeout
  /-- FIELD_TEST_RESULT (R445). -/
  | fieldTestResult (r : TestResult)
  /-- NOP_DESCRIPTOR (R265). -/
  | nopDescriptor (p : Nat) (op : Nat)
  /-- ALL_REDUCE (R365). -/
  | allReduce (p : Nat) (op : Nat)
  /-- REDUCE_SCATTER (R365). -/
  | reduceScatter (p : Nat) (op : Nat)
  /-- ALL_GATHER (R365). -/
  | allGather (p : Nat) (op : Nat)
  /-- BROADCAST (R365). -/
  | broadcast (p : Nat) (op : Nat)
  /-- ALL_TO_ALL (R365). -/
  | allToAll (p : Nat) (op : Nat)
  /-- REDUCE (R365). -/
  | reduce (p : Nat) (op : Nat)
  /-- BARRIER (R365). -/
  | barrier (p : Nat) (op : Nat)
  /-- COLLECTIVE_JOIN (R371). -/
  | collectiveJoin (p : Nat) (j : JoinMsg)
  /-- COLLECTIVE_PACKET (R374). -/
  | collectivePacket (p : Nat) (k : CollPacket)
  /-- COLLECTIVE_ABORT (R380). -/
  | collectiveAbort (p : Nat) (a : CollAbort)
  /-- COLLECTIVE_TIMEOUT (R381). -/
  | collectiveTimeout (p : Nat) (inst : Nat)
  /-- PHASE_BOUNDARY (R377). -/
  | phaseBoundary (p : Nat) (inst : Nat)
  /-- GROUP_READY (R373). -/
  | groupReady (tenant : Nat) (p : Nat) (v : Word)
  /-- GROUP_DISARM (R373). -/
  | groupDisarm (tenant : Nat) (p : Nat) (v : Word)
  /-- CURRANT_BARRIER (R388). -/
  | currantBarrier (t : ThreadRef) (w : Word)
  /-- SMALL_ALL_REDUCE (R388). -/
  | smallAllReduce (t : ThreadRef) (w : Word)
  /-- SMALL_BCAST (R388). -/
  | smallBcast (t : ThreadRef) (w : Word)
  /-- UP (R393). -/
  | up (f : CurArrival)
  /-- DOWN (R393). -/
  | down (f : CurArrival)
  /-- ABORT (R393). -/
  | treeAbort (f : CurArrival)
  /-- CURRANT_ACK (R392). -/
  | currantAck (eng : Nat) (f : List Byte)
  /-- CURRANT_RESEND (R392). -/
  | currantResend (eng : Nat)
  /-- CURRANT_TREE_TIMEOUT (R395). -/
  | currantTreeTimeout (tree : Nat) (opseq : Nat)
  /-- CUR_TREE_VALID_SET (R387). -/
  | curTreeValidSet (tenant : Nat) (tree : Nat) (v : Word)
  /-- CUR_TREE_VALID_CLEAR (R387). -/
  | curTreeValidClear (tenant : Nat) (tree : Nat) (v : Word)
  /-- STEERING_REQUEST (R327). -/
  | steeringRequest (q : SteerReq)
  /-- STEERING_POINT (R325). -/
  | steeringPoint (die : Nat)
  /-- RELOCK_DONE (R325). -/
  | relockDone (eng : Nat) (fails : List Nat)
  /-- CALIBRATION_PERIOD (R320). -/
  | calibrationPeriod (eng : Nat) (tx : Bool)
  /-- SWAP_OUT (R321). -/
  | swapOut (eng : Nat) (tx : Bool)
  /-- RETUNE_END (R321). -/
  | retuneEnd (eng : Nat) (tx : Bool) (ok : Bool)
  /-- SWAP_BACK (R321). -/
  | swapBack (eng : Nat) (tx : Bool)
  /-- SPARELESS_OUT (R322). -/
  | sparelessOut (eng : Nat) (tx : Bool)
  /-- SPARELESS_RETURN (R322). -/
  | sparelessReturn (eng : Nat) (tx : Bool) (ok : Bool)
  /-- LASER_BIAS_CONTROL (R317). -/
  | laserBiasControl (die : Nat) (arr : Nat) (wl : Nat)
  /-- LASER_FAILURE (R319). -/
  | laserFailure (die : Nat) (arr : Nat) (wl : Nat)
  /-- OMA_MEASUREMENT (R316). -/
  | omaMeasurement (eng : Nat) (wl : Nat) (oma : Int)
  /-- RX_OMA_PUBLISH (R316). -/
  | rxOmaPublish (eng : Nat)
  /-- PORT_SPARE_TIMEOUT (R330). -/
  | portSpareTimeout (eng : Nat)
  /-- DATA_FLIT (R346). -/
  | dataFlit (eng : Nat) (f : Flit)
  /-- IDLE_FLIT (R338). -/
  | idleFlit (eng : Nat) (f : Flit)
  /-- REPLAY_TIMEOUT (R346). -/
  | replayTimeout (eng : Nat)
  /-- NAK_REPEAT (R346). -/
  | nakRepeat (eng : Nat)
  /-- CREDIT (R344). -/
  | credit (eng : Nat) (freed : List Nat)
  /-- RX_POWER (R316). -/
  | rxPower (eng : Nat) (omas : List Nat)
  /-- STEER_ANN (R349). -/
  | steerAnn (eng : Nat) (t : Nat) (moves : Bool)
  /-- LANE_CHG (R343). -/
  | laneChg (eng : Nat) (m : LaneChg)
  /-- LANE_CHANGE_BOUNDARY (R353). -/
  | laneChangeBoundary (eng : Nat) (tx : Bool)
  /-- ROLE_MAP (R348). -/
  | roleMap (eng : Nat) (gen : Nat) (roles : List Nat)
  /-- CAL_REQ (R320). -/
  | calReq (eng : Nat) (wl : Nat)
  /-- LINK_ID (R348). -/
  | linkId (eng : Nat) (m : LinkIdMsg)
  /-- CONTROL_MESSAGE_SEND (R345). -/
  | controlMessageSend (eng : Nat) (kind : Nat)
  /-- ALIGNMENT_MARKER: bits 91 to 0 of what a lane delivers as a marker, and bits 339 to 92 (R336). -/
  | alignmentMarker (eng : Nat) (wl : Nat) (low : BitVec 92) (high : BitVec 248)
  /-- WAVELENGTH_LOSS (R353). -/
  | wavelengthLoss (eng : Nat) (wl : Nat)
  /-- CODEWORD_LOCK_REGAINED (R353). -/
  | codewordLockRegained (eng : Nat)
  /-- LINK_TRAINING (R348). -/
  | linkTraining (eng : Nat) (stage : Nat) (fails : List Nat)
  /-- LINK_DOWN (R355). -/
  | linkDown (eng : Nat)
  /-- RETRAIN (R355). -/
  | retrain (eng : Nat)
  /-- GP_DATA (R358). -/
  | gpData (port : Nat) (f : List Byte)
  /-- GP_ACK (R358). -/
  | gpAck (port : Nat) (f : List Byte)
  /-- GP_NAK (R358). -/
  | gpNak (port : Nat) (f : List Byte)
  /-- GP_SYNC (R358). -/
  | gpSync (port : Nat) (f : List Byte)
  /-- GP_RTO (R358). -/
  | gpRto (port : Nat) (conn : Nat)
  /-- PFC_FRAME (R360). -/
  | pfcFrame (port : Nat) (prio : Nat) (pause : Bool)
  /-- GP_CONN_VALID_SET (R358). -/
  | gpConnValidSet (tenant : Nat) (port : Nat) (conn : Nat) (v : Word)
  /-- POWER_ESTIMATE (R397). -/
  | powerEstimate (acts : List IslandAct)
  /-- ALLOWANCE (R401). -/
  | allowance
  /-- PAUSE_LEVEL_UPDATE (R407). -/
  | pauseLevelUpdate (p : Nat)
  /-- K_UPDATE (R399). -/
  | kUpdate (pin : Nat)
  /-- PMBUS_LOST (R400). -/
  | pmbusLost
  /-- PMB_ALERT (R524). -/
  | pmbAlert (i : Nat) (status : BitVec 16)
  /-- OP_AUTO_MOVE (R408). -/
  | opAutoMove (c : ClusterRef)
  /-- VIN48_SAMPLE (R518). -/
  | vin48Sample (mv : Nat)
  /-- DIODE_READING (R416). -/
  | diodeReading (ch : Nat) (r : Option Int)
  /-- THERMISTOR_READING (R417). -/
  | thermistorReading (i : Nat) (r : Option Int)
  /-- THROTTLE_STEP (R420). -/
  | throttleStep
  /-- UNIT_RESTART (R421). -/
  | unitRestart (unit : Nat)
  /-- COOL_FAIL_ASSERT (R423). -/
  | coolFailAssert (ch : Nat)
  /-- COOLANT_DISCREPANCY (R423). -/
  | coolantDiscrepancy
  /-- COOL_FAIL_DEASSERT (R423). -/
  | coolFailDeassert (ch : Nat)
  /-- COOLANT_RETURN (R424). -/
  | coolantReturn
  /-- HUB_READINGS_TIMEOUT (R425). -/
  | hubReadingsTimeout (p : Nat)
  /-- POWER_FAIL_RECOGNITION (R470). -/
  | powerFailRecognition (cause : Nat) (vin : Nat)
  /-- PF1_END (R472). -/
  | pf1End (good : Bool) (vinMin : Nat)
  /-- COLD_RST_N_ASSERT (R465). -/
  | coldRstNAssert
  /-- RST_CMD_PACKAGE (R465). -/
  | rstCmdPackage (tenant : Nat) (v : Word)
  /-- RST_CMD_PARTITION (R466). -/
  | rstCmdPartition (tenant : Nat) (v : Word)
  /-- PARTITION_RESET_DONE (R466). -/
  | partitionResetDone (p : Nat) (hbm : List (BitVec 32))
  /-- PERST_N_ASSERT (R469). -/
  | perstNAssert (port : Nat)
  /-- PERST_N_DEASSERT (R469). -/
  | perstNDeassert (port : Nat)
  /-- FLR (R283). -/
  | flr (tenant : Nat)
  /-- FLR_DONE (R283). -/
  | flrDone (tenant : Nat)
  /-- TAKE (R252). -/
  | lockTake (tenant : Nat) (v : Word)
  /-- RELEASE (R252). -/
  | lockRelease (tenant : Nat) (v : Word)
  /-- RENEW (R252). -/
  | lockRenew (tenant : Nat) (v : Word)
  /-- LEASE_EXPIRY (R252). -/
  | leaseExpiry
  /-- REGISTER_WRITE: `size` bytes, whose little-endian number is `v`, to BAR0 offset `off` (R496, R497). -/
  | registerWrite (tenant : Nat) (off : Nat) (size : Nat) (v : Nat)
  /-- PKG_NUM_WRITE (R504). -/
  | pkgNumWrite (tenant : Nat) (v : Word)
  /-- STAGE (R451). -/
  | fwStage (tenant : Nat) (v : Word)
  /-- FW_STAGE_DONE (R451). -/
  | fwStageDone (r : StageEnd)
  /-- ACTIVATE (R452). -/
  | fwActivate (tenant : Nat) (v : Word)
  /-- COMMIT (R451). -/
  | fwCommit (tenant : Nat) (v : Word)
  /-- REVERT (R451). -/
  | fwRevert (tenant : Nat) (v : Word)
  /-- SALEY_REATTACH (R452). -/
  | saleyReattach
  /-- MGMT_WATCHDOG (R453). -/
  | mgmtWatchdog
  /-- TRIAL_TIMEOUT (R453). -/
  | trialTimeout
  /-- CAL_RECORD_WRITE (R478). -/
  | calRecordWrite
  /-- EVENT_ARRIVAL (R488). -/
  | eventArrival (cause : Nat) (source : Nat) (data : List (Nat × Nat))
  /-- EVENT_RECORD_WRITE (R487). -/
  | eventRecordWrite (ok : Bool)
  /-- EVT_CTL_WRITE (R487). -/
  | evtCtlWrite (tenant : Nat) (v : Word)
  /-- EVT_HEAD_WRITE (R487). -/
  | evtHeadWrite (tenant : Nat) (v : Word)
  /-- MCTP_MESSAGE (R523). -/
  | mctpMessage (m : MctpMsg)
  /-- TAP_RESET (R490). -/
  | tapReset
  /-- EXTEST (R490). -/
  | extest (v : BitVec 64)
  /-- IDCODE (R490). -/
  | idcode
  /-- SAMPLE_PRELOAD (R490). -/
  | samplePreload (v : BitVec 64)
  /-- BYPASS (R490). -/
  | bypass
  /-- HALT (R492). -/
  | dbgHalt (c : DbgCmd)
  /-- RESUME (R492). -/
  | dbgResume (c : DbgCmd)
  /-- STEP (R493). -/
  | dbgStep (c : DbgCmd)
  /-- REG_READ (R493). -/
  | dbgRegRead (c : DbgCmd)
  /-- REG_WRITE (R493). -/
  | dbgRegWrite (c : DbgCmd)
  /-- LS_READ (R493). -/
  | dbgLsRead (c : DbgCmd)
  /-- LS_WRITE (R493). -/
  | dbgLsWrite (c : DbgCmd)
  /-- ADDR (R494). -/
  | dbgAddr (c : DbgCmd)
  /-- MEM_READ (R494). -/
  | dbgMemRead (c : DbgCmd)
  /-- MEM_WRITE (R494). -/
  | dbgMemWrite (c : DbgCmd)
  /-- BP_SET (R493). -/
  | dbgBpSet (c : DbgCmd)
  /-- BP_CLR (R493). -/
  | dbgBpClr (c : DbgCmd)
  /-- WP_SET (R493). -/
  | dbgWpSet (c : DbgCmd)
  /-- WP_CLR (R493). -/
  | dbgWpClr (c : DbgCmd)
  /-- STATUS (R492). -/
  | dbgStatus (c : DbgCmd)
  /-- DBG_CTL_WRITE (R491). -/
  | dbgCtlWrite (tenant : Nat) (v : Word)
  /-- EPOCH_PREPARE (R509). -/
  | epochPrepare (tenant : Nat) (v : Word)
  /-- EPOCH_ACK (R510). -/
  | epochAck (unit : Nat)
  /-- EPOCH_PREPARE_TIMEOUT (R510). -/
  | epochPrepareTimeout
  /-- EPOCH_COMMIT (R511). -/
  | epochCommit (tenant : Nat) (v : Word)
  /-- EPOCH_BOUNDARY (R512). -/
  | epochBoundary
  /-- EPOCH_DRAIN_DONE (R513). -/
  | epochDrainDone
  /-- HBM_CHANNEL_TRAINING_LOSS (R212). -/
  | hbmChannelTrainingLoss (p : Nat) (n : Nat) (ch : Nat) (addr : Nat)
  /-- GP_LINK_DOWN (R356). -/
  | gpLinkDown (port : Nat)
  /-- GP_LINK_UP (R356). -/
  | gpLinkUp (port : Nat)
  /-- PCIE_LINK_DOWN (R487). -/
  | pcieLinkDown (port : Nat)
  /-- ATS_INVALIDATION (R521). -/
  | atsInvalidation (port : Nat) (fn : Nat) (page : Nat)
  /-- NOTIFY_CLEAR (R282). -/
  | notifyClear (tenant : Nat) (i : Nat) (v : Word)
  /-- OPTICAL_DIE_READY (R463). -/
  | opticalDieReady (o : Nat)
  /-- STATE_ENGINE_REQUEST_DONE (R171). -/
  | stateEngineRequestDone (stack : Nat) (req : Nat)
  /-- MATRIX_QUEUE_RETIRE (R52). -/
  | matrixQueueRetire (c : CoreRef)
  /-- SUPPLY_GOOD (R455). -/
  | supplyGood
  /-- SUPPLY_LOST_BEFORE_REFERENCE (R455). -/
  | supplyLostBeforeReference
  deriving DecidableEq, Repr

end Sys2Proof
end

