-- ==== Sys2Proof/Decode.lean ====
section
/-! DEFINITION. Commands that a word of spec/opcode_table.json spells. The table gives no row any bits: its rows are commands with
operands of their own, and no word spells one (log entry 10). -/
namespace Sys2Proof

/-- The command that a table word spells. -/
def decodeTableWord (_nbits _w : Nat) : Option Instr := none

end Sys2Proof
end

