-- ==== Sys2Proof/Config.lean ====
section
/-! DEFINITION. What the spec leaves open: free values, constants without a body, so that no proof can see what they are (log entry 1). -/
namespace Sys2Proof

/-- The value of a field the spec leaves open, applied to the state's counter `free`. -/
opaque Config.freeWord : Nat → BitVec 64

/-- A natural number the spec leaves open, applied to the state's counter `free`. -/
opaque Config.freeNat : Nat → Nat

/-- What EXP2, LOG2, RCP and RSQRT (0 to 3) answer for an FP32 input inside their stated range: one fixed function of
its input (R114), known only to its bound (R113). -/
opaque Config.approx : Nat → BitVec 32 → BitVec 32

/-- A byte the spec leaves undefined: by a tag (a value of the state's counter `free`) and the byte's address. -/
opaque Config.freeByte : Nat → Nat → BitVec 8

/-- The number that stands for an item where the spec names a field of a record and gives it no encoding: by the
field and the item. -/
opaque Config.code : Nat → Nat → Nat

/-- The factor in 2^-16 that scales the activity weights of an island: by its die and the latest readings of its diodes; the die's
fused coefficient is the package's own (R398). -/
opaque Config.weightScale : Nat → List Int → Nat

/-- Static power of an island in mW: by its die, its weight row 11, its supply voltage in 0.1 mV (0 where no rail is told of) and the
latest readings of its diodes (R397). -/
opaque Config.staticPower : Nat → Nat → Nat → List Int → Nat

/-- A correction for temperature (R426): 0 for a ring's heater, 1 for a laser's current; by the diode channel and the latest reading of
it. The fused coefficients are the package's own. -/
opaque Config.tempCorrection : Nat → Nat → Int → Int

/-- Flit buffers that a hub's receiving port holds per virtual channel, beyond the four that it has at least (R296). -/
opaque Config.hubFlits : Nat

end Sys2Proof
end

