-- ==== Sys2Proof/Machine/Maps.lean ====
section
/-! DEFINITION. Sparse maps, byte memories, bit fields and little-endian words: the helpers every meaning is written with. -/
namespace Sys2Proof.Machine

/-- What a map holds at a key; `d` at a key it does not list. -/
def mget {β : Type} (d : β) : AMap β → Nat → β
  | [], _ => d
  | (k', v) :: m, k => if k' = k then v else mget d m k

/-- What a map holds at a key, if it lists it. -/
def mfind {β : Type} : AMap β → Nat → Option β
  | [], _ => none
  | (k', v) :: m, k => if k' = k then some v else mfind m k

/-- A map with one key set. -/
def mput {β : Type} (k : Nat) (v : β) : AMap β → AMap β
  | [] => [(k, v)]
  | (k', v') :: m =>
    if k < k' then (k, v) :: (k', v') :: m
    else if k = k' then (k, v) :: m
    else (k', v') :: mput k v m

/-- A map without a key. -/
def mdel {β : Type} (k : Nat) (m : AMap β) : AMap β := m.filter (fun c => c.1 != k)

/-- The byte an unlisted address reads as: 0 (DESIGN CHOICE, log entry 2; unsafe: the spec gives RAM no value at reset). -/
def unlisted : BitVec 8 := 0

/-- One byte of a memory. -/
def bget (m : Bytes) (a : Nat) : BitVec 8 := mget unlisted m a

/-- A memory with one byte written; the form of `Bytes` is kept. -/
def bput (m : Bytes) (a : Nat) (v : BitVec 8) : Bytes :=
  if v = unlisted then mdel a m else mput a v m

/-- `n` bytes from an address, little-endian (R11). -/
def bread (m : Bytes) (a : Nat) : Nat → Nat
  | 0 => 0
  | n + 1 => (bget m a).toNat + 256 * bread m (a + 1) n

/-- `n` bytes of a value written at an address, little-endian (R11). -/
def bwrite (m : Bytes) (a : Nat) : Nat → Nat → Bytes
  | 0, _ => m
  | n + 1, v => bwrite (bput m a (BitVec.ofNat 8 v)) (a + 1) n (v / 256)

/-- A list of bytes written at an address. -/
def bwriteList (m : Bytes) (a : Nat) : List (BitVec 8) → Bytes
  | [] => m
  | b :: bs => bwriteList (bput m a b) (a + 1) bs

/-- `n` bytes from an address. -/
def breadList (m : Bytes) (a : Nat) : Nat → List (BitVec 8)
  | 0 => []
  | n + 1 => bget m a :: breadList m (a + 1) n

/-- The form of `Bytes`: addresses strictly rising, no byte equal to the unlisted one. -/
def Memory.wf : Bytes → Bool
  | [] => true
  | (a, v) :: m => v != unlisted && (match m with | [] => true | (b, _) :: _ => a < b) && Memory.wf m

/-- The form of a sparse map: keys strictly rising. -/
def mapWf {β : Type} : AMap β → Bool
  | [] => true
  | (a, _) :: m => (match m with | [] => true | (b, _) :: _ => decide (a < b)) && mapWf m

/-- A number's bits [hi:lo] (R10). -/
def nbits (n hi lo : Nat) : Nat := n / 2 ^ lo % 2 ^ (hi + 1 - lo)

/-- One bit of a number. -/
def nbit (n i : Nat) : Bool := n / 2 ^ i % 2 == 1

/-- Bits [hi:lo] of a word, as a number (R10). -/
def fld {w : Nat} (v : BitVec w) (hi lo : Nat) : Nat := nbits v.toNat hi lo

/-- A word with bits [hi:lo] replaced. -/
def setFld {w : Nat} (v : BitVec w) (hi lo x : Nat) : BitVec w :=
  let m := BitVec.ofNat w ((2 ^ (hi + 1 - lo) - 1) * 2 ^ lo)
  (v &&& ~~~ m) ||| (BitVec.ofNat w (x * 2 ^ lo) &&& m)

/-- A word with one bit replaced. -/
def setBit {w : Nat} (v : BitVec w) (i : Nat) (b : Bool) : BitVec w := setFld v i i (if b then 1 else 0)

/-- A Bool as a number. -/
def b2n (b : Bool) : Nat := if b then 1 else 0

/-- Two's complement of `w` bits read from a number. -/
def sgn (w n : Nat) : Int := (BitVec.ofNat w n).toInt

/-- The bytes of a number, little-endian (R11). -/
def toBytes : Nat → Nat → List (BitVec 8)
  | 0, _ => []
  | n + 1, v => BitVec.ofNat 8 v :: toBytes n (v / 256)

/-- The number a list of bytes spells, little-endian (R11). -/
def ofBytes : List (BitVec 8) → Nat
  | [] => 0
  | b :: bs => b.toNat + 256 * ofBytes bs

/-- A little-endian field of `n` bytes at an offset of a list of bytes. -/
def bytesAt (l : List (BitVec 8)) (off n : Nat) : Nat := ofBytes ((l.drop off).take n)

/-- The list of the numbers below `n`. -/
def upto (n : Nat) : List Nat := List.range n

/-- The first element of a list that a test accepts, with its place. -/
def findIdx {β : Type} (p : β → Bool) : List β → Nat → Option (Nat × β)
  | [], _ => none
  | x :: xs, i => if p x then some (i, x) else findIdx p xs (i + 1)

/-- An element of a list, or a default. -/
def lget {β : Type} (d : β) (l : List β) (i : Nat) : β := l.getD i d

/-- A list with one element replaced. -/
def lset {β : Type} (l : List β) (i : Nat) (v : β) : List β := l.set i v

/-- A ceiling division. -/
def cdiv (a b : Nat) : Nat := (a + b - 1) / b

end Sys2Proof.Machine
end

