-- ==== Sys2Proof/Machine/State.lean ====
section
/-! DEFINITION. The machine's state as plain data, the reasons a step can stop, and the state after reset. -/
namespace Sys2Proof.Machine

/-! ## Events and statuses -/

/-- The status codes of R276. -/
inductive Status where
  | ok | partialDone | faultMem | linkLost | timeout | access | noResource | replayReq | aborted | badDesc | unsupported | peerLost
  deriving DecidableEq, Repr

/-- An event on its way to the log: its cause, source, time and fields in the order R486 names them, each with its width in bytes (R485). -/
structure Event where
  cause : Nat
  source : Nat := 0
  time : Nat := 0
  data : List (Nat × Nat) := []
  count : Nat := 1
  arg : List (Nat × Nat) := []
  deriving DecidableEq, Repr

/-- The trap causes of R96. -/
inductive Trap where
  | illegal | matrixClaim | matrixFormat | vregQuota | misaligned | memAccess | memFault | unsupported | software
  deriving DecidableEq, Repr

/-! ## Core and thread -/

/-- What a hardware thread is doing (R88 to R97, R124, R125). -/
inductive ThreadStat where
  /-- no launch has started this thread -/
  | none
  | run
  /-- YIELD, with its cycle count -/
  | yielding (cycles : Nat)
  /-- WAITL: counter, threshold, predicate, deadline in TIMEBASE -/
  | waitLocal (lc : Nat) (thr : Word32) (pd : Nat) (deadline : Option Nat)
  /-- WAITC: partition, counter, threshold, predicate, deadline -/
  | waitCounter (part idx : Nat) (thr : Word32) (pd : Nat) (deadline : Option Nat)
  /-- arrived at a core barrier with this mask -/
  | barCore (mask : Nat)
  /-- arrived at a cluster barrier with this count -/
  | barCluster (idx count : Nat)
  | ended
  | trapped (c : Trap)
  /-- stopped with its launch (R97) -/
  | stopped
  deriving DecidableEq, Repr

/-- The configuration of a claim (R50, R74). -/
structure MatCfg where
  afmt : Nat := 0
  bfmt : Nat := 0
  int : Bool := false
  ascale : Bool := false
  bscale : Bool := false
  rows : BitVec 16 := 0xFFFF#16
  cols : BitVec 32 := 0xFFFFFFFF#32
  deriving DecidableEq, Repr

/-- A hardware thread (R85). -/
structure ThreadSt where
  stat : ThreadStat := .none
  pc : BitVec 48 := 0
  regs : Vector Word 32 := Vector.replicate 32 0
  preds : BitVec 8 := 0
  /-- sticky numeric flags: NaN, Inf, saturation, FP overflow (R128) -/
  fNan : Bool := false
  fInf : Bool := false
  fSat : Bool := false
  fOvf : Bool := false
  quota : Nat := 0
  vbase : Nat := 0
  /-- index within the launch (R267) -/
  index : Nat := 0
  /-- a posted store found to have faulted: status and address (R123) -/
  pend : Option (Status × Nat) := Option.none
  halted : Bool := false
  /-- one more instruction, then halt again (R493) -/
  stepping : Bool := false
  /-- the breakpoint at the pc is passed once after RESUME or STEP -/
  bpSkip : Bool := false
  claim : BitVec 4 := 0
  mcfg : MatCfg := {}
  deriving DecidableEq, Repr

/-- A stream of a matrix array (R58). -/
structure MStream where
  base : BitVec 16 := 0
  step : BitVec 16 := 0
  pos : Nat := 0
  deriving DecidableEq, Repr

/-- One accumulator bank: four rows of 32 words (R68). -/
abbrev Bank := Vector VReg 4

/-- A matrix array (R50, R58, R66, R68). -/
structure ArraySt where
  bank0 : Bank := Vector.replicate 4 0
  bank1 : Bank := Vector.replicate 4 0
  /-- the fill bank is bank 1 -/
  fill1 : Bool := false
  nan : Bool := false
  inf : Bool := false
  sat : Bool := false
  ovf : Bool := false
  sA : MStream := {}
  sAS : MStream := {}
  sB : MStream := {}
  sBS : MStream := {}
  deriving DecidableEq, Repr

/-- What a matrix queue entry does when it retires (R52). -/
inductive MatOp where
  | rel (mask : BitVec 4)
  /-- a release some of whose arrays MCLAIM has granted to the thread again since: those stay, as a grant leaves them (R50, R53) -/
  | renew (mask again : BitVec 4)
  /-- staged: it holds for the runs behind it, which carry it -/
  | cfg
  | stream (kind : Nat) (arr : Nat) (base step : BitVec 16)
  /-- with the claim and its configuration as they stood when the thread issued it -/
  | run (mask : BitVec 4) (c : MatCfg) (k : Nat) (init : Bool)
  | swap (mask : BitVec 4)
  | zero (drain : Bool) (mask : BitVec 4)
  | stat (mask : BitVec 4) (clear : Bool) (dst : BitVec 5)
  deriving DecidableEq, Repr

/-- A launch as a core holds it (R87, R88, R267). -/
structure Launch where
  part : Nat := 0
  /-- the hub's number of the KERNEL descriptor -/
  op : Nat := 0
  tenant : Nat := 0
  domain : Nat := 0
  jobTag : Nat := 0
  descTag : Nat := 0
  /-- the ring may use address kind GLOBAL (R236) -/
  admin : Bool := false
  entry : Nat := 0
  arg : Word := 0
  nthr : Nat := 0
  total : Nat := 0
  /-- index of the core's thread 0 -/
  base : Nat := 0
  quotas : Word := 0
  /-- the step the KERNEL is a member of -/
  step : Option Nat := Option.none
  /-- TIMEBASE when the launch started on the core -/
  t0 : Nat := 0
  deriving DecidableEq, Repr

/-- A breakpoint: its pc and the threads it stands on, one bit each (R492). -/
structure Bp where
  pc : Nat
  threads : Nat
  deriving DecidableEq, Repr

/-- A watchpoint: first address, length, 1 loads 2 stores 3 both, local-store addresses, threads (R492). -/
structure Watch where
  addr : Nat
  len : Nat
  kind : Nat
  ls : Bool
  threads : Nat
  deriving DecidableEq, Repr

/-- A core, by its logical number (R86 to R105). -/
structure CoreSt where
  launch : Option Launch := none
  /-- launches waiting for the core, in the order in which they were chosen (R279) -/
  next : List Launch := []
  threads : Vector ThreadSt 16 := Vector.replicate 16 {}
  vregs : Vector VReg 16 := Vector.replicate 16 0
  ls : Bytes := []
  lc : Vector Word32 32 := Vector.replicate 32 0
  nw : Vector Word32 4 := Vector.replicate 4 0
  arrs : Vector ArraySt 4 := Vector.replicate 4 {}
  mq : List (Nat × MatOp) := []
  /-- uncompleted 0x3E requests (R105), by number -/
  reqs : List Nat := []
  bps : AMap Bp := []
  wps : AMap Watch := []
  /-- lines of 64 bytes that the instruction buffer holds, by tenant virtual address / 64, the latest used first (R89) -/
  ibuf : List Nat := []
  /-- a core fault has been reported and the core's logical number not given to a spare yet (R441) -/
  fault : Bool := false
  deriving DecidableEq, Repr

/-! ## Cluster -/

/-- A sector of a cluster cache line (R194). -/
structure Sector where
  data : BitVec 512 := 0
  valid : BitVec 64 := 0
  dirty : BitVec 64 := 0
  /-- the region attribute it was filled under last (R197, R198) -/
  attr : Nat := 0
  /-- the launches that wrote its dirty bytes, the latest first: partition and number of the KERNEL (R199) -/
  ops : List (Nat × Nat) := []
  /-- an uncorrectable error stands in it that nothing has found yet (R200, R214) -/
  ue : Bool := false
  deriving DecidableEq, Repr

/-- A line of a cluster cache, or of the remote-data cache with one sector (R192 to R197, R213). -/
structure CLine where
  way : Nat
  line : Nat
  s0 : Sector := {}
  s1 : Sector := {}
  /-- job tag and domain under which it was filled or written last (R198) -/
  tag : Nat := 0
  dom : Nat := 0
  useOnce : Bool := false
  /-- order of allocation, for the oldest USE_ONCE line of a set -/
  age : Nat := 0
  /-- fetched by this prefetcher and not touched by a demand access yet -/
  pf : Option Nat := none
  deriving DecidableEq, Repr

/-- One set: its lines and its pseudo-LRU tree (R192). -/
structure CSet where
  lines : List CLine := []
  tree : BitVec 15 := 0
  deriving DecidableEq, Repr

/-- A translation (R224). -/
structure Tlb where
  tenant : Nat
  big : Bool
  vpage : Nat
  gpage : Nat
  w : Bool
  x : Bool
  attr : Nat
  deriving DecidableEq, Repr

/-- A stream prefetcher (R202 to R205). -/
structure Pf where
  /-- the identity under which it fetches: tenant, domain, job tag -/
  tenant : Nat := 0
  dom : Nat := 0
  tag : Nat := 0
  running : Bool := false
  directed : Bool := false
  next : Nat := 0
  stride : Int := 0
  left : Nat := 0
  policy : Nat := 0
  lead : Nat := 0
  leadMax : Nat := 0
  untouched : Nat := 0
  lastTrig : Nat := 0
  deriving DecidableEq, Repr

/-- A candidate of the detector (R203). -/
structure Cand where
  last : Nat
  stride : Option Int := none
  trig : Nat := 0
  deriving DecidableEq, Repr

/-- A cluster, by compute die and logical number. -/
structure ClusterSt where
  cache : AMap CSet := []
  tlb : List Tlb := []
  pf : Vector Pf 32 := Vector.replicate 32 {}
  cand : List Cand := []
  tick : Nat := 0
  /-- operating point and power pause Gp in sixteenths (R40, R406); since when Gp has stood at 6 or more, and at 0 (R408) -/
  op : Nat := 4
  gp : Nat := 0
  gpHigh : Option Nat := none
  gpZero : Option Nat := some 0
  /-- correction of the oscillator, in parts per million (R42) -/
  trim : Int := 0
  /-- ballast runs (R413) -/
  ballast : Bool := false
  deriving DecidableEq, Repr
/-! ## Requests, copies, rings and operations -/

/-- A core's thread by die, logical cluster, logical core and thread, as plain numbers. -/
structure CoreId where
  core : Nat
  th : Nat
  deriving DecidableEq, Repr

/-- Who issued a request: a thread by 0x3E with its local completion fields (R103), or an operation of a partition. -/
inductive Issuer where
  | core (core th reqId lcnt lcr tag : Nat) (lcrEn : Bool)
  | op (part op idx : Nat)
  deriving DecidableEq, Repr

/-- The identity every packet carries, and what may differ by source (R226, R229). -/
structure Who where
  tenant : Nat := 0
  domain : Nat := 0
  jobTag : Nat := 0
  /-- address kind GLOBAL: no translation, no ownership check -/
  glob : Bool := false
  /-- the partition that issues the access -/
  part : Nat := 0
  /-- the port of the issuing hub the packet enters by (R540) -/
  port : Nat := 0
  /-- the descriptor the access belongs to, by partition and number -/
  op : Option (Nat × Nat) := none
  deriving DecidableEq, Repr

/-- A copy in progress (R235 to R248). -/
structure CopyJob where
  who : Who := {}
  issuer : Issuer := .op 0 0 0
  src : Nat := 0
  dst : Nat := 0
  len : Nat := 0
  skind : Nat := 0
  dkind : Nat := 0
  spol : Nat := 0
  xform : Nat := 0
  xfmt : Nat := 0
  ordered : Bool := false
  acEn : Bool := false
  acIdx : Nat := 0
  /-- destination length in bytes (R237) -/
  dlen : Nat := 0
  units : Nat := 0
  /-- units resolved so far, each with its status -/
  resolved : AMap Status := []
  /-- destination addresses of failed units -/
  fails : AMap Nat := []
  sat : Bool := false
  degraded : Bool := false
  /-- MDL: the bytes to write, where each segment ends, and the first unit that may not be written, with its status (R247) -/
  out : List (BitVec 8) := []
  ends : List Nat := []
  /-- MDL: the bytes of the output that hold a block which raised SAT, as first and one past the last (R191) -/
  satSpans : List (Nat × Nat) := []
  cut : Option (Nat × Status) := none
  /-- MDL: the units below `cut` have been written; what each write gave: degraded route, partition, address (R247) -/
  wrote : Bool := false
  acks : AMap (Bool × Option Nat × Nat) := []
  deriving DecidableEq, Repr

/-- Ring states (R255). -/
inductive RingState where
  | free | active | error | closing
  deriving DecidableEq, Repr

/-- A completion record not yet written (R274). -/
structure Rec where
  tag : Nat := 0
  status : Status := .ok
  cflags : Nat := 0
  stepId : Nat := 0
  done : Nat := 0
  tDone : Nat := 0
  firstFail : Nat := 0
  notify : Bool := false
  deriving DecidableEq, Repr

/-- A descriptor in a ring's hands: its place in the ring and its eight words (R263, R264). -/
structure Desc where
  n : Nat := 0
  words : List Word := []
  /-- read again for a replay (R435) -/
  replay : Bool := false
  deriving DecidableEq, Repr

/-- A ring context (R254 to R263). -/
structure Ring where
  state : RingState := .free
  qid : Nat := 0
  sqBase : Word := 0
  cqBase : Word := 0
  headWb : Word := 0
  log2sz : Nat := 0
  sqKind : Nat := 0
  cqKind : Nat := 0
  comm : Bool := false
  devDb : Bool := false
  intEn : Bool := false
  rprioMax : Nat := 0
  group : Nat := 0
  jobTag : Nat := 0
  sqHead : Word32 := 0
  sqTail : Word32 := 0
  cqHead : Word32 := 0
  cqTail : Word32 := 0
  /-- descriptors read from memory so far, as a free-running count -/
  fetchPos : Word32 := 0
  /-- read and not started -/
  fetched : List Desc := []
  /-- finished, record not yet written -/
  waiting : List Rec := []
  /-- key of the step open on the ring -/
  step : Option Nat := none
  /-- members of an aborted or refused step, up to its STEP_COMMIT, complete with ABORTED -/
  skipStep : Bool := false
  /-- DESTROY (false) or RESET (true) in progress, and when it began -/
  closing : Option (Bool × Nat) := none
  /-- no record and no HEAD_WB is written (R283) -/
  mute : Bool := false
  deriving DecidableEq, Repr

/-- How far a started descriptor is (R266 to R270, R430 to R436, R444). -/
inductive Phase where
  /-- chosen and not yet carried out by its own row -/
  | chosen
  /-- running: a KERNEL's launch, a COPY's job, a batch, a WAIT, a COLL, a HINT, a test -/
  | running
  /-- a WAIT that was put down with its row -/
  | waiting
  deriving DecidableEq, Repr

/-- A started descriptor (R266). -/
structure Op where
  ring : Nat := 0
  tenant : Nat := 0
  jobTag : Nat := 0
  desc : Desc := {}
  phase : Phase := .chosen
  /-- TIMEBASE when it started -/
  t0 : Nat := 0
  /-- why it is being stopped, if it is (R97, R257, R283, R432, R436, R444) -/
  stop : Option Status := none
  status : Status := .ok
  done : Nat := 0
  firstFail : Nat := 0
  cflags : Nat := 0
  /-- KERNEL: the keys of the logical cores its fields name, and those that have been given to it -/
  cores : List Nat := []
  started : List Nat := []
  /-- the lowest-indexed trapping thread: index, cause -/
  trap : Option (Nat × Trap) := none
  /-- a failed write-back at the end of the launch (R199) -/
  wbFail : Option Status := none
  /-- COPY: job number; SE_CMD: blocks completed -/
  job : Nat := 0
  blocks : AMap Status := []
  issued : Nat := 0
  /-- the step the descriptor is a member or the commit of -/
  step : Option Nat := none
  deriving DecidableEq, Repr

/-- Step states (R431). -/
inductive StepState where
  | open_ | failing | failed | committing | aborting
  deriving DecidableEq, Repr

/-- A member of a step, for replay: its descriptor's place, opcode, and whether it completed OK once as a SIGNAL (R435). -/
structure StepMember where
  n : Nat := 0
  opc : Nat := 0
  signalOk : Bool := false
  deriving DecidableEq, Repr

/-- An open step (R430 to R437). -/
structure StepSt where
  tenant : Nat := 0
  stepId : Nat := 0
  ring : Nat := 0
  state : StepState := .open_
  attempt : Nat := 0
  /-- place of the STEP_BEGIN in the ring -/
  first : Nat := 0
  /-- place of the STEP_COMMIT once fetched -/
  commit : Option Nat := none
  members : List StepMember := []
  /-- protected line ranges: partition, first byte, length (R429) -/
  prot : List (Nat × Nat × Nat) := []
  /-- operations of the ring started before the STEP_BEGIN, exempt until they complete (R429) -/
  exempt : List Nat := []
  /-- accepted for replay, re-execution not started (R434) -/
  replayPending : Bool := false
  /-- the STEP_COMMIT has had its record in this attempt (R273, R431) -/
  committed : Bool := false
  /-- the STEP_ABORT operation that completes when the members have, by partition and number (R436) -/
  abortOp : Option (Nat × Nat) := none
  deriving DecidableEq, Repr

/-- A coalescing window of refusals (R228, R262). -/
structure DenyWin where
  page : Nat
  tag : Nat
  domain : Nat
  count : Nat
  time : Nat
  doorbell : Bool
  deriving DecidableEq, Repr

/-- The dispatcher's memory (R279, R415). -/
structure Disp where
  deficit : AMap Nat := []
  visited : List Nat := []
  lastTenant : Nat := 511
  lastRing : AMap Nat := []
  /-- descriptors started in the last 20 µs: time and energy class step, in mW -/
  recent : List (Nat × Int) := []
  /-- when each ring's next descriptor became a candidate (R415) -/
  waitSince : AMap Nat := []
  deriving DecidableEq, Repr

/-- A hint the governor holds (R409 to R411): its target in mW, its phase, and when and from what power its ramp began. -/
structure Hint where
  target : Int := 0
  tStart : Nat := 0
  tEnd : Nat := 0
  ramp : Option (Nat × Int) := none
  deriving DecidableEq, Repr

/-- A request that a hub issued or forwarded and that is outstanding (R299 to R301): the packet, the offset of the route entry it
used, its egress, or none while the hub holds it, and when it was sent. -/
structure Outst where
  pkt : RoutePacket
  off : Nat := 0
  egress : Option Nat := none
  /-- connection of the general port it left by -/
  conn : Option Nat := none
  time : Nat := 0
  /-- the packet has reached its final unit in the package, or has failed on its way (R513) -/
  arrived : Bool := false
  deriving DecidableEq, Repr

/-- The answer a hub gave a packet last (R218, R232, R233). -/
structure Resp where
  status : Status := .ok
  data : BitVec 512 := 0
  old : Word := 0
  deriving DecidableEq, Repr

/-- A collective instance at one member (R365 to R381). -/
structure Coll where
  key : CollKey
  /-- the hub's number of the COLL descriptor -/
  op : Nat := 0
  /-- OP, DTYPE, ROP, COUNT, ROOT, CHUNK, this member's rank; the members by rank, as the low 22 bits of their entries -/
  opc : Nat := 0
  dtype : Nat := 0
  rop : Nat := 0
  count : Nat := 0
  root : Nat := 0
  chunk : Nat := 0
  rank : Nat := 0
  members : List Nat := []
  /-- extents of the L2 dimensions -/
  ext : List Nat := []
  src : Nat := 0
  dst : Nat := 0
  /-- ranks whose joins have arrived and agree -/
  joined : List Nat := []
  /-- data that packets brought: level, group, chunk -/
  held : List (Nat × Nat × Nat × List Nat) := []
  doneChunks : List Nat := []
  /-- group context; the next phase boundary, the preset in force, when the relock of the last steered boundary ends, and whether
  a barrier over the tree is still to come (R376, R377) -/
  grp : Option Nat := none
  phase : Nat := 0
  preset : Option Nat := none
  resume : Option Nat := none
  barrier : Bool := false
  /-- a small operation on the group's tree (R389) -/
  onTree : Bool := false
  t0 : Nat := 0
  timeout : Nat := 0
  deriving DecidableEq, Repr

/-- A group context (R372, R373): its words, its members once armed, and a disarming write that waits. -/
structure Grp where
  words : List Word := List.replicate 8 0
  members : List Nat := []
  disarm : Bool := false
  deriving DecidableEq, Repr

/-- The governor's view of a partition (R397 to R413), in mW. -/
structure Pow where
  /-- a[p] -/
  allow : Int := 0
  /-- corrected estimates of the last interval and of the one before; the part of it that ballast draws; the estimate without
  cluster matrix and vector activity; the estimate with power pauses removed -/
  est : Int := 0
  prev : Int := 0
  ballast : Int := 0
  base : Int := 0
  demand : Int := 0
  /-- share of the rise budget per 2 µs, what of it this 20 µs period has used, and whether it was slope-limited in it -/
  slope : Int := 0
  used : Int := 0
  limited : Bool := false
  /-- lowered to its share of floor power for want of readings (R425) -/
  floor : Bool := false
  /-- demands that fall along the slope after a hint: since when, from what power (R410) -/
  falls : List (Nat × Int) := []
  deriving DecidableEq, Repr

/-- A hub (R216 to R301). -/
structure HubSt where
  own : AMap (BitVec 32) := []
  arr : AMap Word32 := []
  tlb : AMap (List Tlb) := []
  tlbInv : Option (Nat × Bool × Nat) := none
  rdc : AMap CSet := []
  rdcTick : Nat := 0
  deny : List DenyWin := []
  /-- a segment mode word waiting to apply (R209) -/
  segPend : AMap Word := []
  rings : AMap Ring := []
  ops : AMap Op := []
  nextOp : Nat := 0
  disp : Disp := {}
  steps : AMap StepSt := []
  nextStep : Nat := 0
  replays : Nat := 0
  routeAct : AMap (Word × Word) := []
  qosAct : AMap Word := []
  opAct : Word := 0x47F
  /-- the epoch-committed registers it acknowledged, by offset in its block, until the boundary (R509) -/
  prep : AMap Word := []
  outst : AMap Outst := []
  /-- flits sent to a neighbouring hub that it has not moved on yet, by 12 times its partition + 4 times the class + the level
  (R296) -/
  vc : AMap Nat := []
  /-- packets of other packages discarded with HOPS = 15 (R342) -/
  hopDrops : Nat := 0
  nextReq : Nat := 0
  /-- route tables of the epoch before the current one (R304) -/
  routeOld : AMap (Word × Word) := []
  /-- egress of the packet forwarded last, with whether an alternative of its entry was down -/
  routed : Option (Nat × Bool) := none
  resp : Resp := {}
  hints : List Hint := []
  pow : Pow := {}
  grp : AMap Grp := []
  colls : AMap Coll := []
  nextColl : Nat := 0
  /-- joins for instances that no member here has started yet -/
  joins : List JoinMsg := []
  /-- joins still to come for instances that have ended here, by key, rank here and sender; they are discarded (R371) -/
  lateJoins : List (CollKey × Nat × Nat) := []
  /-- joins and ABORTs on their way to other members, with the members' entries (R371, R380) -/
  msgs : List (Nat × CollMsg) := []
  events : List Event := []
  eventDrops : AMap Nat := []
  deriving DecidableEq, Repr

/-- A field test of a logical cluster, at its hub's operation, in the order the hubs started them (R443, R444). -/
structure FieldTest where
  part : Nat
  op : Nat
  cl : Nat
  /-- Saley has begun it, at this TIMEBASE -/
  begun : Option Nat := none
  /-- the physical cluster under test once it is cut out, and whether a spare took its number -/
  phys : Option (Nat × Bool) := none
  deriving DecidableEq, Repr

/-! ## State stack -/

/-- A context record (R142). -/
structure Ctx where
  gen : Nat := 0
  jobTag : Nat := 0
  fmtK : Nat := 0
  fmtV : Nat := 0
  h : Nat := 0
  nb : Nat := 0
  isOpen : Bool := false
  len : Nat := 0
  ptab : Nat := 0
  pcap : Nat := 0
  written : Nat := 0
  tOpen : Nat := 0
  deriving DecidableEq, Repr

/-- A State Engine request (R144 to R150). -/
structure SeReq where
  who : Who := {}
  issuer : Issuer := .op 0 0 0
  words : List Word := []
  /-- member of a step (R163) -/
  inStep : Bool := false
  /-- started, with the outcome it will report -/
  started : Bool := false
  status : Status := .ok
  done : Nat := 0
  firstFail : Nat := 0
  cflags : Nat := 0
  /-- result bytes to be written at RESULT -/
  result : List (BitVec 8) := []
  deriving DecidableEq, Repr

/-- A state stack with its State Engine (R133 to R175). -/
structure StackSt where
  ctx : AMap Ctx := []
  /-- indices in the order they became free after use; those never used follow in ascending order -/
  freed : List Nat := []
  nextNew : Nat := 0
  /-- requests held, in arrival order -/
  reqs : AMap SeReq := []
  nextReq : Nat := 0
  keysRead : Nat := 0
  bytesRead : Nat := 0
  bytesWritten : Nat := 0
  ce : Nat := 0
  ueCount : Nat := 0
  gate : Nat := 0
  deriving DecidableEq, Repr
/-! ## The package -/

/-- Order numbers (R2). -/
inductive Variant where
  | lcr1600A | lcr1600N | lcr0800A
  deriving DecidableEq, Repr

/-- What a calibration record holds (R477): preferred slot; failed and soft-fused cores; retired clusters and the logical
maps; fenced channels; failed ports by 12 o + k; lasers by BAR0 offset; activity weights by BAR0 offset; MAC addresses. -/
structure CalRec where
  seq : Word32 := 0
  /-- PKG_SERIAL of the package that wrote it (R476) -/
  serial : Nat := 0x1D4C7F200B36
  preferred : Option Nat := none
  coreGone : AMap Unit := []
  clGone : AMap Nat := []
  clusterOut : AMap Nat := []
  physCl : AMap Nat := []
  physCore : AMap Nat := []
  chFence : AMap Unit := []
  ports : List Nat := []
  lasers : AMap Word := []
  weights : AMap Word := []
  macs : AMap Word := []
  /-- entries of an unknown TYPE, with their data (R477) -/
  other : List (Nat × List Word) := []
  deriving DecidableEq, Repr

/-- What package test blew into the fuses (R27, R31, R490): log entry 3. -/
structure Fuses where
  variant : Variant := .lcr1600A
  serial : Nat := 0x1D4C7F200B36
  mfr : Nat := 0
  /-- identity words that differ from the place's valid word, by DIE_CAP index -/
  bad : AMap Word := []
  /-- steppings by DIE_CAP index; 1 where unlisted -/
  steps : AMap Nat := []
  /-- conversion efficiency in thousandths (R397) -/
  eff : Nat := 920
  /-- OP_VOLT codes by compute die -/
  opVolt : AMap Word := []
  /-- the factory record in Saley's one-time memory (R479) -/
  factory : CalRec := {}
  deriving DecidableEq, Repr

/-- Input pins and outputs held outside the package's own logic (R37, R516 to R530): log entry 4. -/
structure Pins where
  vin : Nat := 48000
  pwrFail : Bool := false
  coldRst : Bool := false
  perst0 : Bool := false
  perst1 : Bool := false
  coolA : Bool := false
  coolB : Bool := false
  ref0 : Bool := true
  ref1 : Bool := true
  thermtrip : Bool := false
  gpioIn : BitVec 4 := 0
  deriving DecidableEq, Repr

/-- Where the package stands in its life (R455 to R474). -/
inductive Stage where
  | waitSupply | waitReference | up | powerFail | halted | off
  deriving DecidableEq, Repr

/-- A power failure in progress or last seen (R470 to R472). -/
structure PfRec where
  cause : Nat := 0
  tRec : Nat := 0
  vinMin : Nat := 0
  /-- no return path (R474), and rails that stay up after PF1 (R465) -/
  final : Bool := false
  rails : Bool := false
  /-- the boot ROM had halted when it began (R460) -/
  halted : Bool := false
  /-- events neither the host ring nor flash received -/
  lost : Nat := 0
  deriving DecidableEq, Repr

/-! ## Hosts and PCIe ports -/

/-- How a host answers requests to a page of its memory: Unsupported Request or Completer Abort, or poisoned data (R236). -/
inductive HostAns where
  | refused | poisoned
  deriving DecidableEq, Repr

/-- A PCIe port (R461, R469, R520, R521). -/
structure PortSt where
  up : Bool := false
  /-- the answer to the last configuration request: Request Retry Status, or normal; and to the last early BAR read (R461) -/
  cfg : Option Bool := none
  bar : Option Word := none
  /-- functions whose ATS Enable bit is set -/
  ats : List Nat := []
  /-- translation cache: function, page, page translated to, most recently used first -/
  atc : List (Nat × Nat × Nat) := []
  deriving DecidableEq, Repr

/-! ## Optical dies -/

/-- A pending steering point (R326, R327): its instant, the preset, and the map fixed at acceptance, one port code per engine. -/
structure SteerPt where
  t : Nat
  preset : Nat
  map : List Nat
  deriving DecidableEq, Repr

/-- An optical die beside its registers (R306 to R331, R421, R457). -/
structure OptSt where
  /-- step 8 of R457 is done -/
  ready : Bool := false
  /-- held in reset (0) or shut down for heat (2) -/
  out : Option Nat := none
  /-- pending points, earliest first; active copies of QCFG_k -/
  points : List SteerPt := []
  qact : AMap Word := []
  /-- the presets it acknowledged, until the boundary (R509) -/
  prep : AMap Word := []
  /-- lasers by 20 a + w: steps of 0.5 % of BIAS_INIT above it, and when the bias last changed (R317) -/
  steps : AMap Nat := []
  changed : AMap Nat := []
  /-- the ports that the map applied last names, by engine (R329, R331) -/
  want : List Nat := [0, 1, 3, 4, 6, 7, 9, 10]
  deriving DecidableEq, Repr

/-- How far the calibration of a wavelength is (R320 to R324). -/
inductive CalPhase where
  /-- announced; out at this TIMEBASE -/
  | outAt (t : Nat)
  /-- retuning, or calibrated in place -/
  | tuning
  /-- retuned; back at this TIMEBASE -/
  | backAt (t : Nat)
  deriving DecidableEq, Repr

/-- A calibration in progress in one direction of a link: the wavelength, its role, the spare that stands in for it. -/
structure CalSt where
  w : Nat
  role : Nat
  spare : Option Nat
  /-- calibrated where it stands, without leaving its role -/
  inPlace : Bool
  phase : CalPhase
  deriving DecidableEq, Repr

/-- One direction of a link (R313, R320, R336, R343, R353): role-map generation, changes announced and not yet made, the
calibration in progress, wavelengths still to calibrate in this period and those to calibrate first in the next. -/
structure DirSt where
  gen : Nat := 0
  pend : List LaneChg := []
  cal : Option CalSt := none
  todo : List Nat := []
  first : List Nat := []
  /-- when the last sweep began, and when the wavelength under calibration went out (R320, R322) -/
  swept : Option Nat := none
  outAt : Nat := 0
  /-- the swap of this end's calibration that it has announced and not yet made (R321 to R324) -/
  said : Option LaneChg := none
  deriving DecidableEq, Repr

/-- A direction's line coder (R334 to R336, R340): the number of the next flit slot, the flits sent in the block, the scrambler, scrambled
bits that wait for their codeword, codewords and symbols sent in the block, the block's number, the PAM4 levels that the last flit put on
each data lane. -/
structure LineSt where
  slot : Nat := 0
  inBlk : Nat := 0
  scr : BitVec 58 := 0
  bits : List Bool := []
  cw : Nat := 0
  sym : Nat := 0
  block : Nat := 0
  out : AMap (List Nat) := []
  deriving DecidableEq, Repr

/-- A data flit in the retry buffer (R338, R346). -/
structure TxFlit where
  cls : Nat
  sop : Bool
  eop : Bool
  seq : Nat
  payload : List Byte
  deriving DecidableEq, Repr

/-- A packet that an engine holds or sends: class, flits, and the hub and number of the request it carries. -/
structure EngPkt where
  cls : Nat
  flits : Nat
  hub : Nat
  req : Nat
  pkt : RoutePacket
  deriving DecidableEq, Repr

/-- An engine's end of the Currant path (R392): next LSEQ, frames sent and not acknowledged, frames that wait, when LACK last
advanced, the last LSEQ accepted from the peer. -/
structure CurLink where
  lseq : Nat := 0
  unack : List CurFrame := []
  queue : List CurFrame := []
  ackAt : Nat := 0
  last : Nat := 255
  /-- the LACK that it sent last; the scrambler of its wavelength, and the blocks that the last frame sent (R391, R392) -/
  told : Nat := 255
  scr : BitVec 58 := 0
  out : List (BitVec 66) := []
  deriving DecidableEq, Repr

/-- Who takes part in a tree's operation: a core's CURREQ with its DST, a COLL of a COMM ring with its DST, or a member of a steered
collective (R377, R388, R389). -/
inductive TreeWho where
  | req (i : Issuer) (dst : Nat)
  | coll (p op dst : Nat)
  | phase (p inst : Nat)
  deriving DecidableEq, Repr

/-- A slot's part in an operation. -/
structure TreeIn where
  who : TreeWho
  kind : Nat
  rop : Nat
  dtype : Nat
  nelem : Nat
  root : Nat × Nat := (0, 0)
  data : List Word32 := []
  deriving DecidableEq, Repr

/-- An operation of a tree (R388, R393): the slots' parts, the children's UP frames by engine, the uplink it uses, whether UP has
been sent, when its first slot's request came. -/
structure TreeOp where
  slots : AMap TreeIn := []
  kids : AMap CurFrame := []
  up : Option Nat := none
  sent : Bool := false
  /-- an INT32 sum of this node saturated -/
  sat : Bool := false
  t0 : Option Nat := none
  deriving DecidableEq, Repr

/-- A Currant tree beside its registers (R387): open operations by number, each slot's next operation, requests that wait for a
slot with four operations open. -/
structure TreeSt where
  next : Nat := 0
  ops : AMap TreeOp := []
  slotNext : AMap Nat := []
  waiting : List (Nat × TreeIn) := []
  deriving DecidableEq, Repr

/-- A tensor transceiver engine beside its registers (R316 to R355), by 8 die + engine. -/
structure EngSt where
  tx : DirSt := {}
  rx : DirSt := {}
  /-- next SEQ; the retry buffer, oldest first; when ACK last advanced -/
  txSeq : Nat := 0
  unack : List TxFlit := []
  ackAt : Nat := 0
  /-- the last NAK that started a replay: its ACK and its time -/
  lastNak : Option (Nat × Nat) := none
  /-- credits by class: SENT, FREED as the peer reported it, the peer's buffers (R344) -/
  sent : List Nat := [0, 0, 0]
  freed : List Nat := [0, 0, 0]
  bufs : List Nat := [0, 0, 0]
  queue : List EngPkt := []
  /-- expected SEQ, whether any flit has been accepted, whether a flit with that SEQ is awaited after a NAK, when NAK was last due,
  whether the next flit carries it -/
  expect : Nat := 0
  ackV : Bool := false
  nak : Bool := false
  nakAt : Nat := 0
  nakDue : Bool := false
  /-- flits accepted and flits passed on, by class (R344) -/
  got : List Nat := [0, 0, 0]
  passed : List Nat := [0, 0, 0]
  /-- the packet that is being received; packets received whole that no hub has taken, with class and flits (R341, R344) -/
  asm : Option (List Byte) := none
  inbox : List (Nat × Nat × List Byte) := []
  /-- a replay is due on the next ACK, after a block that a loss swap named (R346, R353) -/
  replayDue : Bool := false
  /-- this end's line, and the time in ps at which all that was handed to it has left (R334 to R337) -/
  line : LineSt := {}
  busy : Nat := 0
  /-- the number that the peer's last marker gave the block that followed it, and when (R336) -/
  rxBlk : Nat × Nat := (0, 0)
  /-- times of the last uncorrectable codewords by wavelength (R352) -/
  cwBad : AMap (List Nat) := []
  /-- LINK_ID and ROLE_MAP have arrived since PARAM or RELOCK began (R348) -/
  gotId : Bool := false
  gotMap : Bool := false
  /-- when CREDIT, RX_POWER, TS_SYNC and ROLE_MAP were last sent, by message type -/
  ctlAt : AMap Nat := []
  /-- wavelengths that failed to lock in training, handled once the link is UP -/
  unlocked : List Nat := []
  /-- ports whose path has stored receiver state (R328) -/
  stored : List Nat := []
  /-- a steering point the peer announced, and whether the peer's engine moves at it -/
  ann : Option (Nat × Bool) := none
  /-- port sparing in progress: the original port, and since when (R330) -/
  subst : Option (Nat × Nat) := none
  /-- sums and counts of OMA measurements by wavelength, in tenths of a dBm; when the far end last reported (R316, R317) -/
  oma : AMap (Int × Nat) := []
  feAt : AMap Nat := []
  cur : CurLink := {}
  /-- TS_SYNC (R347): number sent last and its time, number received last and its time, the last delay and offset in ns, the
  peer's MASTER, STRATUM and LOCKED -/
  tsNum : Nat := 0
  tsSent : Nat := 0
  tsLast : Option (Nat × Nat) := none
  delay : Int := 0
  peer : Option (Nat × Nat × Bool) := none
  deriving DecidableEq, Repr

/-- A connection of a general port (R358): frames sent and not acknowledged, packets that wait, timeouts in a row without
progress, when ACK_PSN last advanced, frames accepted since the last ACK and when the first of them came; packets received that no hub has
taken, with priority and bytes; the last frame it sent. -/
structure GpConn where
  unack : List (List EngPkt) := []
  queue : List EngPkt := []
  tries : Nat := 0
  since : Nat := 0
  accepted : Nat := 0
  acceptAt : Nat := 0
  inbox : List (Nat × Nat × List Byte) := []
  out : List Byte := []
  deriving DecidableEq, Repr


/-! ## Flash and power-fail (R450, R470 to R479) -/

/-- A firmware slot: whether its image passes the checks of R450, and its version (log entry 3). -/
structure FwImage where
  ok : Bool := true
  version : Nat := 0
  deriving DecidableEq, Repr

/-- A calibration slot (R476). -/
inductive CalSlot where
  | erased
  | torn
  | valid (r : CalRec)
  deriving DecidableEq, Repr

/-- A power-fail record (R471). -/
structure PfRecord where
  seq : Word32 := 0
  tRec : Nat := 0
  cause : Nat := 0
  vinMin : Nat := 0
  openSteps : Nat := 0
  evtSeq : Word32 := 0
  evtLost : Nat := 0
  deriving DecidableEq, Repr

/-- A flash device (R475): its firmware slot, calibration slots, power-fail records and events, newest first. -/
structure Flash where
  fw : FwImage := {}
  cal0 : CalSlot := .valid {}
  cal1 : CalSlot := .erased
  pf : List PfRecord := []
  events : List Event := []
  deriving DecidableEq, Repr

/-- Live update (R451 to R453): TRIAL and since when; a restart in progress: the slot it starts, the slot that ran before, TRIAL
afterwards, by the watchdog, when the processors were reset. -/
structure FwSt where
  trial : Bool := false
  trialAt : Nat := 0
  slot : Nat := 0
  before : Nat := 0
  toTrial : Bool := false
  watchdog : Bool := false
  since : Nat := 0
  deriving DecidableEq, Repr

/-- The debug port (R490 to R494): the TAP's instruction, the boundary register, DBG_RESP, the latched global address. -/
structure DbgSt where
  ir : BitVec 8 := 0x01
  boundary : BitVec 64 := 0
  resp : BitVec 128 := 0
  addr : Word := 0
  deriving DecidableEq, Repr

/-- The SMBus target's last answer (R523): to a control message, busy, a sensor's value, the answer to another PLDM request. -/
inductive SmbAns where
  | control
  | busy
  | value (v : Int)
  | pldm (v : Nat)
  deriving DecidableEq, Repr


/-! ## Power and heat -/

/-- The package's power governor (R397 to R405, R518, R524). -/
structure PowerSt where
  /-- intervals, newest first: time, corrected and uncorrected package estimate in mW -/
  hist : List (Nat × Int × Int) := []
  /-- corrected estimates of the optical dies and of Saley, and the package allowance, in mW -/
  optical : Int := 0
  saley : Int := 0
  allow : Int := 0
  /-- the cap that VIN48 sets (R518) -/
  vinCap : Option Int := none
  /-- controllers configured at cold start, by PMBus address, and when their last complete set of readings came -/
  pmbus : List Nat := []
  pmbAt : Nat := 0
  deriving DecidableEq, Repr

/-- Thermal and coolant state (R415 to R425). Units: 0 to 63 compute dies, 64 + p hubs, 80 + 4p + n state stacks,
144 + o optical dies, 160 coolant outlet, 161 coolant inlet, 200 + 4p + n HBM stacks. -/
structure ThermalSt where
  /-- levels that stand at a unit: bit 0 warning, bit 1 throttle -/
  stand : AMap Nat := []
  /-- sixteenths of throttle by cause: a unit, or 300 + 4p + n for the stacks coupled to a compute die (R215) -/
  cont : AMap Nat := []
  /-- faulty channels; 416 + k for thermistor k -/
  faulty : AMap Unit := []
  /-- since when every sensor of a shut-down partition (p) or optical die (16 + o) has read below its restart level -/
  below : AMap Nat := []
  /-- coolant: the reference of R423 while its case is open, whether a condition is held, since when both inputs are deasserted -/
  coolRef : Option Nat := none
  coolHeld : Bool := false
  coolClear : Option Nat := none
  /-- THM_IN_1 is or was faulty, and since when it has read validly (R418) -/
  in1Bad : Bool := false
  in1Ok : Option Nat := none
  deriving DecidableEq, Repr
/-! ## Bramble rings (R284 to R294) -/

/-- A packet in a ring's hands: its header as stamped (R285). -/
structure BrSlot where
  cls : Nat := 0
  ty : Nat := 0
  units : Nat := 0
  epoch : Nat := 0
  tag : Nat := 0
  domain : Nat := 0
  txid : Nat := 0
  target : Word := 0
  poison : Bool := false
  srcRing : Nat := 0
  srcStop : Nat := 0
  dstRing : Nat := 0
  dstStop : Nat := 0
  defl : Nat := 0
  urgent : Bool := false
  payload : BitVec 1024 := 0
  /-- the model's own: the packet's number among those of its source stop, the status a response brings, the end of a stream -/
  seq : Nat := 0
  st : Status := .ok
  last : Bool := false
  deriving DecidableEq, Repr

/-- A packet in line at a stop: one of the stop's own unit names its destination until it is injected (R293); one that crosses a
bridge keeps its header. -/
structure BrWait where
  slot : BrSlot := {}
  dst : Option BrDst := none
  deriving DecidableEq, Repr

/-- One direction of a ring: slots occupied, their packets, stops that have set a mark in the token, in order (R285, R287, R288).
COUNT is the number of slots less `taken`. -/
structure BrRing where
  taken : Nat := 0
  slots : AMap BrSlot := []
  marks : List Nat := []
  deriving DecidableEq, Repr

/-- A stop (R287 to R291): packets in line, token passes waited in each direction, units to return; its ejection or entry buffers;
its reservation queue and the packets a buffer has been given to, by direction and slot; packets it has injected; its unit's
memory requests under way, by transaction number with their time, and how the others ended. -/
structure BrStop where
  wait : List BrWait := []
  passCw : Nat := 0
  passCcw : Nat := 0
  oweCw : Nat := 0
  oweCcw : Nat := 0
  buf : List BrSlot := []
  resv : List (Bool × Nat) := []
  given : List (Bool × Nat) := []
  sent : Nat := 0
  opened : AMap Nat := []
  ended : AMap Status := []
  deriving DecidableEq, Repr


/-- The whole package. -/
structure State where
  /-- commands waiting, first in first out -/
  pending : List Instr := []
  /-- the model's own counter for free values (log entry 1) -/
  free : Nat := 0
  fuses : Fuses := {}
  pins : Pins := {}
  stage : Stage := .waitSupply
  timebase : Nat := 0
  tbStarted : Bool := false
  /-- BAR0 registers, by offset; an unlisted register holds its reset value -/
  bar0 : AMap Word := []
  /-- HBM and state stack bytes of every partition, by PART · 2^44 + OFFSET (R216, R217) -/
  mem : Bytes := []
  /-- 1 GiB segments whose contents a mode change left undefined (R209), with the free tag of their bytes; and the bytes
  written there since -/
  segUndef : AMap Nat := []
  segWritten : AMap Unit := []
  /-- 64-bit words in uncorrectable error, by byte address / 8 of the same space (R212) -/
  ue : AMap Unit := []
  /-- channels of each HBM stack in service at its last training, by compute die (R207, R212) -/
  hbmMap : AMap Word32 := []
  /-- the hosts' memory, by port · 2^64 + bus address -/
  hostMem : Bytes := []
  /-- pages of host memory, by port · 2^52 + page, whose requests the host refuses or poisons; and pages it translates
  elsewhere under ATS (log entry 4) -/
  hostAns : AMap HostAns := []
  hostTr : AMap Nat := []
  ports : AMap PortSt := []
  /-- Saley's processors are restarting (R452) -/
  restarting : Bool := false
  /-- TIMEBASE of the lock owner's last BAR0 write (R252) -/
  leaseAt : Nat := 0
  /-- partitions whose loss of reach has its PART_UNREACHABLE record (R23) -/
  unreach : AMap Unit := []
  cores : AMap CoreSt := []
  clusters : AMap ClusterSt := []
  /-- Bramble rings by 8 die + 2 ring + (0 clockwise, 1 not), and their stops by 64 die + 16 ring + stop -/
  brRings : AMap BrRing := []
  brStops : AMap BrStop := []
  hubs : AMap HubSt := []
  seStacks : AMap StackSt := []
  copies : AMap CopyJob := []
  nextJob : Nat := 0
  opts : AMap OptSt := []
  engs : AMap EngSt := []
  trees : AMap TreeSt := []
  /-- general port connections by 4096 port + index, and bytes in each port's receive buffer by 8 port + priority -/
  gconns : AMap GpConn := []
  gbuf : AMap Nat := []
  /-- physical clusters by cluster key, and physical cores by (die · 42 + physical cluster) · 120 + logical core, where a
  spare stands in (R18) -/
  physCl : AMap Nat := []
  physCore : AMap Nat := []
  /-- partitions held out of service or shut down, with the reason: 0 identity or link, 1 training, 2 heat, 3 reset in progress -/
  partOut : AMap Nat := []
  /-- logical clusters without a unit in service, by cluster key: 0 unmapped, 1 cut-out in progress, 2 field test (R294, R442, R444) -/
  clusterOut : AMap Nat := []
  /-- physical clusters that have failed (0) or are out for a field test (1), by die · 42 + cluster; failed physical cores
  by (die · 42 + cluster) · 128 + core (R441 to R445) -/
  clGone : AMap Nat := []
  coreGone : AMap Unit := []
  /-- when each HBM channel reported its latest uncorrectable errors, by (4p + n) · 32 + channel (R212) -/
  chUe : AMap (List Nat) := []
  /-- HBM channels fenced in the calibration store, with the same key -/
  chFence : AMap Unit := []
  /-- modules left untrained on each die-to-die link (R25): log entry 4 gives the links their numbers -/
  ucieDown : AMap Nat := []
  /-- field tests, the one Saley runs first (R443) -/
  tests : List FieldTest := []
  pow : PowerSt := {}
  thm : ThermalSt := {}
  /-- totals of R132 by 16 t + cause -/
  idle : AMap Nat := []
  /-- Saley's event FIFO (R488) -/
  evFifo : List Event := []
  evDrops : AMap Nat := []
  evLastDrop : Nat := 0
  /-- OVERFLOW records of a series still to be formed, each with its DATA and ARG (R488) -/
  evSeries : List Event := []
  /-- SEQ of the first record formed under FAULT and not written to the ring yet (R487) -/
  evResume : Option Word32 := none
  /-- the history of records, by slot (R487) -/
  hist : AMap (BitVec 512) := []
  /-- the two flash devices, and a change of entries 0x0001 to 0x0005, or of AGED, not yet recorded (R475, R478) -/
  flashA : Flash := {}
  flashB : Flash := {}
  calDirty : Bool := false
  /-- the record in use names this slot as preferred (R460, R477) -/
  calPref : Option Nat := none
  /-- CAUSE of the next cold start (R464, R474) -/
  nextCause : Nat := 0
  /-- after a thermal package shut-down, until THM_IN_1 reads below 50 °C (R422, R463) -/
  heatWait : Bool := false
  /-- the power failure in progress or last seen -/
  pf : PfRec := {}
  /-- EPOCH_CUR when a partition's reset began, or when an optical die (16 + o) shut down (R514) -/
  resetEpoch : AMap Word32 := []
  /-- when the preparation in progress was accepted, and T_B of the commit in progress (R510, R511) -/
  prepAt : Nat := 0
  boundAt : Nat := 0
  fwSt : FwSt := {}
  dbg : DbgSt := {}
  smb : Option SmbAns := none
  /-- when the last time-sync message of the peer that is followed came (R45) -/
  syncAt : Nat := 0
  /-- what of the last measured offset is still to be slewed away, in ns (R45) -/
  slew : Int := 0
  /-- TIMEBASE when the last nanosecond was slewed away: the next comes no sooner than 5,010 ns later (R45) -/
  slewAt : Nat := 0
  /-- the reading, in sixteenths of a degree, by which the oscillators and bandgap references nearest to each diode channel are
  corrected (R42) -/
  comp : AMap Int := []
  /-- corrected errors of the HBM stacks, by compute die (R206) -/
  hbmCe : AMap Nat := []
  /-- entries of an unknown TYPE in the calibration record in use (R477) -/
  calOther : List (Nat × List Word) := []
  /-- stream channels of the compute dies' hub links that are held, by 32 die + channel (R24, R172, R294) -/
  streams : AMap Unit := []
  deriving DecidableEq, Repr

/-- Why a step stops with a fault. None is raised: every stop the spec describes is a completion status, a trap, a
discarded write or a refusal by name. -/
inductive Fault where
  /-- raised by nothing; kept so that the outcome type has a name to give (safe) -/
  | unreachable
  deriving DecidableEq, Repr

/-- Why a step has no meaning. -/
inductive Refusal where
  /-- a command with no meaning yet (safe) -/
  | notModelled (mnemonic : String)
  /-- the operands name nothing that can exist: the command is not well formed (safe) -/
  | illFormed
  /-- the instruction word is that of another row of the table (safe) -/
  | notThisCommand
  deriving DecidableEq, Repr

/-- The machine right after reset: nothing powered, nothing listed. -/
def State.reset : State := {}

end Sys2Proof.Machine
end

