-- ==== Sys2Proof/Machine/Regs.lean ====
section
/-! DEFINITION. The BAR0 map (R501): where registers stand, which bits a write changes (R13), what they hold after reset, and the plain read and write of one. -/
namespace Sys2Proof.Machine

/-- The kinds of block of R501. -/
inductive Block where
  | pkg | part (p : Nat) | opt (o : Nat) | gp (g : Nat) | ten (t : Nat)
  deriving DecidableEq, Repr

/-- The block a BAR0 offset lies in, and the offset within it (R501). -/
def blockOf (off : Nat) : Block × Nat :=
  if off < 0x100000 then (.pkg, off)
  else if off < 0x900000 then (.part ((off - 0x100000) / 0x80000), (off - 0x100000) % 0x80000)
  else if off < 0x1000000 then (.pkg, off)
  else if off < 0x1800000 then (.opt ((off - 0x1000000) / 0x100000), (off - 0x1000000) % 0x100000)
  else if off < 0x2000000 then (.pkg, off)
  else if off < 0x2400000 then (.gp ((off - 0x2000000) / 0x80000), (off - 0x2000000) % 0x80000)
  else if off < 0x3000000 then (.pkg, off)
  else if off < 0x3200000 then (.ten ((off - 0x3000000) / 0x1000), (off - 0x3000000) % 0x1000)
  else (.pkg, off)

/-- A run of equal 64-bit registers in a block: the first one's offset, the distance, how many, the rw, w1c and w1s bits,
and the reset value. -/
structure RegDesc where
  base : Nat
  stride : Nat := 8
  count : Nat := 1
  rw : Nat := 0
  w1c : Nat := 0
  w1s : Nat := 0
  reset : Nat := 0
  deriving DecidableEq, Repr

/-- All 64 bits. -/
def all64 : Nat := 0xFFFFFFFFFFFFFFFF

/-- Offsets of the package blocks that meanings name. -/
def rDevId : Nat := 0x0
/-- Word w of entry i of the DIE_CAP table, first page (R29). -/
def rDieCap (i w : Nat) : Nat := 0x4000 + 64 * i + 8 * w
def rDieCapPage : Nat := 0x38
def rIdentStatus : Nat := 0x40
def rPkgNum : Nat := 0x50
def rAdminLock : Nat := 0x1000
def rIntMask : Nat := 0x10008
def rIntL1 (s : Nat) : Nat := 0x10100 + 16 * s
def rIntL1Mask (s : Nat) : Nat := 0x10108 + 16 * s
def rPwrLimit : Nat := 0x20000
def rPwrCtl : Nat := 0x20008
def rPwrStatus : Nat := 0x20010
def rPwrCnt : Nat := 0x20018
def rPwrPart (p : Nat) : Nat := 0x20100 + 8 * p
/-- Word w of the activity weights of the die with DIE_CAP index i (R398). -/
def rWeights (i w : Nat) : Nat := 0x21000 + 0x40 * i + 8 * w
def rThmCtl : Nat := 0x30000
def rThmStatus0 : Nat := 0x30008
def rThmStatus1 : Nat := 0x30010
def rCoolCtl : Nat := 0x30018
def rCoolStatus : Nat := 0x30020
def rThmIn (k : Nat) : Nat := 0x30100 + 8 * k
def rThmTemp (m : Nat) : Nat := 0x31000 + 8 * m
def rTimebase : Nat := 0x40000
def rTbCtl : Nat := 0x40008
def rTbStatus : Nat := 0x40010
def rRefclk : Nat := 0x40018
def rDevStatus : Nat := 0x40100
def rRstCmd : Nat := 0x40108
def rRstCause : Nat := 0x40110
def rStrap : Nat := 0x40118
def rEpochCur : Nat := 0x50000
def rEpochPrepare : Nat := 0x50008
def rEpochCommit : Nat := 0x50010
def rEpochStatus : Nat := 0x50018
def rEpochAck : Nat := 0x50020
def rEpochTime : Nat := 0x50028
def rEpochDrain : Nat := 0x50030
def rEpochCtl : Nat := 0x50038
def rEvtBase : Nat := 0x60000
def rEvtCtl : Nat := 0x60008
def rEvtTail : Nat := 0x60010
def rEvtHead : Nat := 0x60018
def rEvtStatus : Nat := 0x60020
def rSvcStatus : Nat := 0x70010
def rHealth0 : Nat := 0x70000
def rHealth1 : Nat := 0x70008
def rFwStatus : Nat := 0x80000
def rFwCmd : Nat := 0x80008
def rFwSrc : Nat := 0x80010
def rFwLen : Nat := 0x80018
def rCalStatus : Nat := 0x80020
def rDbgCtl : Nat := 0x80028
def rCurTree (t w : Nat) : Nat := 0x84000 + 32 * t + 8 * w

/-- Offsets in the partition block. -/
def pBase (p : Nat) : Nat := 0x100000 + p * 0x80000
def rRingCmd (p : Nat) : Nat := pBase p
def rRingArg (p i : Nat) : Nat := pBase p + 8 + 8 * i
def rPartCfg (p : Nat) : Nat := pBase p + 0x100
def rTenQos (p t : Nat) : Nat := pBase p + 0x1000 + 8 * t
def rNetCtl (p : Nat) : Nat := pBase p + 0x20000
def rEgr (p : Nat) : Nat := pBase p + 0x20008
def rBrambleMap (p n : Nat) : Nat := pBase p + 0x20010 + 8 * n
def rPartRoute (p q : Nat) : Nat := pBase p + 0x20100 + 16 * q
def rPodRoute (p d : Nat) : Nat := pBase p + 0x20200 + 16 * d
def rPkgRoute (p k : Nat) : Nat := pBase p + 0x21000 + 16 * k
def rGrpSel (p : Nat) : Nat := pBase p + 0x40000
def rOpTable (p : Nat) : Nat := pBase p + 0x50000
def rIdleCnt (p n c k : Nat) : Nat := pBase p + 0x61000 + 0x60 * (40 * n + c) + 8 * k
def rOwnSel (p : Nat) : Nat := pBase p + 0x70000
def rTlbInv (p : Nat) : Nat := pBase p + 0x70008
def rSegMode (p w : Nat) : Nat := pBase p + 0x78000 + 8 * w
def rSegLimit (p : Nat) : Nat := pBase p + 0x78018
def rHbmStatus (p n : Nat) : Nat := pBase p + 0x78020 + 8 * n
def rRdcCtl (p : Nat) : Nat := pBase p + 0x78040
def rRdcHits (p : Nat) : Nat := pBase p + 0x78050
def rRdcMisses (p : Nat) : Nat := pBase p + 0x78058

/-- Offsets in the optical die block. -/
def oBase (o : Nat) : Nat := 0x1000000 + o * 0x100000
def rQctl (o : Nat) : Nat := oBase o
def rSteerCmd (o : Nat) : Nat := oBase o + 8
def rSteerTime (o : Nat) : Nat := oBase o + 0x10
def rSteerStatus (o : Nat) : Nat := oBase o + 0x18
def rCalCtl (o : Nat) : Nat := oBase o + 0x20
def rPortCfg (o : Nat) : Nat := oBase o + 0x28
def rPortStatus (o : Nat) : Nat := oBase o + 0x30
def rMlxCtl (o : Nat) : Nat := oBase o + 0x40
def rQcfg (o k : Nat) : Nat := oBase o + 0x100 + 8 * k
def rEngStatus (o e : Nat) : Nat := oBase o + 0x200 + 8 * e
def rMlxState (o e : Nat) : Nat := oBase o + 0x280 + 8 * e
def rRole (o e : Nat) (rx : Bool) (w : Nat) : Nat := oBase o + 0x400 + 32 * e + 16 * b2n rx + 8 * w
def rRxOma (o e w : Nat) : Nat := oBase o + 0x1000 + 32 * e + 8 * w
def rFeOma (o e w : Nat) : Nat := oBase o + 0x2000 + 32 * e + 8 * w
def rLaser (o a w : Nat) : Nat := oBase o + 0x3000 + 8 * (20 * a + w)
def rMlxCnt (o e i : Nat) : Nat := oBase o + 0x4000 + 64 * e + 8 * i

/-- Offsets in the general port block and the tenant table. -/
def gBase (g : Nat) : Nat := 0x2000000 + g * 0x80000
def rGpCtl (g : Nat) : Nat := gBase g
def rGpTimer (g : Nat) : Nat := gBase g + 0x30
def rGpStatus (g : Nat) : Nat := gBase g + 0x38
def rGpCnt (g i : Nat) : Nat := gBase g + 0x100 + 8 * i
def rGpConn (g i w : Nat) : Nat := gBase g + 0x40000 + 64 * i + 8 * w
def tBase (t : Nat) : Nat := 0x3000000 + 0x1000 * t
def rTenCfg (t : Nat) : Nat := tBase t
def rTenRoot (t : Nat) : Nat := tBase t + 8
def rTenState (t : Nat) : Nat := tBase t + 0x10
/-- Word i of tenant leaf kind k: NOTIFY, RING_ERR, DB_ERR, then the two masks (R484). -/
def rTenLeaf (t k i : Nat) : Nat := tBase t + 0x40 + 0x40 * k + 8 * i

/-- The w1c bits of the level-1 cause register of a source (R483). -/
def intLeafMask (s : Nat) : Nat :=
  if s < 16 then 0x7F * 2 ^ 48
  else if s < 24 then 0x7FFFFF
  else match s with
    | 24 => 0x7
    | 25 => 0xF
    | 26 => 0x3
    | 27 => 0x7
    | 28 => 0x3F
    | 29 => 0x1
    | 30 => 0xFFF
    | 31 => 0xF
    | 32 => 0x7
    | _ => 0

/-- Registers of the package blocks. Rows whose writes have rules of their own list only the bits that stay as written. -/
def pkgRegs : List RegDesc := [
  { base := 0x0 }, { base := 0x8 }, { base := 0x10, count := 4 }, { base := 0x30 },
  { base := 0x38, rw := 1 }, { base := 0x40 }, { base := 0x48 }, { base := 0x50, rw := 0xFFFF },
  { base := 0x1000, rw := 0xFFFF0000, reset := 1000 * 65536 },
  { base := 0x4000, count := 1224 },
  { base := 0x10000 }, { base := 0x10008, rw := 0x1FFFFFFFF, reset := 0x1FFFFFFFF },
  { base := 0x20000, rw := 0x3FFFFF },
  { base := 0x20008, rw := 0x1FFFFF, reset := 100 + 2 * 4096 },
  { base := 0x20010, reset := 0x4000 * 2 ^ 32 }, { base := 0x20018 },
  { base := 0x20100, count := 16, rw := 0xFFFFF, reset := 1 + 0xFFF * 256 },
  { base := 0x21000, stride := 0x40, count := 153, reset := 16 + 9 * 2 ^ 16 + 35 * 2 ^ 32 + 90 * 2 ^ 48 },
  { base := 0x21008, stride := 0x40, count := 153, reset := 5 + 12 * 2 ^ 16 + 150 * 2 ^ 32 + 1200 * 2 ^ 48 },
  { base := 0x21010, stride := 0x40, count := 153, reset := 800 + 3000 * 2 ^ 16 + 31000 * 2 ^ 32 + 800 * 2 ^ 48 },
  { base := 0x30000, rw := 1, reset := 1 }, { base := 0x30008 }, { base := 0x30010 },
  { base := 0x30018, rw := 0x1F, reset := 5 }, { base := 0x30020 },
  { base := 0x30100, count := 4 },
  { base := 0x31000, count := 104, reset := 0x8000800080008000 },
  { base := 0x40000 }, { base := 0x40008, rw := 3, reset := 2 }, { base := 0x40010, w1c := 4 },
  { base := 0x40018, rw := 8, w1c := 0x100 },
  { base := 0x40100 }, { base := 0x40108, rw := 0xFF00007F }, { base := 0x40110 }, { base := 0x40118 },
  { base := 0x50000 }, { base := 0x50008 }, { base := 0x50010 }, { base := 0x50018, w1c := 8, reset := 0xFF00 },
  { base := 0x50020 }, { base := 0x50028 }, { base := 0x50030 }, { base := 0x50038, rw := 0xFFFF, reset := 20 },
  { base := 0x60000, rw := all64 }, { base := 0x60008, rw := 0xFFFFF1F03, reset := 6 * 256 + 65536 },
  { base := 0x60010 }, { base := 0x60018, rw := 0xFFFFFFFF }, { base := 0x60020, w1c := 0x1000 },
  { base := 0x60028, rw := 0xF }, { base := 0x64000, count := 2048 },
  { base := 0x70000 }, { base := 0x70008 }, { base := 0x70010 },
  { base := 0x80000, rw := 0xFF00, reset := 60 * 256 }, { base := 0x80008, rw := 7 },
  { base := 0x80010, rw := all64 }, { base := 0x80018, rw := 0x7FFFFFF },
  { base := 0x80020, w1c := 0x300000000 }, { base := 0x80028, rw := 0xF1 },
  { base := 0x84000, stride := 32, count := 256, rw := 0xFFFFFFFFFFFFFF05 },
  { base := 0x84008, stride := 32, count := 256, rw := 0x0000FFFF007FFFFF, reset := 10000 * 2 ^ 32 },
  { base := 0x84010, stride := 32, count := 256, rw := all64 }]

/-- The rw bits of word w of a route entry: EGRESS, DMASK and VALID of two alternatives, and SPREAD of ALT_0 (R298). -/
def altBits (w : Nat) : Nat := 0x01FFFFFF01FFFFFF + if w = 0 then 2 ^ 25 else 0

/-- Registers of a partition block. -/
def partRegs : List RegDesc := [
  { base := 0x0, rw := 0x1FFFFF }, { base := 0x8, count := 3, rw := all64 },
  { base := 0x20, rw := 0x0000FFFF000F0FFF }, { base := 0x28 }, { base := 0x30 },
  { base := 0x100, rw := 0xF },
  { base := 0x1000, count := 512, rw := 0xFFFF, reset := 1 },
  { base := 0x2000, stride := 16, count := 48 }, { base := 0x2008, stride := 16, count := 48, rw := 0xFFFFFFFF },
  { base := 0x20000, rw := 0xFFFF, reset := 1000 }, { base := 0x20008 }, { base := 0x20010, count := 4 },
  { base := 0x20100, stride := 16, count := 16, rw := altBits 0 }, { base := 0x20108, stride := 16, count := 16, rw := altBits 1 },
  { base := 0x20200, stride := 16, count := 16, rw := altBits 0 }, { base := 0x20208, stride := 16, count := 16, rw := altBits 1 },
  { base := 0x21000, stride := 16, count := 4096, rw := altBits 0 }, { base := 0x21008, stride := 16, count := 4096, rw := altBits 1 },
  { base := 0x40000, rw := 0xFFF }, { base := 0x40040, count := 8, rw := all64 },
  { base := 0x50000, rw := 0x7FF, reset := 0x47F },
  { base := 0x60000 }, { base := 0x61000, count := 1920 },
  { base := 0x70000, rw := 0x7F }, { base := 0x70008, rw := 0x0000FFFFFFE003FF },
  { base := 0x74000, count := 2048, rw := all64 },
  { base := 0x78000, count := 3, rw := all64 }, { base := 0x78018 },
  { base := 0x78020, count := 4, w1c := 0x40000000000 },
  { base := 0x78040, rw := 1, w1s := 2, reset := 1 }, { base := 0x78050 }, { base := 0x78058 }]

/-- Word 0 and word 1 of the default role map (R312). -/
def defaultRole (w : Nat) : Nat :=
  (List.range (if w = 0 then 12 else 8)).foldl (fun a i =>
    let x := 12 * w + i
    a + (if x < 16 then x else if x = 16 then 0x10 else 0x11) * 2 ^ (5 * i)) 0

/-- Registers of an optical die block. -/
def optRegs : List RegDesc := [
  { base := 0x0, rw := 0x3F0, reset := 0x200 }, { base := 0x8, rw := 0xF }, { base := 0x10, rw := all64 }, { base := 0x18 },
  { base := 0x20, rw := 0xFF03, reset := 3 + 10 * 256 }, { base := 0x28, rw := 0xFFF, reset := 0xFFF },
  { base := 0x30, w1c := 0xFFF }, { base := 0x40, rw := 0x1F01, reset := 1 + 12 * 256 },
  { base := 0x100, count := 16, rw := 0xFFFFFFFF, reset := 0xA9764310 },
  { base := 0x200, count := 8, w1c := 0x200000, reset := 0xF },
  { base := 0x280, count := 8, reset := 0xFF * 2 ^ 33 },
  { base := 0x400, stride := 16, count := 16, reset := defaultRole 0 }, { base := 0x408, stride := 16, count := 16, reset := defaultRole 1 },
  { base := 0x1000, stride := 32, count := 8, reset := 0x8080808080808080 }, { base := 0x1008, stride := 32, count := 8, reset := 0x8080808080808080 },
  { base := 0x1010, stride := 32, count := 8, reset := 0x80808080 }, { base := 0x1018, stride := 32, count := 8 },
  { base := 0x2000, stride := 32, count := 8, reset := 0x8080808080808080 }, { base := 0x2008, stride := 32, count := 8, reset := 0x8080808080808080 },
  { base := 0x2010, stride := 32, count := 8, reset := 0x80808080 }, { base := 0x2018, stride := 32, count := 8 }, { base := 0x3000, count := 40 },
  { base := 0x4000, count := 64 }]

/-- Registers of a general port block. -/
def gpRegs : List RegDesc := [
  { base := 0x0, rw := 0x00FF01FF3FFF0001, reset := 9216 * 65536 + (0 + 1 * 8 + 2 * 64) * 2 ^ 32 + 7 * 2 ^ 48 },
  { base := 0x8, rw := 0xFFFF }, { base := 0x10, rw := 0xFFFFFFFFFFFF }, { base := 0x18, rw := 0xFFFFFFFF }, { base := 0x20, count := 2, rw := all64 },
  { base := 0x30, rw := 0xFFFFFFFF, reset := 100 + 8 * 65536 + 256 * 2 ^ 20 }, { base := 0x38 },
  { base := 0x100, count := 8 },
  { base := 0x40000, stride := 64, count := 4096, rw := 0x0003FFFFFFFFFFF7, w1c := 8, reset := 64 * 2 ^ 42 },
  { base := 0x40008, stride := 64, count := 4096, rw := all64 }, { base := 0x40010, stride := 64, count := 4096, rw := all64 },
  { base := 0x40018, stride := 64, count := 4096, rw := all64 }, { base := 0x40020, stride := 64, count := 4096 }]

/-- Registers of a tenant table entry. -/
def tenRegs : List RegDesc := [
  { base := 0x0, rw := 0xF1 }, { base := 0x8, rw := all64 }, { base := 0x10 },
  { base := 0x40, count := 24, w1c := all64 }, { base := 0x100, count := 16, rw := all64 }]

/-- Registers of the level-1 causes: written as w1c leaves, beside their masks (R483). -/
def intDesc (off : Nat) : Option RegDesc :=
  if 0x10100 ≤ off ∧ off < 0x10100 + 16 * 33 then
    let s := (off - 0x10100) / 16
    if off % 16 = 0 then some { base := off, w1c := intLeafMask s }
    else if off % 16 = 8 then
      some { base := off, rw := if s < 16 then 0x7FFFFFFFFFFFFF else intLeafMask s }
    else none
  else none

/-- Whether a run of registers covers an offset. -/
def descHas (d : RegDesc) (o : Nat) : Bool :=
  d.base ≤ o && (o - d.base) % d.stride == 0 && (o - d.base) / d.stride < d.count

/-- The registers of a block. -/
def blockRegs : Block → List RegDesc
  | .pkg => pkgRegs
  | .part _ => partRegs
  | .opt _ => optRegs
  | .gp _ => gpRegs
  | .ten _ => tenRegs

/-- The description of the 64-bit register at an offset, a multiple of 8 (R499: none where no table defines one). -/
def regDesc (off : Nat) : Option RegDesc :=
  match intDesc off with
  | some d => some d
  | none =>
    let b := blockOf off
    (blockRegs b.1).find? (fun d => descHas d b.2)

/-- Whether the variant is LCR-0800A. -/
def small (s : State) : Bool := s.fuses.variant == .lcr0800A

/-- The PART_ROUTE word 0 that Saley installs at cold start in hub p for destination q: the row-first path, then the
column-first path where it differs, both with DMASK 0x0001 (R305); word 1 is 0. -/
def coldRoute (p q : Nat) : Nat :=
  let alt (e : Nat) : Nat := e + 1 * 256 + 2 ^ 24
  if p = q then 0
  else if p / 4 = q / 4 ∨ p % 4 = q % 4 then alt q
  else alt (p / 4 * 4 + q % 4) + alt (q / 4 * 4 + p % 4) * 2 ^ 32

/-- Whether an offset is word 0 of a PART_ROUTE entry, and of which hub and destination. -/
def partRouteAt (off : Nat) : Option (Nat × Nat) :=
  match blockOf off with
  | (.part p, o) => if 0x20100 ≤ o ∧ o < 0x20200 ∧ o % 16 = 0 then some (p, (o - 0x20100) / 16) else none
  | _ => none

/-- What a register holds after reset (R499). -/
def regReset (sm : Bool) (off : Nat) : Word :=
  if off = rPwrLimit then
    if sm then BitVec.ofNat 64 (210 + 5 * 65536 + 240 * 2 ^ 32 + 270 * 2 ^ 48)
    else BitVec.ofNat 64 (420 + 5 * 65536 + 480 * 2 ^ 32 + 540 * 2 ^ 48)
  else if (partRouteAt off).isSome then
    (partRouteAt off).elim 0 (fun r => if sm && 8 ≤ r.2 then 0 else BitVec.ofNat 64 (coldRoute r.1 r.2))
  else match regDesc off with
    | some d => BitVec.ofNat 64 d.reset
    | none => 0

/-- What a register holds. -/
def reg (s : State) (off : Nat) : Word := (mfind s.bar0 off).getD (regReset (small s) off)

/-- A register set by hardware. -/
def setReg (s : State) (off : Nat) (v : Word) : State := { s with bar0 := mput off v s.bar0 }

/-- Bits [hi:lo] of a register. -/
def rfld (s : State) (off hi lo : Nat) : Nat := fld (reg s off) hi lo

/-- One bit of a register. -/
def rbit (s : State) (off i : Nat) : Bool := (reg s off).getLsbD i

/-- Bits [hi:lo] of a register set by hardware. -/
def setRfld (s : State) (off hi lo x : Nat) : State := setReg s off (setFld (reg s off) hi lo x)

/-- One bit of a register set by hardware. -/
def setRbit (s : State) (off i : Nat) (b : Bool) : State := setReg s off (setBit (reg s off) i b)

/-- A register's new value when the bits of `en` are written with `v` (R13, R496). -/
def writeBits (d : RegDesc) (old v en : Word) : Word :=
  let rw := BitVec.ofNat 64 d.rw &&& en
  let c := BitVec.ofNat 64 d.w1c &&& en &&& v
  let w1s := BitVec.ofNat 64 d.w1s &&& en &&& v
  ((old &&& ~~~ rw) ||| (v &&& rw)) &&& ~~~ c ||| w1s

/-- The register file without the registers of an offset range: they hold their reset values again. -/
def clearRegs (s : State) (lo hi : Nat) : State :=
  { s with bar0 := s.bar0.filter (fun c => !(lo ≤ c.1 && c.1 < hi)) }

/-- The package number (R216, R504). -/
def pkgNum (s : State) : Nat := rfld s rPkgNum 15 0

/-- Populated partitions (R2, R17). -/
def nParts (s : State) : Nat := if small s then 8 else 16

/-- Populated optical dies (R17). -/
def optPresent (s : State) (o : Nat) : Bool :=
  if small s then o == 0 || o == 1 || o == 2 || o == 7 else o < 8

/-- Partition p is in service: populated, with PART_READY set and not held out (R463). -/
def partReady (s : State) (p : Nat) : Bool := p < nParts s && rbit s rDevStatus (16 + p)

/-- State Engines are present (R2, R6). -/
def hasSe (s : State) : Bool := s.fuses.variant != .lcr1600N

/-- The domain of a tenant (R251) and of a partition (R253). -/
def tenDomain (s : State) (t : Nat) : Nat := rfld s (rTenCfg t) 7 4

def partDomain (s : State) (p : Nat) : Nat := rfld s (rPartCfg p) 3 0

/-- The stepping of compute die d: its fuse, 1 where none is listed (R27, log entry 3). -/
def dieStep (s : State) (d : Nat) : Nat := mget 1 s.fuses.steps d

/-- The compute die's capability record shows W4A8 (R8, R30: FORMATS bit 22). -/
def dieW4a8 (s : State) (d : Nat) : Bool := rbit s (rDieCap d 1) 22

/-- The compute die's capability record shows matrix decoding of MD4 and MD8 (R30: FEATURES bit 32). -/
def dieMedlar (s : State) (d : Nat) : Bool := rbit s (rDieCap d 1) 32

end Sys2Proof.Machine
end

