-- ==== Sys2Proof/WellFormed.lean ====
section
/-! DEFINITION. Commands whose operands name units that a package can have (R2, R16 to R18, R85, R250, R254, R306, R358, R387, R492). A meaning checks what its
own variant and state add, and refuses by name what names nothing. -/
namespace Sys2Proof

/-- A thread of the package: 64 compute dies, 40 logical clusters, 120 logical cores, 16 threads. -/
def threadWf (t : ThreadRef) : Bool := t.die < 64 && t.cl < 40 && t.core < 120 && t.th < 16

/-- A logical core. -/
def coreWf (c : CoreRef) : Bool := c.die < 64 && c.cl < 40 && c.core < 120

/-- A logical cluster. -/
def clusterWf (c : ClusterRef) : Bool := c.die < 64 && c.cl < 40

/-- A fabric packet: issuing partition, 16-bit job tag, 4-bit domain. -/
def hubReqWf (r : HubReq) : Bool := r.part < 16 && r.tag < 65536 && r.domain < 16 && r.port < 256

/-- A doorbell page: a tenant's ring, or a context of a hub. -/
def doorbellWf : Doorbell → Bool
  | .bar t r off _ => t < 512 && r < 512 && off < 4096
  | .window p ctx off _ _ _ => p < 16 && ctx < 32768 && off < 4096

/-- The fields of DBG_CMD fit their widths. -/
def dbgWf (c : DbgCmd) : Bool := c.pkg < 65536 && c.part < 16 && c.die < 4 && c.cl < 64 && c.core < 128 && c.th < 16

/-- The source of a State Engine request. -/
def seSourceWf : SeSource → Bool
  | .thread t _ => threadWf t
  | .batch p _ _ => p < 16

/-- A stop of a ring of a compute die. -/
def brAtWf (a : BrAt) : Bool := a.die < 64 && a.ring < 4 && a.stop < 16

/-- A packet's fields fit its header (R296, R341). -/
def routeWf (p : Nat) (k : RoutePacket) : Bool :=
  p < 16 && k.domain < 16 && k.srcPort < 256 && k.cls < 3 && k.hops ≤ 4 && k.dlen ≤ 4048 && k.passed < 16 && k.typ < 16
    && k.jobTag < 65536 && k.txid < 4096 && k.srcPkg < 65536 && k.srcPart < 16

/-- A stop that is no bridge, and a packet whose fields fit its header and whose destination is a unit's stop (R284, R285). -/
def brTokenWf (a : BrAt) : Option BrPacket → Bool
  | none => brAtWf a
  | some k =>
    brAtWf a && a.stop != 11 && a.stop != 12 && k.cls < 4 && k.ty < 16 && k.units ≤ 8 && k.epoch < 4 && k.tag < 65536 && k.domain < 16
      && k.txid < 4096 &&
    (match k.dst with
     | .cluster l => l < 40
     | .unit r t => r < 4 && 13 ≤ t && t < 16)

/-- A command whose operands lie in their ranges. -/
def Instr.wf : Instr → Bool
  | .coldStartReference _ => true
  | .capabilityRecord _ _ => true
  | .partitionReady p => decide (p < 16)
  | .pcieConfigRequest port _ _ => decide (port < 2)
  | .pcieEarlyBarAccess port _ => decide (port < 2)
  | .ucieModuleRetrain _ _ _ _ => true
  | .partUnreachable p _ tenant _ => decide (p < 16) && decide (tenant < 512)
  | .refclkLoss _ => true
  | .refclkSwitchover => true
  | .refclkGood _ => true
  | .refclkPreferWrite tenant _ => decide (tenant < 512)
  | .tsSync _ => true
  | .tbLockLoss => true
  | .operatingPointChange c _ => clusterWf c
  | .oscillatorCheck c _ => clusterWf c
  | .mclaim t _ => threadWf t
  | .mrel t _ => threadWf t
  | .mcfg t _ => threadWf t
  | .mstream t _ => threadWf t
  | .mrun t _ => threadWf t
  | .mswap t _ => threadWf t
  | .mzero t _ => threadWf t
  | .mstat t _ => threadWf t
  | .alu t _ => threadWf t
  | .alui t _ => threadWf t
  | .cmp t _ => threadWf t
  | .cmpi t _ => threadWf t
  | .movi t _ => threadWf t
  | .movhi t _ => threadWf t
  | .sel t _ => threadWf t
  | .plog t _ => threadWf t
  | .rdsr t _ _ => threadWf t
  | .br t _ => threadWf t
  | .jal t _ => threadWf t
  | .jr t _ => threadWf t
  | .endThread t _ => threadWf t
  | .yield t _ => threadWf t
  | .yieldExpiry t => threadWf t
  | .ldl t _ => threadWf t
  | .stl t _ => threadWf t
  | .ldr t _ => threadWf t
  | .str t _ => threadWf t
  | .ldg t _ _ => threadWf t
  | .stg t _ _ => threadWf t
  | .atom t _ => threadWf t
  | .storeFault t _ _ => threadWf t
  | .fenceRel t _ => threadWf t
  | .fenceAcq t _ => threadWf t
  | .fenceFull t _ => threadWf t
  | .waitl t _ => threadWf t
  | .waitc t _ => threadWf t
  | .waitInstrTimeout t => threadWf t
  | .barc t _ => threadWf t
  | .barl t _ => threadWf t
  | .lcset t _ => threadWf t
  | .lcadd t _ => threadWf t
  | .pref t _ => threadWf t
  | .spset t _ => threadWf t
  | .spstop t _ => threadWf t
  | .cpreq t _ => threadWf t
  | .nop t _ => threadWf t
  | .trap t _ => threadWf t
  | .nwread t _ => threadWf t
  | .phint t _ => threadWf t
  | .vint t _ => threadWf t
  | .vlog t _ => threadWf t
  | .vshf t _ => threadWf t
  | .vfp t _ => threadWf t
  | .vfma t _ => threadWf t
  | .vcmp t _ => threadWf t
  | .vsel t _ => threadWf t
  | .vmov t _ => threadWf t
  | .vext t _ => threadWf t
  | .vins t _ => threadWf t
  | .vapx t _ => threadWf t
  | .vf2i t _ => threadWf t
  | .vi2f t _ => threadWf t
  | .vpack t _ => threadWf t
  | .vunpk t _ => threadWf t
  | .vmde t _ => threadWf t
  | .vmdd t _ => threadWf t
  | .vscale t _ => threadWf t
  | .vred t _ => threadWf t
  | .idlePublication p _ => decide (p < 16)
  | .seOpen q => seSourceWf q
  | .seClose q => seSourceWf q
  | .seAttend q => seSourceWf q
  | .seSelect q => seSourceWf q
  | .seAttendSel q => seSourceWf q
  | .seAppend q => seSourceWf q
  | .seMoveKeepRange q => seSourceWf q
  | .seMoveKeepList q => seSourceWf q
  | .seMoveOut q => seSourceWf q
  | .seMoveIn q => seSourceWf q
  | .seStatsContext q => seSourceWf q
  | .seStatsStack q => seSourceWf q
  | .hubLineRead r _ => hubReqWf r
  | .hubLineWrite r _ _ => hubReqWf r
  | .hubAtomic r _ _ _ => hubReqWf r
  | .accessDeniedWindowClose p _ => decide (p < 16)
  | .tlbInv tenant p _ => decide (tenant < 512) && decide (p < 16)
  | .tlbInvDone p => decide (p < 16)
  | .hbmSegModeWrite tenant p _ _ => decide (tenant < 512) && decide (p < 16)
  | .hbmSegModeApply p _ => decide (p < 16)
  | .rdcInv tenant p _ => decide (tenant < 512) && decide (p < 16)
  | .copy p _ => decide (p < 16)
  | .copyUnitAck _ _ _ => true
  | .launchStart c => coreWf c
  | .kernelComplete p _ => decide (p < 16)
  | .kernelTimeout p _ => decide (p < 16)
  | .coreFault c => coreWf c
  | .clusterCutout c _ => clusterWf c
  | .brambleToken a k => brTokenWf a k
  | .brambleArrival a _ _ => brAtWf a
  | .hubRoute p k => routeWf p k
  | .routeFailover p _ => decide (p < 16)
  | .linkTimeout p _ => decide (p < 16)
  | .descriptorFetch p ctx _ => decide (p < 16) && decide (ctx < 32768)
  | .dispatch p => decide (p < 16)
  | .energyGateStarvation p ctx => decide (p < 16) && decide (ctx < 32768)
  | .sqDb d _ => doorbellWf d
  | .cqDb d _ => doorbellWf d
  | .sqAdd d _ => doorbellWf d
  | .ringCreate tenant p _ => decide (tenant < 512) && decide (p < 16)
  | .ringDestroy tenant p _ => decide (tenant < 512) && decide (p < 16)
  | .ringReset tenant p _ => decide (tenant < 512) && decide (p < 16)
  | .ringQuery tenant p _ => decide (tenant < 512) && decide (p < 16)
  | .ringClosingDone p ctx => decide (p < 16) && decide (ctx < 32768)
  | .kernel p _ => decide (p < 16)
  | .seCmd p _ => decide (p < 16)
  | .waitCounter p _ => decide (p < 16)
  | .waitWord p _ => decide (p < 16)
  | .waitWordPoll p _ => decide (p < 16)
  | .waitTimeout p _ => decide (p < 16)
  | .counterAdd p _ => decide (p < 16)
  | .counterSet p _ => decide (p < 16)
  | .write64 p _ => decide (p < 16)
  | .signalSqAdd p _ => decide (p < 16)
  | .fenceDescRel p _ => decide (p < 16)
  | .fenceDescAcq p _ => decide (p < 16)
  | .fenceDescFull p _ => decide (p < 16)
  | .stepBegin p _ => decide (p < 16)
  | .stepCommit p _ => decide (p < 16)
  | .stepAbort p _ => decide (p < 16)
  | .stepReplay p _ => decide (p < 16)
  | .stepReexecution p _ => decide (p < 16)
  | .hint p _ => decide (p < 16)
  | .hintRampStart p _ => decide (p < 16)
  | .hintEnd p _ => decide (p < 16)
  | .fieldTest p _ => decide (p < 16)
  | .fieldTestDrainTimeout => true
  | .fieldTestResult _ => true
  | .nopDescriptor p _ => decide (p < 16)
  | .allReduce p _ => decide (p < 16)
  | .reduceScatter p _ => decide (p < 16)
  | .allGather p _ => decide (p < 16)
  | .broadcast p _ => decide (p < 16)
  | .allToAll p _ => decide (p < 16)
  | .reduce p _ => decide (p < 16)
  | .barrier p _ => decide (p < 16)
  | .collectiveJoin p _ => decide (p < 16)
  | .collectivePacket p _ => decide (p < 16)
  | .collectiveAbort p _ => decide (p < 16)
  | .collectiveTimeout p _ => decide (p < 16)
  | .phaseBoundary p _ => decide (p < 16)
  | .groupReady tenant p _ => decide (tenant < 512) && decide (p < 16)
  | .groupDisarm tenant p _ => decide (tenant < 512) && decide (p < 16)
  | .currantBarrier t _ => threadWf t
  | .smallAllReduce t _ => threadWf t
  | .smallBcast t _ => threadWf t
  | .up f => decide (f.eng < 64)
  | .down f => decide (f.eng < 64)
  | .treeAbort f => decide (f.eng < 64)
  | .currantAck eng _ => decide (eng < 64)
  | .currantResend eng => decide (eng < 64)
  | .currantTreeTimeout tree _ => decide (tree < 256)
  | .curTreeValidSet tenant tree _ => decide (tenant < 512) && decide (tree < 256)
  | .curTreeValidClear tenant tree _ => decide (tenant < 512) && decide (tree < 256)
  | .steeringRequest _ => true
  | .steeringPoint _ => true
  | .relockDone eng _ => decide (eng < 64)
  | .calibrationPeriod eng _ => decide (eng < 64)
  | .swapOut eng _ => decide (eng < 64)
  | .retuneEnd eng _ _ => decide (eng < 64)
  | .swapBack eng _ => decide (eng < 64)
  | .sparelessOut eng _ => decide (eng < 64)
  | .sparelessReturn eng _ _ => decide (eng < 64)
  | .laserBiasControl _ _ wl => decide (wl < 20)
  | .laserFailure _ _ wl => decide (wl < 20)
  | .omaMeasurement eng wl _ => decide (eng < 64) && decide (wl < 20)
  | .rxOmaPublish eng => decide (eng < 64)
  | .portSpareTimeout eng => decide (eng < 64)
  | .dataFlit eng _ => decide (eng < 64)
  | .idleFlit eng _ => decide (eng < 64)
  | .replayTimeout eng => decide (eng < 64)
  | .nakRepeat eng => decide (eng < 64)
  | .credit eng _ => decide (eng < 64)
  | .rxPower eng _ => decide (eng < 64)
  | .steerAnn eng _ _ => decide (eng < 64)
  | .laneChg eng _ => decide (eng < 64)
  | .laneChangeBoundary eng _ => decide (eng < 64)
  | .roleMap eng _ _ => decide (eng < 64)
  | .calReq eng wl => decide (eng < 64) && decide (wl < 20)
  | .linkId eng _ => decide (eng < 64)
  | .controlMessageSend eng _ => decide (eng < 64)
  | .alignmentMarker eng wl _ _ => decide (eng < 64) && decide (wl < 20)
  | .wavelengthLoss eng wl => decide (eng < 64) && decide (wl < 20)
  | .codewordLockRegained eng => decide (eng < 64)
  | .linkTraining eng _ _ => decide (eng < 64)
  | .linkDown eng => decide (eng < 64)
  | .retrain eng => decide (eng < 64)
  | .gpData port _ => decide (port < 8)
  | .gpAck port _ => decide (port < 8)
  | .gpNak port _ => decide (port < 8)
  | .gpSync port _ => decide (port < 8)
  | .gpRto port conn => decide (port < 8) && decide (conn < 4096)
  | .pfcFrame port _ _ => decide (port < 8)
  | .gpConnValidSet tenant port conn _ => decide (tenant < 512) && decide (port < 8) && decide (conn < 4096)
  | .powerEstimate _ => true
  | .allowance => true
  | .pauseLevelUpdate p => decide (p < 16)
  | .kUpdate _ => true
  | .pmbusLost => true
  | .pmbAlert _ _ => true
  | .opAutoMove c => clusterWf c
  | .vin48Sample _ => true
  | .diodeReading _ _ => true
  | .thermistorReading _ _ => true
  | .throttleStep => true
  | .unitRestart _ => true
  | .coolFailAssert _ => true
  | .coolantDiscrepancy => true
  | .coolFailDeassert _ => true
  | .coolantReturn => true
  | .hubReadingsTimeout p => decide (p < 16)
  | .powerFailRecognition _ _ => true
  | .pf1End _ _ => true
  | .coldRstNAssert => true
  | .rstCmdPackage tenant _ => decide (tenant < 512)
  | .rstCmdPartition tenant _ => decide (tenant < 512)
  | .partitionResetDone p _ => decide (p < 16)
  | .perstNAssert port => decide (port < 2)
  | .perstNDeassert port => decide (port < 2)
  | .flr tenant => decide (tenant < 512)
  | .flrDone tenant => decide (tenant < 512)
  | .lockTake tenant _ => decide (tenant < 512)
  | .lockRelease tenant _ => decide (tenant < 512)
  | .lockRenew tenant _ => decide (tenant < 512)
  | .leaseExpiry => true
  | .registerWrite tenant _ _ _ => decide (tenant < 512)
  | .pkgNumWrite tenant _ => decide (tenant < 512)
  | .fwStage tenant _ => decide (tenant < 512)
  | .fwStageDone _ => true
  | .fwActivate tenant _ => decide (tenant < 512)
  | .fwCommit tenant _ => decide (tenant < 512)
  | .fwRevert tenant _ => decide (tenant < 512)
  | .saleyReattach => true
  | .mgmtWatchdog => true
  | .trialTimeout => true
  | .calRecordWrite => true
  | .eventArrival _ _ _ => true
  | .eventRecordWrite _ => true
  | .evtCtlWrite tenant _ => decide (tenant < 512)
  | .evtHeadWrite tenant _ => decide (tenant < 512)
  | .mctpMessage _ => true
  | .tapReset => true
  | .extest _ => true
  | .idcode => true
  | .samplePreload _ => true
  | .bypass => true
  | .dbgHalt c => dbgWf c
  | .dbgResume c => dbgWf c
  | .dbgStep c => dbgWf c
  | .dbgRegRead c => dbgWf c
  | .dbgRegWrite c => dbgWf c
  | .dbgLsRead c => dbgWf c
  | .dbgLsWrite c => dbgWf c
  | .dbgAddr c => dbgWf c
  | .dbgMemRead c => dbgWf c
  | .dbgMemWrite c => dbgWf c
  | .dbgBpSet c => dbgWf c
  | .dbgBpClr c => dbgWf c
  | .dbgWpSet c => dbgWf c
  | .dbgWpClr c => dbgWf c
  | .dbgStatus c => dbgWf c
  | .dbgCtlWrite tenant _ => decide (tenant < 512)
  | .epochPrepare tenant _ => decide (tenant < 512)
  | .epochAck _ => true
  | .epochPrepareTimeout => true
  | .epochCommit tenant _ => decide (tenant < 512)
  | .epochBoundary => true
  | .epochDrainDone => true
  | .hbmChannelTrainingLoss p _ _ _ => decide (p < 16)
  | .gpLinkDown port => decide (port < 8)
  | .gpLinkUp port => decide (port < 8)
  | .pcieLinkDown port => decide (port < 2)
  | .atsInvalidation port _ _ => decide (port < 2)
  | .notifyClear tenant _ _ => decide (tenant < 512)
  | .opticalDieReady _ => true
  | .stateEngineRequestDone _ _ => true
  | .matrixQueueRetire c => coreWf c
  | .supplyGood => true
  | .supplyLostBeforeReference => true

end Sys2Proof
end

