-- ==== Sys2Proof/Machine/Ops.lean ====
section
/-! DEFINITION. Named operations over the state: its parts, events and interrupt leaves, free values, the outcome of a command. -/
namespace Sys2Proof.Machine

/-- What a meaning answers. -/
abbrev Out := Host.Outcome State Fault Refusal

/-! ## Parts of the state -/

/-- An element of a vector, or a default. -/
def vget {β : Type} {n : Nat} (d : β) (v : Vector β n) (i : Nat) : β := (v[i]?).getD d

/-- A vector with one element set. -/
def vset {β : Type} {n : Nat} (v : Vector β n) (i : Nat) (x : β) : Vector β n := v.setIfInBounds i x

/-- Keys of clusters and cores by logical placement. -/
def clKey (die cl : Nat) : Nat := die * 40 + cl

def coreKey (die cl core : Nat) : Nat := (die * 40 + cl) * 120 + core

def keyDie (core : Nat) : Nat := core / 4800

def keyCl (core : Nat) : Nat := core / 120 % 40

def keyCore (core : Nat) : Nat := core % 120

/-- The cluster key of a core key. -/
def clOf (core : Nat) : Nat := core / 120

/-- The partition of a core key. -/
def partOf (core : Nat) : Nat := core / 19200

def getCore (s : State) (k : Nat) : CoreSt := mget {} s.cores k

def setCore (s : State) (k : Nat) (c : CoreSt) : State := { s with cores := mput k c s.cores }

def getCl (s : State) (k : Nat) : ClusterSt := mget {} s.clusters k

def setCl (s : State) (k : Nat) (c : ClusterSt) : State := { s with clusters := mput k c s.clusters }

def getHub (s : State) (p : Nat) : HubSt := mget {} s.hubs p

def setHub (s : State) (p : Nat) (h : HubSt) : State := { s with hubs := mput p h s.hubs }

/-- A stack by 4p + n. -/
def getStack (s : State) (k : Nat) : StackSt := mget {} s.seStacks k

def setStack (s : State) (k : Nat) (c : StackSt) : State := { s with seStacks := mput k c s.seStacks }

def getThread (c : CoreSt) (t : Nat) : ThreadSt := vget {} c.threads t

def setThread (c : CoreSt) (t : Nat) (x : ThreadSt) : CoreSt := { c with threads := vset c.threads t x }

/-- The thread a reference names. -/
def threadOf (s : State) (t : ThreadRef) : ThreadSt := getThread (getCore s (coreKey t.die t.cl t.core)) t.th

/-- The state with one thread replaced. -/
def putThread (s : State) (t : ThreadRef) (x : ThreadSt) : State :=
  let k := coreKey t.die t.cl t.core
  setCore s k (setThread (getCore s k) t.th x)

/-- The core key of a thread. -/
def tKey (t : ThreadRef) : Nat := coreKey t.die t.cl t.core

/-- A reference to thread th of a core key. -/
def refOf (k th : Nat) : ThreadRef := ⟨keyDie k, keyCl k, keyCore k, th⟩

/-! ## Registers of a thread (R85) -/

/-- A scalar register; s0 reads 0. -/
def rd (x : ThreadSt) (r : Nat) : Word := if r = 0 then 0 else vget 0 x.regs r

/-- A scalar register written; s0 discards writes. -/
def wr (x : ThreadSt) (r : Nat) (v : Word) : ThreadSt := if r = 0 then x else { x with regs := vset x.regs r v }

/-- A predicate; p0 reads 1. -/
def rdP (x : ThreadSt) (p : Nat) : Bool := p == 0 || x.preds.getLsbD p

/-- A predicate written; p0 discards writes. -/
def wrP (x : ThreadSt) (p : Nat) (v : Bool) : ThreadSt := if p = 0 then x else { x with preds := setBit x.preds p v }

/-! ## Free values (log entry 1) -/

/-- A free 64-bit value, and the state with its counter advanced. -/
def freshWord (s : State) : Word × State := (Config.freeWord s.free, { s with free := s.free + 1 })

/-- The dies run: the package is up, or a power failure is in progress (R470). -/
def running (s : State) : Bool := s.stage == .up || s.stage == .powerFail

/-- Debug is enabled: by DBG_CTL.EN or by the DBG_EN strap (R491). -/
def dbgOn (s : State) : Bool := (running s || s.stage == .halted) && (rbit s rDbgCtl 0 || rbit s rStrap 1)

/-- EXTEST is loaded and valid: Saley has lost the management and PCIe sideband pins (R490; what that hides: log entry 31). -/
def extestOn (s : State) : Bool := dbgOn s && s.dbg.ir == 0

/-! ## Pauses (R406, R407, R420) -/

/-- Gt of a cluster: the thermal pauses of its die, its die's stacks, its hub and the coolant outlet, capped at 16. -/
def gtOf (s : State) (cl : Nat) : Nat :=
  let d := cl / 40
  let c (u : Nat) : Nat := mget 0 s.thm.cont u
  min 16 (c d + c (300 + d) + c (64 + d / 4) + c 160)

/-- max(Gp, Gt): sixteenths of a cluster's cycles in which no matrix array accepts a step and no vector instruction issues. -/
def pauseOf (s : State) (cl : Nat) : Nat := max (getCl s cl).gp (gtOf s cl)

/-- A cluster's Gp set, with how long it has stood high or at 0 (R408). -/
def setGp (s : State) (cl g : Nat) : State :=
  let c := getCl s cl
  setCl s cl { c with gp := g, gpHigh := if g ≥ 6 then some (c.gpHigh.getD s.timebase) else none,
                      gpZero := if g = 0 then some (c.gpZero.getD s.timebase) else none }

/-- Gp raised to 16 on every cluster at once (R423, R470). -/
def gateAll (s : State) : State :=
  { s with clusters := (List.range (160 * nParts s)).map (fun k =>
      let c := getCl s k
      (k, { c with gp := 16, gpHigh := some (c.gpHigh.getD s.timebase), gpZero := none })) }

/-! ## Interrupt leaves (R481, R483) -/

/-- A level-1 leaf set: bit `b` of source `src`. -/
def leaf (s : State) (src b : Nat) : State := setRbit s (rIntL1 src) b true

/-! ## Events (R485 to R488) -/

/-- Numbers of SOURCE (R485). -/
def srcHub (p : Nat) : Nat := 0x1000 + p * 256
def srcDie (d cl : Nat) : Nat := 0x2000 + d / 4 * 256 + d % 4 * 64 + cl
def srcStack (k : Nat) : Nat := 0x3000 + k / 4 * 256 + k % 4 * 64
def srcOpt (o e : Nat) : Nat := 0x4000 + o * 256 + e
def srcGp (g : Nat) : Nat := 0x5000 + g
def srcPcie (port fn : Nat) : Nat := 0x6000 + port * 256 + fn
def srcLink (p egr : Nat) : Nat := 0x7000 + p * 256 + egr

/-- Hubs that Saley's links reach: 0 to 3, link and hub in service (R23). -/
def saleyHub (s : State) (i : Nat) : Bool :=
  i < 4 && (mfind s.partOut i).isNone && rbit s rDevStatus (16 + i) && rbit s (rEgr i) 24

/-- Saley can reach the partitions (R23). -/
def saleyReaches (s : State) : Bool := (List.range 4).any (saleyHub s)

/-- The hub that keeps an event while Saley cannot take it: the source's own, else hub 0 (R488, log entry 21). -/
def eventHub (e : Event) : Nat :=
  let c := e.source / 4096
  if c = 1 ∨ c = 2 ∨ c = 3 ∨ c = 7 then e.source / 256 % 16 else 0

/-- Saley cannot take an event now: it restarts, or the source's hub is cut off (R23, R452, R488). -/
def saleyAway (s : State) (e : Event) : Bool :=
  s.restarting || (rbit s rDevStatus 0 && !(saleyReaches s) && (e.source / 4096 == 1 || e.source / 4096 == 2 || e.source / 4096 == 3
    || e.source / 4096 == 7))

/-- A drop count one higher, saturating at 65,535. -/
def countDrop (m : AMap Nat) (cause : Nat) : AMap Nat :=
  let n := mget 0 m cause
  mput cause (if n < 65535 then n + 1 else n) m

/-- An event kept by a hub, which holds 256 (R488). -/
def holdEv (s : State) (e : Event) : State :=
  let p := eventHub e
  let h := getHub s p
  if h.events.length < 256 then setHub s p { h with events := h.events ++ [e] }
  else leaf (setHub { s with evLastDrop := max s.evLastDrop e.time } p { h with eventDrops := countDrop h.eventDrops e.cause }) 27 1

/-- An event enters Saley's FIFO of 1,024, or is counted as dropped for its cause, up to 65,535 (R488). -/
def fifoEv (s : State) (e : Event) : State :=
  if s.evFifo.length < 1024 then { s with evFifo := s.evFifo ++ [e] }
  else leaf { s with evDrops := countDrop s.evDrops e.cause, evLastDrop := max s.evLastDrop e.time } 27 1

/-- An event raised: to Saley, or to a hub while Saley is away. -/
def emitEv (s : State) (e : Event) : State := if saleyAway s e then holdEv s e else fifoEv s e

/-- What a hub kept goes to Saley in order, and its counts join the next OVERFLOW series (R488). -/
def releaseEv (s : State) (p : Nat) : State :=
  let h := getHub s p
  let s := setHub s p { h with events := [], eventDrops := [] }
  let s := { s with evDrops := h.eventDrops.foldl (fun m c => mput c.1 (min 65535 (mget 0 m c.1 + c.2)) m) s.evDrops }
  h.events.foldl fifoEv s

/-- An event of the present moment. -/
def emit (s : State) (cause src : Nat) (data : List (Nat × Nat)) : State :=
  emitEv s { cause := cause, source := src, time := s.timebase, data := data }

/-- WRITE_REFUSED (0x0008): offset, writer tenant (R486, R496, R497). -/
def writeRefused (s : State) (off tenant : Nat) : State := emit s 0x0008 0 [(8, off), (8, tenant)]

/-! ## Statuses (R276) -/

/-- A status code. -/
def stCode : Status → Nat
  | .ok => 0x00
  | .partialDone => 0x01
  | .faultMem => 0x10
  | .linkLost => 0x11
  | .timeout => 0x12
  | .access => 0x13
  | .noResource => 0x14
  | .replayReq => 0x15
  | .aborted => 0x16
  | .badDesc => 0x17
  | .unsupported => 0x18
  | .peerLost => 0x19

/-- A trap cause (R96). -/
def trapCode : Trap → Nat
  | .illegal => 1
  | .matrixClaim => 2
  | .matrixFormat => 3
  | .vregQuota => 4
  | .misaligned => 5
  | .memAccess => 6
  | .memFault => 7
  | .unsupported => 8
  | .software => 9

/-- The status a trap gives its KERNEL (R96). -/
def trapStatus : Trap → Status
  | .memAccess => .access
  | .memFault => .faultMem
  | .unsupported => .unsupported
  | _ => .aborted

/-- The trap of a thread's access that failed (R218). -/
def accessTrap : Status → Trap
  | .access => .memAccess
  | .unsupported => .unsupported
  | _ => .memFault

/-- The outcome that goes on. -/
def nextS (s : State) : Out := .next s

/-- An operand that names nothing that can exist. -/
def illFormed : Out := .refused .illFormed

/-- Goes on where a test holds; else the command is not well formed. -/
def guardWf (b : Bool) (o : Out) : Out := if b then o else illFormed

end Sys2Proof.Machine
end

