-- ==== Sys2Proof/Machine/Bells.lean ====
section
/-! DEFINITION. Ring contexts and what a write to a doorbell page does to one (R254, R255, R258, R259, R261, R262). -/
namespace Sys2Proof.Machine

def ringTenant (r : Ring) : Nat := r.qid / 512
def ringNo (r : Ring) : Nat := r.qid % 512
def ringSize (r : Ring) : Nat := 2 ^ r.log2sz

def getRing (s : State) (p ctx : Nat) : Ring := mget {} (getHub s p).rings ctx

def setRing (s : State) (p ctx : Nat) (r : Ring) : State :=
  let h := getHub s p
  setHub s p { h with rings := mput ctx r h.rings }

/-- The context of a queue id at a hub. -/
def ringAt (s : State) (p qid : Nat) : Option (Nat × Ring) :=
  (getHub s p).rings.find? (fun c => c.2.state != .free && c.2.qid == qid)

/-- Bit r of a tenant leaf kind set: 0 NOTIFY, 1 RING_ERR, 2 DB_ERR (R484). -/
def tenLeaf (s : State) (t k r : Nat) : State := setRbit s (rTenLeaf t k (r / 64)) (r % 64) true

/-- A ring enters ERROR: its leaf and its event; a closing ring stays closing (R261). Reasons: 0 doorbell, 1 fetch, 2 write. -/
def ringError (s : State) (p ctx reason : Nat) : State :=
  let r := getRing s p ctx
  if r.state != .active then s
  else
    let s := setRing s p ctx { r with state := .error }
    let s := tenLeaf s (ringTenant r) 1 (ringNo r)
    emit s 0x0033 (srcHub p) [(4, r.qid), (1, Config.code 0x33 reason % 256)]

/-! ## Doorbells (R258, R259, R262) -/

/-- A new SQ_TAIL is acceptable (R259). -/
def tailOk (r : Ring) (new : Word32) : Bool :=
  (new - r.sqTail).toNat ≤ ringSize r && (new - r.sqHead).toNat ≤ ringSize r

/-- A new CQ_HEAD is acceptable (R259). -/
def cqHeadOk (r : Ring) (new : Word32) : Bool :=
  (new - r.cqHead).toNat ≤ ringSize r && (r.cqTail - new).toNat ≤ ringSize r

/-- SQ_DB: a value not acceptable puts the ring in ERROR; in any state but ACTIVE the write is discarded (R257, R259, R261). -/
def bellTail (s : State) (p ctx : Nat) (new : Word32) : State :=
  let r := getRing s p ctx
  if r.state != .active then s
  else if tailOk r new then setRing s p ctx { r with sqTail := new }
  else ringError s p ctx 0

/-- CQ_DB: checked and accepted in ACTIVE and in ERROR; whether it was accepted (R259, R261). -/
def bellHead (s : State) (p ctx : Nat) (new : Word32) : Bool × State :=
  let r := getRing s p ctx
  if r.state != .active && r.state != .error then (false, s)
  else if cqHeadOk r new then (true, setRing s p ctx { r with cqHead := new })
  else (false, ringError s p ctx 0)

/-- A write of `size` bytes to a doorbell page that has passed its gate (R258); whether it accepted a new CQ_HEAD. -/
def bellWrite (s : State) (p ctx off size : Nat) (v : Word) : Bool × State :=
  let r := getRing s p ctx
  let bad := (false, tenLeaf s (ringTenant r) 2 (ringNo r))
  if size ≠ 8 then bad
  else if off = 0 then (if fld v 63 32 = 0 then (false, bellTail s p ctx (v.setWidth 32)) else bad)
  else if off = 8 then (if fld v 63 32 = 0 then bellHead s p ctx (v.setWidth 32) else bad)
  else if off = 0x10 then
    (if fld v 63 17 = 0 then (false, bellTail s p ctx (r.sqTail + v.setWidth 32)) else bad)
  else bad

/-- What a read of a doorbell page gives (R258). -/
def bellLoad (s : State) (p ctx off : Nat) : Word :=
  let r := getRing s p ctx
  if off = 0 then BitVec.ofNat 64 (r.sqHead.toNat + 2 ^ 32 * r.sqTail.toNat)
  else if off = 8 then BitVec.ofNat 64 (r.cqTail.toNat + 2 ^ 32 * r.cqHead.toNat)
  else 0

/-- The gate of the hub-local window (R262). -/
def windowOk (s : State) (p ctx tag domain : Nat) : Bool :=
  let r := getRing s p ctx
  r.state == .active && r.devDb && domain == tenDomain s (ringTenant r) && tag == r.jobTag

/-- The first byte and the number of the bytes a line's mask names, where they stand together; no bytes where they do not. -/
def maskSpan (mask : Nat) : Nat × Nat :=
  let l := (List.range 64).filter (nbit mask)
  match l.head?, l.getLast? with
  | some a, some b => if b + 1 - a = l.length then (a, l.length) else (a, 0)
  | _, _ => (0, 0)

end Sys2Proof.Machine
end

