-- ==== Sys2Proof/Machine/Float.lean ====
section
/-! DEFINITION. Exact numbers, one rounding, and the element formats (R55, R62 to R65, R110 to R115). -/
namespace Sys2Proof.Machine

/-- A number read from an element: NaN with the sign of its bits, an infinity, or exactly (-1)^s · m · 2^e. -/
inductive FVal where
  | nan (s : Bool)
  | inf (s : Bool)
  | fin (s : Bool) (m : Nat) (e : Int)
  deriving DecidableEq, Repr

/-- The four numeric conditions of R112 and R128. -/
structure Cond where
  nan : Bool := false
  inf : Bool := false
  sat : Bool := false
  ovf : Bool := false
  deriving DecidableEq, Repr

/-- Conditions raised by either of two. -/
def condOr (a b : Cond) : Cond := ⟨a.nan || b.nan, a.inf || b.inf, a.sat || b.sat, a.ovf || b.ovf⟩

/-- `m / 2^k` rounded to the nearest integer, ties to even. -/
def rneShift (m k : Nat) : Nat :=
  let q := m / 2 ^ k
  let r := m % 2 ^ k
  if 2 * r > 2 ^ k ∨ (2 * r = 2 ^ k ∧ q % 2 = 1) then q + 1 else q

/-- `m · 2^e` rounded to the nearest multiple of `2^u`, ties to even: the multiple's count. -/
def rneTo (m : Nat) (e u : Int) : Nat :=
  if u ≤ e then m * 2 ^ (e - u).toNat else rneShift m (u - e).toNat

/-- The power of two of the leading bit of `m · 2^e` (m not 0). -/
def topExp (m : Nat) (e : Int) : Int := (m.log2 : Int) + e

/-- `m · 2^e` rounded to `p` significant bits with the exponent range taken as unbounded, ties to even. -/
def roundPrec (p m : Nat) (e : Int) : Nat × Int :=
  let u := topExp m e - (p - 1 : Nat)
  (rneTo m e u, u)

/-- The comparison of `m · 2^e` with `n · 2^f`: true when the first is less. -/
def magLt (m : Nat) (e : Int) (n : Nat) (f : Int) : Bool :=
  let l := min e f
  m * 2 ^ (e - l).toNat < n * 2 ^ (f - l).toNat

/-- An exact number as an integer mantissa with a given lower exponent. -/
def asInt (s : Bool) (m : Nat) (e l : Int) : Int :=
  let v : Int := (m * 2 ^ (e - l).toNat : Nat)
  if s then -v else v

/-- The exact sum of two finite numbers; the sign of an exact zero is positive. -/
def addExact (s : Bool) (m : Nat) (e : Int) (t : Bool) (n : Nat) (f : Int) : Bool × Nat × Int :=
  let l := min e f
  let v := asInt s m e l + asInt t n f l
  (decide (v < 0), v.natAbs, l)

/-- The canonical NaN of R64 and R110. -/
def canonNan : Word32 := 0x7FC00000#32

/-- An FP32 infinity. -/
def inf32 (s : Bool) : Word32 := if s then 0xFF800000#32 else 0x7F800000#32

/-- An FP32 zero. -/
def zero32 (s : Bool) : Word32 := if s then 0x80000000#32 else 0#32

/-- The number an FP32 lane is read as: subnormals are read as zero of their sign (R110). -/
def dec32 (x : Word32) : FVal :=
  let s := x.getLsbD 31
  let e := fld x 30 23
  let m := fld x 22 0
  if e = 255 then (if m = 0 then .inf s else .nan s)
  else if e = 0 then .fin s 0 0
  else .fin s (2 ^ 23 + m) ((e : Int) - 150)

/-- The number an FP32 word is, subnormals with it (R68). -/
def raw32 (x : Word32) : FVal :=
  if fld x 30 23 = 0 then .fin (x.getLsbD 31) (fld x 22 0) (-149) else dec32 x

/-- FP32 bits of a finite number with at most 24 significant bits and a normal exponent, or of a zero. -/
def bits32 (s : Bool) (m : Nat) (e : Int) : Word32 :=
  if m = 0 then zero32 s
  else
    let t := topExp m e
    let frac := rneTo m e (t - 23) % 2 ^ 23
    BitVec.ofNat 32 (b2n s * 2 ^ 31 + (t + 127).toNat * 2 ^ 23 + frac)

/-- One rounding to FP32: to nearest even, below 2^-126 written as zero of its sign, beyond the largest finite as Inf with OVF and INF (R63, R110). -/
def round32 (s : Bool) (m : Nat) (e : Int) : Word32 × Cond :=
  if m = 0 then (zero32 s, {})
  else
    let r := roundPrec 24 m e
    let t := topExp r.1 r.2
    if t < -126 then (zero32 s, {})
    else if t > 127 then (inf32 s, { inf := true, ovf := true })
    else (bits32 s r.1 r.2, {})

/-- FP32 bits of a value that is already exact in FP32, or an infinity or NaN, with the conditions of R112. -/
def enc32 : FVal → Word32 × Cond
  | .nan _ => (canonNan, { nan := true })
  | .inf s => (inf32 s, { inf := true })
  | .fin s m e => round32 s m e

/-- FP32 addition (R110): an exact zero sum is +0 unless both addends are −0. -/
def fpAdd (x y : FVal) : Word32 × Cond :=
  match x, y with
  | .nan _, _ => (canonNan, { nan := true })
  | _, .nan _ => (canonNan, { nan := true })
  | .inf s, .inf t => if s = t then (inf32 s, { inf := true }) else (canonNan, { nan := true })
  | .inf s, .fin _ _ _ => (inf32 s, { inf := true })
  | .fin _ _ _, .inf t => (inf32 t, { inf := true })
  | .fin s m e, .fin t n f =>
    if m = 0 ∧ n = 0 then (zero32 (s && t), {})
    else
      let r := addExact s m e t n f
      if r.2.1 = 0 then (zero32 false, {}) else round32 r.1 r.2.1 r.2.2

/-- A value with its sign changed. -/
def fvNeg : FVal → FVal
  | .nan s => .nan s
  | .inf s => .inf (!s)
  | .fin s m e => .fin (!s) m e

/-- The exact product of two values (R62, R110). -/
def fvMul (x y : FVal) : FVal :=
  match x, y with
  | .nan _, _ => .nan false
  | _, .nan _ => .nan false
  | .inf s, .inf t => .inf (s != t)
  | .inf s, .fin t n _ => if n = 0 then .nan false else .inf (s != t)
  | .fin s m _, .inf t => if m = 0 then .nan false else .inf (s != t)
  | .fin s m e, .fin t n f => .fin (s != t) (m * n) (e + f)

/-- FP32 multiplication, rounded once (R110). -/
def fpMul (x y : FVal) : Word32 × Cond := enc32 (fvMul x y)

/-- A fused multiply-add a·b + c, rounded once (R110). -/
def fpFma (a b c : FVal) : Word32 × Cond := fpAdd (fvMul a b) c

/-- The order key of R111's MIN and MAX: −0 below +0, subnormals read as zero. -/
def fpLess (x y : FVal) (zeroSigns : Bool) : Bool :=
  match x, y with
  | .nan _, _ => false
  | _, .nan _ => false
  | .inf s, .inf t => s && !t
  | .inf s, .fin _ _ _ => s
  | .fin _ _ _, .inf t => !t
  | .fin s m e, .fin t n f =>
    if m = 0 ∧ n = 0 then zeroSigns && s && !t
    else
      let l := min e f
      decide (asInt s m e l < asInt t n f l)

/-- FP32 MIN (R111). -/
def fpMin (x y : FVal) : Word32 × Cond :=
  match x, y with
  | .nan _, _ => (canonNan, { nan := true })
  | _, .nan _ => (canonNan, { nan := true })
  | _, _ => enc32 (if fpLess y x true then y else x)

/-- FP32 MAX (R111). -/
def fpMax (x y : FVal) : Word32 × Cond :=
  match x, y with
  | .nan _, _ => (canonNan, { nan := true })
  | _, .nan _ => (canonNan, { nan := true })
  | _, _ => enc32 (if fpLess x y true then y else x)

/-- FP32 compares EQ, NE, LT, LE: −0 equals +0, false on a NaN except NE (R111). -/
def fpCmp (op : Nat) (x y : FVal) : Bool :=
  match x, y with
  | .nan _, _ => op == 1
  | _, .nan _ => op == 1
  | _, _ =>
    let lt := fpLess x y false
    let gt := fpLess y x false
    match op with
    | 0 => !lt && !gt
    | 1 => lt || gt
    | 2 => lt
    | _ => !gt

/-- A binary element format with subnormals: exponent bias, mantissa bits (R55). -/
def decSmall (s : Bool) (e m bias mb : Nat) : FVal :=
  if e = 0 then .fin s m (1 - (bias : Int) - mb) else .fin s (2 ^ mb + m) ((e : Int) - bias - mb)

/-- FP8 E4M3 (R55). -/
def decE4M3 (x : Nat) : FVal :=
  let s := nbit x 7
  let e := nbits x 6 3
  let m := nbits x 2 0
  if e = 15 ∧ m = 7 then .nan s else decSmall s e m 7 3

/-- FP8 E5M2 (R55). -/
def decE5M2 (x : Nat) : FVal :=
  let s := nbit x 7
  let e := nbits x 6 2
  let m := nbits x 1 0
  if e = 31 then (if m = 0 then .inf s else .nan s) else decSmall s e m 15 2

/-- FP4 E2M1 (R55). -/
def decE2M1 (x : Nat) : FVal := decSmall (nbit x 3) (nbits x 2 1) (nbits x 0 0) 1 1

/-- BF16: subnormals are read as zero (R55). -/
def decBF16 (x : Nat) : FVal := dec32 (BitVec.ofNat 32 (x * 2 ^ 16))

/-- A two's-complement integer as an exact value. -/
def decInt (w x : Nat) : FVal :=
  let v := sgn w x
  .fin (decide (v < 0)) v.natAbs 0

/-- An E8M0 scale byte: 2^(e−127), 0xFF a NaN (R55). -/
def decE8M0 (x : Nat) : FVal := if x % 256 = 255 then .nan false else .fin false 1 ((x % 256 : Nat) - 127 : Int)

/-- The element of an operand format code (R54, R55): codes 0 to 5. -/
def decElem (fmt x : Nat) : FVal :=
  match fmt with
  | 0 => decE4M3 x
  | 1 => decE5M2 x
  | 2 => decInt 8 x
  | 3 => decE2M1 x
  | 4 => decInt 4 x
  | _ => decBF16 x

/-- The width in bits of an element of a format code (R54). -/
def elemWidth (fmt : Nat) : Nat :=
  match fmt with
  | 3 => 4
  | 4 => 4
  | 5 => 16
  | _ => 8

/-- A narrow FP format: mantissa bits, bias, the largest finite magnitude as `m · 2^e`. -/
structure SmallFmt where
  mb : Nat
  bias : Nat
  maxM : Nat
  maxE : Int
  sub : Bool
  deriving DecidableEq, Repr

/-- E4M3, E5M2, E2M1, BF16 (R55). -/
def smallFmt (fmt : Nat) : SmallFmt :=
  match fmt with
  | 0 => ⟨3, 7, 448, 0, true⟩
  | 1 => ⟨2, 15, 57344, 0, true⟩
  | 3 => ⟨1, 1, 6, 0, true⟩
  | _ => ⟨7, 127, 255, 120, false⟩

/-- Magnitude bits of a number in a narrow format, rounded once; none when it is beyond the largest finite value after rounding to the format's precision with unbounded exponent (R112, R115). -/
def encMag (f : SmallFmt) (m : Nat) (e : Int) : Option Nat :=
  if m = 0 then some 0
  else
    let r := roundPrec (f.mb + 1) m e
    if magLt f.maxM f.maxE r.1 r.2 then none
    else
      let minE : Int := 1 - (f.bias : Int)
      let t := topExp r.1 r.2
      if t < minE then
        if f.sub then
          -- a subnormal count of 2^mb is the smallest normal, whose bits are that same number
          some (rneTo m e (minE - f.mb))
        else some 0
      else some ((t - minE + 1).toNat * 2 ^ f.mb + rneTo r.1 r.2 (t - f.mb) % 2 ^ f.mb)

/-- An FP target of VPACK: the result's bits and conditions, by R115's table. -/
def packFp (fmt : Nat) (x : FVal) : Nat × Cond :=
  let f := smallFmt fmt
  match fmt, x with
  | 0, .nan s => (0x7F + 128 * b2n s, { nan := true })
  | 1, .nan s => (0x7F + 128 * b2n s, { nan := true })
  | 3, .nan s => (7 + 8 * b2n s, { sat := true })
  | _, .nan _ => (0x7FC0, { nan := true })
  | 0, .inf s => (0x7E + 128 * b2n s, { sat := true })
  | 1, .inf s => (0x7C + 128 * b2n s, { inf := true })
  | 3, .inf s => (7 + 8 * b2n s, { sat := true })
  | _, .inf s => (0x7F80 + 32768 * b2n s, { inf := true })
  | _, .fin s m e =>
    let sb := b2n s * 2 ^ (elemWidth fmt - 1)
    match encMag f m e with
    | some v => (v + sb, {})
    | none =>
      match fmt with
      | 0 => (0x7E + sb, { sat := true, ovf := true })
      | 1 => (0x7B + sb, { sat := true, ovf := true })
      | 3 => (7 + sb, { sat := true, ovf := true })
      | _ => (0x7F80 + sb, { ovf := true, inf := true })

/-- The integer nearest an exact finite value, ties to even. -/
def rneInt (s : Bool) (m : Nat) (e : Int) : Int :=
  let v : Int := (rneTo m e 0 : Nat)
  if s then -v else v

/-- An integer clamped to `w` bits two's complement, with the SAT condition. -/
def clampS (w : Nat) (v : Int) : Int × Cond :=
  let hi : Int := 2 ^ (w - 1) - 1
  let lo : Int := -(2 ^ (w - 1))
  if v > hi then (hi, { sat := true }) else if v < lo then (lo, { sat := true }) else (v, {})

/-- The bits of an integer in `w` bits two's complement. -/
def intBits (w : Nat) (v : Int) : Nat := (BitVec.ofInt w v).toNat

/-- 2^(x) for an exact dyadic x = i / 2^q compared with an exact y = m · 2^e: 2^x ≤ y iff 2^i ≤ y^(2^q). -/
def exp2Le (i : Int) (q : Nat) (m : Nat) (e : Int) : Bool :=
  !(magLt (m ^ (2 ^ q)) (e * (2 ^ q : Nat)) 1 i)

/-- y ≤ 2^x with the same reading. -/
def exp2Ge (i : Int) (q : Nat) (m : Nat) (e : Int) : Bool :=
  !(magLt 1 i (m ^ (2 ^ q)) (e * (2 ^ q : Nat)))

/-- A finite value's numerator and the power of two of its denominator. -/
def asFrac (s : Bool) (m : Nat) (e : Int) : Int × Nat :=
  if e ≥ 0 then (asInt s m e 0, 0) else (asInt s m e e, (-e).toNat)

/-- The integer a finite value is, if it is one. -/
def asInteger (s : Bool) (m : Nat) (e : Int) : Option Int :=
  if m = 0 then some 0
  else if e ≥ 0 then some (asInt s m e 0)
  else if m % 2 ^ (-e).toNat = 0 then
    let v : Int := (m / 2 ^ (-e).toNat : Nat)
    some (if s then -v else v)
  else none

/-- Whether a magnitude is a power of two, and which. -/
def asPow2 (m : Nat) (e : Int) : Option Int :=
  if m ≠ 0 ∧ m = 2 ^ m.log2 then some (topExp m e) else none

end Sys2Proof.Machine
end

