-- ==== Sys2Proof/Machine/Crc.lean ====
section
/-! DEFINITION. CRC-32C: Castagnoli, reflected, initial value and final XOR all ones (R439, R540, R158). -/
namespace Sys2Proof.Machine

/-- One bit of the reflected division. -/
def crcBit (c : BitVec 32) : BitVec 32 :=
  if c.getLsbD 0 then (c >>> 1) ^^^ 0x82F63B78#32 else c >>> 1

/-- One byte. -/
def crcByte (c : BitVec 32) (b : BitVec 8) : BitVec 32 :=
  let c := c ^^^ b.setWidth 32
  crcBit (crcBit (crcBit (crcBit (crcBit (crcBit (crcBit (crcBit c)))))))

/-- CRC-32C of a list of bytes. -/
def crc32c (l : List (BitVec 8)) : BitVec 32 := ~~~ (l.foldl crcByte 0xFFFFFFFF#32)

end Sys2Proof.Machine
end

