-- ==== Sys2Proof/Machine/Routes.lean ====
section
/-! DEFINITION. Route tables and the path of a packet through the hubs (R297 to R305, R540). -/
namespace Sys2Proof.Machine

/-- An alternative of a route entry (R298). -/
structure Alt where
  egress : Nat
  dmask : Nat
  valid : Bool
  spread : Bool
  deriving DecidableEq, Repr

/-- The four alternatives of an entry's two words (R298). -/
def entryAlts (e : Word × Word) : List Alt :=
  [fld e.1 31 0, fld e.1 63 32, fld e.2 31 0, fld e.2 63 32].map
    (fun n => ⟨nbits n 7 0, nbits n 23 8, nbit n 24, nbit n 25⟩)

/-- The offset in the partition block of the entry a packet for GA uses at hub p, by the first lookup that applies (R297). -/
def routeEntryOff (s : State) (ga : Nat) : Nat :=
  let pkg := nbits ga 63 48
  let own := pkgNum s
  if pkg / 4096 ≠ own / 4096 then 0x20200 + 16 * (pkg / 4096)
  else if pkg ≠ own then 0x21000 + 16 * (pkg % 4096)
  else 0x20100 + 16 * nbits ga 47 44

/-- The active copy of an entry: as committed last, before any commit the cold-start content (R305, R505). -/
def activeRoute (s : State) (p off : Nat) : Word × Word :=
  match mfind (getHub s p).routeAct off with
  | some e => e
  | none => (regReset (small s) (pBase p + off), 0)

/-- Hubs that share a row or a column (R22). -/
def hubLinked (p q : Nat) : Bool := p != q && (p / 4 == q / 4 || p % 4 == q % 4)

/-- The optical dies a hub attaches to (R16, R17). -/
def optAttached (sm : Bool) (p o : Nat) : Bool :=
  let row := p / 4
  let col := p % 4
  match o with
  | 0 => row == 0
  | 1 => row == 0
  | 2 => col == 3 && (!sm || p == 3 || p == 7)
  | 3 => col == 3 && !sm
  | 4 => row == 3 && !sm
  | 5 => row == 3 && !sm
  | 6 => col == 0 && !sm
  | 7 => col == 0 && (!sm || p == 0 || p == 4)
  | _ => false

/-- Whether an EGRESS code is defined and attached to hub p (R298, R302). -/
def egressValid (s : State) (p e : Nat) : Bool :=
  if e < 16 then hubLinked p e && e < nParts s
  else if 0x40 ≤ e ∧ e < 0x80 then optAttached (small s) p ((e - 0x40) / 8)
  else if 0x80 ≤ e ∧ e < 0x88 then optAttached (small s) p (e - 0x80)
  else false

/-- Whether an egress of hub p is trained and in service (R299). -/
def egressUp (s : State) (p e : Nat) : Bool :=
  egressValid s p e &&
  (if e < 16 then rbit s (rEgr p) e && (mfind s.partOut e).isNone
   else if e < 0x80 then
     rbit s (rEgr p) (16 + (e - 0x40) / 8) &&
       (rbit s (rEngStatus ((e - 0x40) / 8) ((e - 0x40) % 8)) 4 || rfld s (rMlxState ((e - 0x40) / 8) ((e - 0x40) % 8)) 2 0 == 5)
   else rbit s (rEgr p) (16 + (e - 0x80)) && rbit s (rGpStatus (e - 0x80)) 0)

/-- What a hub does with a packet (R297, R299). -/
inductive Choice where
  /-- the entry has no alternative for the domain -/
  | noEntry
  /-- no eligible alternative: the packet is held (R301) -/
  | held
  | take (egress : Nat) (degraded : Bool)
  deriving DecidableEq, Repr

/-- The choice of an alternative (R299, R540). -/
def chooseAlt (s : State) (p : Nat) (alts : List Alt) (dom ga srcPort : Nat) : Choice :=
  let mine := alts.filter (fun a => a.valid && nbit a.dmask dom)
  let elig := mine.filter (fun a => egressUp s p a.egress)
  if mine.isEmpty then .noEntry
  else
    let deg := elig.length != mine.length
    match elig with
    | [] => .held
    | a :: _ =>
      if (alts.head?.map (·.spread)).getD false then
        let c := crc32c (toBytes 8 (ga / 64) ++ [BitVec.ofNat 8 srcPort])
        .take ((elig[c.toNat % elig.length]?).getD a).egress deg
      else .take a.egress deg

/-- The entry a packet uses: one with Saley's host mark goes by PART_ROUTE, whatever its package (R297, R303). -/
def entryOff (s : State) (host : Bool) (ga : Nat) : Nat :=
  if host then 0x20100 + 16 * nbits ga 47 44 else routeEntryOff s ga

/-- An entry's alternatives, open to every domain for a host mark (R303). -/
def openAlts (host : Bool) (e : Word × Word) : List Alt :=
  (entryAlts e).map (fun a => if host then { a with dmask := 0xFFFF } else a)

/-- The choice of hub p for a packet (R297 to R299, R303). -/
def routeAt (s : State) (host : Bool) (p dom ga srcPort : Nat) : Choice :=
  chooseAlt s p (openAlts host (activeRoute s p (entryOff s host ga))) dom ga srcPort

/-- How a packet gets from one hub to its target: its status, whether an alternative was down on the way, and for one that
fails on the way the hub where it does and whether that hub held it for want of an eligible alternative. -/
structure Path where
  status : Status
  degraded : Bool := false
  lost : Option (Nat × Bool) := none
  deriving DecidableEq, Repr

/-- The path of a packet of a domain from hub p to its target (R218, R296, R297, R299). The fuel is the four hops of R296 and
the arrival; hub p fails a packet that needs a fifth. -/
def pathTo (s : State) (host : Bool) (dom ga : Nat) : Nat → Bool → Nat → Nat → Path
  | 0, _, p, _ => { status := .linkLost, lost := some (p, false) }
  | fuel + 1, first, p, srcPort =>
    if nbits ga 63 48 = pkgNum s ∧ nbits ga 47 44 = p then { status := .ok }
    else
      match routeAt s host p dom ga srcPort with
      | .noEntry => if first then { status := .access } else { status := .linkLost, lost := some (p, false) }
      | .held => { status := .linkLost, degraded := true, lost := some (p, true) }
      | .take e d =>
        if e < 16 then
          if fuel = 0 then { status := .linkLost, lost := some (p, false) }
          else
            let r := pathTo s host dom ga fuel false e (0x10 + p)
            { r with degraded := d || r.degraded }
        else { status := .ok, degraded := d }

/-- The path of an access of a packet identity to a global address. -/
def pathOf (s : State) (w : Who) (ga : Nat) : Path := pathTo s false w.domain ga 5 true w.part w.port

/-- The route of an access: its status, and whether an alternative was down. -/
def routeOf (s : State) (w : Who) (ga : Nat) : Status × Bool := ((pathOf s w ga).status, (pathOf s w ga).degraded)

/-- A packet failed at hub p for lack of a route: the record, the leaf, the count (R296, R297, R301). -/
def noRoute (s : State) (p target domain : Nat) : State :=
  let s := leaf (emit s 0x0035 (srcHub p) [(8, target), (1, domain)]) p 54
  let n := rfld s (rEgr p) 63 32
  setRfld s (rEgr p) 63 32 (if n < 2 ^ 32 - 1 then n + 1 else n)

/-- The link timeout of a hub in ns (R301). -/
def linkTimeoutNs (s : State) (p : Nat) : Nat := 1000 * max 100 (rfld s (rNetCtl p) 15 0)

/-- What a hub does with a packet that fails there: it holds one that has no eligible alternative to the link timeout, and
records it; any other it records at once (R296, R297, R301). -/
def pathLost (s : State) (r : Path) (target domain : Nat) : State :=
  match r.lost with
  | none => s
  | some (p, held) =>
    let s := if held then { s with timebase := s.timebase + linkTimeoutNs s p } else s
    noRoute s p target domain

/-! ## The way between a hub and the hosts (R23, R303) -/

/-- The hub through which Saley's traffic for a partition passes: its own where it has a link to Saley in service, else the
lowest-numbered one that has (R23). -/
def entryHub (s : State) (p : Nat) : Option Nat :=
  if p < 4 ∧ saleyHub s p then some p else (List.range 4).find? (saleyHub s)

/-- The path of a request that hub p sends toward Saley (R303); Saley's own links are the last hop, so the target is the hub
that Saley would choose for the partition (R23; the choice for requests from within is the model's, log entry 57). -/
def hostPath (s : State) (p srcPort : Nat) : Path :=
  match entryHub s p with
  | none => { status := .linkLost }
  | some q => pathTo s true 0 (pkgNum s * 2 ^ 48 + q * 2 ^ 44) 5 true p srcPort

/-- Whether Saley reaches a partition: a hub with a link in service, and a path by PART_ROUTE from there (R23, R303). -/
def saleyPath (s : State) (p : Nat) : Bool :=
  match entryHub s p with
  | none => false
  | some q => (pathTo s true 0 (pkgNum s * 2 ^ 48 + p * 2 ^ 44) 5 true q 0x30).status == .ok

end Sys2Proof.Machine
end

