-- ==== Sys2Proof/Machine/Threads.lean ====
section
/-! DEFINITION. What happens to threads beside their instructions: moving on, taking a trap and stopping a launch (R96, R97), barriers completing, waits being met. -/
namespace Sys2Proof.Machine

/-- The physical cluster of a logical one: a spare where one stands in, else the map of a die whose clusters all pass (R18, R284). -/
def physOf (s : State) (cl : Nat) : Nat :=
  let l := cl % 40
  mget (if l < 10 then l else if l < 30 then l + 1 else l + 2) s.physCl cl

/-- The state with every thread of every core passed through a function of its core key and number. -/
def mapThreads (s : State) (f : Nat → CoreSt → Nat → ThreadSt → ThreadSt) : State :=
  { s with cores := s.cores.map (fun kc =>
      (kc.1, { kc.2 with threads := kc.2.threads.mapIdx (fun i x => f kc.1 kc.2 i x) })) }

/-- A thread past the instruction it was at: pc + 8; a step it was given ends in a halt (R493). -/
def retire (x : ThreadSt) : ThreadSt :=
  { x with pc := x.pc + 8, halted := x.halted || x.stepping, stepping := false, stat := .run, bpSkip := false }

/-- A thread at a new pc. -/
def jumpTo (x : ThreadSt) (pc : BitVec 48) : ThreadSt :=
  { x with pc := pc, halted := x.halted || x.stepping, stepping := false, bpSkip := false }

/-- The DEBUG halt leaf where a step ended (R483). -/
def stepLeaf (x : ThreadSt) (s : State) : State := if x.stepping then leaf s 29 0 else s

/-- A thread is still working for its launch. -/
def alive (x : ThreadSt) : Bool :=
  match x.stat with
  | .none => false
  | .ended => false
  | .trapped _ => false
  | .stopped => false
  | _ => true

/-- Whether a thread has entries in its core's matrix queue. -/
def hasQueued (c : CoreSt) (t : Nat) : Bool := c.mq.any (fun e => e.1 == t)

/-- Claims of threads that have ended, trapped or stopped and have no queued entry are released (R53). -/
def releaseDead (c : CoreSt) : CoreSt :=
  { c with threads := c.threads.mapIdx (fun i x =>
      if !(alive x) && !(hasQueued c i) then { x with claim := 0 } else x) }

/-- The launch of a core is that of an operation. -/
def ofLaunch (c : CoreSt) (p op : Nat) : Bool :=
  match c.launch with
  | some l => l.part == p && l.op == op
  | none => false

/-- Every thread of a launch, on every core, stops issuing (R97). Launches still waiting for a core are taken back. -/
def stopLaunch (s : State) (p op : Nat) : State :=
  { s with cores := s.cores.map (fun kc =>
      let c := { kc.2 with next := kc.2.next.filter (fun l => !(l.part == p && l.op == op)) }
      (kc.1, if ofLaunch c p op then
          releaseDead { c with threads := c.threads.map (fun x => if alive x then { x with stat := .stopped } else x) }
        else c)) }

/-- The KERNEL's memory of its trap: the lowest-indexed trapping thread (R97). -/
def noteTrap (o : Op) (index : Nat) (c : Trap) : Op :=
  match o.trap with
  | some (i, _) => if index < i then { o with trap := some (index, c) } else o
  | none => { o with trap := some (index, c) }

/-- Taking a trap: the thread stops before its instruction, its event record is written, the partition's TRAP leaf is set,
and the whole launch stops (R96, R97). `arg` is what the cause adds to the record: a status, an address, TRAP's immediate. -/
def takeTrap (s : State) (t : ThreadRef) (c : Trap) (arg : List (Nat × Nat)) : State :=
  let x := threadOf s t
  let k := tKey t
  let s := putThread s t { x with stat := .trapped c }
  match (getCore s k).launch with
  | none => s
  | some l =>
    let s := emitEv s { cause := 0x0030, source := srcDie t.die (physOf s (clKey t.die t.cl)), time := s.timebase,
                        data := [(1, trapCode c), (4, x.index), (8, x.pc.toNat), (2, l.tenant), (4, l.descTag)], arg := arg }
    let s := leaf s l.part 50
    let h := getHub s l.part
    let s := match mfind h.ops l.op with
      | some o => setHub s l.part { h with ops := mput l.op (noteTrap o x.index c) h.ops }
      | none => s
    stopLaunch s l.part l.op

/-- A thread named by a core barrier has arrived: it waits at a barrier of this mask, or has ended, or was never started (R125).
DESIGN CHOICE (log entry 37): the spec does not say whether a thread that waits with another mask counts; here it does not. -/
def atBarrier (mask : Nat) (x : ThreadSt) : Bool :=
  match x.stat with
  | .barCore m => m == mask
  | .ended => true
  | .none => true
  | _ => false

/-- Core barriers whose every thread has arrived complete, for all participants at once (R125). -/
def wakeBarc (c : CoreSt) : CoreSt :=
  { c with threads := c.threads.map (fun x =>
      match x.stat with
      | .barCore m =>
        if (List.range 16).all (fun i => !(nbit m i) || atBarrier m (getThread c i)) then retire x else x
      | _ => x) }

/-- Threads of a core waiting on a local counter whose threshold it has reached go on, with 1 in their predicate (R102, R124). -/
def wakeLocal (c : CoreSt) : CoreSt :=
  { c with threads := c.threads.map (fun x =>
      match x.stat with
      | .waitLocal i thr pd _ => if !((vget 0 c.lc i - thr).getLsbD 31) then wrP (retire x) pd true else x
      | _ => x) }

/-- A local counter incremented by 1 by a completion (R102), and the waits it meets. -/
def bumpLocal (s : State) (k i : Nat) : State :=
  let c := getCore s k
  setCore s k (wakeLocal { c with lc := vset c.lc i (vget 0 c.lc i + 1) })

/-- Threads waiting on an arrival counter that has reached their threshold go on, with 1 in their predicate (R124, R246). -/
def wakeArr (s : State) (p i : Nat) (v : Word32) : State :=
  mapThreads s (fun _ _ _ x =>
    match x.stat with
    | .waitCounter q j thr pd _ => if q = p ∧ j = i ∧ !((v - thr).getLsbD 31) then wrP (retire x) pd true else x
    | _ => x)

end Sys2Proof.Machine
end

