-- ==== Sys2Proof/Machine/Mem.lean ====
section
/-! DEFINITION. Global memory at its homes: the address map, the checks of R218, ownership and its refusals, lines, atomics and arrival counters. -/
namespace Sys2Proof.Machine

/-- The key of a byte of a partition's memory. -/
def memKey (part off : Nat) : Nat := part * 2 ^ 44 + off

/-- The global address of a key of this package's memory (R216). -/
def gaOf (s : State) (k : Nat) : Nat := pkgNum s * 2 ^ 48 + k

/-- One byte of device memory. In a segment whose contents are undefined (R209) a byte not written since is free. -/
def memByte (s : State) (k : Nat) : BitVec 8 :=
  match mfind s.segUndef (k / 2 ^ 30) with
  | some tag => if (mfind s.segWritten k).isSome then bget s.mem k else Config.freeByte tag k
  | none => bget s.mem k

/-- One byte of device memory written. -/
def memPut (s : State) (k : Nat) (v : BitVec 8) : State :=
  let s := { s with mem := bput s.mem k v }
  if (mfind s.segUndef (k / 2 ^ 30)).isSome then { s with segWritten := mput k () s.segWritten } else s

/-- `n` bytes of device memory, little-endian. -/
def memRead (s : State) (k : Nat) : Nat → Nat
  | 0 => 0
  | n + 1 => (memByte s k).toNat + 256 * memRead s (k + 1) n

/-- The bytes of a number written under a byte mask (bit 0 for the first). -/
def memWriteMask (s : State) (k : Nat) : Nat → Nat → Nat → State
  | 0, _, _ => s
  | n + 1, mask, v =>
    let s := if mask % 2 = 1 then memPut s k (BitVec.ofNat 8 v) else s
    memWriteMask s (k + 1) n (mask / 2) (v / 256)

/-- What stands at a global address (R217, R219). -/
inductive Home where
  | remote
  | absent
  | hole
  | ctxTable (stack off : Nat)
  | mem (p off : Nat)
  | counter (p i : Nat)
  | bell (p ctx off : Nat)
  deriving DecidableEq, Repr

/-- Ends of the ranges of R217. -/
def hbmEnd : Nat := 0x3000000000
def stkBase : Nat := 0x10000000000
def stkEnd : Nat := 0x18000000000
def winBase : Nat := 0xF0000000000

/-- The home of a global address (R216, R217, R219, R135). -/
def homeOf (s : State) (ga : Nat) : Home :=
  let p := nbits ga 47 44
  let off := nbits ga 43 0
  if nbits ga 63 48 ≠ pkgNum s then .remote
  else if p ≥ nParts s then .absent
  else if off < hbmEnd then
    if off / 2 ^ 30 < rfld s (rSegLimit p) 7 0 then .mem p off else .hole
  else if stkBase ≤ off ∧ off < stkEnd then
    if hasSe s ∧ off % 2 ^ 37 < 0x400000 then .ctxTable (4 * p + (off - stkBase) / 2 ^ 37) (off % 2 ^ 37) else .mem p off
  else if winBase ≤ off ∧ off < winBase + 0x40000 then .counter p ((off - winBase) / 4)
  else if winBase + 0x200000 ≤ off ∧ off < winBase + 0x8200000 then
    .bell p ((off - winBase - 0x200000) / 4096) (off % 4096)
  else .hole

/-- The ownership table index of a partition offset (R227). -/
def ownIndex (off : Nat) : Nat :=
  if off < hbmEnd then off / 0x200000
  else if off < stkEnd then 98304 + (off - stkBase) / 0x200000
  else 360448

/-- An ownership entry (R227). -/
def ownEntry (s : State) (p i : Nat) : BitVec 32 := mget 0 (getHub s p).own i

/-- The ownership check of a line (R228, R229). -/
def ownPass (s : State) (w : Who) (p off : Nat) (write : Bool) : Bool :=
  let e := ownEntry s p (ownIndex off)
  w.glob ||
  (e.getLsbD 20 && fld e 19 16 == w.domain && (fld e 15 0 == 0 || fld e 15 0 == w.jobTag) && !(write && e.getLsbD 21))

/-- Whether an open step protects the line of a partition offset from a writer (R429). -/
def stepProtected (s : State) (w : Who) (p off : Nat) : Bool :=
  s.hubs.any (fun h => h.2.steps.any (fun st =>
    !(match w.op with
      | some (q, o) => q == h.1 && st.2.exempt.contains o
      | none => false) &&
    st.2.prot.any (fun r => r.1 == p && r.2.1 / 64 ≤ off / 64 && off / 64 ≤ (r.2.1 + r.2.2 - 1) / 64)))

/-- A byte of a partition's HBM in its stack: the stack and the offset in it (R208). -/
def hbmPlace (s : State) (p off : Nat) : Nat × Nat :=
  let seg := off / 2 ^ 30
  let r := off % 2 ^ 30
  if rbit s (rSegMode p (seg / 64)) (seg % 64) then (r / 2 ^ 28, 2 ^ 28 * seg + r % 2 ^ 28)
  else (r / 4096 % 4, 2 ^ 28 * seg + r / 4096 / 4 * 4096 + r % 4096)

/-- The channels set in a map, ascending. -/
def channels (m : Word32) : List Nat := (List.range 32).filter (fun i => m.getLsbD i)

/-- The channel a byte of HBM lies on, by the map of the last training (R207, R212). -/
def hbmChannel (s : State) (p off : Nat) : Option (Nat × Nat) :=
  let pl := hbmPlace s p off
  let ch := channels (mget 0 s.hbmMap (4 * p + pl.1))
  (ch[pl.2 / 256 % ch.length]?).map (fun c => (pl.1, c))

/-- Whether a byte's channel is fenced (R212). -/
def chFenced (s : State) (p off : Nat) : Bool :=
  off < hbmEnd &&
  (match hbmChannel s p off with
   | some (n, c) => !(rbit s (rHbmStatus p n) c)
   | none => true)

/-- Words of the line at a key that are in error (R212). -/
def ueIn (s : State) (k mask : Nat) : Bool :=
  (List.range 8).any (fun i =>
    (mfind s.ue (k / 8 + i)).isSome && nbits mask (8 * i + 7) (8 * i) != 0)

/-- The segment of a global address waits for a new mode: the hub holds new accesses to it (R209). -/
def segHeld (s : State) (ga : Nat) : Bool :=
  match homeOf s ga with
  | .mem p off =>
    let seg := off / 2 ^ 30
    off < hbmEnd &&
    (match mfind (getHub s p).segPend (seg / 64) with
     | some v => v.getLsbD (seg % 64) != rbit s (rSegMode p (seg / 64)) (seg % 64)
     | none => false)
  | _ => false

/-- The new modes of a word of 64 segments hold, and the contents of the changed segments are undefined (R209). -/
def segApply (s : State) (p i : Nat) : State :=
  let h := getHub s p
  match mfind h.segPend i with
  | none => s
  | some v =>
    let old := reg s (rSegMode p i)
    let changed := (List.range 64).filter (fun b => old.getLsbD b != v.getLsbD b)
    let seg (b : Nat) : Nat := memKey p ((64 * i + b) * 2 ^ 30) / 2 ^ 30
    let s := setReg (setHub s p { h with segPend := mdel i h.segPend }) (rSegMode p i) v
    { s with
      free := s.free + 1,
      segUndef := changed.foldl (fun m b => mput (seg b) s.free m) s.segUndef,
      segWritten := s.segWritten.filter (fun c => !(changed.any (fun b => c.1 / 2 ^ 30 == seg b))) }

/-- An access to a segment that waits for a new mode has been held until that mode applied (R209): an access which is part of
a larger step (a write-back, a walk, a prefetch, a fetch, a record) goes on under the new mode. -/
def segSettle (s : State) (ga : Nat) : State :=
  if segHeld s ga then segApply s (nbits ga 47 44) (nbits ga 43 30 / 64) else s

/-- A partition is in service for accesses (R26, R211, R421, R466). -/
def partUp (s : State) (p : Nat) : Bool := (mfind s.partOut p).isNone && rbit s rDevStatus (16 + p)

/-- The first status of R218 that holds for a line, before the home's own report; and whether an alternative route was used. -/
def lineStatus (s : State) (w : Who) (ga : Nat) (write : Bool) : Status × Bool :=
  match homeOf s ga with
  | .absent => (.unsupported, false)
  | .remote =>
    match routeOf s w ga with
    | (.ok, d) => (.ok, d)
    | r => r
  | h =>
    let p := nbits ga 47 44
    if !(partUp s p) then (.linkLost, false)
    else
      match routeOf s w ga with
      | (.ok, d) =>
        match h with
        | .mem p off =>
          if !(ownPass s w p off write) then (.access, d)
          else if write ∧ stepProtected s w p off then (.access, d)
          else if chFenced s p off then (.faultMem, d)
          else (.ok, d)
        | .counter p _ => (if ownPass s w p winBase write then .ok else .access, d)
        | .bell _ _ _ => (.ok, d)
        | _ => (.access, d)
      | r => r

/-- A refusal by ownership recorded: a window of its page and tag opens with the ACCESS leaf, or counts on (R228, R262). -/
def denyRecord (s : State) (p page tag domain : Nat) (bell : Bool) : State :=
  let h := getHub s p
  match findIdx (fun d => d.page == page && d.tag == tag && d.doorbell == bell) h.deny 0 with
  | some (i, d) => setHub s p { h with deny := lset h.deny i { d with count := d.count + 1 } }
  | none => leaf (setHub s p { h with deny := h.deny ++ [⟨page, tag, domain, 1, s.timebase, bell⟩] }) p 48

/-- A refusal at the window of a doorbell page: its event, coalesced per 4 KiB page and tag, and the ACCESS leaf (R228, R262). -/
def windowDeny (s : State) (p ctx tag domain : Nat) : State :=
  denyRecord s p (gaOf s (memKey p (winBase + 0x200000 + 4096 * ctx))) tag domain true

/-- The events a refused line writes: ownership refusals by window, context-table accesses at once (R135, R228). -/
def denyEvents (s : State) (w : Who) (ga : Nat) (write : Bool) : State :=
  match homeOf s ga with
  | .mem p off => if ownPass s w p off write then s else denyRecord s p (ga / 0x200000 * 0x200000) w.jobTag w.domain false
  | .counter p _ =>
    if ownPass s w p winBase write then s else denyRecord s p (ga / 0x200000 * 0x200000) w.jobTag w.domain false
  | .ctxTable k _ =>
    emit s 0x0031 (srcStack k) [(8, ga / 0x200000 * 0x200000), (2, w.jobTag), (1, w.domain)]
  | _ => s

/-- The partition of a line is one of the package's that is out of service. -/
def homeDown (s : State) (ga : Nat) : Bool :=
  match homeOf s ga with
  | .remote => false
  | .absent => false
  | _ => !(partUp s (nbits ga 47 44))

/-- The status of an access to a line, with what the refusal leaves: at the target its record (R228), on the way the record of
the hub that fails the packet (R297, R301). An issuer without a route reaches no target, so it leaves none. -/
def checkLine (s : State) (w : Who) (ga : Nat) (write : Bool) : Status × Bool × State :=
  let r := lineStatus s w ga write
  (r.1, r.2,
    if r.1 = .access ∧ (routeOf s w ga).1 = .ok then denyEvents s w ga write
    else if r.1 = .linkLost ∧ !(homeDown s ga) then pathLost s (pathOf s w ga) ga w.domain
    else s)

/-- DEGRADED_ROUTE noted for the operation a packet belongs to (R277, R299). -/
def noteDegraded (s : State) (w : Who) (d : Bool) : State :=
  match d, w.op with
  | true, some (p, o) =>
    let h := getHub s p
    match mfind h.ops o with
    | some x => setHub s p { h with ops := mput o { x with cflags := x.cflags ||| 64 } h.ops }
    | none => s
  | _, _ => s

/-- The status another package answers with, and the counter advanced: free, as that package is not modelled. -/
def remoteStatus (s : State) : Status × State :=
  (match Config.freeNat s.free % 4 with
   | 0 => .ok
   | 1 => .access
   | 2 => .faultMem
   | _ => .linkLost, { s with free := s.free + 1 })

/-- A line of free bytes. -/
def freeLine (tag ga : Nat) : BitVec 512 :=
  BitVec.ofNat 512 (ofBytes ((List.range 64).map (fun i => Config.freeByte tag (ga + i))))

/-- Bytes counted at the stack that holds a partition offset, if a stack does (R159). -/
def stackCount (s : State) (p off rd wr : Nat) : State :=
  if stkBase ≤ off ∧ off < stkEnd then
    let k := 4 * p + (off - stkBase) / 2 ^ 37
    let x := getStack s k
    setStack s k { x with bytesRead := x.bytesRead + rd, bytesWritten := x.bytesWritten + wr }
  else s

/-- An arrival counter (R244). -/
def getArr (s : State) (p i : Nat) : Word32 := mget 0 (getHub s p).arr i

/-- An arrival counter set, and the WAITC waits it meets (R124, R246). -/
def setArr (s : State) (p i : Nat) (v : Word32) : State :=
  let h := getHub s p
  wakeArr (setHub s p { h with arr := mput i v h.arr }) p i v

/-- A 4-byte load or store of an arrival counter (R245); any other width is ACCESS. -/
def counterLoad (s : State) (w : Who) (ga n : Nat) : Status × Bool × Nat × State :=
  let (st, d, s) := checkLine s w ga false
  match st, homeOf s ga with
  | .ok, .counter p i => if n = 4 then (.ok, d, (getArr s p i).toNat, s) else (.access, d, 0, s)
  | .ok, _ => (.access, d, 0, s)
  | st, _ => (st, d, 0, s)

def counterStore (s : State) (w : Who) (ga n v : Nat) : Status × Bool × State :=
  let (st, d, s) := checkLine s w ga true
  match st, homeOf s ga with
  | .ok, .counter p i => if n = 4 then (.ok, d, setArr s p i (BitVec.ofNat 32 v)) else (.access, d, s)
  | .ok, _ => (.access, d, s)
  | st, _ => (st, d, s)

/-- A gather read of n bytes: the 32-byte units it touches, as a byte mask of the line (R210). -/
def gatherMask (ga n : Nat) : Nat :=
  (if ga % 64 < 32 then 2 ^ 32 - 1 else 0) + (if ga % 64 + n > 32 then (2 ^ 32 - 1) * 2 ^ 32 else 0)

/-- A read of n bytes within one line at its home: status, degraded, the line (R218, R232). Through the gather port of an HBM
controller it touches only the 32-byte units it needs (R210). A doorbell page and a counter answer as R245 and R262 say. -/
def lineReadN (s : State) (w : Who) (ga n : Nat) (gather : Bool) : Status × Bool × BitVec 512 × State :=
  let s := segSettle s ga
  match homeOf s ga with
  | .counter _ _ =>
    let (st, d, v, s) := counterLoad s w ga n
    (st, d, BitVec.ofNat 512 (v * 2 ^ (8 * (ga % 64))), s)
  | _ =>
    let (st, d, s) := checkLine s w (ga / 64 * 64) false
    if st ≠ .ok then (st, d, 0, s)
    else match homeOf s ga with
      | .mem p off =>
        let k := memKey p (off / 64 * 64)
        if ueIn s k (if gather ∧ off < hbmEnd then gatherMask ga n else 2 ^ 64 - 1) then (.faultMem, d, 0, s)
        else (.ok, d, BitVec.ofNat 512 (memRead s k 64), stackCount s p off 64 0)
      | .bell p ctx off =>
        if windowOk s p ctx w.jobTag w.domain then
          (.ok, d, BitVec.ofNat 512 ((List.range 8).foldl (fun a i =>
            a + (bellLoad s p ctx (off / 64 * 64 + 8 * i)).toNat * 2 ^ (64 * i)) 0), s)
        else (.access, d, 0, windowDeny s p ctx w.jobTag w.domain)
      | .remote =>
        let (st, s) := remoteStatus s
        (st, d, freeLine s.free ga, s)
      | _ => (.access, d, 0, s)

/-- A whole line read at its home (R218, R232). -/
def lineRead (s : State) (w : Who) (ga : Nat) : Status × Bool × BitVec 512 × State := lineReadN s w (ga / 64 * 64) 64 false

/-- The words of a line that a mask covers wholly leave their error state; a partly covered one refuses the write (R212). -/
def ueCover (s : State) (k mask : Nat) : Option State :=
  if (List.range 8).any (fun i =>
      (mfind s.ue (k / 8 + i)).isSome && nbits mask (8 * i + 7) (8 * i) != 0 && nbits mask (8 * i + 7) (8 * i) != 255) then none
  else some { s with ue := s.ue.filter (fun c =>
    !(k / 8 ≤ c.1 && c.1 < k / 8 + 8 && nbits mask (8 * (c.1 - k / 8) + 7) (8 * (c.1 - k / 8)) == 255)) }

/-- A masked line write at its home (R218, R232, R212). A doorbell page and a counter take it as R245, R258 and R262 say. -/
def lineWrite (s : State) (w : Who) (ga mask : Nat) (v : BitVec 512) : Status × Bool × State :=
  let s := segSettle s ga
  let b := maskSpan mask
  match homeOf s ga with
  | .counter _ _ =>
    counterStore s w (ga / 64 * 64 + b.1) (if b.1 % 4 = 0 then b.2 else 0) (fld v (8 * b.1 + 31) (8 * b.1))
  | _ =>
    let (st, d, s) := checkLine s w ga true
    if st ≠ .ok then (st, d, s)
    else match homeOf s ga with
      | .mem p off =>
        let k := memKey p (off / 64 * 64)
        match ueCover s k mask with
        | none => (.faultMem, d, s)
        | some s => (.ok, d, stackCount (memWriteMask s k 64 mask v.toNat) p off 0 (((List.range 64).filter (nbit mask)).length))
      | .bell p ctx off =>
        if windowOk s p ctx w.jobTag w.domain then
          (.ok, d, (bellWrite s p ctx (off / 64 * 64 + b.1) b.2 (BitVec.ofNat 64 (fld v (8 * b.1 + 63) (8 * b.1)))).2)
        else (.access, d, windowDeny s p ctx w.jobTag w.domain)
      | .remote =>
        let (st, s) := remoteStatus s
        (st, d, s)
      | _ => (.access, d, s)

/-- The width in bits of an atomic operation, in the order of ATOM's MINOR (R233). -/
def atomWidth (op : Nat) : Nat := if op = 0 ∨ op = 2 ∨ op = 3 ∨ op = 5 then 32 else 64

/-- The new value of an atomic (R233). -/
def atomNew (op : Nat) (old v cmp : Nat) : Nat :=
  match op with
  | 0 => (old + v) % 2 ^ 32
  | 1 => (old + v) % 2 ^ 64
  | 2 => (fpAdd (dec32 (BitVec.ofNat 32 old)) (dec32 (BitVec.ofNat 32 v))).1.toNat
  | 3 => if sgn 32 old ≤ sgn 32 v then old else v % 2 ^ 32
  | 4 => if sgn 64 old ≤ sgn 64 v then old else v
  | 5 => if sgn 32 old ≥ sgn 32 v then old else v % 2 ^ 32
  | 6 => if sgn 64 old ≥ sgn 64 v then old else v
  | 7 => v
  | 8 => if old = cmp then v else old
  | 9 => old &&& v
  | 10 => old ||| v
  | _ => old ^^^ v

/-- An atomic at its target hub: status, degraded, old value (R233, R245). -/
def atomicAt (s : State) (w : Who) (ga op v cmp : Nat) : Status × Bool × Nat × State :=
  let s := segSettle s ga
  let (st, d, s) := checkLine s w ga true
  if st ≠ .ok then (st, d, 0, s)
  else match homeOf s ga with
    | .mem p off =>
      let n := atomWidth op / 8
      let k := memKey p off
      let word := k / 8 * 8
      if (mfind s.ue (word / 8)).isSome then (.faultMem, d, 0, s)
      else
        let old := memRead s k n
        (.ok, d, old, stackCount (memWriteMask s k n (2 ^ n - 1) (atomNew op old (v % 2 ^ (8 * n)) cmp)) p off n n)
    | .counter p i =>
      if op = 0 then
        let old := (getArr s p i).toNat
        (.ok, d, old, setArr s p i (BitVec.ofNat 32 (atomNew 0 old v 0)))
      else (.access, d, 0, s)
    | .bell p ctx _ => (.access, d, 0, windowDeny s p ctx w.jobTag w.domain)
    | .remote =>
      let (st, s) := remoteStatus s
      (st, d, fld (Config.freeWord s.free) (atomWidth op - 1) 0, s)
    | _ => (.access, d, 0, s)

/-- The signed 32-bit difference (value − threshold) is at least 0 (R102, R246). -/
def reached (v thr : Word32) : Bool := !((v - thr).getLsbD 31)

end Sys2Proof.Machine
end

