-- ==== Sys2Proof/Machine/Health.lean ====
section
/-! DEFINITION. Spares, capability updates, capacity in service and the replace-request conditions (R34, R212, R440 to R447). -/
namespace Sys2Proof.Machine

/-! ## Spares (R18, R284, R440) -/

/-- The physical cluster of logical cluster c of a die. -/
def physCluster (s : State) (die c : Nat) : Nat := physOf s (clKey die c)

/-- The key of a physical cluster. -/
def pclKey (die phys : Nat) : Nat := die * 42 + phys

/-- The physical core of a logical core of a physical cluster. -/
def physCoreOf (s : State) (die phys core : Nat) : Nat := mget core s.physCore (pclKey die phys * 120 + core)

/-- Physical clusters of a die that hold a logical number. -/
def heldClusters (s : State) (die : Nat) : List Nat :=
  ((List.range 40).filter (fun c => mfind s.clusterOut (clKey die c) != some 0)).map (physCluster s die)

/-- Physical clusters of a die that serve a logical number now: not one that is out for a field test (R294, R443). -/
def servingClusters (s : State) (die : Nat) : List Nat :=
  ((List.range 40).filter (fun c => (mfind s.clusterOut (clKey die c)).isNone)).map (physCluster s die)

/-- Spare clusters of a die, ascending (R31, R440). -/
def spareClusters (s : State) (die : Nat) : List Nat :=
  (List.range 42).filter (fun q => !((heldClusters s die).contains q) && (mfind s.clGone (pclKey die q)).isNone)

/-- Failed cores of a physical cluster. -/
def failedCores (s : State) (die phys : Nat) : Nat :=
  ((List.range 128).filter (fun c => (mfind s.coreGone (pclKey die phys * 128 + c)).isSome)).length

/-- CORE_SPARE of a physical cluster: what is left of its eight (R31, R440). -/
def coreSpares (s : State) (die phys : Nat) : Nat := 8 - failedCores s die phys

/-- The lowest-numbered spare core of a physical cluster (R441). -/
def spareCore (s : State) (die phys : Nat) : Option Nat :=
  (List.range 128).find? (fun q =>
    !((List.range 120).any (fun k => physCoreOf s die phys k == q)) && (mfind s.coreGone (pclKey die phys * 128 + q)).isNone)

/-- CLUSTER_MAP of a die (R31). -/
def clusterMap (s : State) (die : Nat) : Nat := (heldClusters s die).foldl (fun m q => if nbit m q then m else m + 2 ^ q) 0

/-! ## Capability records (R31, R34) -/

/-- Words 2, 5 and 6 of a compute die's record, and the second page's word 2, as the spares stand. -/
def spareWords (s : State) (die : Nat) : List (Nat × Nat) :=
  let cs (c : Nat) : Nat := min 15 (coreSpares s die (physCluster s die c))
  let pack (lo n : Nat) : Nat := (List.range n).foldl (fun m i => m + cs (lo + i) * 16 ^ i) 0
  let en := ((List.range 40).filter (fun c => (mfind s.clusterOut (clKey die c)).isNone)).length
  [(2, clusterMap s die + en * 2 ^ 42 + (spareClusters s die).length * 2 ^ 50), (5, pack 0 16), (6, pack 16 16)]

/-- An entry changed under R34: UPDATE_SEQ rises by two in all. -/
def capChange (s : State) (i : Nat) (ws : List (Nat × Nat)) : State :=
  let s := ws.foldl (fun s w => setReg s (rDieCap i w.1) (BitVec.ofNat 64 w.2)) s
  setRfld s (rDieCap i 7) 31 0 ((rfld s (rDieCap i 7) 31 0 + 2) % 2 ^ 32)

/-- A compute die's record brought up to date with its spares. -/
def capSpares (s : State) (die : Nat) : State := capChange s die (spareWords s die)

/-! ## Capacity and conditions (R280, R446, R447) -/

/-- An optical die is in service. -/
def optUp (s : State) (o : Nat) : Bool :=
  let x : OptSt := mget {} s.opts o
  optPresent s o && x.ready && x.out.isNone

/-- Logical cores of a partition that hold a unit in service (R280). -/
def coresInService (s : State) (p : Nat) : Nat :=
  if partUp s p then 19200 - 120 * (s.clusterOut.filter (fun c => c.1 / 160 == p)).length else 0

/-- Channels of a trained stack that are disabled or fenced. -/
def channelsOut (s : State) (p n : Nat) : Nat :=
  if rfld s (rHbmStatus p n) 39 32 = 0 then 0
  else 32 - (channels (BitVec.ofNat 32 (rfld s (rHbmStatus p n) 31 0))).length

/-- Engines of a die whose link is up. -/
def linksUp (s : State) (o : Nat) : Nat := ((List.range 8).filter (fun e => rbit s (rEngStatus o e) 4)).length

/-- A port is lit by some engine of its die. -/
def portLit (s : State) (o k : Nat) : Bool := (List.range 8).any (fun e => rfld s (rEngStatus o e) 3 0 == k)

/-- A spare port is eligible: unlit, cabled and not failed (R329). -/
def portEligible (s : State) (o k : Nat) : Bool := !(portLit s o k) && rbit s (rPortCfg o) k && !(rbit s (rPortStatus o) k)

def portsFree (s : State) (o : Nat) : Nat := ((List.range 12).filter (portEligible s o)).length

def sumOver (n : Nat) (f : Nat → Nat) : Nat := (List.range n).foldl (fun a i => a + f i) 0

def bitsOver (n : Nat) (f : Nat → Bool) : Nat := (List.range n).foldl (fun a i => a + b2n (f i) * 2 ^ i) 0

/-- HEALTH_0 (R446). -/
def health0 (s : State) : Nat :=
  sumOver (nParts s) (coresInService s) + bitsOver (nParts s) (partUp s) * 2 ^ 32 + bitsOver 8 (optUp s) * 2 ^ 48
    + bitsOver 8 (fun g => optPresent s g && rbit s (rGpStatus g) 0) * 2 ^ 56

/-- HEALTH_1 without CAP_SEQ (R446). -/
def health1 (s : State) : Nat :=
  sumOver (nParts s) (fun p => sumOver 4 (channelsOut s p))
    + sumOver 8 (fun o => if optUp s o then linksUp s o else 0) * 2 ^ 12
    + sumOver 8 (fun o => if optUp s o then portsFree s o else 0) % 64 * 2 ^ 19

/-- Role of wavelength w in an engine's table of a direction (R313). -/
def roleOf (s : State) (o e : Nat) (rx : Bool) (w : Nat) : Nat :=
  rfld s (rRole o e rx (w / 12)) (5 * (w % 12) + 4) (5 * (w % 12))

def setRole (s : State) (o e : Nat) (rx : Bool) (w r : Nat) : State :=
  setRfld s (rRole o e rx (w / 12)) (5 * (w % 12) + 4) (5 * (w % 12)) r

/-- Free spare wavelengths of a direction, ascending. -/
def freeSpares (s : State) (o e : Nat) (rx : Bool) : List Nat := (List.range 20).filter (fun w => roleOf s o e rx w == 0x11)

/-- Whether any of the die's clusters has no spare core left. -/
def coreSparesGone (s : State) : Bool := s.coreGone.any (fun c => coreSpares s (c.1 / 128 / 42) (c.1 / 128 % 42) == 0)

/-- Whether any die has no spare cluster left. -/
def clusterSparesGone (s : State) : Bool :=
  (s.clGone.map (fun c => c.1 / 42)).any (fun d => (spareClusters s d).isEmpty)

/-- The conditions of SVC_STATUS (R447). -/
def svcNow (s : State) : Nat :=
  bitsOver 11 (fun i =>
    match i with
    | 0 => coreSparesGone s
    | 1 => clusterSparesGone s
    | 2 => !s.ucieDown.isEmpty
    | 3 => (List.range 8).any (fun o => optUp s o && (List.range 8).any (fun e =>
             (freeSpares s o e false).isEmpty || (freeSpares s o e true).isEmpty))
    | 4 => (List.range 8).any (fun o => optUp s o && rfld s (rPortStatus o) 31 28 != 0)
    | 5 => (List.range 8).any (fun o => optUp s o && (List.range 40).any (fun l => rbit s (rLaser o 0 l) 32))
    | 6 => (List.range (nParts s)).any (fun p => (List.range 4).any (fun n => channelsOut s p n != 0))
    | 7 => rbit s rCoolStatus 3
    | 8 => s.partOut.any (fun c => c.1 < nParts s && c.2 != 3)
    | 9 => s.opts.any (fun c => optPresent s c.1 && c.2.out.isSome)
    | _ => rfld s rFwStatus 3 2 != 3)

/-- HEALTH_0, HEALTH_1 and SVC_STATUS brought up to date with the state: CAP_SEQ and its leaf on a change, a leaf for each
condition that begins, an event for any that does (R446, R447). -/
def health (s : State) : State :=
  if !(running s) then s
  else
    let h0 := health0 s
    let h1 := health1 s
    let s :=
      if h0 = (reg s rHealth0).toNat ∧ h1 = rfld s rHealth1 31 0 then s
      else
        let seq := (rfld s rHealth1 63 32 + 1) % 2 ^ 32
        leaf (setReg (setReg s rHealth0 (BitVec.ofNat 64 h0)) rHealth1 (BitVec.ofNat 64 (h1 + seq * 2 ^ 32))) 30 11
    let old := (reg s rSvcStatus).toNat
    let new := svcNow s
    let s := setReg s rSvcStatus (BitVec.ofNat 64 new)
    let rise := (List.range 11).filter (fun i => nbit new i && !(nbit old i))
    if rise.isEmpty then s
    else emit (rise.foldl (fun s i => leaf s 30 i) s) 0x0060 0 [(8, old), (8, new)]

/-! ## Uncorrectable errors in device memory (R173, R206, R212) -/

/-- An HBM channel fenced: its bits in both maps clear, FENCED and the leaf set, the event written, the fence kept for the
next training (R212). -/
def fenceChannel (s : State) (p n ch addr : Nat) : State :=
  let s := setRbit (setRbit s (rHbmStatus p n) ch false) (rHbmStatus p n) 42 true
  let d := 4 * p + n
  let s := capChange s d [(3, (setBit (reg s (rDieCap d 3)) ch false).toNat)]
  let s := { s with chFence := mput (d * 32 + ch) () s.chFence, calDirty := true }
  health (leaf (emit s 0x0023 (srcDie d 0x3F) [(1, ch), (8, addr)]) p 53)

/-- The number of the state stack that holds a byte of a partition's memory, if one does. -/
def stackAt (p off : Nat) : Option Nat := if stkBase ≤ off ∧ off < stkEnd then some (4 * p + (off - stkBase) / 2 ^ 37) else none

/-- An error that a stack's ECC corrects is counted: by a state stack for CE_COUNT (R159), by an HBM stack (R206). -/
def foundCe (s : State) (p off : Nat) : State :=
  match stackAt p off with
  | some k =>
    let st := getStack s k
    setStack s k { st with ce := st.ce + 1 }
  | none =>
    let k := 4 * p + (hbmPlace s p off).1
    { s with hbmCe := mput k (mget 0 s.hbmCe k + 1) s.hbmCe }

/-- An uncorrectable error that an access to a byte of a partition's memory finds: the word stays in error, the event names the
stack, the leaf is set, the stack counts it; the eighth of an HBM channel within 1 s fences it. -/
def foundUe (s : State) (p off : Nat) : State :=
  let k := memKey p off
  let ga := gaOf s k
  let s := { s with ue := mput (k / 8) () s.ue }
  let unit := match stackAt p off with
    | some k => srcStack k
    | none => srcDie (4 * p + (hbmPlace s p off).1) 0x3F
  let src := if (stackAt p off).isSome then unit else srcHub p
  let s := leaf (emit s 0x0024 src [(8, ga), (2, Config.code 0x24 unit % 65536)]) p 49
  if stkBase ≤ off then
    let n := (off - stkBase) / 2 ^ 37
    let st := getStack s (4 * p + n)
    setStack s (4 * p + n) { st with ueCount := st.ueCount + 1 }
  else match hbmChannel s p off with
    | none => s
    | some (n, ch) =>
      let key := (4 * p + n) * 32 + ch
      let times := (s.timebase :: mget [] s.chUe key).filter (fun t => s.timebase < t + 1000000000)
      let s := { s with chUe := mput key times s.chUe }
      if times.length ≥ 8 then fenceChannel s p n ch ga else s

end Sys2Proof.Machine
end

