-- ==== Sys2Proof/Machine/Bramble.lean ====
section
/-! DEFINITION. The Bramble rings of a compute die: credits, injection, ejection, deflection, bridges and cut-out stops (R284 to R294). -/
namespace Sys2Proof.Machine

/-! ## Places (R284) -/

/-- Whether a ring has a stop. -/
def brHas (ring stop : Nat) : Bool := stop < 16 && (stop != 10 || ring % 2 == 0)

/-- The stops of a ring in clockwise order. -/
def brOrder (ring : Nat) : List Nat := [13, 0, 1, 2, 3, 4, 11, 5, 6, 7, 8, 9, 10, 15, 12, 14].filter (brHas ring)

/-- Slots per direction (R285). -/
def brSlots (ring : Nat) : Nat := 2 * (brOrder ring).length

/-- Ring and stop of a physical cluster. -/
def clStop (c : Nat) : Nat × Nat :=
  if c < 11 then (0, c) else if c < 21 then (1, c - 11) else if c < 32 then (2, c - 21) else (3, c - 32)

/-- The physical cluster at a stop. -/
def stopCl (ring stop : Nat) : Nat := (match ring with
  | 0 => 0
  | 1 => 11
  | 2 => 21
  | _ => 32) + stop

/-- The place of a stop in the clockwise order. -/
def brPlace (ring stop : Nat) : Nat := ((findIdx (· == stop) (brOrder ring) 0).map (·.1)).getD 0

/-- Clockwise where that way has no more hops (R286). -/
def brCw (ring src dst : Nat) : Bool :=
  let n := (brOrder ring).length
  let h := (brPlace ring dst + n - brPlace ring src) % n
  h ≤ n - h

/-- The stop of this ring a packet goes to next (R286). -/
def brNext (ring : Nat) (x : BrSlot) : Nat :=
  if x.dstRing = ring then x.dstStop else if x.dstRing = (ring + 3) % 4 then 12 else 11

/-- A bridge's ring on the other side, and its stop there. -/
def brOther (ring stop : Nat) : Nat × Nat := if stop = 11 then ((ring + 1) % 4, 12) else ((ring + 3) % 4, 11)

def isBridge (stop : Nat) : Bool := stop == 11 || stop == 12

/-! ## Parts of the state -/

def brKey (die ring : Nat) (cw : Bool) : Nat := 8 * die + 2 * ring + b2n (!cw)

def getRing' (s : State) (die ring : Nat) (cw : Bool) : BrRing := mget {} s.brRings (brKey die ring cw)

def setRing' (s : State) (die ring : Nat) (cw : Bool) (r : BrRing) : State := { s with brRings := mput (brKey die ring cw) r s.brRings }

def stopKey (die ring stop : Nat) : Nat := 64 * die + 16 * ring + stop

def getStop (s : State) (die ring stop : Nat) : BrStop := mget {} s.brStops (stopKey die ring stop)

def setStop (s : State) (die ring stop : Nat) (x : BrStop) : State := { s with brStops := mput (stopKey die ring stop) x s.brStops }

/-- COUNT of a direction's token (R287). -/
def brCount (s : State) (die ring : Nat) (cw : Bool) : Nat := brSlots ring - (getRing' s die ring cw).taken

/-- Whether a cluster stop stands in pass-through: its cluster serves no logical number (R31, R294). -/
def brPass (s : State) (die ring stop : Nat) : Bool := stop < 11 && !((servingClusters s die).contains (stopCl ring stop))

/-! ## Injection (R287, R288, R293) -/

/-- A packet in line as its stop would inject it now: the destination by the map, and the epoch, current at this moment (R285,
R293, R304). A packet that enters from the hub keeps its own epoch tag. -/
def brStamp (s : State) (die ring stop : Nat) (k : BrWait) : BrSlot :=
  match k.dst with
  | none => k.slot
  | some d =>
    let p := match d with
      | .cluster l => clStop (physCluster s die l)
      | .unit r t => (r, t)
    { k.slot with
      epoch := if stop = 13 ∨ stop = 14 then k.slot.epoch else rfld s rEpochCur 1 0,
      srcRing := ring, srcStop := stop, dstRing := p.1, dstStop := p.2 }

/-- A packet put in line at its source. -/
def brEnter (k : BrPacket) : BrWait :=
  { slot := { cls := k.cls, ty := k.ty, units := k.units, epoch := k.epoch, tag := k.tag, domain := k.domain, txid := k.txid,
              target := k.target, poison := k.poison, payload := k.payload, last := k.last },
    dst := some k.dst }

/-- The packets of a stop's line that will take a direction, in order (R286). -/
def brLine (s : State) (a : BrAt) : List BrWait :=
  (getStop s a.die a.ring a.stop).wait.filter (fun k =>
    brCw a.ring a.stop (brNext a.ring (brStamp s a.die a.ring a.stop k)) == a.cw)

/-- A packet put in line at a stop; the wait for a credit begins with the first (R288). -/
def brWait (s : State) (die ring stop : Nat) (k : BrWait) : State :=
  let t := getStop s die ring stop
  setStop s die ring stop { t with wait := t.wait ++ [k] }

/-- The lowest empty slot of a direction; a stop with a credit fills the next that passes (R287). -/
def emptySlot (r : BrRing) (n : Nat) : Nat := ((List.range n).find? (fun i => (mfind r.slots i).isNone)).getD n

/-- A buffer of a bridge that frees goes to the head of its reservation queue (R289, R290). -/
def giveBuffer (cap : Nat) (x : BrStop) : BrStop :=
  match x.resv with
  | h :: t => if x.buf.length + x.given.length < cap then { x with resv := t, given := x.given ++ [h] } else x
  | [] => x

/-- The stream channel that a stream packet's TARGET names; where the number stands in it is not given (log entry 57). -/
def brChannel (target : Word) : Nat := Config.code 0x285 target.toNat % 32

/-- The stop's bookkeeping of a packet it injects: its number, and a memory request's transaction. -/
def brSent (t : BrStop) (x : BrSlot) (time : Nat) : BrStop :=
  { t with sent := t.sent + 1, opened := if x.cls = 0 then mput x.txid time t.opened else t.opened }

/-- The first packet in line for a direction injected. A bridge's packet leaves its entry buffer on the other ring (R290); a stream
packet from the hub holds its channel (R172). -/
def brInject (s : State) (a : BrAt) : State :=
  match brLine s a with
  | [] => s
  | k :: _ =>
    let t := getStop s a.die a.ring a.stop
    let r := getRing' s a.die a.ring a.cw
    let y := brStamp s a.die a.ring a.stop k
    let x := { y with defl := 0, urgent := false, seq := if k.dst.isSome then t.sent else y.seq }
    let t := { t with wait := t.wait.erase k }
    let t := if a.cw then { t with passCw := 0 } else { t with passCcw := 0 }
    let s := setRing' s a.die a.ring a.cw { r with slots := mput (emptySlot r (brSlots a.ring)) x r.slots }
    let s := setStop s a.die a.ring a.stop (if k.dst.isSome then brSent t x s.timebase else t)
    let s := if x.cls = 2 ∧ k.dst.isSome then { s with streams := mput (32 * a.die + brChannel x.target) () s.streams } else s
    if isBridge a.stop then
      let o := brOther a.ring a.stop
      let e := getStop s a.die o.1 o.2
      setStop s a.die o.1 o.2 (giveBuffer 4 { e with buf := e.buf.erase k.slot })
    else s

/-- The units a stop owes the token returned to COUNT (R287). -/
def brReturn (s : State) (a : BrAt) : State :=
  let t := getStop s a.die a.ring a.stop
  let r := getRing' s a.die a.ring a.cw
  setRing' (setStop s a.die a.ring a.stop (if a.cw then { t with oweCw := 0 } else { t with oweCcw := 0 })) a.die a.ring a.cw
    { r with taken := r.taken - (if a.cw then t.oweCw else t.oweCcw) }

/-- A pass of the token without a credit for a stop that waits: the pass at which its line begins is the start of its wait; after
four revolutions, a bridge at once, it sets its mark (R288). -/
def brMark (s : State) (a : BrAt) (began : Bool) : State :=
  let t := getStop s a.die a.ring a.stop
  let n := if began then 0 else (if a.cw then t.passCw else t.passCcw) + 1
  let s := setStop s a.die a.ring a.stop (if a.cw then { t with passCw := n } else { t with passCcw := n })
  let r := getRing' s a.die a.ring a.cw
  if (n ≥ 4 ∨ isBridge a.stop) ∧ !(r.marks.contains a.stop) then setRing' s a.die a.ring a.cw { r with marks := r.marks ++ [a.stop] }
  else s

/-- The token allows a stop a credit: no mark, or its own first, and units enough (R287, R288). -/
def brCredit (s : State) (a : BrAt) : Bool :=
  (match (getRing' s a.die a.ring a.cw).marks with
   | [] => true
   | m :: _ => m == a.stop) && (if isBridge a.stop then 1 else 2) ≤ brCount s a.die a.ring a.cw

/-- The token passes a stop: it returns units, may take a credit and injects with it, or waits on. A stop in pass-through takes no
credit (R294). -/
def brToken (s : State) (a : BrAt) (began : Bool) : State :=
  let s := brReturn s a
  if (brLine s a).isEmpty ∨ brPass s a.die a.ring a.stop then s
  else if brCredit s a then
    let r := getRing' s a.die a.ring a.cw
    brInject (setRing' s a.die a.ring a.cw { r with taken := r.taken + 1, marks := r.marks.filter (fun m => m != a.stop) }) a
  else brMark s a began

/-- A place exists: a die of the package, a stop of the ring. -/
def brAtOk (s : State) (a : BrAt) : Bool := a.die < 4 * nParts s && brHas a.ring a.stop

/-- BRAMBLE_TOKEN: a packet may join the stop's line as the token comes; then the token passes (R287, R288). -/
def execBrambleToken (a : BrAt) (k : Option BrPacket) (s : State) : Out :=
  guardWf (brTokenWf a k) (.next (
    if !(running s) ∨ !(brAtOk s a) then s
    else match k with
      | none => brToken s a false
      | some k =>
        let began := (brLine s a).isEmpty
        brToken (brWait s a.die a.ring a.stop (brEnter k)) a began))

/-! ## Arrival (R289 to R291, R294) -/

/-- A slot freed at a stop, which owes the token a unit. -/
def brFree (s : State) (a : BrAt) (slot : Nat) : State :=
  let r := getRing' s a.die a.ring a.cw
  let s := setRing' s a.die a.ring a.cw { r with slots := mdel slot r.slots }
  let t := getStop s a.die a.ring a.stop
  setStop s a.die a.ring a.stop (if a.cw then { t with oweCw := t.oweCw + 1 } else { t with oweCcw := t.oweCcw + 1 })

/-- A packet ejected: into a buffer of its unit, or through a bridge into line on the next ring. -/
def brEject (s : State) (a : BrAt) (slot : Nat) (x : BrSlot) : State :=
  let s := brFree s a slot
  let t := getStop s a.die a.ring a.stop
  let s := setStop s a.die a.ring a.stop { t with buf := t.buf ++ [x], given := t.given.filter (fun g => g != (a.cw, slot)) }
  if isBridge a.stop then
    let o := brOther a.ring a.stop
    brWait s a.die o.1 o.2 { slot := x }
  else s

/-- A packet that stays in its slot with its header changed. -/
def brStay (s : State) (a : BrAt) (slot : Nat) (x : BrSlot) : State :=
  let r := getRing' s a.die a.ring a.cw
  setRing' s a.die a.ring a.cw { r with slots := mput slot x r.slots }

/-- A packet at its stop: ejected where a buffer is its to take, else deflected; at the 16th deflection it reserves (R289, R290). -/
def brReach (s : State) (a : BrAt) (slot : Nat) (x : BrSlot) : State :=
  let t := getStop s a.die a.ring a.stop
  let bridge := isBridge a.stop
  let used := t.buf.length + t.given.length
  if x.urgent then (if t.given.contains (a.cw, slot) then brEject s a slot x else brStay s a slot x)
  else if used < (if bridge then 3 else 8) then brEject s a slot x
  else
    let x := { x with defl := x.defl + 1 }
    if x.defl < 16 then brStay s a slot x
    else
      let s := brStay s a slot { x with urgent := true }
      setStop s a.die a.ring a.stop (giveBuffer (if bridge then 4 else 8) { t with resv := t.resv ++ [(a.cw, slot)] })

/-- The answer of a unit to a memory request, with a status other than OK; its TYPE is not given (log entry 42). -/
def brAnswer (x : BrSlot) (st : Status) (ring stop : Nat) (seq : Nat) : BrSlot :=
  { x with cls := 1, ty := Config.code 0x294 (stCode st) % 16, units := 0, payload := 0, poison := false, dstRing := x.srcRing,
           dstStop := x.srcStop, srcRing := ring, srcStop := stop, defl := 0, urgent := false, st := st, seq := seq, last := false }

/-- A stream channel let go (R172, R294). -/
def brRelease (s : State) (die : Nat) (x : BrSlot) : State := { s with streams := mdel (32 * die + brChannel x.target) s.streams }

/-- A packet that names a cut-out stop: a memory request turns back with LINK_LOST; a response is discarded, and a stream packet,
with its channel (R294). -/
def brCutOut (s : State) (a : BrAt) (slot : Nat) (x : BrSlot) : State :=
  if x.cls = 0 then
    let t := getStop s a.die a.ring a.stop
    brStay (setStop s a.die a.ring a.stop { t with sent := t.sent + 1 }) a slot (brAnswer x .linkLost a.ring a.stop t.sent)
  else
    let s := brFree s a slot
    if x.cls = 2 then brRelease s a.die x else s

/-- BRAMBLE_ARRIVAL: the packet of a slot reaches the stop it goes to on this ring (R286, R289, R291, R294). A request whose header
is lost stays under way until its link timeout. -/
def execBrambleArrival (a : BrAt) (slot : Nat) (e : BrErr) (s : State) : Out :=
  guardWf (brAtWf a) (.next (
    match mfind (getRing' s a.die a.ring a.cw).slots slot with
    | none => s
    | some x =>
      if !(running s) ∨ !(brAtOk s a) then s
      else if e = .header then emit (brFree s a slot) 0x0026 (srcDie a.die 0x3F) [(1, a.ring), (1, a.stop)]
      else if brNext a.ring x ≠ a.stop then s
      else
        let x := if e = .payload then { x with poison := true } else x
        if brPass s a.die a.ring a.stop then brCutOut s a slot x
        else brReach s a slot x))

/-! ## Draining (R289, R291, R292) -/

/-- An earlier packet of the same source, class and destination. -/
def brBefore (x y : BrSlot) : Bool :=
  y.srcRing == x.srcRing && y.srcStop == x.srcStop && y.cls == x.cls && y.dstRing == x.dstRing && y.dstStop == x.dstStop && y.seq < x.seq

/-- An earlier packet of the same source and class is still on its way: in a slot of the die, or at a bridge (R292). -/
def brBehind (s : State) (die : Nat) (x : BrSlot) : Bool :=
  s.brRings.any (fun e => e.1 / 8 == die && e.2.slots.any (fun y => brBefore x y.2))
    || s.brStops.any (fun e => e.1 / 64 == die && e.2.wait.any (fun k => k.dst.isNone && brBefore x k.slot))

/-- A unit takes a packet from its ejection buffer: a poisoned request is answered with FAULT_MEM; a response ends its transaction,
a poisoned one with FAULT_MEM; the last of a stream lets its channel go (R172, R291). -/
def brTake (s : State) (die ring stop : Nat) (x : BrSlot) : State :=
  let t := getStop s die ring stop
  match x.cls with
  | 0 =>
    if x.poison then
      brWait (setStop s die ring stop { t with sent := t.sent + 1 }) die ring stop { slot := brAnswer x .faultMem ring stop t.sent }
    else s
  | 1 =>
    setStop s die ring stop { t with opened := mdel x.txid t.opened,
                                     ended := mput x.txid (if x.poison then .faultMem else x.st) t.ended }
  | 2 => if x.last then brRelease s die x else s
  | _ => s

/-- A stop's unit takes the packets of its buffers, in order; one that came early stays behind the earlier of its source and class;
what is freed goes to reservations (R289, R292). -/
def brDrainStop (s : State) (key : Nat) : State :=
  let die := key / 64
  let ring := key / 16 % 4
  let stop := key % 16
  if isBridge stop then s
  else
    let l := (getStop s die ring stop).buf
    let early := l.filter (brBehind s die)
    let s := setStop s die ring stop { getStop s die ring stop with buf := early }
    let s := (l.filter (fun x => !(brBehind s die x))).foldl (fun s x => brTake s die ring stop x) s
    setStop s die ring stop ((List.range 8).foldl (fun x _ => giveBuffer 8 x) (getStop s die ring stop))

/-- Each unit has drained its stop's ejection buffers (R289). -/
def brDrain (s : State) : State := (s.brStops.map (·.1)).foldl brDrainStop s

end Sys2Proof.Machine
end

