-- ==== Sys2Proof/Machine/Admin.lean ====
section
/-! DEFINITION. Who may write BAR0, and where a write goes nowhere (R5, R23, R252, R452, R462, R496, R497, R500). -/
namespace Sys2Proof.Machine

/-- The administrator that ADMIN_LOCK names as OWNER (R252). -/
def ownerTenant (s : State) : Option Nat :=
  match rfld s rAdminLock 1 0 with
  | 1 => some 0
  | 2 => some 256
  | _ => none

/-- The lease restarts at a write of the owner (R252). -/
def renewLease (s : State) : State := setRbit { s with leaseAt := s.timebase } rAdminLock 5 false

/-- What a BAR0 block does with a write (R5, R23, R462). -/
inductive Reach where
  | open_ | absent | notReady | unreachable
  deriving DecidableEq, Repr

/-- The reach of a block: tenants 256 to 511 are absent with PCIE_MODE = 1 (R456); R462 holds off partition and optical die
blocks. -/
def blockReach (s : State) : Block → Reach
  | .pkg => .open_
  | .ten t => if 256 ≤ t ∧ rbit s rStrap 5 then .absent else .open_
  | .part p =>
    if p ≥ nParts s then .absent
    else if !(rbit s rDevStatus (16 + p)) then .notReady
    else if !(saleyPath s p) then .unreachable
    else .open_
  | .opt o =>
    if !(optPresent s o) then .absent
    else if (mget ({} : OptSt) s.opts o).ready then .open_
    else .notReady
  | .gp g =>
    if !(optPresent s g) then .absent else .open_

/-- The first access to a partition out of reach is recorded (R23). -/
def noteUnreach (s : State) (p off tenant : Nat) (write : Bool) : State :=
  if (mfind s.unreach p).isSome then s
  else emit { s with unreach := mput p () s.unreach } 0x0038 0 [(1, p), (8, off), (8, tenant), (1, b2n write)]

/-- BAR0 takes writes: the firmware runs, and does not restart now (R452, R461, R500). -/
def bar0Open (s : State) : Bool := running s && !s.restarting

/-- A BAR0 write of an administrator to an offset: `k` where it takes effect, else discarded, with the record its rule
names. ADMIN_LOCK has its own rule (R252). -/
def adminWrite (s : State) (tenant off : Nat) (k : State → State) : State :=
  if !(bar0Open s) then s
  else if ownerTenant s ≠ some tenant then writeRefused s off tenant
  else
    let s := renewLease s
    match blockReach s (blockOf off).1 with
    | .open_ => k s
    | .absent => writeRefused s off tenant
    | .notReady => s
    | .unreachable =>
      match (blockOf off).1 with
      | .part p => noteUnreach s p off tenant true
      | _ => s

/-- An 8-byte write to a register by its access codes (R13). -/
def writeReg (s : State) (off : Nat) (v : Word) : State :=
  match regDesc off with
  | some d => setReg s off (writeBits d (reg s off) v (BitVec.allOnes 64))
  | none => s

/-- A command that is a BAR0 write: only the two physical functions have BAR0 (R495). -/
def adminCmd (s : State) (tenant off : Nat) (k : State → State) : Out :=
  guardWf (tenant == 0 || tenant == 256) (.next (adminWrite s tenant off k))

end Sys2Proof.Machine
end

