-- ==== Sys2Proof/Machine/Wire.lean ====
section
/-! DEFINITION. Melux on the wire: line coding, alignment markers, flits, packets and control messages (R334 to R343). -/
namespace Sys2Proof.Machine

/-! ## CRC-64 of a flit (R339) -/

/-- One bit of the reflected division by 0x42F0_E1EB_A9EA_3693. -/
def crc64Bit (c : BitVec 64) : BitVec 64 := if c.getLsbD 0 then (c >>> 1) ^^^ 0xC96C5795D7870F42#64 else c >>> 1

/-- One byte. -/
def crc64Byte (c : BitVec 64) (b : Byte) : BitVec 64 :=
  let c := c ^^^ b.setWidth 64
  crc64Bit (crc64Bit (crc64Bit (crc64Bit (crc64Bit (crc64Bit (crc64Bit (crc64Bit c)))))))

/-- CRC-64 of a list of bytes: initial value and final XOR all ones. -/
def crc64 (l : List Byte) : BitVec 64 := ~~~ (l.foldl crc64Byte (BitVec.allOnes 64))

/-! ## Flits (R338) -/

/-- The header of a flit (R338). -/
structure FlitHead where
  kind : Nat
  sop : Bool := false
  eop : Bool := false
  valid : Nat := 0
  cls : Nat := 0
  seq : Nat := 0
  ack : Nat := 0
  ackV : Bool := false
  nak : Bool := false
  deriving DecidableEq, Repr

/-- The header word. -/
def FlitHead.word (h : FlitHead) : Nat :=
  h.kind % 8 + 2 ^ 3 * b2n h.sop + 2 ^ 4 * b2n h.eop + 2 ^ 5 * (h.valid % 256) + 2 ^ 13 * (h.cls % 4) + 2 ^ 16 * (h.seq % 4096)
    + 2 ^ 28 * (h.ack % 4096) + 2 ^ 40 * b2n h.ackV + 2 ^ 41 * b2n h.nak

/-- A list of bytes made n long: zeros follow. -/
def padTo (n : Nat) (l : List Byte) : List Byte := (l ++ List.replicate (n - l.length) 0).take n

/-- The 256 bytes of a flit: header, 240 bytes of payload, CRC (R338, R339). -/
def flitBytes (h : FlitHead) (payload : List Byte) : List Byte :=
  let body := toBytes 8 h.word ++ padTo 240 payload
  body ++ toBytes 8 (crc64 body).toNat

/-- A flit as its 2,048 bits; bit i of the flit is bit i mod 8 of byte i / 8, the order in which they are sent (R334). -/
def flitBits (h : FlitHead) (payload : List Byte) : BitVec 2048 := BitVec.ofNat 2048 (ofBytes (flitBytes h payload))

/-- The header of a flit's bits. -/
def headOf (f : BitVec 2048) : FlitHead :=
  let b (i : Nat) : Bool := f.getLsbD i
  { kind := fld f 2 0, sop := b 3, eop := b 4, valid := fld f 12 5, cls := fld f 14 13, seq := fld f 27 16, ack := fld f 39 28,
    ackV := b 40, nak := b 41 }

/-- The 240 bytes of payload. -/
def payloadOf (f : BitVec 2048) : List Byte := toBytes 240 (f.toNat / 2 ^ 64)

/-- The CRC passes. -/
def crcGood (f : BitVec 2048) : Bool := (crc64 (toBytes 248 f.toNat)).toNat == nbits f.toNat 2047 1984

/-- The flit is taken: its CRC passes, KIND and CLASS are none of the reserved values and the reserved bits are 0 (R338, R339). The
reserved values of CLASS and a VALID of a data flit outside 1 to 240 count as invalid here: DEDUCED, log entry 58. -/
def flitSound (f : BitVec 2048) : Bool :=
  let h := headOf f
  crcGood f && h.kind < 3 && !(f.getLsbD 15) && nbits f.toNat 63 42 == 0
    && (h.kind != 1 || (h.cls != 3 && 1 ≤ h.valid && h.valid ≤ 240))

/-! ## Packets (R341) -/

/-- The 32 bytes of a packet's header (R341). -/
def packetHead (k : RoutePacket) : List Byte :=
  toBytes 2 (nbits k.target.toNat 63 48) ++ toBytes 2 k.srcPkg ++ toBytes 1 (k.cls % 4 + 4 * (k.typ % 16) + 64 * b2n k.poison + 128 * b2n k.host)
    ++ toBytes 1 (k.domain % 16) ++ toBytes 2 k.jobTag ++ toBytes 2 (k.txid % 4096 + 4096 * (k.srcPart % 16)) ++ toBytes 2 k.dlen
    ++ toBytes 1 k.passed ++ toBytes 1 (k.prio.getD 0 % 8) ++ toBytes 2 0 ++ toBytes 8 k.target.toNat ++ toBytes 8 k.aux.toNat

/-- A packet as it travels: header and data. -/
def packetBytes (k : RoutePacket) : List Byte := packetHead k ++ k.data

/-- The packet that bytes spell, as it enters a hub on a port, a general port's or not: none where they are too few for the DLEN they
give. -/
def packetOf (srcPort : Nat) (gp : Bool) (l : List Byte) : Option RoutePacket :=
  let b (i : Nat) : Nat := bytesAt l i 1
  let dlen := bytesAt l 10 2
  if l.length < 32 + dlen ∨ dlen > 4048 then none
  else some
    { target := BitVec.ofNat 64 (bytesAt l 16 8), domain := b 5 % 16, srcPort := srcPort, hops := 0, issued := false,
      host := nbit (b 4) 7, old := false, op := none, answers := none, cls := b 4 % 4, passed := b 12,
      prio := some (b 13 % 8), typ := b 4 / 4 % 16, poison := nbit (b 4) 6, jobTag := bytesAt l 6 2, txid := bytesAt l 8 2 % 4096,
      srcPkg := bytesAt l 2 2, srcPart := bytesAt l 8 2 / 4096, aux := BitVec.ofNat 64 (bytesAt l 24 8),
      data := (l.drop 32).take dlen, gp := gp, track := [] }

/-- A packet cut into the payloads of its flits, 240 bytes each but the last. -/
def cutPayloads : Nat → List Byte → List (List Byte)
  | 0, _ => []
  | n + 1, l => l.take 240 :: cutPayloads n (l.drop 240)

/-! ## Control messages (R343) -/

/-- A control message (R343). -/
inductive CtlMsg where
  | credit (freed : List Nat)
  | rxPower (omas : List Nat)
  | tsSync (tTx lastRx lastNum num master stratum : Nat) (locked : Bool)
  | steerAnn (t : Nat) (moves : Bool)
  | laneChg (m : LaneChg)
  | roleMap (roles : List Nat) (gen : Nat)
  | calReq (wl : Nat)
  | linkId (m : LinkIdMsg) (version : Nat)
  deriving DecidableEq, Repr

/-- The place of a wavelength's role in ROLE_TX_e and in ROLE_MAP: twelve roles of 5 bits to a word of 64 (R313, R343). -/
def roleBit (w : Nat) : Nat := 64 * (w / 12) + 5 * (w % 12)

/-- Twenty roles in 13 bytes. -/
def packRoles (l : List Nat) : Nat := l.zipIdx.foldl (fun n r => n + (r.1 % 32) * 2 ^ roleBit r.2) 0

/-- The 24 bytes of a message. -/
def CtlMsg.bytes : CtlMsg → List Byte
  | .credit l => padTo 24 (toBytes 2 1 ++ l.flatMap (toBytes 4))
  | .rxPower l => padTo 24 (toBytes 2 2 ++ l.flatMap (toBytes 1))
  | .tsSync t l ln n m st lk =>
    padTo 24 (toBytes 2 3 ++ toBytes 8 t ++ toBytes 8 l ++ toBytes 1 ln ++ toBytes 1 n ++ toBytes 2 m ++ toBytes 1 st ++ toBytes 1 (b2n lk))
  | .steerAnn t m => padTo 24 (toBytes 2 4 ++ toBytes 8 t ++ toBytes 1 (b2n m))
  | .laneChg m =>
    padTo 24 (toBytes 1 5 ++ toBytes 1 m.kind ++ toBytes 1 m.w ++ toBytes 1 m.s ++ toBytes 1 m.role ++ toBytes 4 m.block ++ toBytes 1 m.gen)
  | .roleMap r g => padTo 24 (toBytes 2 6 ++ toBytes 13 (packRoles r) ++ toBytes 1 g)
  | .calReq w => padTo 24 (toBytes 2 7 ++ toBytes 1 w)
  | .linkId m v =>
    padTo 24 (toBytes 2 8 ++ toBytes 2 m.num ++ toBytes 1 (b2n m.switch) ++ toBytes 1 m.die ++ toBytes 1 m.eng ++ toBytes 1 m.port
      ++ toBytes 1 v ++ m.bufs.flatMap (toBytes 2))

/-- The message that 24 bytes spell; none where they are empty or of an unknown TYPE, and ignored (R343). -/
def ctlMsgOf (l : List Byte) : Option CtlMsg :=
  let b (i : Nat) : Nat := bytesAt l i 1
  match b 0 with
  | 1 => some (.credit ((List.range 3).map (fun (i : Nat) => bytesAt l (2 + 4 * i) 4)))
  | 2 => some (.rxPower ((List.range 20).map (fun (i : Nat) => b (2 + i))))
  | 3 => some (.tsSync (bytesAt l 2 8) (bytesAt l 10 8) (b 18) (b 19) (bytesAt l 20 2) (b 22) (nbit (b 23) 0))
  | 4 => some (.steerAnn (bytesAt l 2 8) (b 10 == 1))
  | 5 => some (.laneChg { kind := b 1, w := b 2, s := b 3, role := b 4, block := bytesAt l 5 4, gen := b 9 })
  | 6 => some (.roleMap ((List.range 20).map (fun (i : Nat) => nbits (bytesAt l 2 13) (roleBit i + 4) (roleBit i))) (b 15))
  | 7 => some (.calReq (b 2))
  | 8 =>
    some (.linkId { num := bytesAt l 2 2, switch := b 4 == 1, die := b 5, eng := b 6, port := b 7,
                    bufs := (List.range 3).map (fun (i : Nat) => bytesAt l (9 + 2 * i) 2) } (b 8))
  | _ => none

/-- The payload of a control flit: up to ten messages, the rest empty (R343). -/
def ctlPayload (l : List CtlMsg) : List Byte := padTo 240 ((l.take 10).flatMap CtlMsg.bytes)

/-- The messages of a control flit's payload, in order. -/
def ctlMsgs (p : List Byte) : List CtlMsg := (List.range 10).filterMap (fun (i : Nat) => ctlMsgOf ((p.drop (24 * i)).take 24))

/-! ## Scrambler (R334) -/

/-- One bit through the self-synchronous scrambler 1 + x^39 + x^58: bit k of the state is the bit sent k + 1 bits ago. -/
def scrBit (st : BitVec 58) (b : Bool) : Bool × BitVec 58 :=
  let o := b != (st.getLsbD 38 != st.getLsbD 57)
  (o, (st <<< 1) ||| BitVec.ofNat 58 (b2n o))

/-- One bit back. -/
def descrBit (st : BitVec 58) (b : Bool) : Bool × BitVec 58 :=
  (b != (st.getLsbD 38 != st.getLsbD 57), (st <<< 1) ||| BitVec.ofNat 58 (b2n b))

/-- n bits of a number scrambled, the lowest first. -/
def scramble (st : BitVec 58) : Nat → Nat → List Bool × BitVec 58
  | 0, _ => ([], st)
  | n + 1, v =>
    let r := scrBit st (v % 2 == 1)
    let t := scramble r.2 n (v / 2)
    (r.1 :: t.1, t.2)

/-! ## RS(544,514) over GF(2^10) (R335) -/

/-- Twice an element: the field polynomial is x^10 + x^3 + 1. -/
def gfTwice (a : Nat) : Nat := if a ≥ 512 then Nat.xor (2 * a % 1024) 9 else 2 * a

/-- A product of two elements, bit by bit. -/
def gfMulN : Nat → Nat → Nat → Nat
  | 0, _, _ => 0
  | n + 1, a, b => Nat.xor (if b % 2 = 1 then a else 0) (gfMulN n (gfTwice a) (b / 2))

def gfMul (a b : Nat) : Nat := gfMulN 10 a b

/-- α^n, with α = x. -/
def gfPow : Nat → Nat
  | 0 => 1
  | n + 1 => gfTwice (gfPow n)

/-- A polynomial, its constant first, times x − a. -/
def polyTimes (a : Nat) (l : List Nat) : List Nat := (List.zip (0 :: l) (l ++ [0])).map (fun p => Nat.xor p.1 (gfMul a p.2))

/-- The generator polynomial of IEEE 802.3 Clause 119: the product of x − α^j for j from 0 to 29, its constant first (PRESUMED, log
entry 58). -/
def rsGen : List Nat := (List.range 30).foldl (fun l j => polyTimes (gfPow j) l) [1]

/-- One message symbol through the encoder's 30 registers, the lowest power first. -/
def rsStep (r : List Nat) (m : Nat) : List Nat :=
  let f := Nat.xor m (lget 0 r 29)
  (List.range 30).map (fun (i : Nat) => Nat.xor (if i = 0 then 0 else lget 0 r (i - 1)) (gfMul f (lget 0 rsGen i)))

/-- The 30 parity symbols of 514 message symbols, in the order they are sent (R335). -/
def rsParity (m : List Nat) : List Nat := (m.foldl rsStep (List.replicate 30 0)).reverse

/-- The value of a word of symbols, the first the highest power, at a point: 0 at every α^j of a codeword. -/
def rsEval (w : List Nat) (x : Nat) : Nat := w.foldl (fun a c => Nat.xor (gfMul a x) c) 0

/-! ## Lanes, blocks and markers (R334 to R336) -/

/-- The level of a pair of bits, the first sent first, in Gray-coded PAM4 (R334: IEEE 802.3 Clause 120). -/
def pam4 (a b : Bool) : Nat := if a then (if b then 2 else 3) else if b then 1 else 0

/-- The PAM4 levels of n pairs of bits of a number, the lowest bits first. -/
def pam4s : Nat → Nat → List Nat
  | 0, _ => []
  | n + 1, v => pam4 (v % 2 == 1) (v / 2 % 2 == 1) :: pam4s n (v / 4)

/-- The 340 bits of an alignment marker (R336). -/
def markerBits (lane gen block : Nat) : BitVec 340 :=
  BitVec.ofNat 340 (0x8B1C4E72D0A5 + 2 ^ 48 * (lane % 16) + 2 ^ 52 * (gen % 256) + 2 ^ 60 * (block % 2 ^ 32))

/-- LANE, GEN and BLOCK of what is a marker: SYNC and the reserved bits are right (R336). -/
def markerOf (m : BitVec 340) : Option (Nat × Nat × Nat) :=
  if fld m 47 0 = 0x8B1C4E72D0A5 ∧ fld m 339 92 = 0 then some (fld m 51 48, fld m 59 52, fld m 91 60) else none

/-- Levels put on a lane. -/
def laneOut (o : AMap (List Nat)) (lane : Nat) (l : List Nat) : AMap (List Nat) := mput lane (mget [] o lane ++ l) o

/-- Symbols of ten bits, the first bit the lowest (R335). -/
def symbolsOf : Nat → List Bool → List Nat
  | 0, _ => []
  | n + 1, l => (l.take 10).foldr (fun b a => b2n b + 2 * a) 0 :: symbolsOf n (l.drop 10)

/-- A codeword's symbols dealt to the lanes in turn, five levels each; dealing goes on from symbol number `sym` of the block. -/
def dealSymbols (lanes : List Nat) (sym : Nat) (o : AMap (List Nat)) (w : List Nat) : AMap (List Nat) :=
  w.zipIdx.foldl (fun o c => laneOut o (lget 0 lanes ((sym + c.2) % lanes.length)) (pam4s 5 c.1)) o

/-- The end of a block: shorter lanes get a filler symbol, and after every eighth block each lane sends its marker (R335, R336). What
a filler symbol holds is a free value. -/
def blockEnd (lanes : List Nat) (gen : Nat) (x : LineSt) : LineSt :=
  let past := x.sym % lanes.length
  let b := (x.block + 1) % 2 ^ 32
  let o := if past = 0 then x.out else (lanes.drop past).foldl (fun o l => laneOut o l (pam4s 5 (Config.freeNat l % 1024))) x.out
  let o := if b % 8 = 0 then lanes.foldl (fun o l => laneOut o l (pam4s 170 (markerBits l gen b).toNat)) o else o
  { x with cw := 0, sym := 0, inBlk := 0, block := b, out := o }

/-- Whole codewords of the bits that wait go out. -/
def lineWords (lanes : List Nat) (gen : Nat) : Nat → LineSt → LineSt
  | 0, x => x
  | n + 1, x =>
    if x.bits.length < 5140 then x
    else
      let m := symbolsOf 514 x.bits
      let w := m ++ rsParity m
      let x := { x with bits := x.bits.drop 5140, out := dealSymbols lanes x.sym x.out w, sym := x.sym + 544, cw := x.cw + 1 }
      lineWords lanes gen n (if x.cw = 512 then blockEnd lanes gen x else x)

/-- A flit into the line: scrambled, coded, dealt to the data lanes in service, ascending (R334, R335). -/
def lineFlit (lanes : List Nat) (gen : Nat) (f : BitVec 2048) (x : LineSt) : LineSt :=
  let r := scramble x.scr 2048 f.toNat
  lineWords lanes gen 1 { x with slot := x.slot + 1, inBlk := x.inBlk + 1, scr := r.2, bits := x.bits ++ r.1, out := [] }

end Sys2Proof.Machine
end

