-- ==== Sys2Proof/Machine/CurWire.lean ====
section
/-! DEFINITION. Frames of the Currant wavelength: bytes, CRC, block code (R391). -/
namespace Sys2Proof.Machine

/-- Bytes of the payload of a frame: NELEM words, padded to a multiple of 8 (R391). -/
def curPad (nelem : Nat) : Nat := 8 * cdiv nelem 2

/-- A frame's bytes but for its CRC (R391). -/
def curHead (f : CurFrame) (lseq lack : Nat) : List Byte :=
  toBytes 1 (f.kind % 16 + 16 * (f.op % 16)) ++ toBytes 1 (f.rop % 4 + 4 * (f.dtype % 2) + 8 * (f.nelem % 32)) ++ toBytes 1 lseq ++ toBytes 1 lack
    ++ toBytes 2 f.tid ++ toBytes 2 f.minidx ++ toBytes 4 f.opseq ++ toBytes 1 f.cause ++ toBytes 3 0
    ++ padTo (curPad f.nelem) (f.data.flatMap (fun w => toBytes 4 w.toNat))

/-- A whole frame: the CRC-32C of all earlier bytes, and four zero bytes, end it (R391). -/
def curBytes (f : CurFrame) (lseq lack : Nat) : List Byte :=
  let b := curHead f lseq lack
  b ++ toBytes 4 (crc32c b).toNat ++ toBytes 4 0

/-- A frame that arrives, as its bytes give it: whether its CRC passes and its length is that of its NELEM; LSEQ, LACK; its fields. -/
structure TreeFrame where
  sound : Bool
  lseq : Nat
  lack : Nat
  f : CurFrame
  deriving DecidableEq, Repr

/-- A frame read from its bytes. -/
def treeFrameOf (l : List Byte) : TreeFrame :=
  let b (i : Nat) : Nat := bytesAt l i 1
  let n := b 1 / 8
  let len := 16 + curPad n + 8
  { sound := l.length == len && bytesAt l (len - 8) 4 == (crc32c (l.take (len - 8))).toNat, lseq := b 2, lack := b 3,
    f := { kind := b 0 % 16, op := b 0 / 16, rop := b 1 % 4, dtype := b 1 / 4 % 2, nelem := n, tid := bytesAt l 4 2, minidx := bytesAt l 6 2,
           opseq := bytesAt l 8 4, cause := b 12, data := (List.range n).map (fun (i : Nat) => BitVec.ofNat 32 (bytesAt l (16 + 4 * i) 4)) } }

/-- A block of the 64b/66b code: the two bits of its sync header, the first sent the lower, then 64 scrambled bits (R391: IEEE 802.3
Clause 49; PRESUMED, log entry 58). -/
def curBlock (data : Bool) (v : Nat) (scr : BitVec 58) : BitVec 66 × BitVec 58 :=
  let r := scramble scr 64 v
  (BitVec.ofNat 66 ((if data then 2 else 1) + 4 * r.1.foldr (fun b a => b2n b + 2 * a) 0), r.2)

/-- The data blocks of a frame's bytes, eight to a block. -/
def curData : Nat → List Byte → BitVec 58 → List (BitVec 66) × BitVec 58
  | 0, _, scr => ([], scr)
  | n + 1, l, scr =>
    let a := curBlock true (bytesAt l 0 8) scr
    let r := curData n (l.drop 8) a.2
    (a.1 :: r.1, r.2)

/-- A frame as blocks: a control block of type 0x78 with bytes 1 to 7 zero, then its bytes (R391). -/
def curBlocks (l : List Byte) (scr : BitVec 58) : List (BitVec 66) × BitVec 58 :=
  let a := curBlock false 0x78 scr
  let r := curData (l.length / 8) l a.2
  (a.1 :: r.1, r.2)

/-- An idle block, sent between frames: a control block of type 0x1E with zero bytes (R391: IEEE 802.3 Clause 49). -/
def curIdle (scr : BitVec 58) : BitVec 66 × BitVec 58 := curBlock false 0x1E scr

end Sys2Proof.Machine
end

