-- ==== Sys2Proof/Machine/Tlbs.lean ====
section
/-! DEFINITION. Translation: page tables, the hub TLBs and the cluster TLBs (R220 to R225). -/
namespace Sys2Proof.Machine

/-- 8 bytes of a page table at a global address: an ordinary line read, through the gather port where the table lies in HBM
(R210, R223). -/
def readWord (s : State) (w : Who) (ga : Nat) : Status × Nat × State :=
  let (st, d, l, s) := lineReadN s w ga 8 true
  (st, fld l (8 * (ga % 64) + 63) (8 * (ga % 64)), noteDegraded s w d)

/-- A leaf entry as a translation, if it is sound (R221, R222). -/
def leafEntry (tenant tva e : Nat) (big : Bool) : Option Tlb :=
  if nbits e 5 4 = 3 then none
  else if big ∧ nbits e 29 12 ≠ 0 then none
  else if !big ∧ nbits e 20 12 ≠ 0 then none
  else some { tenant := tenant, big := big,
              vpage := if big then tva / 2 ^ 30 * 512 else tva / 2 ^ 21,
              gpage := e / 2 ^ 21, w := nbit e 2, x := nbit e 3, attr := nbits e 5 4 }

/-- A walk of the tenant's page table by the hub of the issuing partition (R220 to R223). -/
def walk (s : State) (w : Who) (tva : Nat) : Status × Option Tlb × State :=
  let root := (reg s (rTenRoot w.tenant)).toNat
  if root = 0 ∨ root % 2 ^ 21 ≠ 0 ∨ tva ≥ 2 ^ 48 then (.access, none, s)
  else
    match readWord s w (root + 8 * (tva / 2 ^ 30)) with
    | (.ok, e, s) =>
      if !(nbit e 0) ∨ nbits e 11 6 ≠ 0 then (.access, none, s)
      else if nbit e 1 then
        match leafEntry w.tenant tva e true with
        | some t => (.ok, some t, s)
        | none => (.access, none, s)
      else if nbits e 5 4 ≠ 0 then (.access, none, s)
      else
        match readWord s w (e / 4096 * 4096 + 8 * (tva / 2 ^ 21 % 512)) with
        | (.ok, f, s) =>
          if !(nbit f 0) ∨ nbits f 11 6 ≠ 0 ∨ !(nbit f 1) then (.access, none, s)
          else match leafEntry w.tenant tva f false with
            | some t => (.ok, some t, s)
            | none => (.access, none, s)
        | (st, _, s) => (st, none, s)
    | (st, _, s) => (st, none, s)

/-- Whether a translation covers an address of a tenant. -/
def tlbCovers (t : Tlb) (tenant tva : Nat) : Bool :=
  t.tenant == tenant && (if t.big then t.vpage / 512 == tva / 2 ^ 30 else t.vpage == tva / 2 ^ 21)

/-- The hub TLB set of an entry (R224). -/
def hubSet (tenant vpage : Nat) : Nat := (vpage % 2048) ^^^ (tenant % 512)

/-- The entry of a hub TLB that covers an address, made the most recently used of its set. -/
def hubFind (s : State) (p tenant tva : Nat) : Option (Tlb × State) :=
  let h := getHub s p
  let try1 (i : Nat) : Option (Tlb × State) :=
    let l := mget [] h.tlb i
    (l.find? (fun t => tlbCovers t tenant tva)).map (fun t =>
      (t, setHub s p { h with tlb := mput i (t :: l.filter (fun u => u != t)) h.tlb }))
  match try1 (hubSet tenant (tva / 2 ^ 21)) with
  | some r => some r
  | none => try1 (hubSet tenant (tva / 2 ^ 30 * 512))

/-- A translation entered into a hub TLB, the least recently used of its set replaced (R224). -/
def hubFill (s : State) (p : Nat) (t : Tlb) : State :=
  let h := getHub s p
  let i := hubSet t.tenant t.vpage
  setHub s p { h with tlb := mput i ((t :: mget [] h.tlb i).take 8) h.tlb }

/-- The hub's translation: its TLB, then a walk (R223, R224). -/
def hubLookup (s : State) (w : Who) (tva : Nat) : Status × Option Tlb × State :=
  match hubFind s w.part w.tenant tva with
  | some (t, s) => (.ok, some t, s)
  | none =>
    match walk s w tva with
    | (.ok, some t, s) => (.ok, some t, hubFill s w.part t)
    | r => r

/-- The cluster's translation: its TLB, then the hub's (R224). -/
def clLookup (s : State) (cl : Nat) (w : Who) (tva : Nat) : Status × Option Tlb × State :=
  let c := getCl s cl
  match c.tlb.find? (fun t => tlbCovers t w.tenant tva) with
  | some t => (.ok, some t, setCl s cl { c with tlb := t :: c.tlb.filter (fun u => u != t) })
  | none =>
    match hubLookup s w tva with
    | (.ok, some t, s) =>
      let c := getCl s cl
      (.ok, some t, setCl s cl { c with tlb := (t :: c.tlb).take 512 })
    | r => r

/-- What an access needs of its page (R221, R222). -/
inductive Need where
  | read | write | fetch
  deriving DecidableEq, Repr

/-- The global address of an address on a page. -/
def tlbGa (t : Tlb) (tva : Nat) : Nat :=
  if t.big then t.gpage / 512 * 2 ^ 30 + tva % 2 ^ 30 else t.gpage * 2 ^ 21 + tva % 2 ^ 21

/-- A page's permission for a need. -/
def tlbAllows (t : Tlb) : Need → Bool
  | .read => true
  | .write => t.w
  | .fetch => t.x

/-- A translation's outcome: status, global address, attribute. -/
def finish (r : Status × Option Tlb × State) (tva : Nat) (n : Need) : Status × Nat × Nat × State :=
  match r with
  | (.ok, some t, s) => if tlbAllows t n then (.ok, tlbGa t tva, t.attr, s) else (.access, 0, 0, s)
  | (.ok, none, s) => (.access, 0, 0, s)
  | (st, _, s) => (st, 0, 0, s)

/-- A thread's translation through its cluster. -/
def clTranslate (s : State) (cl : Nat) (w : Who) (tva : Nat) (n : Need) : Status × Nat × Nat × State :=
  if tva ≥ 2 ^ 48 then (.access, 0, 0, s) else finish (clLookup s cl w tva) tva n

/-- A hub agent's translation. -/
def hubTranslate (s : State) (w : Who) (tva : Nat) (n : Need) : Status × Nat × Nat × State :=
  if tva ≥ 2 ^ 48 then (.access, 0, 0, s) else finish (hubLookup s w tva) tva n

/-- Whether an invalidation names an entry (R225). -/
def invNames (tenant : Nat) (all : Bool) (page : Nat) (t : Tlb) : Bool :=
  t.tenant == tenant && (all || tlbCovers t tenant (page * 2 ^ 21))

/-- The named entries gone from the partition's hub TLB and its cluster TLBs (R225). -/
def invalidate (s : State) (p tenant : Nat) (all : Bool) (page : Nat) : State :=
  let h := getHub s p
  let s := setHub s p { h with tlb := h.tlb.map (fun e => (e.1, e.2.filter (fun t => !(invNames tenant all page t)))) }
  { s with clusters := s.clusters.map (fun kc =>
      if kc.1 / 160 = p then (kc.1, { kc.2 with tlb := kc.2.tlb.filter (fun t => !(invNames tenant all page t)) }) else kc) }

end Sys2Proof.Machine
end

