-- ==== Sys2Proof/Machine/Rdc.lean ====
section
/-! DEFINITION. Replacement, and the remote-data cache of a hub (R192, R196, R213, R214). -/
namespace Sys2Proof.Machine

/-! ## The pseudo-LRU tree (R192; its shape is PRESUMED, log entry 12) -/

/-- The bits of a way from the top of the tree. -/
def wayBits (w : Nat) : List Bool := [nbit w 3, nbit w 2, nbit w 1, nbit w 0]

/-- The tree with its nodes on a way's path set: pointing away from it (true) or toward it. -/
def treePoint (away : Bool) : BitVec 15 → Nat → List Bool → BitVec 15
  | t, _, [] => t
  | t, n, b :: bs => treePoint away (setBit t n (if away then !b else b)) (2 * n + 1 + b2n b) bs

/-- The way the tree points at. -/
def treeVictim (t : BitVec 15) : Nat → Nat → Nat → Nat
  | 0, _, acc => acc
  | k + 1, n, acc =>
    let b := t.getLsbD n
    treeVictim t k (2 * n + 1 + b2n b) (2 * acc + b2n b)

/-- A way made the most recently used. -/
def promote (t : BitVec 15) (w : Nat) : BitVec 15 := treePoint true t 0 (wayBits w)

/-- A way made the next victim. -/
def demote (t : BitVec 15) (w : Nat) : BitVec 15 := treePoint false t 0 (wayBits w)

/-- The way a miss takes: a USE_ONCE allocation beyond four takes the oldest USE_ONCE line's way (R196); else a free way; else the tree's victim. -/
def victimWay (c : CSet) (useOnce : Bool) : Nat :=
  let once := c.lines.filter (·.useOnce)
  let oldest := once.foldl (fun (a : Option CLine) l => match a with
    | none => some l
    | some b => some (if l.age < b.age then l else b)) none
  match useOnce && once.length ≥ 4, oldest with
  | true, some l => l.way
  | _, _ =>
    match (List.range 16).find? (fun i => !(c.lines.any (·.way == i))) with
    | some i => i
    | none => treeVictim c.tree 4 0 0

/-! ## Policies -/

/-- Replacement after a hit by a policy: 0 NORMAL, 1 USE_ONCE, 2 NO_ALLOC (R196). -/
def hitSet (c : CSet) (l : CLine) (pol : Nat) : CSet :=
  if pol = 0 then
    { lines := c.lines.map (fun m => if m.way = l.way then { m with useOnce := false } else m), tree := promote c.tree l.way }
  else c

/-! ## The remote-data cache (R213, R214) -/

/-- Sets of the remote-data cache: 256 MiB of 64-byte lines in 16 ways; the index is PRESUMED (log entry 12). -/
def rdcSet (ga : Nat) : Nat := ga / 64 % 262144

def rdcFind (s : State) (p ga : Nat) : Option CLine :=
  (mget {} (getHub s p).rdc (rdcSet ga)).lines.find? (·.line == ga / 64)

def rdcPut (s : State) (p i : Nat) (c : CSet) : State :=
  let h := getHub s p
  setHub s p { h with rdc := mput i c h.rdc, rdcTick := h.rdcTick + 1 }

def rdcDrop (s : State) (p ga : Nat) : State :=
  let i := rdcSet ga
  let c := mget {} (getHub s p).rdc i
  if c.lines.any (·.line == ga / 64) then rdcPut s p i { c with lines := c.lines.filter (fun m => m.line != ga / 64) } else s

/-- The line of an address changed in its set, where it is there. -/
def rdcMap (s : State) (p ga : Nat) (f : CLine → CLine) : State :=
  match rdcFind s p ga with
  | none => s
  | some l =>
    let i := rdcSet ga
    let c := mget {} (getHub s p).rdc i
    rdcPut s p i { c with lines := c.lines.map (fun m => if m.way = l.way then f m else m) }

/-- An upset of a remote-data cache line, which the next read of it finds (R214). -/
def rdcUpset (s : State) (p ga : Nat) : State := rdcMap s p ga (fun m => { m with s0 := { m.s0 with ue := true } })

/-- A count register raised by one. -/
def bumpReg (s : State) (off : Nat) : State := setReg s off (reg s off + 1)

/-- The line is homed outside the partition. -/
def foreign (s : State) (p ga : Nat) : Bool := nbits ga 63 48 != pkgNum s || nbits ga 47 44 != p

/-- A line found in error is discarded, and the read is served from home (R214). -/
def rdcScrub (s : State) (p ga : Nat) : State :=
  match rdcFind s p ga with
  | some l => if l.s0.ue then rdcDrop s p ga else s
  | none => s

/-- A fetched line put into the remote-data cache under the policy (R213). -/
def rdcFill (s : State) (w : Who) (ga attr pol : Nat) (v : BitVec 512) : State :=
  let i := rdcSet ga
  let h := getHub s w.part
  let c := mget {} h.rdc i
  let way := victimWay c (pol == 1)
  let l : CLine := { way := way, line := ga / 64, s0 := { data := v, valid := BitVec.allOnes 64, attr := attr }, tag := w.jobTag,
                     dom := w.domain, useOnce := pol == 1, age := h.rdcTick }
  rdcPut s w.part i
    { lines := c.lines.filter (fun m => m.way != way) ++ [l],
      tree := if pol = 1 then demote c.tree way else promote c.tree way }

/-- A read of n bytes within one line by the partition's clusters or copy engine, answered with the line: a foreign cacheable
line is looked up in the remote-data cache, and a miss, which goes out by the cache's own port (R540), is allocated under the
policy; every other line is read at its home. An UNCACHED access discards a line allocated under an earlier attribute. A gather
read allocates nowhere (R197, R210, R213, R214, R238). -/
def partRead (s : State) (w : Who) (ga n attr pol : Nat) (gather : Bool) : Status × Bool × BitVec 512 × State :=
  let s := if attr = 2 then rdcDrop s w.part ga else s
  let cachable := foreign s w.part ga && attr != 2 && rbit s (rRdcCtl w.part) 0
  if !cachable then lineReadN s w ga n gather
  else
    let s := rdcScrub s w.part ga
    match rdcFind s w.part ga with
    | some l =>
      let i := rdcSet ga
      let c := mget {} (getHub s w.part).rdc i
      (.ok, false, l.s0.data, bumpReg (rdcPut s w.part i (hitSet c l pol)) (rRdcHits w.part))
    | none =>
      let s := bumpReg s (rRdcMisses w.part)
      match lineReadN s { w with port := 0x44 } ga n gather with
      | (.ok, d, v, s) => (.ok, d, v, if pol = 2 ∨ gather then s else rdcFill s w (ga / 64 * 64) attr pol v)
      | r => r

/-- Bytes of a line merged under a mask. -/
def mergeBytes (old new : BitVec 512) (mask : BitVec 64) : BitVec 512 :=
  let m := BitVec.ofNat 512 (ofBytes ((List.range 64).map (fun i => if mask.getLsbD i then 0xFF#8 else 0#8)))
  (old &&& ~~~ m) ||| (new &&& m)

/-- A masked write from the partition: forwarded to its home, a remote-data cache line updated on the way and now last written
under the writer's job tag (R198, R213). -/
def partWrite (s : State) (w : Who) (ga : Nat) (mask : BitVec 64) (v : BitVec 512) : Status × Bool × State :=
  let ga := ga / 64 * 64
  let s := rdcMap s w.part ga (fun m =>
    { m with s0 := { m.s0 with data := mergeBytes m.s0.data v mask }, tag := w.jobTag, dom := w.domain })
  lineWrite s w ga mask.toNat v

/-- Lines of a remote-data cache that a test accepts discarded. -/
def discardRdc (s : State) (p : Nat) (test : CLine → Bool) : State :=
  let h := getHub s p
  setHub s p { h with rdc := h.rdc.map (fun ic => (ic.1, { ic.2 with lines := ic.2.lines.filter (fun l => !(test l)) })) }

end Sys2Proof.Machine
end

