-- ==== Sys2Proof/Machine/Cache.lean ====
section
/-! DEFINITION. The cluster cache and the stream prefetchers (R192 to R205). -/
namespace Sys2Proof.Machine

/-- The set of a global address in a cluster cache (R192). -/
def cacheSet (ga : Nat) : Nat := nbits ga 17 7 ^^^ nbits ga 28 18

def getSet (s : State) (cl i : Nat) : CSet := mget {} (getCl s cl).cache i

def putSet (s : State) (cl i : Nat) (c : CSet) : State :=
  let x := getCl s cl
  setCl s cl { x with cache := mput i c x.cache }

/-- The line of a global address in a cluster cache. -/
def cacheFind (s : State) (cl ga : Nat) : Option CLine :=
  (getSet s cl (cacheSet ga)).lines.find? (·.line == ga / 128)

/-- The sector of a line that holds a global address. -/
def sectorOf (l : CLine) (ga : Nat) : Sector := if ga / 64 % 2 = 0 then l.s0 else l.s1

def withSector (l : CLine) (ga : Nat) (x : Sector) : CLine := if ga / 64 % 2 = 0 then { l with s0 := x } else { l with s1 := x }

/-- A line replaced in its set. -/
def putLine (s : State) (cl : Nat) (l : CLine) : State :=
  let i := cacheSet (l.line * 128)
  let c := getSet s cl i
  putSet s cl i { c with lines := c.lines.map (fun m => if m.way = l.way then l else m) }

/-- A line taken out of its set. -/
def dropLine (s : State) (cl ga : Nat) : State :=
  let i := cacheSet ga
  let c := getSet s cl i
  putSet s cl i { c with lines := c.lines.filter (fun m => m.line != ga / 128) }

/-! ## Write-backs and errors (R194, R199, R200) -/

/-- The identity under which a sector's dirty bytes travel: the line's job, the launch that wrote last. -/
def lineWho (w : Who) (l : CLine) (x : Sector) : Who :=
  { w with jobTag := l.tag, domain := l.dom, glob := false, op := x.ops.head? }

/-- A launch that wrote dirty bytes remembers that they were lost, with the status (R199, R200). -/
def opLost (st : Status) (s : State) (po : Nat × Nat) : State :=
  let h := getHub s po.1
  match mfind h.ops po.2 with
  | some x => setHub s po.1 { h with ops := mput po.2 { x with wbFail := some (x.wbFail.getD st) } h.ops }
  | none => s

/-- A failed write-back: its event, and every KERNEL whose bytes it carried remembers the status (R199). -/
def wbFailed (s : State) (ops : List (Nat × Nat)) (ga : Nat) (st : Status) : State :=
  ops.foldl (opLost st) (emit s 0x0025 0 [(8, ga), (1, stCode st)])

/-- An uncorrectable error in a dirty sector: its bytes are lost, the event and the leaf are set (R200). -/
def eccLost (s : State) (cl part ga : Nat) : State :=
  leaf (emit s 0x0024 (srcDie (cl / 40) (physOf s cl)) [(8, ga), (2, cl)]) part 49

/-- A sector's dirty bytes sent to its home as one masked write (R194); whether they arrived. -/
def wbSector (s : State) (cl : Nat) (w : Who) (l : CLine) (ga : Nat) (x : Sector) : Bool × State :=
  if x.dirty = 0 then (true, s)
  else if x.ue then (false, x.ops.foldl (opLost .faultMem) (eccLost s cl w.part ga))
  else
    let (st, d, s) := partWrite s (lineWho w l x) ga x.dirty x.data
    let s := x.ops.foldl (fun s po => noteDegraded s { w with op := some po } d) s
    if st = .ok then (true, s) else (false, wbFailed s x.ops ga st)

/-- A line's dirty sectors written back. -/
def wbLine (s : State) (cl : Nat) (w : Who) (l : CLine) : State :=
  (wbSector (wbSector s cl w l (l.line * 128) l.s0).2 cl w l (l.line * 128 + 64) l.s1).2

def cleanSector (x : Sector) : Sector := { x with dirty := 0, ops := [] }

/-- A line after the write-back of the sectors a test accepts: those clean, one whose write-back failed dropped (R199). -/
def wbKeep (s : State) (cl : Nat) (w : Who) (l : CLine) (test : Sector → Bool) : CLine × State :=
  let one (s : State) (ga : Nat) (x : Sector) : Sector × State :=
    if test x then
      let (ok, s) := wbSector s cl w l ga x
      (if ok then cleanSector x else {}, s)
    else (x, s)
  let (a, s) := one s (l.line * 128) l.s0
  let (b, s) := one s (l.line * 128 + 64) l.s1
  ({ l with s0 := a, s1 := b }, s)

/-- Every dirty sector of a cluster that a test accepts written back; the lines stay, clean. -/
def wbCluster (s : State) (cl : Nat) (part : Nat) (test : CLine → Sector → Bool) : State :=
  (getCl s cl).cache.foldl (fun s ic =>
    ic.2.lines.foldl (fun s l =>
      let t (x : Sector) : Bool := test l x && x.dirty != 0
      if t l.s0 || t l.s1 then
        let (m, s) := wbKeep s cl { part := part, port := cl / 40 % 4 } l t
        putLine s cl m
      else s) s) s

/-- Lines of a cluster that a test accepts discarded. -/
def discardCl (s : State) (cl : Nat) (test : CLine → Bool) : State :=
  let c := getCl s cl
  setCl s cl { c with cache := c.cache.map (fun ic => (ic.1, { ic.2 with lines := ic.2.lines.filter (fun l => !(test l)) })) }

/-- The sectors of a job's lines that were filled under SHARED_CACHED discarded; one that holds dirty bytes keeps exactly
those (R198). -/
def acquireCl (s : State) (cl tag : Nat) : State :=
  let c := getCl s cl
  let keep (x : Sector) : Sector := if x.attr ≠ 1 then x else if x.dirty = 0 then {} else { x with valid := x.dirty }
  let line (l : CLine) : Option CLine :=
    if l.tag ≠ tag then some l
    else
      let m := { l with s0 := keep l.s0, s1 := keep l.s1 }
      if m.s0.valid = 0 ∧ m.s1.valid = 0 then none else some m
  setCl s cl { c with cache := c.cache.map (fun ic => (ic.1, { ic.2 with lines := ic.2.lines.filterMap line })) }

/-- The job's SHARED_CACHED lines of a remote-data cache discarded (R198). -/
def acquireRdc (s : State) (p tag : Nat) : State := discardRdc s p (fun l => l.tag == tag && l.s0.attr == 1)

/-- An upset of a cached sector of a cluster, which the next access or write-back finds (R200). -/
def cacheUpset (s : State) (cl ga : Nat) : State :=
  match cacheFind s cl ga with
  | none => s
  | some l =>
    let x := sectorOf l ga
    if x.valid = 0 then s else putLine s cl (withSector l ga { x with ue := true })

/-- The upsets of an access by a cluster, or by a hub's copy engine, to a global address (R200, R214). -/
def upset (s : State) (cl : Option Nat) (part ga : Nat) (e : Ecc) : State :=
  match e, cl with
  | .good, _ => s
  | .ue, some c => cacheUpset s c ga
  | .ue, none => rdcUpset s part ga
  | .cache g, some c => cacheUpset s c g
  | .cache _, none => s
  | .rdc g, _ => rdcUpset s part g

/-- An access meets its cached sector (R200): one in error is discarded, to be fetched again; a dirty one loses its bytes and the
access fails. The answer says whether it failed. -/
def eccHit (s : State) (cl part ga : Nat) : Bool × State :=
  match cacheFind s cl ga with
  | none => (false, s)
  | some l =>
    let x := sectorOf l ga
    if !x.ue then (false, s)
    else
      let s' := putLine s cl (withSector l ga {})
      if x.dirty = 0 then (false, s') else (true, eccLost s' cl part ga)

/-! ## Loads and stores through the cluster cache -/

/-- A line allocated for a global address; the line in its way is written back first. -/
def allocLine (s : State) (cl : Nat) (w : Who) (ga pol : Nat) : CLine × State :=
  let i := cacheSet ga
  let c := getSet s cl i
  let way := victimWay c (pol == 1)
  let s := match c.lines.find? (·.way == way) with
    | some old => wbLine s cl { w with op := none } old
    | none => s
  let x := getCl s cl
  let c := mget {} x.cache i
  let l : CLine := { way := way, line := ga / 128, tag := w.jobTag, dom := w.domain, useOnce := pol == 1, age := x.tick }
  (l, setCl s cl { x with
    tick := x.tick + 1,
    cache := mput i { lines := c.lines.filter (fun m => m.way != way) ++ [l],
                      tree := if pol = 1 then demote c.tree way else promote c.tree way } x.cache })

/-- The mask of `n` bytes from a byte of a 64-byte sector. -/
def spanMask (ga n : Nat) : BitVec 64 := BitVec.ofNat 64 ((2 ^ n - 1) * 2 ^ (ga % 64))

/-- A sector filled: fetched data merged under the bytes already written (R194). -/
def fillSector (x : Sector) (v : BitVec 512) (attr : Nat) : Sector :=
  { x with data := mergeBytes v x.data x.valid, valid := BitVec.allOnes 64, attr := attr }

/-- The bytes of an access stand valid in the cluster cache. -/
def cacheHolds (s : State) (cl ga n : Nat) : Bool :=
  match cacheFind s cl ga with
  | some l => (sectorOf l ga).valid &&& spanMask ga n == spanMask ga n
  | none => false

/-- A demand access touched a line that a prefetcher had fetched: its lead falls by one and a trained one doubles it (R204). -/
def touchPf (s : State) (cl ga : Nat) : State :=
  match cacheFind s cl ga with
  | none => s
  | some l =>
    match l.pf with
    | none => s
    | some i =>
      let s := putLine s cl { l with pf := none }
      let c := getCl s cl
      let x := vget {} c.pf i
      let y := { x with lead := x.lead - 1, untouched := 0, lastTrig := c.tick,
                        leadMax := if x.directed then x.leadMax else min 64 (2 * x.leadMax) }
      setCl s cl { c with tick := c.tick + 1, pf := vset c.pf i y }

/-- A read of `n` bytes within one 64-byte sector through the cluster cache (R194, R196, R197, R200); a miss that goes through the
gather port allocates nowhere (R210). -/
def cacheLoad (s : State) (cl : Nat) (w : Who) (ga n attr pol : Nat) (gather : Bool) : Status × Bool × Nat × State :=
  let pick (v : BitVec 512) : Nat := fld v (8 * (ga % 64) + 8 * n - 1) (8 * (ga % 64))
  match homeOf s ga with
  | .counter _ _ => counterLoad s w ga n
  | _ =>
  if attr = 2 then
    let s := if (cacheFind s cl ga).isSome then dropLine s cl ga else s
    let (st, d, v, s) := partRead s w ga n attr 2 gather
    (st, d, pick v, s)
  else
    let (lost, s) := eccHit s cl w.part ga
    if lost then (.faultMem, false, 0, s)
    else match cacheFind s cl ga with
    | some l =>
      let i := cacheSet ga
      let s := putSet s cl i (hitSet (getSet s cl i) l pol)
      let l := { l with useOnce := l.useOnce && pol != 0 }
      let x := sectorOf l ga
      if x.valid &&& spanMask ga n = spanMask ga n then (.ok, false, pick x.data, putLine s cl l)
      else
        match partRead s w (ga / 64 * 64) 64 attr pol false with
        | (.ok, d, v, s) =>
          let x := fillSector x v attr
          (.ok, d, pick x.data, putLine s cl { withSector l ga x with tag := w.jobTag, dom := w.domain })
        | (st, d, _, s) => (st, d, 0, s)
    | none =>
      match partRead s w (if gather then ga else ga / 64 * 64) (if gather then n else 64) attr pol gather with
      | (.ok, d, v, s) =>
        if pol = 2 ∨ gather then (.ok, d, pick v, s)
        else
          let (l, s) := allocLine s cl w ga pol
          (.ok, d, pick v, putLine s cl (withSector l ga { data := v, valid := BitVec.allOnes 64, attr := attr }))
      | (st, d, _, s) => (st, d, 0, s)

/-- A load, or a copy's read, whose miss goes through the gather port (R210): its line lies in HBM, it is of at most 32 bytes,
and a load is NO_ALLOC and stays within one 32-byte unit. -/
def gathers (s : State) (ga n pol : Nat) (copy : Bool) : Bool :=
  (match homeOf s ga with
   | .mem _ off => off < hbmEnd
   | _ => false) && n ≤ 32 && (copy || (pol == 2 && ga % 32 + n ≤ 32))

/-- A store of `n` bytes within one sector (R194, R196, R197, R200). -/
def cacheStore (s : State) (cl : Nat) (w : Who) (ga n attr pol v : Nat) : Status × Bool × State :=
  let base := ga / 64 * 64
  let mask := spanMask ga n
  let data := BitVec.ofNat 512 (v * 2 ^ (8 * (ga % 64)))
  let put (x : Sector) : Sector :=
    { data := mergeBytes x.data data mask, valid := x.valid ||| mask, dirty := x.dirty ||| mask,
      attr := if x.valid = 0 then attr else x.attr,
      ops := match w.op with
        | some o => o :: x.ops.filter (fun q => q != o)
        | none => x.ops }
  match homeOf s ga with
  | .counter _ _ => counterStore s w ga n v
  | _ =>
  if attr = 2 then
    let s := if (cacheFind s cl ga).isSome then dropLine s cl ga else s
    partWrite (rdcDrop s w.part base) w base mask data
  else
    let (lost, s) := eccHit s cl w.part ga
    if lost then (.faultMem, false, s)
    else match cacheFind s cl ga with
    | some l =>
      let i := cacheSet ga
      let s := putSet s cl i (hitSet (getSet s cl i) l pol)
      let l := { l with useOnce := l.useOnce && pol != 0 }
      (.ok, false, putLine s cl { withSector l ga (put (sectorOf l ga)) with tag := w.jobTag, dom := w.domain })
    | none =>
      if pol = 2 then partWrite s w base mask data
      else
        let (l, s) := allocLine s cl w ga pol
        (.ok, false, putLine s cl (withSector l ga (put {})))

/-- An atomic from a cluster: an error in its cached sector is found as by any access (R200); the line's dirty bytes are written
back, the line is discarded, and so is a remote-data cache line; the atomic runs at its hub (R195, R213). -/
def cacheAtomic (s : State) (cl : Nat) (w : Who) (ga op v cmp : Nat) : Status × Bool × Nat × State :=
  let (lost, s) := eccHit s cl w.part ga
  if lost then (.faultMem, false, 0, s)
  else
    let s := match cacheFind s cl ga with
      | some l => dropLine (wbLine s cl { w with op := none } l) cl ga
      | none => s
    atomicAt (rdcDrop s w.part ga) w ga op v cmp

/-! ## Prefetch (R126, R202 to R205) -/

/-- One line brought into the cluster cache by a prefetch: whether it did not fail translation or at its home, and whether
anything had to be fetched. A line already valid, or one that no cache may hold, costs nothing (R197, R205). -/
def prefetchLine (s : State) (cl : Nat) (w : Who) (tva pol : Nat) (by_ : Option Nat) : Bool × Bool × State :=
  match clTranslate s cl w tva .read with
  | (.ok, ga, attr, s) =>
    let base := ga / 128 * 128
    if attr = 2 ∨ (cacheHolds s cl base 64 ∧ cacheHolds s cl (base + 64) 64) then (true, false, s)
    else
      let two (s : State) (ga : Nat) : Bool × State :=
        if cacheHolds s cl ga 64 then (true, s)
        else
          let (st, d, _, s) := cacheLoad s cl w ga 64 attr pol false
          (st == .ok, noteDegraded s w d)
      let (a, s) := two s base
      if !a then (false, false, s)
      else
        let (b, s) := two s (base + 64)
        match by_, cacheFind s cl base with
        | some i, some l => (b, true, putLine s cl { l with pf := some i })
        | _, _ => (b, true, s)
  | (_, _, _, s) => (false, false, s)

/-- Lines of a PREF, to the first that fails (R126). -/
def prefetchRun (s : State) (cl : Nat) (w : Who) (pol : Nat) : Nat → Nat → State
  | 0, _ => s
  | n + 1, tva =>
    let (ok, _, s) := prefetchLine s cl w tva pol none
    if ok then prefetchRun s cl w pol n (tva + 128) else s

def putPf (s : State) (cl i : Nat) (x : Pf) : State :=
  let c := getCl s cl
  setCl s cl { c with pf := vset c.pf i x }

/-- The identity under which a prefetcher of a cluster fetches. -/
def pfWho (x : Pf) (cl part : Nat) : Who :=
  { tenant := x.tenant, domain := x.dom, jobTag := x.tag, part := part, port := cl / 40 % 4 }

/-- The next line of a prefetcher stands beyond the edge of the page of the line before, and the cluster TLB holds no entry for
it (R205); a step inside one 1 GiB page meets no edge. -/
def pfEdge (s : State) (cl part : Nat) (x : Pf) : Bool :=
  let before := ((x.next : Int) - x.stride).toNat
  let big := match (hubLookup s (pfWho x cl part) x.next).2.1 with
    | some t => t.big
    | none => false
  x.next / 2 ^ 21 != before / 2 ^ 21 && !(big && x.next / 2 ^ 30 == before / 2 ^ 30)
    && !((getCl s cl).tlb.any (fun t => tlbCovers t x.tenant x.next))

/-- A prefetcher past its line: one that would step below address 0 has met an address that fails translation (R205, R220). -/
def pfNext (x : Pf) (fetched : Bool) : Pf :=
  let next := (x.next : Int) + x.stride
  { x with
    next := next.toNat, running := x.running && 0 ≤ next,
    lead := x.lead + b2n fetched, untouched := x.untouched + b2n fetched,
    left := if x.directed then x.left - 1 else x.left }

/-- A prefetcher runs until it reaches its count, is its lead ahead of demand, or meets a line at which it stops (R202, R204,
R205). It passes at most the given number of lines at a time (log entry 12). -/
def pfRun (s : State) (cl i part : Nat) : Nat → State
  | 0 => s
  | n + 1 =>
    let x := vget {} (getCl s cl).pf i
    if !x.running then s
    else if (x.directed ∧ x.left = 0) ∨ (!x.directed ∧ (x.untouched ≥ 256 ∨ pfEdge s cl part x)) then
      putPf s cl i { x with running := false }
    else if x.lead ≥ x.leadMax then s
    else
      let (ok, fetched, s) := prefetchLine s cl (pfWho x cl part) x.next x.policy (some i)
      if ok then pfRun (putPf s cl i (pfNext x fetched)) cl i part n else putPf s cl i { x with running := false }

/-- Every running prefetcher of a cluster brought up to its lead. -/
def pfAll (s : State) (cl part : Nat) : State :=
  (List.range 32).foldl (fun s i => if (vget {} (getCl s cl).pf i).running then pfRun s cl i part 66 else s) s

/-- The place for a trained prefetcher: an idle one, else the least recently triggered trained one (R202, R203). -/
def pfPlace (c : ClusterSt) : Option Nat :=
  match (List.range 32).find? (fun i => !(vget {} c.pf i).running) with
  | some i => some i
  | none =>
    (List.range 32).foldl (fun a i =>
      let x := vget {} c.pf i
      if x.directed then a
      else match a with
        | none => some i
        | some j => if x.lastTrig < (vget {} c.pf j).lastTrig then some i else a) none

/-- A candidate added; the least recently triggered of 32 makes room (R203). -/
def addCand (l : List Cand) (x : Cand) : List Cand :=
  if l.length < 32 then l ++ [x]
  else
    let old := l.foldl (fun m y => min m y.trig) x.trig
    l.filter (fun y => y.trig != old) ++ [x]

/-- The step from a candidate's last miss to a line: two misses in one line count as a stride of 128 bytes (R203, log entry 12). -/
def candStep (x : Cand) (a : Nat) : Int := if x.last = a then 128 else (a : Int) - x.last

/-- A running prefetcher covers a line address (R203, log entry 12). -/
def pfCovers (x : Pf) (a : Nat) : Bool :=
  x.running && x.stride != 0 && ((a : Int) - x.next) % x.stride == 0 && ((a : Int) - x.next).natAbs ≤ 64 * x.stride.natAbs

/-- The detector at a demand miss of a line address (R203). -/
def detect (s : State) (cl : Nat) (w : Who) (tva pol : Nat) : State :=
  let a := tva / 128 * 128
  let c := getCl s cl
  if c.pf.toList.any (fun x => pfCovers x a) then s
  else match c.cand.find? (fun x => x.stride == some (candStep x a)) with
  | some x =>
    match pfPlace c with
    | none => s
    | some i =>
      let st := x.stride.getD 128
      let next := (a : Int) + st
      let f : Pf :=
        { tenant := w.tenant, dom := w.domain, tag := w.jobTag, running := 0 ≤ next, directed := false,
          next := next.toNat, stride := st, left := 0, policy := pol, lead := 0, leadMax := 4, untouched := 0,
          lastTrig := c.tick }
      pfRun (setCl s cl { c with tick := c.tick + 1, cand := c.cand.filter (fun y => y != x), pf := vset c.pf i f }) cl i w.part 66
  | none =>
    match c.cand.find? (fun x => x.stride.isNone && (candStep x a).natAbs ≤ 4096) with
    | some x =>
      let l := c.cand.map (fun y => if y = x then { last := a, stride := some (candStep x a), trig := c.tick } else y)
      setCl s cl { c with tick := c.tick + 1, cand := l }
    | none =>
      setCl s cl { c with tick := c.tick + 1, cand := addCand c.cand { last := a, stride := none, trig := c.tick } }

/-- A demand read through the cluster cache, a thread's load or a copy's read: it touches a prefetched line, a miss goes to the
detector, and the prefetchers run on (R193, R203, R204). `tva` is the virtual address where the access has one. -/
def demandLoad (s : State) (cl : Nat) (w : Who) (tva : Option Nat) (ga n attr pol : Nat) (copy : Bool) : Status × Bool × Nat × State :=
  let miss := attr != 2 && !(cacheHolds s cl ga n)
  let (st, d, v, s) := cacheLoad (touchPf s cl ga) cl w ga n attr pol (gathers s ga n pol copy)
  let s := match miss, st, tva with
    | true, .ok, some a => detect s cl w a pol
    | _, _, _ => s
  (st, d, v, pfAll s cl w.part)

end Sys2Proof.Machine
end

