-- ==== Sys2Proof/Machine/HostBus.lean ====
section
/-! DEFINITION. Accesses to host memory through a tenant's PCIe function (R236, R250, R521), and hub agents' bytes by address kind. -/
namespace Sys2Proof.Machine

def getPort (s : State) (x : Nat) : PortSt := mget {} s.ports x

def setPort (s : State) (x : Nat) (p : PortSt) : State := { s with ports := mput x p s.ports }

/-- A bus page for a page of a function: as it stands without ATS; through the translation cache, else the host's own
translation, with it (R521). -/
def busPage (s : State) (x fn page : Nat) : Nat × State :=
  let p := getPort s x
  if !(p.ats.contains fn) then (page, s)
  else match p.atc.find? (fun e => e.1 == fn && e.2.1 == page) with
    | some e => (e.2.2, setPort s x { p with atc := e :: p.atc.filter (fun f => f != e) })
    | none =>
      let q := mget page s.hostTr (x * 2 ^ 52 + page)
      (q, setPort s x { p with atc := ((fn, page, q) :: p.atc).take 1024 })

/-- How the host answers a request of a tenant to an address: OK with the place in `hostMem`, or the status that fails; a
function under reset issues none (R236, R283, R521). -/
def hostPlace (s : State) (tenant addr : Nat) : Status × Nat × State :=
  let x := tenant / 256
  let page := addr / 4096
  if !(getPort s x).up then (.linkLost, 0, s)
  else if rbit s (rTenState tenant) 10 then (.aborted, 0, s)
  else match mfind s.hostAns (x * 2 ^ 52 + page) with
    | some .refused => (.access, 0, s)
    | some .poisoned => (.faultMem, 0, s)
    | none =>
      let (q, s) := busPage s x (tenant % 256) page
      match mfind s.hostAns (x * 2 ^ 52 + q) with
      | some .refused => (.access, 0, s)
      | some .poisoned => (.faultMem, 0, s)
      | none => (.ok, x * 2 ^ 64 + q * 4096 + addr % 4096, s)

/-- A masked write of `n` bytes to host memory, within one page. -/
def hostWrite (s : State) (tenant addr n mask v : Nat) : Status × State :=
  match hostPlace s tenant addr with
  | (.ok, k, s) =>
    (.ok, { s with hostMem := (List.range n).foldl (fun m i =>
      if nbit mask i then bput m (k + i) (BitVec.ofNat 8 (v / 256 ^ i)) else m) s.hostMem })
  | (st, _, s) => (st, s)

/-- `n` bytes of host memory, within one page. -/
def hostRead (s : State) (tenant addr n : Nat) : Status × Nat × State :=
  match hostPlace s tenant addr with
  | (.ok, k, s) => (.ok, bread s.hostMem k n, s)
  | (st, _, s) => (st, 0, s)

/-- A hub's request to a host: it goes to Saley by PART_ROUTE first, and fails where no path is left (R23, R303). -/
def viaSaley {α : Type} (s : State) (w : Who) (fail : Status → State → α) (go : State → α) : α :=
  let r := hostPath s w.part w.port
  if r.status = .ok then go (noteDegraded s w r.degraded)
  else fail .linkLost (pathLost s r 0 w.domain)

/-- `n` bytes of host memory read by a hub's agent. -/
def hubHostRead (s : State) (w : Who) (addr n : Nat) : Status × Nat × State :=
  viaSaley s w (fun st s => (st, 0, s)) (fun s => hostRead s w.tenant addr n)

/-- `n` bytes of host memory written by a hub's agent. -/
def hubHostWrite (s : State) (w : Who) (addr n v : Nat) : Status × State :=
  viaSaley s w (fun st s => (st, s)) (fun s => hostWrite s w.tenant addr n (2 ^ n - 1) v)

/-! ## Bytes by address kind, for a hub's own agents (R236, R254) -/

/-- `n` bytes, within one 64-byte line, at a tenant virtual address. -/
def tvaRead (s : State) (w : Who) (tva n : Nat) : Status × Nat × State :=
  match hubTranslate s w tva .read with
  | (.ok, ga, _, s) =>
    let (st, d, v, s) := lineReadN s w ga n false
    (st, fld v (8 * (ga % 64 + n) - 1) (8 * (ga % 64)), noteDegraded s w d)
  | (st, _, _, s) => (st, 0, s)

/-- A masked write of `n` bytes, within one line, at a tenant virtual address; a line of it in the partition's remote-data cache
is updated on the way (R213). -/
def tvaWrite (s : State) (w : Who) (tva n v : Nat) : Status × State :=
  match hubTranslate s w tva .write with
  | (.ok, ga, _, s) =>
    let (st, d, s) := partWrite s w ga (BitVec.ofNat 64 ((2 ^ n - 1) * 2 ^ (ga % 64))) (BitVec.ofNat 512 (v * 2 ^ (8 * (ga % 64))))
    (st, noteDegraded s w d)
  | (st, _, _, s) => (st, s)

/-- Reads of a run of `n` bytes at a tenant virtual address, piece by piece in lines; the first failure ends it. -/
def tvaReadList (s : State) (w : Who) : Nat → Nat → Nat → Status × List (BitVec 8) × State
  | 0, _, _ => (.ok, [], s)
  | fuel + 1, tva, n =>
    if n = 0 then (.ok, [], s)
    else
      let m := min n (64 - tva % 64)
      match tvaRead s w tva m with
      | (.ok, v, s) =>
        let r := tvaReadList s w fuel (tva + m) (n - m)
        (r.1, toBytes m v ++ r.2.1, r.2.2)
      | (st, _, s) => (st, [], s)

/-- Bytes written at a tenant virtual address, line by line; the first failure ends it. -/
def tvaWriteList (s : State) (w : Who) : Nat → Nat → List (BitVec 8) → Option (Status × Nat) × State
  | 0, _, _ => (none, s)
  | fuel + 1, a, l =>
    if l.isEmpty then (none, s)
    else
      let m := min l.length (64 - a % 64)
      match tvaWrite s w a m (ofBytes (l.take m)) with
      | (.ok, s) => tvaWriteList s w fuel (a + m) (l.drop m)
      | (st, s) => (some (st, a), s)

/-- Bytes by AKIND 0 TVA or 2 HOST. -/
def kindRead (s : State) (w : Who) (kind addr n : Nat) : Status × Nat × State :=
  if kind = 2 then hubHostRead s w addr n else tvaRead s w addr n

def kindWrite (s : State) (w : Who) (kind addr n v : Nat) : Status × State :=
  if kind = 2 then hubHostWrite s w addr n v else tvaWrite s w addr n v

end Sys2Proof.Machine
end

