-- ==== Sys2Proof/Machine/Rings.lean ====
section
/-! DEFINITION. Rings as the hubs hold them: counts, completion records, errors and doorbells (R254 to R263, R274, R275, R281). -/
namespace Sys2Proof.Machine

/-- The hub and context of a queue id anywhere in the package (R254). -/
def ringOf (s : State) (qid : Nat) : Option (Nat × Nat × Ring) :=
  (List.range (nParts s)).findSome? (fun p => (ringAt s p qid).map (fun c => (p, c.1, c.2)))

/-- Administrators (R250). -/
def isAdmin (t : Nat) : Bool := t == 0 || t == 256

/-- The identity of a ring's own traffic (R226, R254). -/
def ringWho (s : State) (p : Nat) (r : Ring) : Who :=
  { tenant := ringTenant r, domain := tenDomain s (ringTenant r), jobTag := r.jobTag, part := p, port := 0x40 }

/-- The head write-back word brought up to date (R263). -/
def headWb (s : State) (p ctx : Nat) : State :=
  let r := getRing s p ctx
  if r.headWb = 0 ∨ r.mute then s
  else
    let (st, s) := kindWrite s (ringWho s p r) r.cqKind r.headWb.toNat 8 (r.sqHead.toNat + 2 ^ 32 * r.cqTail.toNat)
    if st = .ok then s else ringError s p ctx 2

/-- SQ_HEAD: everything fetched, but not past the STEP_BEGIN of a pending or open step (R263, R273). -/
def setSqHead (s : State) (p ctx : Nat) (v : Word32) : State :=
  let r := getRing s p ctx
  if r.sqHead = v then s else headWb (setRing s p ctx { r with sqHead := v }) p ctx

/-- A completion record's 32 bytes, with the PHASE of its place (R274, R275). -/
def recBytes (r : Ring) (c : Rec) : Nat :=
  c.tag + 2 ^ 32 * stCode c.status + 2 ^ 40 * c.cflags + 2 ^ 64 * c.stepId + 2 ^ 96 * c.done + 2 ^ 128 * c.tDone
    + 2 ^ 192 * c.firstFail + 2 ^ 224 * (if r.cqTail.toNat / ringSize r % 2 = 0 then 1 else 0)

/-- Room in the completion ring (R274). -/
def cqRoom (r : Ring) : Bool := (r.cqTail - r.cqHead).toNat < ringSize r

/-- One record written, or lost where its write fails (R261, R274, R281). -/
def writeRec (s : State) (p ctx : Nat) (c : Rec) : State :=
  let r := getRing s p ctx
  let addr := r.cqBase.toNat + 32 * (r.cqTail.toNat % ringSize r)
  let (st, s) := kindWrite s (ringWho s p r) r.cqKind addr 32 (recBytes r c)
  if st ≠ .ok then ringError s p ctx 2
  else
    let s := setRing s p ctx { getRing s p ctx with cqTail := r.cqTail + 1 }
    let s := if c.notify then tenLeaf s (ringTenant r) 0 (ringNo r) else s
    headWb s p ctx

/-- Records that wait are written in order while there is room (R274). -/
def flushRecs (s : State) (p ctx : Nat) : Nat → State
  | 0 => s
  | n + 1 =>
    let r := getRing s p ctx
    match r.waiting with
    | [] => s
    | c :: rest =>
      if cqRoom r then flushRecs (writeRec (setRing s p ctx { r with waiting := rest }) p ctx c) p ctx n else s

/-- A finished descriptor's record: it waits its turn, then is written; a ring under a function-level reset writes none (R274, R283). -/
def postRec (s : State) (p ctx : Nat) (c : Rec) : State :=
  let r := getRing s p ctx
  if r.mute then s
  else flushRecs (setRing s p ctx { r with waiting := r.waiting ++ [c] }) p ctx (r.waiting.length + 1)

/-! ## Doorbells (R258 to R262) -/

/-- A write to a doorbell page that has passed its gate; freed completion space lets waiting records go (R258, R274). -/
def bellStore (s : State) (p ctx off size : Nat) (v : Word) : State :=
  let (head, s) := bellWrite s p ctx off size v
  if head then flushRecs s p ctx (getRing s p ctx).waiting.length else s

/-- A store through the hub-local window, after the checks of R218 up to the home (R262). -/
def windowStore (s : State) (w : Who) (ga p ctx off size : Nat) (v : Word) : Status × State :=
  match checkLine s w (ga / 64 * 64) true with
  | (.ok, d, s) =>
    if windowOk s p ctx w.jobTag w.domain then (.ok, bellStore (noteDegraded s w d) p ctx off size v)
    else (.access, windowDeny s p ctx w.jobTag w.domain)
  | (st, _, s) => (st, s)

def windowLoad (s : State) (w : Who) (ga p ctx off size : Nat) : Status × Nat × State :=
  match checkLine s w (ga / 64 * 64) false with
  | (.ok, d, s) =>
    if windowOk s p ctx w.jobTag w.domain then
      (.ok, fld (bellLoad s p ctx (off / 8 * 8)) (8 * (off % 8) + 8 * size - 1) (8 * (off % 8)), noteDegraded s w d)
    else (.access, 0, windowDeny s p ctx w.jobTag w.domain)
  | (st, _, s) => (st, 0, s)

/-- A tenant's function is being reset (R283). -/
def flrBusy (s : State) (t : Nat) : Bool := rbit s (rTenState t) 10

/-- A doorbell write as a command: through the tenant's BAR, by way of Saley (R23, R303), or through the window of a hub. -/
def doorbell (d : Doorbell) (v : Word) (s : State) : State :=
  match d with
  | .bar t r off size =>
    if flrBusy s t ∨ !(running s) then s
    else match ringOf s (512 * t + r) with
      | some (p, ctx, _) => if saleyPath s p then bellStore s p ctx off size v else s
      | none => s
  | .window p ctx off size tag domain =>
    if !(running s) ∨ !(partUp s p) then s
    else if windowOk s p ctx tag domain then bellStore s p ctx off size v
    else windowDeny s p ctx tag domain

/-- SQ_DB, and every write to the page at an offset with no doorbell (R258, R259). -/
def execSqDb (d : Doorbell) (v : Word) (s : State) : Out := guardWf (doorbellWf d) (.next (doorbell d v s))

/-- CQ_DB (R258, R259). -/
def execCqDb (d : Doorbell) (v : Word) (s : State) : Out := guardWf (doorbellWf d) (.next (doorbell d v s))

/-- SQ_ADD (R258, R259). -/
def execSqAdd (d : Doorbell) (v : Word) (s : State) : Out := guardWf (doorbellWf d) (.next (doorbell d v s))

end Sys2Proof.Machine
end

