-- ==== Sys2Proof/Machine/Ends.lean ====
section
/-! DEFINITION. How operations end: their records, the ends of stopped work, and what a member's end does to its step (R248, R273, R274, R277, R429 to R437). -/
namespace Sys2Proof.Machine

/-! ## Descriptors (R264) -/

def dWord (d : Desc) (i : Nat) : Word := lget 0 d.words i

/-- A field of word i of a descriptor. -/
def dFld (d : Desc) (i hi lo : Nat) : Nat := fld (dWord d i) hi lo

def dOpc (d : Desc) : Nat := dFld d 0 7 0
def dFence (d : Desc) : Bool := dFld d 0 8 8 == 1
def dNotify (d : Desc) : Bool := dFld d 0 10 10 == 1
def dMember (d : Desc) : Bool := dFld d 0 11 11 == 1
def dEcls (d : Desc) : Nat := dFld d 0 19 16
def dPrio (d : Desc) : Nat := dFld d 0 23 20
def dTag (d : Desc) : Nat := dFld d 0 63 32
def dStep (d : Desc) : Nat := dFld d 1 31 0

/-! ## Parts of a hub -/

def getOp (s : State) (p k : Nat) : Option Op := mfind (getHub s p).ops k

def setOp (s : State) (p k : Nat) (o : Op) : State :=
  let h := getHub s p
  setHub s p { h with ops := mput k o h.ops }

def getStep (s : State) (p key : Nat) : Option StepSt := mfind (getHub s p).steps key

def setStep (s : State) (p key : Nat) (x : StepSt) : State :=
  let h := getHub s p
  setHub s p { h with steps := mput key x h.steps }

/-- The started operations of a ring, with their numbers. -/
def ringOps (s : State) (p ctx : Nat) : List (Nat × Op) := (getHub s p).ops.filter (fun e => e.2.ring == ctx)

/-- The started descriptors of a step. -/
def stepOps (s : State) (p key : Nat) : List (Nat × Op) := (getHub s p).ops.filter (fun e => e.2.step == some key)

/-- SQ_HEAD as it stands: everything fetched, but not past the STEP_BEGIN of an open or pending step (R263, R273). -/
def sqHeadOf (s : State) (p ctx : Nat) : Word32 :=
  let r := getRing s p ctx
  match r.step.bind (getStep s p) with
  | some st => BitVec.ofNat 32 st.first
  | none =>
    match (ringOps s p ctx).find? (fun e => dOpc e.2.desc == 0x10) with
    | some e => BitVec.ofNat 32 e.2.desc.n
    | none =>
      match r.fetched.find? (fun d => dOpc d == 0x10) with
      | some d => BitVec.ofNat 32 d.n
      | none => r.fetchPos

def refreshHead (s : State) (p ctx : Nat) : State := setSqHead s p ctx (sqHeadOf s p ctx)

/-! ## Copies that end (R248) -/

/-- The lowest unit from `at_` on that failed, or that was never resolved, in the order of the units. -/
def lowestFailed (units : Nat) : Nat → AMap Status → Option (Nat × Option Status)
  | at_, [] => if at_ < units then some (at_, none) else none
  | at_, (k, st) :: m => if at_ < k then some (at_, none) else if st = .ok then lowestFailed units (k + 1) m else some (k, some st)

/-- Units of a copy that succeeded. -/
def copyDone (j : CopyJob) : Nat := (j.resolved.filter (fun e => e.2 == .ok)).length

/-- A copy's status, DONE_UNITS and FIRST_FAIL; units not attempted count as failed with the status it was stopped with. A
malformed MDL segment gives BAD_DESC whatever was written before it (R190). -/
def copyOutcome (j : CopyJob) (stop : Status) : Status × Nat × Nat :=
  let done := copyDone j
  match lowestFailed j.units 0 j.resolved with
  | none => (.ok, done, 0)
  | some (u, st) =>
    if done > 0 then (if st = some .badDesc then .badDesc else .partialDone, done, u) else ((mfind j.resolved 0).getD stop, 0, 0)

/-- The event of a copy with a failed unit: FIRST_FAIL, that unit's status, its destination address (R248). -/
def copyEvent (s : State) (j : CopyJob) (stop : Status) : State :=
  match lowestFailed j.units 0 j.resolved with
  | none => s
  | some (u, st) =>
    emit s 0x0032 (srcHub j.who.part) [(4, u), (1, stCode (st.getD stop)), (8, mget ((j.dst / 64 + u) * 64) j.fails u)]

/-- The flags a copy adds to its completion (R248): SAT_SEEN and DEGRADED_ROUTE. -/
def copyFlags (j : CopyJob) : Nat := 8 * b2n j.sat + 64 * b2n j.degraded

/-! ## Records -/

/-- The completion flags of a finished operation (R277). -/
def recFlags (o : Op) (st : Status) : Nat :=
  (o.cflags ||| (if st = .partialDone then 1 else 0)) ||| (if o.desc.replay then 16 else 0)

/-- An operation gone from its hub with its record: status, DONE_UNITS, FIRST_FAIL (R273, R274). Its step learns of a SIGNAL
that completed OK and of a STEP_COMMIT that has had its record. -/
def finishRaw (s : State) (p k : Nat) (st : Status) (done ff : Nat) : State :=
  match getOp s p k with
  | none => s
  | some o =>
    let h := getHub s p
    let s := setHub s p { h with ops := mdel k h.ops, steps := h.steps.map (fun e =>
      (e.1, { e.2 with exempt := e.2.exempt.filter (fun x => x != k) })) }
    let s := match o.step with
      | none => s
      | some key => match getStep s p key with
        | none => s
        | some x =>
          let ms := x.members.map (fun m => if m.n = o.desc.n ∧ m.opc = 9 ∧ st = .ok then { m with signalOk := true } else m)
          setStep s p key { x with members := ms, committed := x.committed || (dOpc o.desc == 0x11) }
    let s := postRec s p o.ring
      { tag := dTag o.desc, status := st, cflags := recFlags o st, stepId := dStep o.desc, done := done,
        tDone := s.timebase, firstFail := ff, notify := dNotify o.desc }
    refreshHead s p o.ring

/-! ## Stopping (R97, R257, R432, R436) -/

/-- A disarming write that waited takes effect once the ring's collectives have completed (R373). -/
def settleGroup (s : State) (p g : Nat) : State :=
  let h := getHub s p
  let x : Grp := mget {} h.grp g
  if x.disarm ∧ !(h.colls.any (fun c => c.2.grp == some g)) then
    setHub s p { h with grp := mput g { x with disarm := false, words := lset x.words 0 (setBit (lget 0 x.words 0) 19 false) } h.grp }
  else s

/-- The identity of an operation's accesses: its ring's, on its own behalf. -/
def opWho (s : State) (p k : Nat) (o : Op) : Who :=
  { ringWho s p (getRing s p o.ring) with op := some (p, k) }

/-- The identity of a member's accesses: the collective engine's port (R362, R540). -/
def collWho (s : State) (p op : Nat) (o : Op) : Who := { opWho s p op o with port := 0x42 }

/-- Bytes of an element of a DTYPE. -/
def elemBytes (dtype : Nat) : Nat := if dtype = 1 then 2 else if dtype = 2 ∨ dtype = 3 then 1 else 4

/-- Input and output bytes of a member: OP, members, bytes of COUNT elements, whether it is the root. -/
def collSpans (opc n b : Nat) (root : Bool) : Nat × Nat :=
  match opc with
  | 0 => (b, b)
  | 1 => (n * b, b)
  | 2 => (b, n * b)
  | 3 => (if root then b else 0, b)
  | 4 => (n * b, n * b)
  | 5 => (b, if root then b else 0)
  | _ => (0, 0)

def collB (c : Coll) : Nat := c.count * elemBytes c.dtype

/-- A member stands at the hub of partition p of this package. -/
def atHub (s : State) (p entry : Nat) : Bool := entry % 65536 == pkgNum s && entry / 65536 % 16 == p

/-- ABORT with a status and the rank of the failing member goes out to every other member (R380). -/
def collAborts (s : State) (p : Nat) (c : Coll) (st : Status) (ff : Nat) : State :=
  let h := getHub s p
  let others := (List.range c.members.length).filter (fun r => r != c.rank)
  setHub s p { h with msgs := h.msgs ++ others.map (fun r =>
    (lget 0 c.members r, .abort { key := c.key, dest := r, status := stCode st, rank := ff })) }

/-- A failed collective leaves its output undefined (R382): where the member's DST can be written, each byte is a free value (log
entry 46). What the writes leave beside the bytes does not happen. -/
def spoilOut (s : State) (p : Nat) (c : Coll) : State :=
  match getOp s p c.op with
  | none => s
  | some o =>
    let n := (collSpans c.opc c.members.length (collB c) (c.rank == c.root)).2
    let l := (List.range n).map (fun i => Config.freeByte s.free (c.dst + i))
    let t := (tvaWriteList s (collWho s p c.op o) (n / 64 + 2) c.dst l).2
    { s with mem := t.mem, free := t.free + 1,
             hubs := s.hubs.map (fun e => (e.1, { e.2 with rdc := (mget ({} : HubSt) t.hubs e.1).rdc })) }

/-- The collective instances of an operation leave their group, and its part in a tree's operations ends (R380, R384). -/
def collLeave (s : State) (p k : Nat) : State :=
  let h := getHub s p
  let gone := h.colls.filter (fun c => c.2.op == k)
  let mine (w : TreeIn) : Bool := match w.who with
    | .coll q o _ => q == p && o == k
    | _ => false
  let late := gone.flatMap (fun c =>
    ((List.range c.2.members.length).filter (fun r => !(c.2.joined.contains r) && !(atHub s p (lget 0 c.2.members r)))).map
      (fun r => (c.2.key, c.2.rank, r)))
  let s := setHub s p { h with colls := h.colls.filter (fun c => c.2.op != k), lateJoins := h.lateJoins ++ late }
  let s := { s with trees := s.trees.map (fun t => (t.1, { t.2 with waiting := t.2.waiting.filter (fun w => !(mine w.2)) })) }
  gone.foldl (fun s c => match c.2.grp with
    | some g => settleGroup s p g
    | none => s) s

/-- The cluster of an abandoned or passed field test returned: it becomes the die's spare where a spare took its number, else it
serves again (R445). -/
def returnCluster (s : State) (t : FieldTest) : State :=
  match t.phys with
  | none => s
  | some (q, took) =>
    let die := t.cl / 40
    capSpares { s with clGone := mdel (pclKey die q) s.clGone, clusterOut := if took then s.clusterOut else mdel t.cl s.clusterOut } die

/-- The first field test that waits begins; none while Saley restarts (R443, R452). -/
def beginTest (s : State) : State :=
  match s.tests with
  | [] => s
  | t :: ts => if t.begun.isSome ∨ s.restarting then s else { s with tests := { t with begun := some s.timebase } :: ts }

/-- The field tests of an operation abandoned; the cluster is handled as if it had passed (R445). -/
def abandonTest (s : State) (p k : Nat) : State :=
  let mine (t : FieldTest) : Bool := t.part == p && t.op == k
  let s' := (s.tests.filter mine).foldl returnCluster s
  beginTest { s' with tests := s.tests.filter (fun t => !(mine t)) }

/-- A started operation told to stop with a status: a KERNEL's launch stops issuing, a batch issues no further blocks, a
COLL leaves its group. -/
def stopOp (s : State) (p k : Nat) (st : Status) : State :=
  match getOp s p k with
  | none => s
  | some o =>
    let s := setOp s p k { o with stop := some (o.stop.getD st) }
    match dOpc o.desc with
    | 0x01 => if o.phase = .chosen then s else stopLaunch s p k
    | 0x04 =>
      let s := (getHub s p).colls.foldl (fun s c =>
        if c.2.op = k then spoilOut (collAborts s p c.2 .peerLost c.2.rank) p c.2 else s) s
      collLeave s p k
    | 0x20 => abandonTest s p k
    | _ => s

/-- Whether a stopped operation has nothing left that runs on: a KERNEL completes when its threads have (R97), a batch when
its issued blocks have (R150). -/
def endsNow (o : Op) : Bool :=
  match dOpc o.desc with
  | 0x01 => o.phase == .chosen
  | 0x05 => o.blocks.length == o.issued
  | _ => true

/-- DONE_UNITS and FIRST_FAIL of a stopped operation, and PARTIAL in place of its status where R248 lets a copy report it. -/
def stoppedEnd (s : State) (o : Op) (st : Status) : Status × Nat × Nat :=
  match dOpc o.desc with
  | 0x02 =>
    if o.phase = .chosen then (st, 0, 0)
    else match mfind s.copies o.job with
      | none => (st, 0, 0)
      | some j =>
        let r := copyOutcome j st
        (if st = .aborted then r.1 else st, r.2)
  | 0x05 => (st, (o.blocks.filter (fun b => b.2 == .ok)).length,
      ((lowestFailed (dFld o.desc 3 12 0) 0 o.blocks).map (·.1)).getD 0)
  | 0x04 => (st, 0, 0xFFFFFFFF)
  | _ => (st, 0, 0)

/-- A stopped operation that ends now, ended: a copy with its event. -/
def endStopped (s : State) (p k : Nat) : State :=
  match getOp s p k with
  | none => s
  | some o =>
    match o.stop with
    | none => s
    | some st =>
      if !(endsNow o) then s
      else
        let (st', done, ff) := stoppedEnd s o st
        let s := if dOpc o.desc = 2 ∧ o.phase = .running then
            (match mfind s.copies o.job with
             | some j => setOp { copyEvent s j st with copies := mdel o.job s.copies } p k { o with cflags := o.cflags ||| copyFlags j }
             | none => s)
          else s
        finishRaw s p k st' done ff

/-- Operations stopped and, where nothing of them runs on, ended. -/
def stopOps (s : State) (p : Nat) (ks : List Nat) (st : Status) : State :=
  ks.foldl (fun s k => endStopped (stopOp s p k st) p k) s

/-! ## Steps (R431 to R437) -/

/-- A step closed: protection gone, the ring released; where its STEP_COMMIT has had no record yet, what is left of the
step completes with ABORTED (R431, R436). -/
def closeStep (s : State) (p key : Nat) : State :=
  match getStep s p key with
  | none => s
  | some x =>
    let h := getHub s p
    let s := setHub s p { h with steps := mdel key h.steps }
    let r := getRing s p x.ring
    let s := setRing s p x.ring { r with step := none, skipStep := !x.committed }
    refreshHead s p x.ring

/-- A step none of whose started members runs: FAILING becomes FAILED; ABORTING closes, and its STEP_ABORT completes. -/
def settleStep (s : State) (p key : Nat) : State :=
  match getStep s p key with
  | none => s
  | some x =>
    if !(stepOps s p key).isEmpty then s
    else match x.state with
      | .failing => setStep s p key { x with state := .failed }
      | .aborting =>
        let s := closeStep s p key
        (match x.abortOp with
         | some (q, a) => finishRaw s q a .ok 1 0
         | none => s)
      | _ => s

/-- A member has failed: FAILING, and every other started member is stopped with REPLAY_REQ (R432). -/
def failStep (s : State) (p key : Nat) : State :=
  match getStep s p key with
  | none => s
  | some x =>
    let s := setStep s p key { x with state := .failing }
    settleStep (stopOps s p ((stepOps s p key).map (·.1)) .replayReq) p key

/-- A step aborted: running members are stopped and complete with ABORTED; it closes when they have (R436). -/
def abortStep (s : State) (p key : Nat) (by_ : Option (Nat × Nat)) : State :=
  match getStep s p key with
  | none => s
  | some x =>
    let s := setStep s p key { x with state := .aborting, abortOp := by_ }
    let ks := (stepOps s p key).map (·.1)
    let s := ks.foldl (fun s k => match getOp s p k with
      | some o => setOp s p k { o with stop := none }
      | none => s) s
    settleStep (stopOps s p ks .aborted) p key

/-- An operation finished, with what its end does to the step it belongs to (R274, R431, R432). -/
def finishOp (s : State) (p k : Nat) (st : Status) (done ff : Nat) : State :=
  match getOp s p k with
  | none => s
  | some o =>
    let s := finishRaw s p k st done ff
    match o.step with
    | none => s
    | some key =>
      match getStep s p key with
      | none => s
      | some x =>
        if x.state = .open_ ∧ st ≠ .ok then failStep s p key
        else settleStep s p key

/-- The status an operation ends with: the one it was stopped with comes before its own. -/
def finalStatus (o : Op) (own : Status) : Status := o.stop.getD own

/-- OK with one unit done, for opcodes without units of their own (R277). -/
def finishUnit (s : State) (p k : Nat) (st : Status) : State := finishOp s p k st (if st = .ok then 1 else 0) 0

/-- A command that carries out a chosen descriptor of one opcode. -/
def onChosen (s : State) (p k opc : Nat) (f : Op → State) : Out :=
  guardWf (p < 16) (.next (
    match getOp s p k with
    | some o => if dOpc o.desc = opc ∧ o.phase = .chosen then f o else s
    | none => s))

end Sys2Proof.Machine
end

