-- ==== Sys2Proof/Machine/GpWire.lean ====
section
/-! DEFINITION. The frames of the general ports, byte by byte: Ethernet, IP, UDP, the transport header, packets (R356 to R358). The
standards the spec names give the order of bytes, the header checksums and the FCS: PRESUMED, log entry 59. -/
namespace Sys2Proof.Machine

/-- One bit of the reflected division of the IEEE 802.3 CRC-32. -/
def fcsBit (c : BitVec 32) : BitVec 32 := if c.getLsbD 0 then (c >>> 1) ^^^ 0xEDB88320#32 else c >>> 1

/-- One byte. -/
def fcsByte (c : BitVec 32) (b : Byte) : BitVec 32 :=
  let c := c ^^^ b.setWidth 32
  fcsBit (fcsBit (fcsBit (fcsBit (fcsBit (fcsBit (fcsBit (fcsBit c)))))))

/-- The FCS of a frame's bytes, as the four bytes that follow them. -/
def fcsOf (l : List Byte) : List Byte := toBytes 4 (~~~ (l.foldl fcsByte (BitVec.allOnes 32))).toNat

/-- A number as n bytes, the highest first: the order of the standards' headers. -/
def netBytes (n v : Nat) : List Byte := (toBytes n v).reverse

/-- n bytes of a frame from an offset, as the standards' headers order them. -/
def netAt (l : List Byte) (off n : Nat) : Nat := ofBytes ((l.drop off).take n).reverse

/-- The sum of 16-bit words that the internet checksum is the complement of. -/
def netSum : List Byte → Nat
  | [] => 0
  | [a] => a.toNat * 256
  | a :: b :: l => a.toNat * 256 + b.toNat + netSum l

/-- The internet checksum: the complement of the sum folded to 16 bits. -/
def netCheck (l : List Byte) : Nat :=
  let f (n : Nat) : Nat := n / 65536 + n % 65536
  65535 - f (f (f (netSum l)))

/-- What the headers of a frame say (R357). -/
structure FrameHead where
  dstMac : Nat
  srcMac : Nat
  prio : Nat
  vid : Nat
  v6 : Bool
  dscp : Nat
  ttl : Nat
  srcIp : Nat
  dstIp : Nat
  entropy : Nat
  udp : Nat
  deriving DecidableEq, Repr

/-- The transport header (R358). -/
structure TransHead where
  typ : Nat
  npkt : Nat
  conn : Nat
  psn : Nat
  ackPsn : Nat
  ver : Nat := 1
  deriving DecidableEq, Repr

/-- Its 16 bytes. -/
def TransHead.bytes (t : TransHead) : List Byte :=
  toBytes 1 (t.ver % 16 + 16 * t.typ) ++ toBytes 1 t.npkt ++ toBytes 2 t.conn ++ toBytes 4 t.psn ++ toBytes 4 t.ackPsn ++ toBytes 4 0

/-- A packet padded with zeros to a multiple of 8 (R357). -/
def padPacket (k : RoutePacket) : List Byte := padTo (cdiv (32 + k.dlen) 8 * 8) (packetBytes k)

/-- The entropy of a frame: CRC-32C of DST_PKG, SRC_PKG and TARGET of its first packet, modulo 2^14 (R357); 0 without a packet
(DESIGN CHOICE, log entry 59). -/
def entropyOf : List RoutePacket → Nat
  | [] => 0
  | k :: _ => (crc32c (toBytes 2 (nbits k.target.toNat 63 48) ++ toBytes 2 k.srcPkg ++ toBytes 8 k.target.toNat)).toNat % 2 ^ 14

/-- The UDP datagram of a frame: header and payload (R357). -/
def udpBytes (h : FrameHead) (p : List Byte) : List Byte :=
  let n := 8 + p.length
  let head (c : Nat) : List Byte := netBytes 2 (0xC000 + h.entropy) ++ netBytes 2 h.udp ++ netBytes 2 n ++ netBytes 2 c
  if h.v6 then
    let c := netCheck (netBytes 16 h.srcIp ++ netBytes 16 h.dstIp ++ netBytes 4 n ++ netBytes 4 17 ++ head 0 ++ p)
    head (if c = 0 then 65535 else c) ++ p
  else head 0 ++ p

/-- The IP header of a frame with n bytes above it (R357). -/
def ipBytes (h : FrameHead) (n : Nat) : List Byte :=
  if h.v6 then
    netBytes 4 (6 * 2 ^ 28 + h.dscp * 4 * 2 ^ 20 + h.entropy) ++ netBytes 2 n ++ netBytes 1 17 ++ netBytes 1 h.ttl ++ netBytes 16 h.srcIp
      ++ netBytes 16 h.dstIp
  else
    let head (c : Nat) : List Byte :=
      netBytes 1 0x45 ++ netBytes 1 (h.dscp * 4) ++ netBytes 2 (20 + n) ++ netBytes 2 0 ++ netBytes 2 0x4000 ++ netBytes 1 h.ttl ++ netBytes 1 17
        ++ netBytes 2 c ++ netBytes 4 h.srcIp ++ netBytes 4 h.dstIp
    head (netCheck (head 0))

/-- A whole frame (R357). -/
def frameBytes (h : FrameHead) (t : TransHead) (ks : List RoutePacket) : List Byte :=
  let u := udpBytes h (t.bytes ++ ks.flatMap padPacket)
  let body := netBytes 6 h.dstMac ++ netBytes 6 h.srcMac ++ netBytes 2 0x8100 ++ netBytes 2 (h.prio % 8 * 2 ^ 13 + h.vid % 4096)
    ++ netBytes 2 (if h.v6 then 0x86DD else 0x0800) ++ ipBytes h u.length ++ u
  body ++ fcsOf body

/-- A received frame as its headers give it (R357, R358): whether its FCS is right and its form is one the port takes (R356: a tag, IPv4
without options and unfragmented or IPv6 without extension headers, UDP), and its fields. -/
structure GpFrame where
  fcs : Bool
  form : Bool
  mac : Nat
  prio : Nat
  v6 : Bool
  dstIp : BitVec 128
  srcIp : BitVec 128
  udp : Nat
  t : TransHead
  body : List Byte
  bytes : Nat
  deriving DecidableEq, Repr

/-- A frame's fields read from its bytes. -/
def gpFrameOf (l : List Byte) : GpFrame :=
  let n := l.length
  let v6 := netAt l 16 2 == 0x86DD
  let u := if v6 then 58 else 38
  let form := netAt l 12 2 == 0x8100 && u + 28 ≤ n &&
    (if v6 then nbits (netAt l 18 1) 7 4 == 6 && netAt l 24 1 == 17
     else netAt l 16 2 == 0x0800 && netAt l 18 1 == 0x45 && netAt l 27 1 == 17 && netAt l 24 2 % 0x4000 == 0)
  { fcs := 4 ≤ n && fcsOf (l.take (n - 4)) == l.drop (n - 4), form := form, mac := netAt l 0 6, prio := nbits (netAt l 14 2) 15 13, v6 := v6,
    srcIp := BitVec.ofNat 128 (if v6 then netAt l 26 16 else netAt l 30 4), dstIp := BitVec.ofNat 128 (if v6 then netAt l 42 16 else netAt l 34 4),
    udp := netAt l (u + 2) 2,
    t := { ver := bytesAt l (u + 8) 1 % 16, typ := bytesAt l (u + 8) 1 / 16, npkt := bytesAt l (u + 9) 1, conn := bytesAt l (u + 10) 2,
           psn := bytesAt l (u + 12) 4, ackPsn := bytesAt l (u + 16) 4 },
    body := (l.take (n - 4)).drop (u + 24), bytes := n }

/-- The packets of a DATA frame, each padded to a multiple of 8; what follows bytes that spell no packet is not read. -/
def framePackets (srcPort : Nat) : Nat → List Byte → List RoutePacket
  | 0, _ => []
  | n + 1, l =>
    match packetOf srcPort true l with
    | some k => k :: framePackets srcPort n (l.drop (cdiv (32 + k.dlen) 8 * 8))
    | none => []

end Sys2Proof.Machine
end

