-- ==== Sys2Proof/Machine/Engines.lean ====
section
/-! DEFINITION. Tensor engines and general port connections as senders: their parts of the state, role tables, lines, credits, retry buffers and queues, windows (R313, R326, R329, R334 to R351, R357 to R361). -/
namespace Sys2Proof.Machine

/-! ## Engines -/

def getEng (s : State) (eng : Nat) : EngSt := mget {} s.engs eng

def setEng (s : State) (eng : Nat) (x : EngSt) : State := { s with engs := mput eng x s.engs }

/-- Engine eng = 8 die + e exists and its die is up. -/
def engLive (s : State) (eng : Nat) : Bool := running s && optUp s (eng / 8)

/-- MLX_STATE.STATE (R348): 0 DARK, 1 LOCK, 2 ALIGN, 3 PARAM, 4 UP, 5 RELOCK, 6 DOWN. -/
def linkState (s : State) (eng : Nat) : Nat := rfld s (rMlxState (eng / 8) (eng % 8)) 2 0

/-- The state set, and UP with it. -/
def setLinkState (s : State) (eng st : Nat) : State :=
  setRbit (setRfld s (rMlxState (eng / 8) (eng % 8)) 2 0 st) (rEngStatus (eng / 8) (eng % 8)) 4 (st == 4)

/-- The port an engine lights; 15 dark. -/
def engPort (s : State) (eng : Nat) : Nat := rfld s (rEngStatus (eng / 8) (eng % 8)) 3 0

/-- The direction's state. -/
def dirOf (x : EngSt) (tx : Bool) : DirSt := if tx then x.tx else x.rx

def withDir (x : EngSt) (tx : Bool) (d : DirSt) : EngSt := if tx then { x with tx := d } else { x with rx := d }

/-- A change of one direction of an engine. -/
def onDir (s : State) (eng : Nat) (tx : Bool) (f : DirSt → DirSt) : State :=
  let x := getEng s eng
  setEng s eng (withDir x tx (f (dirOf x tx)))

/-- The role of a wavelength of an engine (R313). -/
def role (s : State) (eng : Nat) (tx : Bool) (w : Nat) : Nat := roleOf s (eng / 8) (eng % 8) (!tx) w

def putRole (s : State) (eng : Nat) (tx : Bool) (w r : Nat) : State := setRole s (eng / 8) (eng % 8) (!tx) w r

/-- Free spares of a direction, ascending. -/
def spares (s : State) (eng : Nat) (tx : Bool) : List Nat := freeSpares s (eng / 8) (eng % 8) (!tx)

/-- Data lanes in use in a direction. -/
def lanesIn (s : State) (eng : Nat) (tx : Bool) : Nat := ((List.range 20).filter (fun w => role s eng tx w < 16)).length

/-- A wavelength of the direction is out for calibration. -/
def calOut (d : DirSt) : Bool :=
  match d.cal with
  | some c => !c.inPlace && (match c.phase with
    | .outAt _ => false
    | _ => true)
  | none => false

/-- SPARE, LANES and CAL of ENG_STATUS, and what health sees of them. -/
def refreshEng (s : State) (eng : Nat) : State :=
  let r := rEngStatus (eng / 8) (eng % 8)
  let x := getEng s eng
  let s := setRfld s r 6 5 (min 3 (spares s eng true).length)
  let s := setRfld s r 8 7 (min 3 (spares s eng false).length)
  let s := setRfld s r 13 9 (lanesIn s eng true)
  let s := setRfld s r 18 14 (lanesIn s eng false)
  health (setRbit (setRbit s r 19 (calOut x.tx)) r 20 (calOut x.rx))

/-- A counter of MLX_CNT raised. -/
def mlxCount (s : State) (eng i n : Nat) : State :=
  let r := rMlxCnt (eng / 8) (eng % 8) i
  setReg s r (reg s r + BitVec.ofNat 64 n)

/-! ## Maps (R326, R329) -/

def getOpt (s : State) (o : Nat) : OptSt := mget {} s.opts o

def setOpt (s : State) (o : Nat) (x : OptSt) : State := { s with opts := mput o x s.opts }

/-- The active copy of a preset as its eight port codes. -/
def presetMap (s : State) (o k : Nat) : List Nat :=
  let v := mget 0xA9764310 (getOpt s o).qact k
  (List.range 8).map (fun (e : Nat) => fld v (4 * e + 3) (4 * e))

/-- A port is cabled and not failed. -/
def portGood (s : State) (o k : Nat) : Bool := rbit s (rPortCfg o) k && !(rbit s (rPortStatus o) k)

/-- A map with substitutes for ports that are not eligible, and the planes with none left (R329). -/
def applyMap (s : State) (o : Nat) (m : List Nat) : List Nat × List Nat :=
  m.foldl (fun a k =>
    if k ≥ 12 then (a.1 ++ [15], a.2)
    else if portGood s o k then (a.1 ++ [k], a.2)
    else
      let taken (j : Nat) : Bool := a.1.contains j || m.contains j
      match ((List.range 3).map (fun (i : Nat) => k / 3 * 3 + i)).find? (fun j => portGood s o j && !(taken j)) with
      | some j => (a.1 ++ [j], a.2)
      | none => (a.1 ++ [15], a.2 ++ [k / 3])) ([], [])

/-! ## The line (R334 to R340) -/

/-- The data lanes in service in the transmit direction, ascending. -/
def dataLanes (s : State) (eng : Nat) : List Nat :=
  (List.range 16).filter (fun l => (List.range 20).any (fun w => role s eng true w == l))

/-- Picoseconds that a flit slot takes on n data lanes, its share of the markers counted in (R337). -/
def slotPs (n : Nat) : Nat := cdiv 21766000 (1285 * max 1 n)

/-- A flit handed to the line, with the current ACK, and NAK where it is due (R338, R346). -/
def putFlit (lanes : List Nat) (now : Nat) (h : FlitHead) (p : List Byte) (x : EngSt) : EngSt :=
  let h := { h with ack := (x.expect + 4095) % 4096, ackV := x.ackV, nak := x.nakDue }
  { x with nakDue := false, line := lineFlit lanes x.tx.gen (flitBits h p) x.line, busy := max x.busy (1000 * now) + slotPs lanes.length }

/-- A control flit (R343). -/
def putCtl (lanes : List Nat) (now : Nat) (l : List CtlMsg) (x : EngSt) : EngSt := putFlit lanes now { kind := 2 } (ctlPayload l) x

/-- A flit in the next slot that is not a control slot; a control slot before it carries CREDIT (R340, R345). -/
def putSlot (lanes : List Nat) (now : Nat) (h : FlitHead) (p : List Byte) (x : EngSt) : EngSt :=
  putFlit lanes now h p (if x.line.slot % 256 = 0 then putCtl lanes now [.credit x.passed] x else x)

/-- A data flit, sent first or again. -/
def putData (lanes : List Nat) (now : Nat) (x : EngSt) (t : TxFlit) : EngSt :=
  putSlot lanes now { kind := 1, sop := t.sop, eop := t.eop, valid := t.payload.length, cls := t.cls, seq := t.seq } t.payload x

/-- The next slot without data: IDLE, or its control flit. -/
def putIdle (lanes : List Nat) (now : Nat) (x : EngSt) : EngSt :=
  if x.line.slot % 256 = 0 then putCtl lanes now [.credit x.passed] x else putFlit lanes now { kind := 0 } [] x

/-- n such slots. -/
def putIdles (lanes : List Nat) (now : Nat) : Nat → EngSt → EngSt
  | 0, x => x
  | n + 1, x => putIdles lanes now n (putIdle lanes now x)

/-- Sixteenths of an engine's flits that its hubs do not admit while its optical die is throttled (R420). -/
def heldBack (s : State) (eng : Nat) : Nat := mget 0 s.thm.cont (144 + eng / 8)

/-- A slot in which a throttled die takes no new flit: g of every sixteen, chosen as R406 chooses gated cycles (log entry 60). -/
def slotShut (g slot : Nat) : Bool :=
  let i := slot % 16
  i % 2 * 8 + i / 2 % 2 * 4 + i / 4 % 2 * 2 + i / 8 < g

/-- The next slots, at most n, that a throttled die keeps free of new flits. -/
def skipShut (g : Nat) (lanes : List Nat) (now : Nat) : Nat → EngSt → EngSt
  | 0, x => x
  | n + 1, x => if slotShut g x.line.slot then skipShut g lanes now n (putIdle lanes now x) else x

/-- A new data flit, admitted in the next slot that the throttle leaves. -/
def putNew (g : Nat) (lanes : List Nat) (now : Nat) (x : EngSt) (t : TxFlit) : EngSt := putData lanes now (skipShut g lanes now 16 x) t

/-- Slots that n new flits take at most: one more stands for the control flit that may fall among them. -/
def slotsFor (g n : Nat) : Nat := if g = 0 then n + 1 else cdiv (16 * n) (16 - g) + 17

/-- Slots between the line's position and the start of a block of it; 0 where the block has begun. -/
def slotsTo (l : LineSt) (block : Nat) : Nat :=
  let d := (block + 2 ^ 32 - l.block) % 2 ^ 32
  if d ≥ 2 ^ 31 then 0 else 1285 * d - l.inBlk

/-- A change of an engine that its line takes part in. -/
def onLine (s : State) (eng : Nat) (f : List Nat → Nat → EngSt → EngSt) : State :=
  setEng s eng (f (dataLanes s eng) s.timebase (getEng s eng))

/-- Messages sent in a control flit of their own, where the link exchanges flits: PARAM, UP or RELOCK (R343, R345, R348). -/
def sendCtl (s : State) (eng : Nat) (l : List CtlMsg) : State :=
  if linkState s eng = 3 ∨ linkState s eng = 4 ∨ linkState s eng = 5 then onLine s eng (fun ls now x => putCtl ls now l x) else s

/-- The 20 roles of a direction. -/
def rolesOf (s : State) (eng : Nat) (tx : Bool) : List Nat := (List.range 20).map (role s eng tx)

/-- ROLE_MAP: the map of the direction that this end transmits, which it owns (R345, R348; log entry 58). -/
def roleMapMsg (s : State) (eng : Nat) : CtlMsg := .roleMap (rolesOf s eng true) (getEng s eng).tx.gen

/-- LINK_ID: this engine, its port, 1,024 flits of buffer per class, version 0x01 (R343, R344). -/
def linkIdMsg (s : State) (eng : Nat) : CtlMsg :=
  .linkId { num := pkgNum s, switch := false, die := eng / 8, eng := eng % 8, port := engPort s eng, bufs := [1024, 1024, 1024] } 1

/-- RX_POWER: RX_OMA of the 20 wavelengths (R316, R343). -/
def rxPowerMsg (s : State) (eng : Nat) : CtlMsg :=
  .rxPower ((List.range 20).map (fun w => rfld s (rRxOma (eng / 8) (eng % 8) (w / 8)) (8 * (w % 8) + 7) (8 * (w % 8))))

/-- LINK_ID and ROLE_MAP, sent in every training and relock (R345, R348). -/
def introduce (s : State) (eng : Nat) : State := sendCtl s eng [linkIdMsg s eng, roleMapMsg s eng]

/-- A transmit map that has changed without an announced block: its generation moves on and the peer is told (R313, R345). -/
def mapChanged (s : State) (eng : Nat) : State :=
  let s := onDir s eng true (fun d => { d with gen := (d.gen + 1) % 256 })
  if linkState s eng = 4 then sendCtl s eng [roleMapMsg s eng] else s

/-! ## Packets sent (R341, R344, R346, R350) -/

/-- Flits of a packet (R341). -/
def pktFlits (dlen : Nat) : Nat := cdiv (32 + dlen) 240

/-- A packet as data flits, numbered from the next SEQ (R341, R346). -/
def txFlits (x : EngSt) (k : EngPkt) : List TxFlit :=
  let n := pktFlits k.pkt.dlen
  (cutPayloads n (packetBytes k.pkt)).zipIdx.map (fun c =>
    { cls := k.cls, sop := c.2 == 0, eop := c.2 + 1 == n, seq := (x.txSeq + c.2) % 4096, payload := c.1 })

/-- A loss swap or a drop is announced in a direction: nothing is replayed and no data flit is sent there (R346, R353). -/
def changePending (d : DirSt) : Bool := d.pend.any (fun m => m.kind == 4 || m.kind == 7)

/-- The earliest pending steering point of the die at which the engine moves (R325, R329). -/
def ownPoint (s : State) (eng : Nat) : Option Nat :=
  ((getOpt s (eng / 8)).points.find? (fun p => lget 15 (applyMap s (eng / 8) p.map).1 (eng % 8) != engPort s eng)).map (·.t)

/-- n flits sent now would end within 100 ns of a steering point or of a boundary of the transmit direction, or after it: the
window (R321, R350). -/
def crosses (s : State) (eng : Nat) (x : EngSt) (n : Nat) : Bool :=
  let ps := slotPs (dataLanes s eng).length
  let len := slotsFor (heldBack s eng) n * ps + 100000
  let e := max x.busy (1000 * s.timebase) + len
  let after (t : Nat) : Bool := e > 1000 * t
  (ownPoint s eng).any after || x.ann.any (fun a => a.2 && decide ((e : Int) + 1000 * x.delay > 1000 * (a.1 : Int)))
    || (x.tx.said.toList ++ x.tx.pend).any (fun m => m.kind != 4 && m.kind != 7 && slotsTo x.line m.block * ps < len)

/-- A packet may start: no power failure is in progress, the link is UP, credits and retry buffer hold all of its flits, and it
crosses no point (R341, R344, R346, R350, R470). -/
def maySend (s : State) (eng : Nat) (x : EngSt) (k : EngPkt) : Bool :=
  s.stage == .up && linkState s eng == 4 && !(changePending x.tx) && x.unack.length + k.flits ≤ 4095 &&
  (lget 0 x.sent k.cls + 2 ^ 32 - lget 0 x.freed k.cls) % 2 ^ 32 + k.flits ≤ lget 0 x.bufs k.cls && !(crosses s eng x k.flits)

/-- The first packet of a queue that may go before none of its own class: a class without credits holds no other (R342, R344). -/
def pickPkt (ok : EngPkt → Bool) : List Nat → List EngPkt → Option EngPkt
  | _, [] => none
  | held, k :: l => if !(held.contains k.cls) && ok k then some k else pickPkt ok (k.cls :: held) l

/-- Packets of an engine's queue sent, each whole, while they may start (R340, R341). -/
def engPump (s : State) (eng : Nat) : Nat → State
  | 0 => s
  | fuel + 1 =>
    let x := getEng s eng
    match pickPkt (maySend s eng x) [] x.queue with
    | none => s
    | some k =>
      let fs := txFlits x k
      let x := { x with
        queue := x.queue.erase k, unack := x.unack ++ fs, txSeq := (x.txSeq + fs.length) % 4096,
        ackAt := if x.unack.isEmpty then s.timebase else x.ackAt,
        sent := lset x.sent k.cls ((lget 0 x.sent k.cls + fs.length) % 2 ^ 32) }
      engPump (setEng s eng (fs.foldl (putNew (heldBack s eng) (dataLanes s eng) s.timebase) x)) eng fuel

/-- The whole queue tried. -/
def engSend (s : State) (eng : Nat) : State := engPump s eng ((getEng s eng).queue.length)

/-- Every flit of the retry buffer sent again, in order; none of them takes a credit (R344, R346). -/
def resend (s : State) (eng : Nat) : State :=
  onLine s eng (fun ls now x => x.unack.foldl (putData ls now) x)

/-- Slots that have passed since the line's last flit, ten at most and none beyond the start of a block that a change waits for
(R340; log entry 58). -/
def lineTick (s : State) (eng : Nat) : State :=
  if linkState s eng ≠ 4 then s
  else
    onLine s eng (fun ls now x =>
      let ps := slotPs ls.length
      let n := min 10 ((1000 * now - x.busy) / ps)
      let n := (x.tx.said.toList ++ x.tx.pend).foldl (fun n m => min n (slotsTo x.line m.block)) n
      putIdles ls now n { x with busy := max x.busy (1000 * now - n * ps) })

/-! ## General ports (R357 to R361) -/

def gKey (g i : Nat) : Nat := 4096 * g + i

def getConn (s : State) (g i : Nat) : GpConn := mget {} s.gconns (gKey g i)

def setConn (s : State) (g i : Nat) (c : GpConn) : State := { s with gconns := mput (gKey g i) c s.gconns }

/-- A field of word 0 of a connection entry. -/
def connFld (s : State) (g i hi lo : Nat) : Nat := rfld s (rGpConn g i 0) hi lo

def connValid (s : State) (g i : Nat) : Bool := connFld s g i 0 0 == 1

def connFailed (s : State) (g i : Nat) : Bool := connFld s g i 3 3 == 1

/-- GP_CNT_i raised. -/
def gpCount (s : State) (g i n : Nat) : State := setReg s (rGpCnt g i) (reg s (rGpCnt g i) + BitVec.ofNat 64 n)

/-- The MTU in force (R361). -/
def gpMtu (s : State) (g : Nat) : Nat := min 9216 (max 4200 (rfld s (rGpCtl g) 29 16))

/-- RTO_US, RETRIES and WINDOW as they are taken. -/
def gpRtoUs (s : State) (g : Nat) : Nat := max 1 (rfld s (rGpTimer g) 15 0)
def gpRetries (s : State) (g : Nat) : Nat := max 1 (rfld s (rGpTimer g) 19 16)
def gpWindow (s : State) (g : Nat) : Nat := max 1 (rfld s (rGpTimer g) 31 20)

/-- The port carries frames: enabled, link up, a UDP port set. -/
def gpOpen (s : State) (g : Nat) : Bool := rbit s (rGpCtl g) 0 && rbit s (rGpStatus g) 0 && rfld s (gBase g + 8) 15 0 != 0

/-- GP_PRIO of a packet: as it came by a general port, or by its class (R361). -/
def gpPrio (s : State) (g : Nat) (k : RoutePacket) : Nat :=
  if k.gp then k.prio.getD 0 % 8 else rfld s (rGpCtl g) (34 + 3 * k.cls) (32 + 3 * k.cls)

/-- Bytes of a packet in a frame (R357). -/
def gpBytes (k : EngPkt) : Nat := cdiv (32 + k.pkt.dlen) 8 * 8

/-- The port's own IP address of a family. -/
def ownIp (s : State) (g : Nat) (v6 : Bool) : BitVec 128 :=
  if v6 then (reg s (gBase g + 0x28)) ++ (reg s (gBase g + 0x20)) else BitVec.ofNat 128 (rfld s (gBase g + 0x18) 31 0)

/-- The connection's peer address. -/
def peerIp (s : State) (g i : Nat) : BitVec 128 :=
  if connFld s g i 2 2 = 1 then (reg s (rGpConn g i 3)) ++ (reg s (rGpConn g i 2))
  else BitVec.ofNat 128 (rfld s (rGpConn g i 2) 31 0)

/-- The headers of a frame of a connection (R357). -/
def gpHead (s : State) (g i prio entropy : Nat) : FrameHead :=
  let v6 := connFld s g i 2 2 == 1
  { dstMac := rfld s (rGpConn g i 1) 47 0, srcMac := rfld s (gBase g + 0x10) 47 0, prio := prio, vid := connFld s g i 35 24, v6 := v6,
    dscp := connFld s g i 41 36, ttl := connFld s g i 49 42, srcIp := (ownIp s g v6).toNat, dstIp := (peerIp s g i).toNat, entropy := entropy,
    udp := rfld s (gBase g + 8) 15 0 }

/-- A frame of a connection goes out: TYPE, PSN, packets; it carries the last PSN accepted in order (R357, R358). -/
def gpFrame (s : State) (g i typ prio psn : Nat) (ks : List RoutePacket) : State :=
  let t : TransHead := { typ := typ, npkt := ks.length, conn := rfld s (rGpConn g i 1) 63 48, psn := psn,
                         ackPsn := (rfld s (rGpConn g i 4) 63 32 + 2 ^ 32 - 1) % 2 ^ 32 }
  gpCount (setConn s g i { getConn s g i with out := frameBytes (gpHead s g i prio (entropyOf ks)) t ks }) g 0 1

/-- A frame without packets: 1 ACK, 2 NAK, 3 SYNC, with the priority of requests (R358, log entry 59). -/
def gpSignal (s : State) (g i typ : Nat) : State := gpFrame s g i typ (rfld s (rGpCtl g) 34 32) 0 []

/-- The packets of one priority that fit a frame, in order and at least one, and those left (R357). -/
def takeFrame (s : State) (g prio room : Nat) : Bool → List EngPkt → List EngPkt × List EngPkt
  | _, [] => ([], [])
  | shut, k :: l =>
    if gpPrio s g k.pkt ≠ prio then
      let r := takeFrame s g prio room shut l
      (r.1, k :: r.2)
    else if shut ∨ gpBytes k > room then
      let r := takeFrame s g prio room true l
      (r.1, k :: r.2)
    else
      let r := takeFrame s g prio (room - gpBytes k) false l
      (k :: r.1, r.2)

/-- Frames of a connection sent while its window and the port allow, none during a power failure; a paused priority holds its own
frames alone (R358, R360, R470). -/
def gpPump (s : State) (g i : Nat) : Nat → State
  | 0 => s
  | fuel + 1 =>
    let c := getConn s g i
    match c.queue.find? (fun k => !(rbit s (rGpStatus g) (8 + gpPrio s g k.pkt))) with
    | none => s
    | some k =>
      if s.stage ≠ .up ∨ !(gpOpen s g) ∨ !(connValid s g i) ∨ connFailed s g i ∨ c.unack.length ≥ gpWindow s g then s
      else
        let prio := gpPrio s g k.pkt
        let room := gpMtu s g - (if connFld s g i 2 2 = 1 then 86 else 66)
        let f := takeFrame s g prio room false c.queue
        let psn := rfld s (rGpConn g i 4) 31 0
        let s := setConn s g i { c with queue := f.2, unack := c.unack ++ [f.1], since := if c.unack.isEmpty then s.timebase else c.since }
        let s := gpFrame s g i 0 prio psn (f.1.map (·.pkt))
        gpPump (setRfld s (rGpConn g i 4) 31 0 ((psn + 1) % 2 ^ 32)) g i fuel

/-- Unacknowledged frames sent again, in order (R358). -/
def gpResend (s : State) (g i : Nat) : State :=
  let l := (getConn s g i).unack
  let first := (rfld s (rGpConn g i 4) 31 0 + 2 ^ 32 - l.length) % 2 ^ 32
  gpCount (l.zipIdx.foldl (fun s f =>
    gpFrame s g i 0 ((f.1.head?.map (fun k => gpPrio s g k.pkt)).getD 0) ((first + f.2) % 2 ^ 32) (f.1.map (·.pkt))) s) g 6 l.length

/-- The whole queue of a connection tried. -/
def gpSend (s : State) (g i : Nat) : State := gpPump s g i ((getConn s g i).queue.length)

/-- The connection a packet for a package takes (R359): the first valid entry of MODE 0 with that package, else of MODE 1 with its pod. -/
def connFor (s : State) (g pkg : Nat) : Option Nat :=
  let valid := (List.range 4096).filter (connValid s g)
  match valid.find? (fun i => connFld s g i 1 1 == 0 && connFld s g i 23 8 == pkg) with
  | some i => some i
  | none => valid.find? (fun i => connFld s g i 1 1 == 1 && connFld s g i 23 20 == pkg / 4096)

end Sys2Proof.Machine
end

