-- ==== Sys2Proof/Machine/Approx.lean ====
section
/-! DEFINITION. The approximated functions EXP2, LOG2, RCP and RSQRT (R113, R114): exact where the spec says so, elsewhere a free
value of the input held to the stated bound. The bound tests are exact comparisons of dyadic numbers; they are meant to be
reasoned with, not run. -/
namespace Sys2Proof.Machine

/-- `r + d ≥ 0` and `r − d` as exact values: the two ends of an interval around an FP32 result. -/
def approxEnds (r : FVal) (b : Int × Nat) : Option ((Bool × Nat × Int) × (Bool × Nat × Int)) :=
  match r with
  | .fin s m e => some (addExact s m e true b.2 b.1, addExact s m e false b.2 b.1)
  | _ => none

/-- 2^x ≤ z for exact x and z. -/
def exp2LeVal (x z : Bool × Nat × Int) : Bool :=
  if z.1 ∨ z.2.1 = 0 then false
  else
    let q := asFrac x.1 x.2.1 x.2.2
    exp2Le q.1 q.2 z.2.1 z.2.2

/-- z ≤ 2^x for exact x and z. -/
def exp2GeVal (x z : Bool × Nat × Int) : Bool :=
  if z.1 ∨ z.2.1 = 0 then true
  else
    let q := asFrac x.1 x.2.1 x.2.2
    exp2Ge q.1 q.2 z.2.1 z.2.2

/-- a · b ≤ 1 for exact values. -/
def mulLeOne (a b : Bool × Nat × Int) : Bool :=
  if a.1 != b.1 ∨ a.2.1 = 0 ∨ b.2.1 = 0 then true else !(magLt 1 0 (a.2.1 * b.2.1) (a.2.2 + b.2.2))

/-- 1 ≤ a · b for exact values. -/
def mulGeOne (a b : Bool × Nat × Int) : Bool :=
  if a.1 != b.1 ∨ a.2.1 = 0 ∨ b.2.1 = 0 then false else !(magLt (a.2.1 * b.2.1) (a.2.2 + b.2.2) 1 0)

/-- Floor of the base-2 logarithm of the exact result of function `f` at a positive or signed normal input (R113). -/
def approxTop (f : Nat) (s : Bool) (m : Nat) (e : Int) : Int :=
  let t := topExp m e
  let p := (asPow2 m e).isSome
  match f with
  | 0 => let q := asFrac s m e; q.1.fdiv (2 ^ q.2 : Nat)
  | 1 => if t ≥ 0 then (t.toNat.log2 : Int) else ((-t - 1).toNat.log2 : Int)
  | 2 => if p then -t else -t - 1
  | _ => if p then (-t).fdiv 2 else (-t - 1).fdiv 2

/-- The bound of R113 at an input, as (exponent, multiplier): 2 ulp, 1 ulp for RCP, 2^-22 for LOG2 between 0.5 and 2. -/
def approxBound (f : Nat) (s : Bool) (m : Nat) (e : Int) : Int × Nat :=
  let t := topExp m e
  if f = 1 ∧ (t = 0 ∨ t = -1) then (-22, 1)
  else (approxTop f s m e - 23, if f = 2 then 1 else 2)

/-- Whether an FP32 result is within the stated bound of the exact result (R113). -/
def approxOk (f : Nat) (s : Bool) (m : Nat) (e : Int) (r : Word32) : Bool :=
  match approxEnds (dec32 r) (approxBound f s m e) with
  | none => false
  | some (lo, hi) =>
    let x := (s, m, e)
    match f with
    | 0 => exp2GeVal x lo && exp2LeVal x hi
    | 1 => exp2LeVal lo (false, m, e) && exp2GeVal hi (false, m, e)
    | 2 =>
      -- compared by magnitude: the result has x's sign
      let lo' := if s then (!hi.1, hi.2) else lo
      let hi' := if s then (!lo.1, lo.2) else hi
      mulLeOne lo' (false, m, e) && mulGeOne hi' (false, m, e)
    | _ =>
      let sq (a : Bool × Nat × Int) : Bool × Nat × Int := (a.1, a.2.1 * a.2.1, a.2.2 * 2)
      mulLeOne (sq lo) (false, m, e) && mulGeOne (sq hi) (false, m, e)

/-- A result inside the stated range: the free value of the input where it meets the bound, else the first FP32 number that does (log entry 1). -/
def approxIn (f : Nat) (x : Word32) (s : Bool) (m : Nat) (e : Int) : Word32 :=
  let r := Config.approx f x
  if approxOk f s m e r then r
  else ((List.range (2 ^ 32)).find? (fun n => approxOk f s m e (BitVec.ofNat 32 n))).elim 0#32 (BitVec.ofNat 32)

/-- EXP2 (R113). -/
def approxExp2 (x : Word32) : Word32 :=
  match dec32 x with
  | .nan _ => canonNan
  | .inf s => if s then 0#32 else inf32 false
  | .fin s m e =>
    if m = 0 then bits32 false 1 0
    else if s then
      if magLt 126 0 m e then 0#32
      else match asInteger s m e with
        | some n => bits32 false 1 n
        | none => approxIn 0 x s m e
    else if !(magLt m e 128 0) then inf32 false
    else match asInteger s m e with
      | some n => bits32 false 1 n
      | none => approxIn 0 x s m e

/-- LOG2 (R113). -/
def approxLog2 (x : Word32) : Word32 :=
  match dec32 x with
  | .nan _ => canonNan
  | .inf s => if s then canonNan else inf32 false
  | .fin s m e =>
    if m = 0 then inf32 true
    else if s then canonNan
    else match asPow2 m e with
      | some t => (round32 (decide (t < 0)) t.natAbs 0).1
      | none => approxIn 1 x s m e

/-- RCP (R113). -/
def approxRcp (x : Word32) : Word32 :=
  match dec32 x with
  | .nan _ => canonNan
  | .inf s => zero32 s
  | .fin s m e =>
    if m = 0 then inf32 s
    else if magLt 1 126 m e then zero32 s
    else match asPow2 m e with
      | some t => bits32 s 1 (-t)
      | none => approxIn 2 x s m e

/-- RSQRT (R113): no result is said to be exact. -/
def approxRsqrt (x : Word32) : Word32 :=
  match dec32 x with
  | .nan _ => canonNan
  | .inf s => if s then canonNan else zero32 false
  | .fin s m e =>
    if m = 0 then (if s then canonNan else inf32 false)
    else if s then canonNan
    else approxIn 3 x s m e

/-- The four approximated functions by VAPX's MINOR (R113). -/
def approxFn (f : Nat) (x : Word32) : Word32 :=
  match f with
  | 0 => approxExp2 x
  | 1 => approxLog2 x
  | 2 => approxRcp x
  | _ => approxRsqrt x

/-- The conditions of an FP32 lane that was written as it stands: NaN and Inf (R112). -/
def condOf (r : Word32) : Cond :=
  match dec32 r with
  | .nan _ => { nan := true }
  | .inf _ => { inf := true }
  | .fin _ _ _ => {}

/-- The conditions of an approximated function's lane: EXP2 of a finite input beyond the range is finite and overflows; no other
function makes Inf of a finite result (R112, R113). -/
def approxCond (f : Nat) (x : Word32) : Cond :=
  let k := condOf (approxFn f x)
  match f, dec32 x with
  | 0, .fin _ _ _ => { k with ovf := k.inf }
  | _, _ => k

end Sys2Proof.Machine
end

