-- ==== Sys2Proof/Machine/Medlar.lean ====
section
/-! DEFINITION. The Medlar block formats and the MDL code (R137, R177 to R191). -/
namespace Sys2Proof.Machine

/-- Block bytes of a context format code: MDB, MD8, MD6, MD4, MD4X (R137, R183). -/
def blkBytes (f : Nat) : Nat :=
  match f with
  | 0 => 64
  | 1 => 33
  | 2 => 25
  | 3 => 17
  | _ => 23

/-- The largest code of an integer format or of MD4X's code part (R180). -/
def qmax (f : Nat) : Nat :=
  match f with
  | 1 => 127
  | 2 => 31
  | _ => 7

/-- The largest exponent of a format (R180). -/
def emax (f : Nat) : Int :=
  match f with
  | 1 => 121
  | 2 => 123
  | _ => 125

/-- The width of a code. -/
def codeWidth (f : Nat) : Nat :=
  match f with
  | 1 => 8
  | 2 => 6
  | _ => 4

/-- An element is NaN or an infinity (R179). -/
def isSpecial : FVal → Bool
  | .fin _ _ _ => false
  | _ => true

/-- The sign bit of an element. -/
def fvSign : FVal → Bool
  | .nan s => s
  | .inf s => s
  | .fin s _ _ => s

/-- The larger of two magnitudes, the first on a tie. -/
def magMax (a b : Nat × Int) : Nat × Int := if magLt a.1 a.2 b.1 b.2 then b else a

/-- The magnitude of an element; 0 for a special. -/
def fvMag : FVal → Nat × Int
  | .fin _ m e => (m, e)
  | _ => (0, 0)

/-- The smallest e with q · 2^e ≥ m · 2^f (R180, R118). -/
def scaleExp (q m : Nat) (f : Int) : Int :=
  let e0 := topExp m f - (q.log2 : Int) - 1
  ((List.range 4).map (fun (i : Nat) => e0 + (i : Int))).find? (fun e => !(magLt q e m f)) |>.getD (e0 + 4)

/-- The scale exponent of a block and its scale byte, from its code part: the largest magnitude and whether it holds a special (R180). -/
def blockScale (f : Nat) (amax : Nat × Int) (special : Bool) : Int × Nat :=
  if amax.1 = 0 ∧ !special then (0, 0)
  else
    let e := if amax.1 = 0 then -126 else scaleExp (qmax f) amax.1 amax.2
    let e := if e < -126 then -126 else e
    let e := if e > emax f then emax f else e
    (e, (e + 127).toNat)

/-- The code of an element of the code part, with SAT and OVF (R181). -/
def elemCode (f : Nat) (e : Int) (scale : Nat) : FVal → Int × Cond
  | .fin s m x =>
    if scale = 0 then (0, {})
    else
      let q := rneTo m x e
      let v : Int := if q > qmax f then (qmax f : Nat) else (q : Nat)
      (if s then -v else v, if q > qmax f then { sat := true, ovf := true } else {})
  | x => (if fvSign x then -(qmax f : Int) else (qmax f : Int), { sat := true })

/-- A BF16 element of MDB or an outlier: rounded, a value beyond the largest finite becomes ±0x7F7F, a special likewise (R184, R186). -/
def bf16Sat : FVal → Nat × Cond
  | .fin s m e =>
    match encMag (smallFmt 5) m e with
    | some v => (v + 32768 * b2n s, {})
    | none => (0x7F7F + 32768 * b2n s, { sat := true, ovf := true })
  | x => (0x7F7F + 32768 * b2n (fvSign x), { sat := true })

/-- Codes packed from the low bits up. -/
def packCodes (w : Nat) (l : List Int) : Nat := l.foldr (fun c a => intBits w c + 2 ^ w * a) 0

/-- The outlier positions of an MD4X block: at most two, of largest magnitude, the lower position between equals, in ascending order (R184). -/
def outliers (x : List FVal) : List Nat :=
  let cand := (List.range 32).filter (fun j => match x[j]? with
    | some (FVal.fin _ m _) => m != 0
    | _ => false)
  let mag (j : Nat) : Nat × Int := ((x[j]?).map fvMag).getD (0, 0)
  let best (l : List Nat) : Option Nat := l.foldl (fun a j => match a with
    | none => some j
    | some i => if magLt (mag i).1 (mag i).2 (mag j).1 (mag j).2 then some j else some i) none
  match best cand with
  | none => []
  | some i =>
    match best (cand.filter (· != i)) with
    | none => [i]
    | some j => if i < j then [i, j] else [j, i]

/-- A block of 32 elements encoded (R179 to R186). -/
def encodeBlock (f : Nat) (x : List FVal) : List (BitVec 8) × Cond :=
  if f = 0 then
    let r := x.map bf16Sat
    (r.flatMap (fun e => toBytes 2 e.1), r.foldl (fun a e => condOr a e.2) {})
  else
    let out := if f = 4 then outliers x else []
    let part := (List.range 32).map (fun j => (j, (x[j]?).getD (.fin false 0 0)))
    let code := part.filter (fun e => !(out.contains e.1))
    let amax := code.foldl (fun a e => magMax a (fvMag e.2)) (0, 0)
    let sc := blockScale f amax (code.any (fun e => isSpecial e.2))
    let r := part.map (fun e => if out.contains e.1 then (0, ({} : Cond)) else elemCode f sc.1 sc.2 e.2)
    let body := toBytes (4 * codeWidth f) (packCodes (codeWidth f) (r.map (·.1)))
    let cond := r.foldl (fun a e => condOr a e.2) {}
    let head := BitVec.ofNat 8 sc.2 :: body
    if f = 4 then
      let o := out.map (fun j => bf16Sat ((x[j]?).getD (.fin false 0 0)))
      let omap := (out[0]?).getD 0 + 32 * (out[1]?).getD 0 + 1024 * out.length
      (head ++ toBytes 2 ((o[0]?).map (·.1) |>.getD 0) ++ toBytes 2 ((o[1]?).map (·.1) |>.getD 0) ++ toBytes 2 omap,
        o.foldl (fun a e => condOr a e.2) cond)
    else (head, cond)

/-- A BF16 element as MDB and MD4X decoders read it (R185, R186). -/
def bf16Read (n : Nat) : FVal :=
  let s := nbit n 15
  let e := nbits n 14 7
  if e = 255 then .fin s 255 120
  else if e = 0 then .fin s 0 0
  else .fin s (128 + nbits n 6 0) ((e : Int) - 134)

/-- A code decoded (R182). -/
def codeValue (f scale c : Nat) : FVal :=
  let v := sgn (codeWidth f) c
  let v : Int := if v < -(qmax f : Int) then -(qmax f : Int) else v
  let top := (emax f + 127).toNat
  let sc := if scale > top then top else scale
  if scale = 0 ∨ v = 0 then .fin false 0 0 else .fin (decide (v < 0)) v.natAbs ((sc : Int) - 127)

/-- A block decoded to 32 exact values (R182, R185, R186). -/
def decodeBlock (f : Nat) (b : List (BitVec 8)) : List FVal :=
  if f = 0 then (List.range 32).map (fun j => bf16Read (bytesAt b (2 * j) 2))
  else
    let sc := bytesAt b 0 1
    let w := codeWidth f
    let body := bytesAt b 1 (4 * w)
    let codes := (List.range 32).map (fun j => codeValue f sc (nbits body (w * j + w - 1) (w * j)))
    if f = 4 then
      let omap := bytesAt b 21 2
      let n := nbits omap 11 10
      let l := if n ≥ 1 then lset codes (nbits omap 4 0) (bf16Read (bytesAt b 17 2)) else codes
      if n ≥ 2 then lset l (nbits omap 9 5) (bf16Read (bytesAt b 19 2)) else l
    else codes

/-- The BF16 bits of a decoded value, exact (R178). -/
def bf16Exact (x : FVal) : Nat :=
  match x with
  | .fin s m e => (encMag (smallFmt 5) m e).getD 0x7F7F + 32768 * b2n s
  | _ => 0

/-! ## MDL (R188 to R190) -/

/-- Bits of a number, least significant first. -/
def putBits (v n : Nat) : List Bool := (List.range n).map (nbit v)

/-- The exponent code of one element for a k (R189). -/
def expCode (eblk e k : Nat) : List Bool :=
  let d := eblk - e
  let qd := d / 2 ^ k
  if qd < 8 then List.replicate qd true ++ [false] ++ putBits (d % 2 ^ k) k
  else List.replicate 8 true ++ putBits e 8

/-- The 16-bit elements of an MDB block. -/
def mdbElems (b : List (BitVec 8)) : List Nat := (List.range 32).map (fun j => bytesAt b (2 * j) 2)

/-- The best k of a block: the fewest bits, the lowest of equals (R189). -/
def bestK (es : List Nat) (eblk : Nat) : Nat :=
  let size (k : Nat) : Nat := es.foldl (fun a e => a + (expCode eblk e k).length) 0
  [1, 2, 3].foldl (fun b k => if size k < size b then k else b) 0

/-- One block coded (R189). -/
def mdlBlock (b : List (BitVec 8)) : List Bool :=
  let xs := mdbElems b
  let es := xs.map (fun x => nbits x 14 7)
  let eblk := es.foldl max 0
  let k := bestK es eblk
  putBits eblk 8 ++ putBits k 2 ++
    xs.flatMap (fun x => [nbit x 15] ++ putBits (nbits x 6 0) 7 ++ expCode eblk (nbits x 14 7) k)

/-- Bytes of a bit stream, bit i in bit (i mod 8) of byte i / 8. -/
def bitsToBytes : List Bool → List (BitVec 8)
  | [] => []
  | b0 :: b1 :: b2 :: b3 :: b4 :: b5 :: b6 :: b7 :: r =>
    BitVec.ofNat 8 ([b0, b1, b2, b3, b4, b5, b6, b7].foldr (fun b a => b2n b + 2 * a) 0) :: bitsToBytes r
  | l => [BitVec.ofNat 8 (l.foldr (fun b a => b2n b + 2 * a) 0)]

/-- The blocks of a stream of MDB bytes. -/
def chunkBytes (n : Nat) : Nat → List (BitVec 8) → List (List (BitVec 8))
  | 0, _ => []
  | k + 1, l => if l.isEmpty then [] else l.take n :: chunkBytes n k (l.drop n)

/-- A segment: header and padded body (R188). -/
def mdlSegment (blocks : List (List (BitVec 8))) : List (BitVec 8) :=
  let bits := blocks.flatMap mdlBlock
  let pad := (64 - bits.length % 64) % 64
  let body := bitsToBytes (bits ++ List.replicate pad false)
  toBytes 4 blocks.length ++ toBytes 4 body.length ++ toBytes 8 0 ++ body

/-- Takes `n` bits as a number. -/
def takeBits : Nat → List Bool → Option (Nat × List Bool)
  | 0, l => some (0, l)
  | _ + 1, [] => none
  | n + 1, b :: l => (takeBits n l).map (fun r => (b2n b + 2 * r.1, r.2))

/-- Counts ones up to eight; a zero that ends the run is taken. -/
def takeOnes : Nat → List Bool → Option (Nat × List Bool)
  | 0, l => some (0, l)
  | _ + 1, [] => none
  | n + 1, b :: l => if b then (takeOnes n l).map (fun r => (r.1 + 1, r.2)) else some (0, l)

/-- One element decoded (R190). -/
def mdlElem (eblk k : Nat) (l : List Bool) : Option (Nat × List Bool) := do
  let (s, l) ← takeBits 1 l
  let (m, l) ← takeBits 7 l
  let (q, l) ← takeOnes 8 l
  if q < 8 then
    let (r, l) ← takeBits k l
    let d := q * 2 ^ k + r
    if d > eblk then none else some (s * 32768 + (eblk - d) * 128 + m, l)
  else
    let (e, l) ← takeBits 8 l
    some (s * 32768 + e * 128 + m, l)

/-- `n` elements decoded. -/
def mdlElems (eblk k : Nat) : Nat → List Bool → Option (List Nat × List Bool)
  | 0, l => some ([], l)
  | n + 1, l =>
    match mdlElem eblk k l with
    | none => none
    | some (x, l) => (mdlElems eblk k n l).map (fun r => (x :: r.1, r.2))

/-- `n` blocks decoded to MDB bytes. -/
def mdlBlocks : Nat → List Bool → Option (List (BitVec 8) × List Bool)
  | 0, l => some ([], l)
  | n + 1, l =>
    match takeBits 10 l with
    | none => none
    | some (h, l) =>
      match mdlElems (h % 256) (h / 256) 32 l with
      | none => none
      | some (xs, l) => (mdlBlocks n l).map (fun r => (xs.flatMap (toBytes 2) ++ r.1, r.2))

/-- The bits of a list of bytes. -/
def bytesToBits (l : List (BitVec 8)) : List Bool := l.flatMap (fun b => putBits b.toNat 8)

/-- What stands at the head of a stream: a whole segment, as its MDB bytes and the rest; one that R190 refuses; or one that
goes on past the bytes given. -/
inductive MdlAns where
  | segment (out rest : List (BitVec 8))
  | malformed
  | short
  deriving DecidableEq, Repr

/-- The segment at the head of a stream decoded (R188, R190). -/
def mdlDecode (l : List (BitVec 8)) : MdlAns :=
  let n := bytesAt l 0 4
  let bb := bytesAt l 4 4
  if l.length < 16 then .short
  else if n = 0 ∨ bytesAt l 8 8 ≠ 0 ∨ bb % 8 ≠ 0 then .malformed
  else if l.length < 16 + bb then .short
  else
    match mdlBlocks n (bytesToBits ((l.drop 16).take bb)) with
    | none => .malformed
    | some (out, rest) =>
      if rest.length > 63 ∨ rest.any id then .malformed else .segment out (l.drop (16 + bb))

/-- The bytes of a segment that a block's code touches, block by block from a bit of the body on: first and one past the last. -/
def mdlSpans : Nat → List (List (BitVec 8)) → List (Nat × Nat)
  | _, [] => []
  | bit, b :: bs =>
    let n := (mdlBlock b).length
    (16 + bit / 8, 16 + (bit + n - 1) / 8 + 1) :: mdlSpans (bit + n) bs

end Sys2Proof.Machine
end

