-- ==== Sys2Proof/Machine/SeMath.lean ====
section
/-! DEFINITION. The State Engine's arithmetic: scores, partials, merges and selection (R153, R154, R164 to R166). -/
namespace Sys2Proof.Machine

/-! ## Trees (R120, R164, R165) -/

/-- One level of a tree: slot i takes slot i + w; an absent slot is skipped. -/
def treeLevel (op : Word32 → Word32 → Word32) (w : Nat) (l : List (Option Word32)) : List (Option Word32) :=
  (List.range w).map (fun i =>
    match l.getD i none, l.getD (i + w) none with
    | some a, some b => some (op a b)
    | some a, none => some a
    | none, b => b)

/-- A tree of levels w, w / 2, …, 1. -/
def tree (op : Word32 → Word32 → Word32) (ws : List Nat) (l : List (Option Word32)) : Word32 :=
  ((ws.foldl (fun l w => treeLevel op w l) l).headD none).getD 0

/-- FP32 addition and multiplication of words, and the maximum of R111. -/
def addW (a b : Word32) : Word32 := (fpAdd (dec32 a) (dec32 b)).1
def mulW (a b : Word32) : Word32 := (fpMul (dec32 a) (dec32 b)).1
def subW (a b : Word32) : Word32 := (fpAdd (dec32 a) (fvNeg (dec32 b))).1
def maxW (a b : Word32) : Word32 := (fpMax (dec32 a) (dec32 b)).1

/-- Levels of a tree of 32 and of 256. -/
def w32 : List Nat := [16, 8, 4, 2, 1]
def w256 : List Nat := [128, 64, 32, 16, 8, 4, 2, 1]

/-! ## Scores (R164) -/

/-- s of a query and a decoded key of NB blocks. -/
def seScore (scale : Word32) (q : List FVal) (kh : List FVal) : Word32 :=
  let part (b : Nat) : Option Word32 :=
    some (tree addW w32 ((List.range 32).map (fun i =>
      some (fpMul (q.getD (32 * b + i) (.fin false 0 0)) (kh.getD (32 * b + i) (.fin false 0 0))).1)))
  mulW (tree addW [4, 2, 1] ((List.range (kh.length / 32)).map part)) scale

/-! ## Partials (R165, R166) -/

/-- A partial (m, l, n, o). -/
structure Partial where
  m : Word32 := 0xFF800000#32
  l : Word32 := 0
  n : Nat := 0
  o : List Word32 := []
  deriving DecidableEq, Repr

/-- The empty partial of D elements (R153). -/
def emptyPartial (d : Nat) : Partial := { o := List.replicate d 0 }

/-- merge (R166). -/
def mergePartial (a b : Partial) : Partial :=
  if a.n = 0 then b
  else if b.n = 0 then a
  else
    let m := maxW a.m b.m
    let a1 := approxExp2 (subW a.m m)
    let a2 := approxExp2 (subW b.m m)
    { m := m, l := addW (mulW a.l a1) (mulW b.l a2), n := a.n + b.n,
      o := (a.o.zip b.o).map (fun x => addW (mulW x.1 a1) (mulW x.2 a2)) }

/-- The partial of one group: slots with their scores and decoded values (R165). -/
def groupPartial (d : Nat) (slots : AMap (Word32 × List FVal)) : Partial :=
  match slots with
  | [] => emptyPartial d
  | (_, f) :: rest =>
    let m := rest.foldl (fun m e => maxW m e.2.1) f.1
    let at_ (g : Word32 × List FVal → Word32) : List (Option Word32) :=
      (List.range 256).map (fun r => (mfindP slots r).map g)
    let p (e : Word32 × List FVal) : Word32 := approxExp2 (subW e.1 m)
    { m := m, l := tree addW w256 (at_ p), n := slots.length,
      o := (List.range d).map (fun i => tree addW w256 (at_ (fun e => (fpMul (dec32 (p e)) (e.2.getD i (.fin false 0 0))).1))) }
where
  /-- The slot at index r. -/
  mfindP : AMap (Word32 × List FVal) → Nat → Option (Word32 × List FVal)
    | [], _ => none
    | (k, v) :: m, r => if k = r then some v else mfindP m r

/-- Groups folded from the empty partial, in order (R165). -/
def foldGroups (d : Nat) (gs : List (AMap (Word32 × List FVal))) : Partial :=
  gs.foldl (fun p g => mergePartial p (groupPartial d g)) (emptyPartial d)

/-- A record of 16 + 4D bytes (R153). -/
def partialBytes (p : Partial) : List (BitVec 8) :=
  toBytes 4 p.m.toNat ++ toBytes 4 p.l.toNat ++ toBytes 4 p.n ++ toBytes 4 0 ++ p.o.flatMap (fun x => toBytes 4 x.toNat)

/-- NAN_SEEN (2) and INF_SEEN (4) of result words (R169). -/
def wordFlags (l : List Word32) : Nat :=
  let c (x : Word32) : Cond := condOf x
  2 * b2n (l.any (fun x => (c x).nan)) + 4 * b2n (l.any (fun x => (c x).inf))

/-- The flags of a partial; the M of an empty one sets none (R169). -/
def partialFlags (p : Partial) : Nat := wordFlags (if p.n = 0 then p.l :: p.o else p.m :: p.l :: p.o)

/-! ## Selection (R154) -/

/-- Entry a ranks before entry b: higher score, then lower position; −0 equals +0; NaN last. -/
def ranksBefore (a b : Nat × Word32) : Bool :=
  let isNan (x : Word32) : Bool := (condOf x).nan
  match isNan a.2, isNan b.2 with
  | true, true => a.1 < b.1
  | true, false => false
  | false, true => true
  | false, false =>
    let x := dec32 a.2
    let y := dec32 b.2
    if fpLess y x false then true else if fpLess x y false then false else a.1 < b.1

/-- An entry inserted in rank order. -/
def rankInsert (e : Nat × Word32) : List (Nat × Word32) → List (Nat × Word32)
  | [] => [e]
  | f :: l => if ranksBefore e f then e :: f :: l else f :: rankInsert e l

/-- Entries in rank order. -/
def ranked (l : List (Nat × Word32)) : List (Nat × Word32) := l.foldl (fun a e => rankInsert e a) []

/-- The group score of a token: the maximum over queries, or their sum in the order of R120 (R154). -/
def groupScore (sum : Bool) (ss : List Word32) : Word32 := tree (if sum then addW else maxW) [4, 2, 1] (ss.map some)

/-! ## Geometry (R137, R138) -/

/-- Bytes of a head vector's blocks. -/
def headBytes (f nb : Nat) : Nat := nb * blkBytes f

/-- Bytes of one token in a stream payload (R158). -/
def tokenBytes (c : Ctx) : Nat := c.h * (headBytes c.fmtK c.nb + headBytes c.fmtV c.nb)

/-- PAGE_BYTES (R138). -/
def pageBytes (c : Ctx) : Nat := 256 * tokenBytes c

/-- Offset in a page of the key (or value) blocks of a head at slot r (R138). -/
def slotOff (c : Ctx) (value : Bool) (h r : Nat) : Nat :=
  if value then 256 * c.h * headBytes c.fmtK c.nb + (h * 256 + r) * headBytes c.fmtV c.nb
  else (h * 256 + r) * headBytes c.fmtK c.nb

/-- A head vector decoded. -/
def decodeHead (f : Nat) (l : List (BitVec 8)) : List FVal :=
  (chunkBytes (blkBytes f) (l.length / blkBytes f) l).flatMap (decodeBlock f)

/-- A head vector of BF16 bytes encoded, with whether SAT was raised. -/
def encodeHead (f : Nat) (l : List (BitVec 8)) : List (BitVec 8) × Bool :=
  let r := (chunkBytes 64 (l.length / 64) l).map (fun b => encodeBlock f ((List.range 32).map (fun i => decBF16 (bytesAt b (2 * i) 2))))
  (r.flatMap (·.1), r.any (fun e => e.2.sat || e.2.ovf))

end Sys2Proof.Machine
end

