-- ==== Sys2Proof/Machine/Reduce.lean ====
section
/-! DEFINITION. The fold of collectives and of Currant trees (R164, R366, R367, R390). -/
namespace Sys2Proof.Machine

/-- Powers of two below n, largest first. -/
def powsBelow (n : Nat) : List Nat := ((List.range 17).reverse.map (fun (k : Nat) => 2 ^ k)).filter (fun w => w < n)

/-- One level: element i takes element i + w where there is one. -/
def foldLevel {β : Type} (op : β → β → β) (w : Nat) (l : List β) : List β :=
  List.zipWith op (l.take w) (l.drop w) ++ (l.take w).drop (l.length - w)

/-- The tree of R164 over a list; a single element passes unchanged. -/
def foldTree {β : Type} (op : β → β → β) (l : List β) : Option β :=
  ((powsBelow l.length).foldl (fun l w => foldLevel op w l) l).head?

/-- A word of a partial, with whether an INT32 sum on its way saturated. -/
abbrev RWord := Word32 × Bool

/-- One fold of two words: sum, maximum or minimum (0 to 2), as FP32 or as INT32 (R366). -/
def foldOp (int : Bool) (rop : Nat) (a b : RWord) : RWord :=
  let f := a.2 || b.2
  if int then
    let x := a.1.toInt
    let y := b.1.toInt
    match rop with
    | 0 =>
      let c := clampS 32 (x + y)
      (BitVec.ofInt 32 c.1, f || c.2.sat)
    | 1 => (BitVec.ofInt 32 (max x y), f)
    | _ => (BitVec.ofInt 32 (min x y), f)
  else
    match rop with
    | 0 => (addW a.1 b.1, f)
    | 1 => (maxW a.1 b.1, f)
    | _ => ((fpMin (dec32 a.1) (dec32 b.1)).1, f)

/-- n elements, each folded over the partials in their order. -/
def foldWords (int : Bool) (rop n : Nat) (ls : List (List RWord)) : List RWord :=
  (List.range n).map (fun i => (foldTree (foldOp int rop) (ls.map (fun l => l.getD i (0, false)))).getD (0, false))

end Sys2Proof.Machine
end

