-- ==== Sys2Proof/Machine/Flags.lean ====
section
/-! DEFINITION. Compares into predicates, and the numeric conditions: watch counters and sticky flags (R93, R112, R128). -/
namespace Sys2Proof.Machine

/-- The scalar compares EQ, NE, LTS, GES, LTU, GEU in MINOR order (R93). -/
def cmpOp (op : Nat) (a b : Word) : Bool :=
  match op with
  | 0 => a == b
  | 1 => a != b
  | 2 => a.slt b
  | 3 => !(a.slt b)
  | 4 => a.ult b
  | _ => !(a.ult b)

/-- Conditions raised by an instruction: the core's numeric watch counters, saturating, and the thread's sticky flags (R128). -/
def nwBump (c : CoreSt) (i : Nat) (b : Bool) : CoreSt :=
  if b then
    let v := vget 0 c.nw i
    { c with nw := vset c.nw i (if v = BitVec.allOnes 32 then v else v + 1) }
  else c

def watch (c : CoreSt) (k : Cond) : CoreSt :=
  nwBump (nwBump (nwBump (nwBump c 0 k.nan) 1 k.inf) 2 k.sat) 3 k.ovf

def stick (x : ThreadSt) (k : Cond) : ThreadSt :=
  { x with fNan := x.fNan || k.nan, fInf := x.fInf || k.inf, fSat := x.fSat || k.sat, fOvf := x.fOvf || k.ovf }

end Sys2Proof.Machine
end

