-- ==== Sys2Proof/Machine/Operands.lean ====
section
/-! DEFINITION. The instruction word: its fields, the row of the instruction tables it belongs to, and its reserved fields (R73, R93 to R95, R106). -/
namespace Sys2Proof.Machine

/-- Fields of the instruction word (R93). -/
def wMajor (w : Word) : Nat := fld w 63 58
def wMinor (w : Word) : Nat := fld w 57 52
def wDst (w : Word) : Nat := fld w 51 47
def wA (w : Word) : Nat := fld w 46 42
def wB (w : Word) : Nat := fld w 41 37
def wC (w : Word) : Nat := fld w 36 32
def wImm (w : Word) : BitVec 32 := w.setWidth 32
/-- Bits [hi:lo] of IMM32. -/
def imm (w : Word) (hi lo : Nat) : Nat := fld w hi lo
/-- sext(IMM32). -/
def sImm (w : Word) : Word := (wImm w).signExtend 64

/-- The rows a core instruction word can belong to. -/
inductive CoreRow where
  | mclaim | mrel | mcfg | mstream | mrun | mswap | mzero | mstat
  | alu | alui | cmp | cmpi | movi | movhi | sel | plog | rdsr
  | br | jal | jr | endThread | yield
  | ldl | stl | ldr | str | ldg | stg | atom
  | fenceRel | fenceAcq | fenceFull | waitl | waitc | barc | barl | lcset | lcadd
  | pref | spset | spstop | sereq | cpreq | curreq | nop | trap | nwread | phint
  | vint | vlog | vshf | vfp | vfma | vcmp | vsel | vmov | vext | vins | vapx | vf2i | vi2f
  | vpack | vunpk | vmde | vmdd | vscale | vred
  deriving DecidableEq, Repr

/-- A row where a MINOR is below a bound. -/
def below (m n : Nat) (r : CoreRow) : Option CoreRow := if m < n then some r else none

/-- The row of a MAJOR and MINOR; none where no table defines it (R73, R95). -/
def rowOf (w : Word) : Option CoreRow :=
  let m := wMinor w
  match wMajor w with
  | 0x00 => below m 15 .alu
  | 0x01 => below m 15 .alui
  | 0x02 => below m 6 .cmp
  | 0x03 => below m 6 .cmpi
  | 0x04 => match m with | 0 => some .movi | 1 => some .movhi | 2 => some .sel | _ => none
  | 0x05 => below m 4 .plog
  | 0x06 => below m 1 .rdsr
  | 0x10 => below m 1 .br
  | 0x11 => below m 1 .jal
  | 0x12 => below m 1 .jr
  | 0x13 => below m 1 .endThread
  | 0x14 => below m 1 .yield
  | 0x18 => below m 8 .ldl
  | 0x19 => below m 8 .stl
  | 0x1A => below m 8 .ldr
  | 0x1B => below m 8 .str
  | 0x1C => below m 32 .ldg
  | 0x1D => below m 32 .stg
  | 0x1E => below m 12 .atom
  | 0x20 => match m with | 0 => some .mclaim | 1 => some .mrel | _ => none
  | 0x21 => below m 1 .mcfg
  | 0x22 => below m 4 .mstream
  | 0x23 => below m 1 .mrun
  | 0x24 => below m 1 .mswap
  | 0x25 => below m 2 .mzero
  | 0x26 => below m 2 .mstat
  | 0x28 => below m 5 .vint
  | 0x29 => below m 4 .vlog
  | 0x2A => below m 4 .vshf
  | 0x2B => below m 5 .vfp
  | 0x2C => below m 3 .vfma
  | 0x2D => below m 8 .vcmp
  | 0x2E => match m with | 0 => some .vsel | 1 => some .vmov | 2 => some .vext | 3 => some .vins | _ => none
  | 0x2F => below m 4 .vapx
  | 0x30 => match m with | 0 => some .vf2i | 1 => some .vi2f | _ => none
  | 0x31 => below m 1 .vpack
  | 0x32 => below m 1 .vunpk
  | 0x33 => match m with | 0 => some .vmde | 1 => some .vmdd | _ => none
  | 0x34 => below m 1 .vscale
  | 0x35 => below m 4 .vred
  | 0x38 => match m with | 0 => some .fenceRel | 1 => some .fenceAcq | 2 => some .fenceFull | _ => none
  | 0x39 => match m with | 0 => some .waitl | 1 => some .waitc | _ => none
  | 0x3A => match m with | 0 => some .barc | 1 => some .barl | _ => none
  | 0x3B => match m with | 0 => some .lcset | 1 => some .lcadd | _ => none
  | 0x3C => below m 3 .pref
  | 0x3D => match m with | 0 => some .spset | 1 => some .spstop | _ => none
  | 0x3E => match m with | 0 => some .sereq | 1 => some .cpreq | 2 => some .curreq | _ => none
  | 0x3F => match m with | 0 => some .nop | 1 => some .trap | 2 => some .nwread | 3 => some .phint | _ => none
  | _ => none

/-- Instructions whose [36:32] is a third source and not a guard (R94). -/
def threeSrc : CoreRow → Bool
  | .str => true
  | .atom => true
  | .vfma => true
  | .vsel => true
  | _ => false

/-- The guard of an instruction, read on a thread's predicates (R94). -/
def guardOn (x : ThreadSt) (w : Word) : Bool := rdP x (wC w % 8) != nbit (wC w) 3

/-- A vector register field names v0 to v15 (R95). -/
def vok (r : Nat) : Bool := r < 16

/-- How a vector instruction uses the shared fields of IMM32 (R106). -/
structure VForm where
  /-- takes a B source -/
  hasB : Bool := false
  /-- an integer instruction: WIDTH, SAT and SIGNED have a meaning -/
  isInt : Bool := false
  /-- bits of PARAM in use -/
  param : Nat := 0
  anyWidth : Bool := false
  deriving DecidableEq, Repr

/-- The reserved bits of a vector instruction's fields are 0, and its A and B sources are well formed (R95, R106). Logic
instructions ignore WIDTH (R108), so no value of it is reserved there; the other integer instructions have WIDTH, SAT and SIGNED, those on
32-bit lanes too, whatever they make of them (DEDUCED, log entry 35). -/
def vFieldsOk (w : Word) (f : VForm) : Bool :=
  let am := imm w 1 0
  let bm := imm w 3 2
  am < 2 &&
  vok (wA w) && -- AMODE 0: bit 4 of a register field; AMODE 1: SRC_A[4] reserved
  (if f.hasB then
     !(bm == 1 && am == 0) && (if bm < 2 then vok (wB w) else true) && (bm == 3 || imm w 31 16 == 0)
   else bm == 0 && wB w == 0 && imm w 31 16 == 0) &&
  (if f.isInt then f.anyWidth || imm w 5 4 < 3 else imm w 7 4 == 0) &&
  (imm w 15 8 &&& (255 ^^^ f.param)) == 0

/-- The fields of a word whose row is known hold nothing reserved (R73, R94, R95 and the instruction tables). VINS, whose source is a
scalar, has AMODE 0 only (DEDUCED, log entry 35). -/
def fieldsOk (r : CoreRow) (w : Word) : Bool :=
  (threeSrc r || wC w / 16 == 0) &&
  (match r with
   | .mclaim => wDst w < 8 && wA w == 0 && wB w == 0 && imm w 31 4 == 0
   | .mrel => wDst w == 0 && wA w == 0 && wB w == 0 && imm w 31 4 == 0
   | .mcfg => wDst w == 0 && wB w == 0 && imm w 15 11 == 0
   | .mstream => wDst w == 0 && imm w 31 2 == 0
   | .mrun => wDst w == 0 && wB w == 0 && imm w 31 1 == 0
   | .mswap => wDst w == 0 && wA w == 0 && wB w == 0 && imm w 31 4 == 0
   | .mzero => wDst w == 0 && wA w == 0 && wB w == 0 && imm w 31 4 == 0
   | .mstat => wA w == 0 && wB w == 0 && imm w 31 0 == 0
   | .cmp => wDst w < 8
   | .cmpi => wDst w < 8
   | .sel => imm w 31 3 == 0
   | .plog => wDst w < 8 && wA w < 8 && wB w < 8
   | .rdsr => imm w 7 0 ≤ 0x0A || (0x20 ≤ imm w 7 0 && imm w 7 0 < 0x40)
   | .ldl => wMinor w < 7 || vok (wDst w)
   | .ldr => wMinor w < 7 || vok (wDst w)
   | .stl => wMinor w < 4 || (wMinor w == 7 && vok (wB w))
   | .str => wMinor w < 4 || (wMinor w == 7 && vok (wC w))
   | .ldg => wMinor w / 8 < 3 && (wMinor w % 8 < 7 || vok (wDst w))
   | .stg => wMinor w / 8 < 3 && (wMinor w % 8 < 4 || (wMinor w % 8 == 7 && vok (wB w)))
   | .waitl => wDst w < 8
   | .waitc => wDst w < 8
   | .spset => imm w 22 21 < 3
   | .sereq => imm w 31 16 == 0
   | .cpreq => imm w 31 16 == 0
   | .curreq => imm w 31 16 == 0
   | .vint => vok (wDst w) && vFieldsOk w { hasB := true, isInt := true }
   | .vlog => vok (wDst w) && vFieldsOk w { hasB := true, isInt := true, anyWidth := true }
   | .vshf => vok (wDst w) && vFieldsOk w { hasB := true, isInt := true }
   | .vfp => vok (wDst w) && vFieldsOk w { hasB := true }
   | .vfma => vok (wDst w) && vok (wC w) && vFieldsOk w { hasB := true }
   | .vcmp => vFieldsOk w { hasB := true, isInt := wMinor w < 4 }
   | .vsel => vok (wDst w) && vFieldsOk w { hasB := true }
   | .vmov => vok (wDst w) && vFieldsOk w {}
   | .vext => vFieldsOk w { param := 31 }
   | .vins => vok (wDst w) && wB w == 0 && imm w 7 0 == 0 && imm w 15 13 == 0 && imm w 31 16 == 0
   | .vapx => vok (wDst w) && vFieldsOk w {}
   | .vf2i => vok (wDst w) && vFieldsOk w {}
   | .vi2f => vok (wDst w) && vFieldsOk w {}
   | .vpack => vok (wDst w) && imm w 1 0 < 2 && vok (wA w) && imm w 6 2 == 0 && imm w 31 16 == 0 && packPlaceOk w
   | .vunpk => vok (wDst w) && imm w 1 0 < 2 && vok (wA w) && imm w 6 2 == 0 && imm w 31 16 == 0 && packPlaceOk w
   | .vmde => vok (wDst w) && vFieldsOk w { param := 7 } && imm w 10 8 < 5
   | .vmdd => vok (wDst w) && vFieldsOk w { param := 7 } && imm w 10 8 < 5
   | .vscale => vFieldsOk w { param := 15 } && imm w 11 8 < 6
   | .vred => vFieldsOk w { isInt := 2 ≤ wMinor w }
   | _ => true)
where
  /-- FMT, SEG and LAYOUT of VPACK and VUNPK (R116); SRC_B is a source only with SC. -/
  packPlaceOk (w : Word) : Bool :=
    let fmt := imm w 11 8
    let seg := imm w 14 12
    let ew := elemWidth fmt
    fmt < 6 && (imm w 7 7 == 1 || wB w == 0) &&
    (if imm w 15 15 == 0 then seg < 1024 / (32 * ew)
     else fmt != 5 && (ew == 4 || seg < 4))

/-- Vector registers an instruction names, for the quota (R86). -/
def vNames (r : CoreRow) (w : Word) : List Nat :=
  let a := if imm w 1 0 = 0 then [wA w] else []
  let b := if imm w 3 2 < 2 then [wB w] else []
  match r with
  | .vint => [wDst w] ++ a ++ b
  | .vlog => [wDst w] ++ a ++ b
  | .vshf => [wDst w] ++ a ++ b
  | .vfp => [wDst w] ++ a ++ b
  | .vfma => [wDst w, wC w] ++ a ++ b
  | .vcmp => a ++ b
  | .vsel => [wDst w] ++ a ++ b
  | .vmov => [wDst w] ++ a
  | .vext => a
  | .vins => [wDst w]
  | .vapx => [wDst w] ++ a
  | .vf2i => [wDst w] ++ a
  | .vi2f => [wDst w] ++ a
  | .vpack => [wDst w] ++ a
  | .vunpk => [wDst w] ++ a
  | .vmde => [wDst w] ++ a
  | .vmdd => [wDst w] ++ a
  | .vscale => a
  | .vred => a
  | .ldl => if wMinor w = 7 then [wDst w] else []
  | .ldr => if wMinor w = 7 then [wDst w] else []
  | .ldg => if wMinor w % 8 = 7 then [wDst w] else []
  | .stl => if wMinor w = 7 then [wB w] else []
  | .stg => if wMinor w % 8 = 7 then [wB w] else []
  | .str => if wMinor w = 7 then [wC w] else []
  | _ => []

/-- Scalar registers an instruction reads or writes, so that a destination still to be written holds it back (R90). -/
def sNames (r : CoreRow) (w : Word) : List Nat :=
  let b := if imm w 3 2 = 2 then [wB w] else []
  match r with
  | .mcfg => [wA w]
  | .mstream => [wA w, wB w]
  | .mrun => [wA w]
  | .mstat => [wDst w]
  | .alu => [wDst w, wA w, wB w]
  | .alui => [wDst w, wA w]
  | .cmp => [wA w, wB w]
  | .cmpi => [wA w]
  | .movi => [wDst w]
  | .movhi => [wDst w]
  | .sel => [wDst w, wA w, wB w]
  | .rdsr => [wDst w]
  | .jal => [wDst w]
  | .jr => [wDst w, wA w]
  | .ldl => if wMinor w = 7 then [wA w] else [wDst w, wA w]
  | .stl => if wMinor w = 7 then [wA w] else [wA w, wB w]
  | .ldr => if wMinor w = 7 then [wA w, wB w] else [wDst w, wA w, wB w]
  | .str => if wMinor w = 7 then [wA w, wB w] else [wA w, wB w, wC w]
  | .ldg => if wMinor w % 8 = 7 then [wA w] else [wDst w, wA w]
  | .stg => if wMinor w % 8 = 7 then [wA w] else [wA w, wB w]
  | .atom => [wDst w, wA w, wB w, wC w]
  | .waitl => [wA w]
  | .waitc => [wA w, wB w]
  | .barl => [wA w]
  | .lcset => [wA w]
  | .lcadd => [wA w]
  | .pref => [wA w, wB w]
  | .spset => [wA w, wB w]
  | .sereq => [wA w]
  | .cpreq => [wA w]
  | .curreq => [wA w]
  | .nwread => [wDst w]
  | .vint => b
  | .vlog => b
  | .vshf => b
  | .vfp => b
  | .vfma => b
  | .vcmp => [wDst w] ++ b
  | .vsel => [wC w] ++ b
  | .vext => [wDst w]
  | .vins => [wA w]
  | .vpack => if imm w 7 7 = 1 then [wB w] else []
  | .vunpk => if imm w 7 7 = 1 then [wB w] else []
  | .vscale => [wDst w]
  | .vred => [wDst w]
  | _ => []

end Sys2Proof.Machine
end

