-- ==== Sys2Proof/Machine/Issue.lean ====
section
/-! DEFINITION. Issuing an instruction: what must hold before it takes effect, and what happens where it does not (R89 to R96, R492, R493). -/
namespace Sys2Proof.Machine

/-- A thread reference names a thread that the package can have. -/
def refOk (s : State) (t : ThreadRef) : Bool :=
  t.die < 4 * nParts s && t.cl < 40 && t.core < 120 && t.th < 16

def coreOk (s : State) (c : CoreRef) : Bool := c.die < 4 * nParts s && c.cl < 40 && c.core < 120

def clusterOk (s : State) (c : ClusterRef) : Bool := c.die < 4 * nParts s && c.cl < 40

/-- The identity of a launch's accesses (R226, R236). -/
def launchWho (l : Launch) (die : Nat) : Who :=
  { tenant := l.tenant, domain := l.domain, jobTag := l.jobTag, part := die / 4, port := die % 4, op := some (l.part, l.op) }

/-- The identity of a thread's accesses. -/
def threadWho (s : State) (t : ThreadRef) : Who :=
  match (getCore s (tKey t)).launch with
  | some l => launchWho l t.die
  | none => { part := t.die / 4 }

/-- A thread may issue: its launch is resident, it runs, it is not halted, and the dies run. -/
def canIssue (s : State) (t : ThreadRef) : Bool :=
  let c := getCore s (tKey t)
  let x := getThread c t.th
  running s && c.launch.isSome && x.stat == .run && !x.halted

/-- A fetch at the pc (R89, R193): a line that the instruction buffer holds needs nothing; any other is translated with X and
read through the cluster cache into the buffer of 512 lines. The command carries the word itself (log entry 11). -/
def fetch (s : State) (t : ThreadRef) : Status × State :=
  let pc := (threadOf s t).pc.toNat
  let k := tKey t
  let c := getCore s k
  if c.ibuf.contains (pc / 64) then (.ok, setCore s k { c with ibuf := pc / 64 :: c.ibuf.filter (fun l => l != pc / 64) })
  else
    let w := threadWho s t
    let cl := clKey t.die t.cl
    match clTranslate s cl w pc .fetch with
    | (.ok, ga, attr, s) =>
      match cacheLoad s cl w (ga / 64 * 64) 64 attr 0 false with
      | (.ok, d, _, s) =>
        let c := getCore s k
        (.ok, setCore (noteDegraded s w d) k { c with ibuf := (pc / 64 :: c.ibuf).take 512 })
      | (st, _, _, s) => (st, s)
    | (st, _, _, s) => (st, s)

/-- What the fetch finds. -/
def fetchStatus (s : State) (t : ThreadRef) : Status := (fetch s t).1

/-- The state after the fetch of a thread's instruction; a misaligned pc is not fetched. -/
def fetched (s : State) (t : ThreadRef) : State := if (threadOf s t).pc.toNat % 8 ≠ 0 then s else (fetch s t).2

/-- A breakpoint stands at the thread's pc (R492, R493). -/
def atBreak (s : State) (t : ThreadRef) : Bool :=
  let c := getCore s (tKey t)
  let x := getThread c t.th
  !x.bpSkip && c.bps.any (fun b => b.2.pc == x.pc.toNat && nbit b.2.threads t.th)

/-- The arrays a vector instruction reads accumulator rows of (R106). -/
def accArray (r : CoreRow) (w : Word) : Option Nat :=
  match r with
  | .vins => none
  | _ => if 0x28 ≤ wMajor w ∧ wMajor w < 0x36 ∧ imm w 1 0 = 1 then some (wA w / 4 % 4) else none

/-- A queue entry swaps or zeroes an array (R50, R70). -/
def entryMoves (a : Nat) (e : Nat × MatOp) : Bool :=
  match e.2 with
  | .swap m => m.getLsbD a
  | .zero _ m => m.getLsbD a
  | .renew _ again => again.getLsbD a
  | _ => false

/-- A destination of an earlier MSTAT that is still to be written (R90). -/
def pendingDst (th : Nat) (e : Nat × MatOp) : Option Nat :=
  match e.2 with
  | .stat _ _ d => if e.1 = th ∧ d ≠ 0 then some d.toNat else none
  | _ => none

/-- The instruction must wait: every cycle of its cluster is gated for vector instructions, a register it names is still to be
written, or a bank it reads is still to be swapped (R70, R90, R406). -/
def mustWait (s : State) (t : ThreadRef) (r : CoreRow) (w : Word) : Bool :=
  let c := getCore s (tKey t)
  (0x28 ≤ wMajor w && wMajor w < 0x36 && pauseOf s (clKey t.die t.cl) == 16) ||
  c.mq.any (fun e =>
    (match pendingDst t.th e with
     | some d => (sNames r w).contains d
     | none => false) ||
    (match accArray r w with
     | some a => entryMoves a e
     | none => false))

/-- A vector register outside the thread's quota (R86). -/
def overQuota (x : ThreadSt) (r : CoreRow) (w : Word) : Bool := (vNames r w).any (fun v => v ≥ x.quota)

/-- The state with a thread past its instruction. -/
def fin (s : State) (t : ThreadRef) (x : ThreadSt) : State := stepLeaf x (putThread s t (retire x))

/-- What happens to an instruction that is given to a thread. -/
inductive Fate where
  /-- the operands name no thread, or the word is another row's -/
  | refuse (r : Refusal)
  /-- the thread does not issue now, or the instruction waits -/
  | hold
  /-- a breakpoint halts the thread -/
  | break_
  | trap (c : Trap)
  /-- a false guard -/
  | skip
  | go
  deriving DecidableEq, Repr

/-- The fate of a word of row `r` (R89 to R96, R492). -/
def fateOf (r : CoreRow) (t : ThreadRef) (w : Word) (s : State) : Fate :=
  if !(threadWf t) then .refuse .illFormed
  else if !(refOk s t) || !(canIssue s t) then .hold
  else
    let x := threadOf s t
    if x.pc.toNat % 8 ≠ 0 then .trap .misaligned
    else match fetchStatus s t with
      | .ok =>
        match rowOf w with
        | none => .trap .illegal
        | some r' =>
          if r' ≠ r then .refuse .notThisCommand
          else if !(fieldsOk r w) then .trap .illegal
          else if !(threeSrc r) && !(guardOn x w) then .skip
          else if atBreak s t then .break_
          else if overQuota x r w then .trap .vregQuota
          else if mustWait s t r w then .hold
          else .go
      | .faultMem => .trap .memFault
      | .linkLost => .trap .memFault
      | .unsupported => .trap .unsupported
      | _ => .trap .memAccess

/-- An instruction issued: fetched, then its own effect where it goes (`body`, given the state and the thread as they stand), else
its fate. One that waits is fetched when it goes. -/
def issue (r : CoreRow) (t : ThreadRef) (w : Word) (s : State) (body : State → ThreadSt → State) : Out :=
  match fateOf r t w s with
  | .refuse q => .refused q
  | .hold => .next s
  | .break_ => .next (leaf (putThread (fetched s t) t { threadOf s t with halted := true }) 29 0)
  | .trap c => .next (takeTrap (fetched s t) t c [])
  | .skip => .next (fin (fetched s t) t (threadOf s t))
  | .go => .next (body (fetched s t) (threadOf s t))

/-! ## Vector registers (R86) -/

/-- A vector register of a thread. -/
def rdV (c : CoreSt) (x : ThreadSt) (v : Nat) : VReg := vget 0 c.vregs (x.vbase + v)

def wrV (c : CoreSt) (x : ThreadSt) (v : Nat) (d : VReg) : CoreSt := { c with vregs := vset c.vregs (x.vbase + v) d }

/-- The drain bank of an array (R68). -/
def drainBank (a : ArraySt) : Bank := if a.fill1 then a.bank0 else a.bank1

def fillBank (a : ArraySt) : Bank := if a.fill1 then a.bank1 else a.bank0

def withFill (a : ArraySt) (b : Bank) : ArraySt := if a.fill1 then { a with bank1 := b } else { a with bank0 := b }

def withDrain (a : ArraySt) (b : Bank) : ArraySt := if a.fill1 then { a with bank0 := b } else { a with bank1 := b }

/-- Lane j of a register (R86). -/
def lane (v : VReg) (j : Nat) : Word32 := BitVec.ofNat 32 (fld v (32 * j + 31) (32 * j))

/-- The 32 lanes of a register. -/
def lanes (v : VReg) : List Word32 := (List.range 32).map (lane v)

/-- A register of 32 lanes. -/
def ofLanes (l : List Word32) : VReg := BitVec.ofNat 1024 (l.foldr (fun x a => x.toNat + 2 ^ 32 * a) 0)

/-- A local store byte; addresses are taken modulo 65,536 (R98). -/
def lsGet (c : CoreSt) (a : Nat) : BitVec 8 := bget c.ls (a % 65536)

/-- `n` bytes of a local store, little-endian. -/
def lsRead (c : CoreSt) (a n : Nat) : Nat := ofBytes ((List.range n).map (fun i => lsGet c (a + i)))

/-- `n` bytes written. -/
def lsWrite (c : CoreSt) (a n v : Nat) : CoreSt :=
  { c with ls := (List.range n).foldl (fun m i => bput m ((a + i) % 65536) (BitVec.ofNat 8 (v / 256 ^ i))) c.ls }

/-- A list of bytes written. -/
def lsWriteList (c : CoreSt) (a : Nat) (l : List (BitVec 8)) : CoreSt :=
  { c with ls := l.zipIdx.foldl (fun m b => bput m ((a + b.2) % 65536) b.1) c.ls }

end Sys2Proof.Machine
end

