-- ==== Sys2Proof/Machine/Scalar.lean ====
section
/-! DEFINITION. The scalar integer and thread-control instructions, local counters and the system instructions (R93, R95, R102, R124, R125, R128). -/
namespace Sys2Proof.Machine

/-- The scalar operations in MINOR order; shifts use the low six bits of the second source (R93). -/
def aluOp (op : Nat) (a b : Word) : Word :=
  match op with
  | 0 => a + b
  | 1 => a - b
  | 2 => a * b
  | 3 => BitVec.ofNat 64 (a.toNat * b.toNat / 2 ^ 64)
  | 4 => BitVec.ofInt 64 (a.toInt * b.toInt / 2 ^ 64)
  | 5 => a &&& b
  | 6 => a ||| b
  | 7 => a ^^^ b
  | 8 => a <<< (b.toNat % 64)
  | 9 => a >>> (b.toNat % 64)
  | 10 => a.sshiftRight (b.toNat % 64)
  | 11 => if a.slt b then a else b
  | 12 => if a.slt b then b else a
  | 13 => if a.ult b then a else b
  | _ => if a.ult b then b else a

/-- ALU (R93). -/
def execAlu (t : ThreadRef) (w : Word) (s : State) : Out :=
  issue .alu t w s (fun s x => fin s t (wr x (wDst w) (aluOp (wMinor w) (rd x (wA w)) (rd x (wB w)))))

/-- ALUI: sext(IMM32) in place of SRC_B (R93). -/
def execAlui (t : ThreadRef) (w : Word) (s : State) : Out :=
  issue .alui t w s (fun s x => fin s t (wr x (wDst w) (aluOp (wMinor w) (rd x (wA w)) (sImm w))))

/-- CMP (R93). -/
def execCmp (t : ThreadRef) (w : Word) (s : State) : Out :=
  issue .cmp t w s (fun s x => fin s t (wrP x (wDst w) (cmpOp (wMinor w) (rd x (wA w)) (rd x (wB w)))))

/-- CMPI (R93). -/
def execCmpi (t : ThreadRef) (w : Word) (s : State) : Out :=
  issue .cmpi t w s (fun s x => fin s t (wrP x (wDst w) (cmpOp (wMinor w) (rd x (wA w)) (sImm w))))

/-- MOVI (R93). -/
def execMovi (t : ThreadRef) (w : Word) (s : State) : Out :=
  issue .movi t w s (fun s x => fin s t (wr x (wDst w) (sImm w)))

/-- MOVHI: the upper half is written, the lower half kept (R93). -/
def execMovhi (t : ThreadRef) (w : Word) (s : State) : Out :=
  issue .movhi t w s (fun s x => fin s t (wr x (wDst w) (setFld (rd x (wDst w)) 63 32 (imm w 31 0))))

/-- SEL (R93). -/
def execSel (t : ThreadRef) (w : Word) (s : State) : Out :=
  issue .sel t w s (fun s x => fin s t (wr x (wDst w) (if rdP x (imm w 2 0) then rd x (wA w) else rd x (wB w))))

/-- The predicate operations AND, OR, XOR, ANDN (R93). -/
def plogOp (op : Nat) (a b : Bool) : Bool :=
  match op with
  | 0 => a && b
  | 1 => a || b
  | 2 => a != b
  | _ => a && !b

/-- PLOG (R93). -/
def execPlog (t : ThreadRef) (w : Word) (s : State) : Out :=
  issue .plog t w s (fun s x => fin s t (wrP x (wDst w) (plogOp (wMinor w) (rdP x (wA w)) (rdP x (wB w)))))

/-- The special registers (R93); the core cycles since launch start come with the command, as no rule fixes a count. -/
def specialReg (s : State) (t : ThreadRef) (x : ThreadSt) (n cycles : Nat) : Word :=
  let c := getCore s (tKey t)
  let l : Launch := c.launch.getD {}
  if 0x20 ≤ n then (vget 0 c.lc (n - 0x20)).setWidth 64
  else match n with
    | 0x00 => BitVec.ofNat 64 t.th
    | 0x01 => BitVec.ofNat 64 t.core
    | 0x02 => BitVec.ofNat 64 t.cl
    | 0x03 => BitVec.ofNat 64 t.die
    | 0x04 => BitVec.ofNat 64 (pkgNum s)
    | 0x05 => BitVec.ofNat 64 s.timebase
    | 0x06 => BitVec.ofNat 64 l.tenant
    | 0x07 => BitVec.ofNat 64 l.jobTag
    | 0x08 => BitVec.ofNat 64 x.index
    | 0x09 => BitVec.ofNat 64 x.quota
    | _ => BitVec.ofNat 64 cycles

/-- RDSR (R93). -/
def execRdsr (t : ThreadRef) (w : Word) (cycles : Nat) (s : State) : Out :=
  issue .rdsr t w s (fun s x => fin s t (wr x (wDst w) (specialReg s t x (imm w 7 0) cycles)))

/-- pc + 8 · sext(IMM32), from the branch's own address (R93). -/
def branchTo (x : ThreadSt) (w : Word) : BitVec 48 := x.pc + (sImm w).setWidth 48 * 8

/-- The return address of JAL and JR (R93). -/
def returnTo (x : ThreadSt) : Word := (x.pc + 8).setWidth 64

/-- A thread sent to a new pc. -/
def goTo (s : State) (t : ThreadRef) (x : ThreadSt) (pc : BitVec 48) : State :=
  stepLeaf x (putThread s t (jumpTo x pc))

/-- BR (R93). -/
def execBr (t : ThreadRef) (w : Word) (s : State) : Out :=
  issue .br t w s (fun s x => goTo s t x (branchTo x w))

/-- JAL (R93). -/
def execJal (t : ThreadRef) (w : Word) (s : State) : Out :=
  issue .jal t w s (fun s x => goTo s t (wr x (wDst w) (returnTo x)) (branchTo x w))

/-- JR: the target is read before the return address is written (R93). -/
def execJr (t : ThreadRef) (w : Word) (s : State) : Out :=
  issue .jr t w s (fun s x => goTo s t (wr x (wDst w) (returnTo x)) ((rd x (wA w)).setWidth 48))

/-- A pending store trap is taken at FENCE, WAITC and END (R123). -/
def withPend (s : State) (t : ThreadRef) (x : ThreadSt) (k : State) : State :=
  match x.pend with
  | some (st, a) => takeTrap (putThread s t { x with pend := none }) t (accessTrap st) [(1, stCode st), (8, a)]
  | none => k

/-- END: the thread ends; a core barrier that waited only for it completes; its claim is released once its queued entries
have completed (R53, R93, R125). -/
def execEndThread (t : ThreadRef) (w : Word) (s : State) : Out :=
  issue .endThread t w s (fun s x => withPend s t x (
    let s := stepLeaf x (putThread s t { x with stat := .ended, stepping := false })
    let k := tKey t
    setCore s k (releaseDead (wakeBarc (getCore s k)))))

/-- YIELD (R93); no cycles end at once. -/
def execYield (t : ThreadRef) (w : Word) (s : State) : Out :=
  issue .yield t w s (fun s x =>
    if imm w 15 0 = 0 then fin s t x
    else stepLeaf x (putThread s t { retire x with stat := .yielding (imm w 15 0) }))

/-- YIELD_EXPIRY: the thread may issue again (R93). -/
def execYieldExpiry (t : ThreadRef) (s : State) : Out :=
  guardWf (threadWf t) (.next (
    let x := threadOf s t
    match x.stat with
    | .yielding _ => putThread s t { x with stat := .run }
    | _ => s))

/-- LCSET (R102). -/
def execLcset (t : ThreadRef) (w : Word) (s : State) : Out :=
  issue .lcset t w s (fun s x =>
    let s := fin s t x
    let k := tKey t
    let c := getCore s k
    setCore s k (wakeLocal { c with lc := vset c.lc (imm w 4 0) ((rd x (wA w)).setWidth 32) }))

/-- LCADD, modulo 2^32 (R102). -/
def execLcadd (t : ThreadRef) (w : Word) (s : State) : Out :=
  issue .lcadd t w s (fun s x =>
    let s := fin s t x
    let k := tKey t
    let c := getCore s k
    setCore s k (wakeLocal { c with lc := vset c.lc (imm w 4 0) (vget 0 c.lc (imm w 4 0) + (rd x (wA w)).setWidth 32) }))

/-- The TIMEBASE at which a timeout in µs expires; 0 means none (R124). -/
def deadline (s : State) (us : Nat) : Option Nat := if us = 0 then none else some (s.timebase + 1000 * us)

/-- WAITL (R102, R124). -/
def execWaitl (t : ThreadRef) (w : Word) (s : State) : Out :=
  issue .waitl t w s (fun s x =>
    let i := imm w 4 0
    let thr : Word32 := (rd x (wA w)).setWidth 32
    if reached (vget 0 (getCore s (tKey t)).lc i) thr then fin s t (wrP x (wDst w) true)
    else putThread s t { x with stat := .waitLocal i thr (wDst w) (deadline s (imm w 31 16)), bpSkip := false })

/-- WAITC on an arrival counter of this package; one of an absent partition traps UNSUPPORTED (R124, R246, R4). -/
def execWaitc (t : ThreadRef) (w : Word) (s : State) : Out :=
  issue .waitc t w s (fun s x => withPend s t x (
    let p := fld (rd x (wA w)) 19 16
    let i := fld (rd x (wA w)) 15 0
    let thr : Word32 := (rd x (wB w)).setWidth 32
    if p ≥ nParts s then takeTrap s t .unsupported []
    else if reached (getArr s p i) thr then fin s t (wrP x (wDst w) true)
    else putThread s t { x with stat := .waitCounter p i thr (wDst w) (deadline s (imm w 31 16)), bpSkip := false }))

/-- WAIT_INSTR_TIMEOUT: the deadline is reached, TIMEBASE stands at it or later, and 0 is written (R124). -/
def execWaitInstrTimeout (t : ThreadRef) (s : State) : Out :=
  guardWf (threadWf t) (.next (
    let x := threadOf s t
    let give (pd : Nat) (d : Option Nat) : State :=
      match d with
      | some d => fin { s with timebase := max s.timebase d } t (wrP x pd false)
      | none => s
    match x.stat with
    | .waitLocal _ _ pd d => give pd d
    | .waitCounter _ _ _ pd d => give pd d
    | _ => s))

/-- BARC: a mask without the issuing thread is ILLEGAL (R125; the trap is DEDUCED, log entry 13). -/
def execBarc (t : ThreadRef) (w : Word) (s : State) : Out :=
  issue .barc t w s (fun s x =>
    if !(nbit (imm w 15 0) t.th) then takeTrap s t .illegal []
    else
      let s := putThread s t { x with stat := .barCore (imm w 15 0), bpSkip := false }
      let k := tKey t
      setCore s k (wakeBarc (getCore s k)))

/-- Threads of a cluster waiting at one of its barriers. -/
def atBarl (s : State) (cl i : Nat) : Nat :=
  s.cores.foldl (fun n kc =>
    if clOf kc.1 = cl then
      kc.2.threads.toList.foldl (fun n x => match x.stat with
        | .barCluster j _ => if j = i then n + 1 else n
        | _ => n) n
    else n) 0

/-- BARL completes for all when the count of the arriving thread is reached (R125). -/
def execBarl (t : ThreadRef) (w : Word) (s : State) : Out :=
  issue .barl t w s (fun s x =>
    let i := imm w 2 0
    let n := fld (rd x (wA w)) 15 0
    let s := putThread s t { x with stat := .barCluster i n, bpSkip := false }
    let cl := clKey t.die t.cl
    if atBarl s cl i ≥ n then
      mapThreads s (fun k _ _ y => match y.stat with
        | .barCluster j _ => if j = i ∧ clOf k = cl then retire y else y
        | _ => y)
    else s)

/-- NOP (R93). -/
def execNop (t : ThreadRef) (w : Word) (s : State) : Out := issue .nop t w s (fun s x => fin s t x)

/-- TRAP: SOFTWARE, with IMM32[15:0] in the event record (R93, R96). -/
def execTrap (t : ThreadRef) (w : Word) (s : State) : Out :=
  issue .trap t w s (fun s _ => takeTrap s t .software [(2, imm w 15 0)])

/-- NWREAD (R93, R128). -/
def execNwread (t : ThreadRef) (w : Word) (s : State) : Out :=
  issue .nwread t w s (fun s x =>
    let k := tKey t
    let c := getCore s k
    let i := imm w 1 0
    let c' := if imm w 2 2 = 1 then { c with nw := vset c.nw i 0 } else c
    fin (setCore s k c') t (wr x (wDst w) ((vget 0 c.nw i).setWidth 64)))

end Sys2Proof.Machine
end

