-- ==== Sys2Proof/Machine/LoadStore.lean ====
section
/-! DEFINITION. Loads and stores of threads, atomics, fences, prefetches (R93, R122, R123, R126, R194 to R200, R240, R493). -/
namespace Sys2Proof.Machine

/-! ## Sizes and watchpoints -/

/-- Bytes of a SIZE (R93). -/
def sizeBytes (z : Nat) : Nat :=
  match z with
  | 0 => 1
  | 1 => 2
  | 2 => 4
  | 3 => 8
  | 4 => 1
  | 5 => 2
  | 6 => 4
  | _ => 128

/-- A loaded value extended as its SIZE says (R93). -/
def extend (z v : Nat) : Word := if z < 4 then BitVec.ofNat 64 v else BitVec.ofInt 64 (sgn (8 * sizeBytes z) v)

/-- Natural alignment of a scalar, 16 bytes for a vector (R122). -/
def alignedFor (z a : Nat) : Bool := if z = 7 then a % 16 == 0 else a % sizeBytes z == 0

/-- A watchpoint matches an access (R492, R493): kind 1 load, 2 store, 3 both. -/
def watchHit (c : CoreSt) (th : Nat) (ls : Bool) (a n kind : Nat) : Bool :=
  c.wps.any (fun e => e.2.ls == ls && nbit e.2.threads th && (e.2.kind &&& kind) != 0 && a < e.2.addr + e.2.len && e.2.addr < a + n)

/-- The state after an access that a watchpoint may have matched: the thread halts, its pc at the next instruction (R493). -/
def watched (s : State) (t : ThreadRef) (hit : Bool) : State :=
  if hit then leaf (putThread s t { threadOf s t with halted := true }) 29 0 else s

/-! ## Local store (R93, R98, R122) -/

/-- (SRC_A + IMM32) mod 65,536. -/
def localAddr (x : ThreadSt) (w : Word) : Nat := (rd x (wA w) + sImm w).toNat % 65536

/-- A loaded value of n bytes delivered to its register. -/
def deliver (s : State) (t : ThreadRef) (x : ThreadSt) (w : Word) (z v : Nat) : State :=
  if z = 7 then
    let k := tKey t
    fin (setCore s k (wrV (getCore s k) x (wDst w) (BitVec.ofNat 1024 v))) t x
  else fin s t (wr x (wDst w) (extend z v))

/-- LDL (R93). -/
def execLdl (t : ThreadRef) (w : Word) (s : State) : Out :=
  issue .ldl t w s (fun s x =>
    let z := wMinor w
    let a := localAddr x w
    let c := getCore s (tKey t)
    if !(alignedFor z a) then takeTrap s t .misaligned []
    else watched (deliver s t x w z (lsRead c a (sizeBytes z))) t (watchHit c t.th true a (sizeBytes z) 1))

/-- The bytes a store sends: a scalar, or a vector register for SIZE 7. -/
def storeData (c : CoreSt) (x : ThreadSt) (z r : Nat) : Nat := if z = 7 then (rdV c x r).toNat else (rd x r).toNat

/-- STL (R93). -/
def execStl (t : ThreadRef) (w : Word) (s : State) : Out :=
  issue .stl t w s (fun s x =>
    let z := wMinor w
    let a := localAddr x w
    let k := tKey t
    let c := getCore s k
    if !(alignedFor z a) then takeTrap s t .misaligned []
    else watched (fin (setCore s k (lsWrite c a (sizeBytes z) (storeData c x z (wB w)))) t x) t
      (watchHit c t.th true a (sizeBytes z) 2))

/-! ## Local stores of the cluster (R93, log entry 15) -/

/-- The core key LDR and STR reach: logical core SRC_B[6:0] of the thread's cluster, if it exists. -/
def farCore (t : ThreadRef) (x : ThreadSt) (w : Word) : Option Nat :=
  let n := fld (rd x (wB w)) 6 0
  if n < 120 then some (coreKey t.die t.cl n) else none

/-- LDR (R93). -/
def execLdr (t : ThreadRef) (w : Word) (s : State) : Out :=
  issue .ldr t w s (fun s x =>
    let z := wMinor w
    let a := localAddr x w
    if !(alignedFor z a) then takeTrap s t .misaligned []
    else match farCore t x w with
      | none => takeTrap s t .memAccess []
      | some k => deliver s t x w z (lsRead (getCore s k) a (sizeBytes z)))

/-- STR (R93). -/
def execStr (t : ThreadRef) (w : Word) (s : State) : Out :=
  issue .str t w s (fun s x =>
    let z := wMinor w
    let a := localAddr x w
    if !(alignedFor z a) then takeTrap s t .misaligned []
    else match farCore t x w with
      | none => fin s t { x with pend := some (x.pend.getD (.access, a)) }
      | some k =>
        fin (setCore s k (lsWrite (getCore s k) a (sizeBytes z) (storeData (getCore s (tKey t)) x z (wC w)))) t x)

/-! ## Global memory -/

/-- SRC_A + sext(IMM32). -/
def globalAddr (x : ThreadSt) (w : Word) : Nat := (rd x (wA w) + sImm w).toNat

/-- The hub holds an access of a thread to n bytes, as a segment it touches waits for a new mode (R209). -/
def accessHeld (s : State) (t : ThreadRef) (tva n : Nat) : Bool :=
  let held (a : Nat) : Bool :=
    match clTranslate s (clKey t.die t.cl) (threadWho s t) a .read with
    | (.ok, ga, _, _) => segHeld s ga
    | _ => false
  held tva || held (tva + n - 1)

/-- A load of up to 64 bytes within one line at a tenant virtual address (R194, R218, R262). -/
def loadPiece (s : State) (cl : Nat) (w : Who) (tva n pol : Nat) (ecc : Ecc) : Status × Nat × State :=
  match clTranslate s cl w tva .read with
  | (.ok, ga, attr, s) =>
    match homeOf s ga with
    | .bell p ctx off => windowLoad s w ga p ctx off n
    | .counter _ _ =>
      let (st, d, v, s) := counterLoad s w ga n
      (st, v, noteDegraded s w d)
    | _ =>
      let (st, d, v, s) := demandLoad (upset s (some cl) w.part ga ecc) cl w (some tva) ga n attr pol false
      (st, v, noteDegraded s w d)
  | (st, _, _, s) => (st, 0, s)

/-- A load of n bytes, split where it crosses a line; each line is judged on its own and the first failure is the access's. -/
def loadSplit (s : State) (cl : Nat) (w : Who) (tva n pol : Nat) (ecc : Ecc) : Status × Nat × State :=
  let n1 := min n (64 - tva % 64)
  let (st1, v1, s) := loadPiece s cl w tva n1 pol ecc
  if n1 = n then (st1, v1, s)
  else
    let n2 := min (n - n1) 64
    let (st2, v2, s) := loadPiece s cl w (tva + n1) n2 pol ecc
    let v := v1 + 2 ^ (8 * n1) * v2
    let st := if st1 = .ok then st2 else st1
    if n1 + n2 = n then (st, v, s)
    else
      let (st3, v3, s) := loadPiece s cl w (tva + n1 + n2) (n - n1 - n2) pol ecc
      (if st = .ok then st3 else st, v + 2 ^ (8 * (n1 + n2)) * v3, s)

/-- LDG (R93, R122, R123, R197). -/
def execLdg (t : ThreadRef) (w : Word) (ecc : Ecc) (s : State) : Out :=
  issue .ldg t w s (fun s x =>
    let z := wMinor w % 8
    let a := globalAddr x w
    if !(alignedFor z a) then takeTrap s t .misaligned []
    else if accessHeld s t a (sizeBytes z) then s
    else
      let hit := watchHit (getCore s (tKey t)) t.th false a (sizeBytes z) 1
      match loadSplit s (clKey t.die t.cl) (threadWho s t) a (sizeBytes z) (wMinor w / 8) ecc with
      | (.ok, v, s) => watched (deliver s t x w z v) t hit
      | (st, _, s) => takeTrap s t (accessTrap st) [(1, stCode st)])

/-- A store of up to 64 bytes within one line (R194, R262). -/
def storePiece (s : State) (cl : Nat) (w : Who) (tva n pol v : Nat) (ecc : Ecc) : Status × State :=
  match clTranslate s cl w tva .write with
  | (.ok, ga, attr, s) =>
    match homeOf s ga with
    | .bell p ctx off => windowStore s w ga p ctx off n (BitVec.ofNat 64 v)
    | .counter _ _ =>
      let (st, d, s) := counterStore s w ga n v
      (st, noteDegraded s w d)
    | _ =>
      let (st, d, s) := cacheStore (upset s (some cl) w.part ga ecc) cl w ga n attr pol v
      (st, noteDegraded s w d)
  | (st, _, _, s) => (st, s)

/-- A store split in lines; the pieces that pass take effect, the first failing address is kept (R123, R232). -/
def storeSplit (s : State) (cl : Nat) (w : Who) (tva n pol v : Nat) (ecc : Ecc) : Option (Status × Nat) × State :=
  let n1 := min n (64 - tva % 64)
  let note (a : Option (Status × Nat)) (st : Status) (addr : Nat) : Option (Status × Nat) :=
    match a, st with
    | some q, _ => some q
    | none, .ok => none
    | none, st => some (st, addr)
  let (st1, s) := storePiece s cl w tva n1 pol (v % 2 ^ (8 * n1)) ecc
  let f := note none st1 tva
  if n1 = n then (f, s)
  else
    let n2 := min (n - n1) 64
    let (st2, s) := storePiece s cl w (tva + n1) n2 pol (v / 2 ^ (8 * n1) % 2 ^ (8 * n2)) ecc
    let f := note f st2 (tva + n1)
    if n1 + n2 = n then (f, s)
    else
      let n3 := n - n1 - n2
      let (st3, s) := storePiece s cl w (tva + n1 + n2) n3 pol (v / 2 ^ (8 * (n1 + n2)) % 2 ^ (8 * n3)) ecc
      (note f st3 (tva + n1 + n2), s)

/-- A posted store's fault recorded for the thread's next FENCE, WAITC or END; the first one stays (R123). -/
def withFault (x : ThreadSt) (f : Option (Status × Nat)) : ThreadSt :=
  match f with
  | some (st, a) => { x with pend := some (x.pend.getD (st, a)) }
  | none => x

/-- STG (R93, R122, R123). -/
def execStg (t : ThreadRef) (w : Word) (ecc : Ecc) (s : State) : Out :=
  issue .stg t w s (fun s x =>
    let z := wMinor w % 8
    let a := globalAddr x w
    let n := sizeBytes z
    if !(alignedFor z a) then takeTrap s t .misaligned []
    else if accessHeld s t a n then s
    else
      let c := getCore s (tKey t)
      let (f, s) := storeSplit s (clKey t.die t.cl) (threadWho s t) a n (wMinor w / 8) (storeData c x z (wB w) % 2 ^ (8 * n)) ecc
      watched (fin s t (withFault x f)) t (watchHit c t.th false a n 2))

/-- STORE_FAULT: a posted store is found to have faulted (R123). -/
def execStoreFault (t : ThreadRef) (addr : Nat) (mem : Bool) (s : State) : Out :=
  guardWf (threadWf t) (.next (
    let x := threadOf s t
    if alive x then putThread s t { x with pend := some (x.pend.getD (if mem then .faultMem else .access, addr)) } else s))

/-- ATOM: at TVA SRC_A, performed at the target hub; the old value returned, a 32-bit one zero-extended (R93, R122, R195, R233). -/
def execAtom (t : ThreadRef) (w : Word) (s : State) : Out :=
  issue .atom t w s (fun s x =>
    let a := (rd x (wA w)).toNat
    let op := wMinor w
    let n := atomWidth op / 8
    if a % n ≠ 0 then takeTrap s t .misaligned []
    else if accessHeld s t a n then s
    else
      let who := threadWho s t
      let hit := watchHit (getCore s (tKey t)) t.th false a n 3
      match clTranslate s (clKey t.die t.cl) who a .write with
      | (.ok, ga, _, s) =>
        match cacheAtomic s (clKey t.die t.cl) who ga op (rd x (wB w)).toNat (rd x (wC w)).toNat with
        | (.ok, d, old, s) => watched (fin (noteDegraded s who d) t (wr x (wDst w) (BitVec.ofNat 64 old))) t hit
        | (st, _, _, s) => takeTrap s t (accessTrap st) [(1, stCode st)]
      | (st, _, _, s) => takeTrap s t (accessTrap st) [(1, stCode st)])

/-! ## Fences (R198, R240) -/

/-- What the write-back of a release finds for the issuing thread: the first failure of its job's sectors. -/
def fenceRel (s : State) (t : ThreadRef) (scope : Nat) : State :=
  if scope = 0 then s
  else
    let w := threadWho s t
    wbCluster s (clKey t.die t.cl) w.part (fun l _ => l.tag == w.jobTag)

/-- The discards of an acquire: SHARED_CACHED lines of the issuing job, whole sectors that hold no dirty byte (R198). -/
def fenceAcq (s : State) (t : ThreadRef) (scope : Nat) : State :=
  let w := threadWho s t
  let s := if scope ≥ 1 then acquireCl s (clKey t.die t.cl) w.jobTag else s
  if scope ≥ 2 then acquireRdc s w.part w.jobTag else s

/-- FENCE.REL (R198, R240). -/
def execFenceRel (t : ThreadRef) (w : Word) (s : State) : Out :=
  issue .fenceRel t w s (fun s x => withPend s t x (fin (fenceRel s t (imm w 1 0)) t x))

/-- FENCE.ACQ (R198, R240). -/
def execFenceAcq (t : ThreadRef) (w : Word) (s : State) : Out :=
  issue .fenceAcq t w s (fun s x => withPend s t x (fin (fenceAcq s t (imm w 1 0)) t x))

/-- FENCE.FULL: a release, then an acquire (R240). -/
def execFenceFull (t : ThreadRef) (w : Word) (s : State) : Out :=
  issue .fenceFull t w s (fun s x => withPend s t x (fin (fenceAcq (fenceRel s t (imm w 1 0)) t (imm w 1 0)) t x))

/-! ## Prefetch (R126, R202 to R205) -/

/-- PREF: SRC_B bytes from TVA SRC_A; beyond 1 MiB reserved (R126). -/
def execPref (t : ThreadRef) (w : Word) (s : State) : Out :=
  issue .pref t w s (fun s x =>
    let a := (rd x (wA w)).toNat
    let n := (rd x (wB w)).toNat
    if n > 2 ^ 20 then takeTrap s t .illegal []
    else
      let first := a / 128 * 128
      let lines := if n = 0 then 0 else (a + n - 1) / 128 + 1 - a / 128
      fin (prefetchRun s (clKey t.die t.cl) (threadWho s t) (wMinor w) lines first) t x)

/-- SPSET: a directed prefetcher; a stride beyond 4 KiB is a reserved operand (R126, R202). -/
def execSpset (t : ThreadRef) (w : Word) (s : State) : Out :=
  issue .spset t w s (fun s x =>
    let st := (rd x (wB w)).toInt
    if st.natAbs > 4096 then takeTrap s t .illegal []
    else
      let cl := clKey t.die t.cl
      let who := threadWho s t
      let i := imm w 20 16
      let f : Pf :=
        { tenant := who.tenant, dom := who.domain, tag := who.jobTag, running := imm w 15 0 != 0, directed := true,
          next := (rd x (wA w)).toNat, stride := st, left := imm w 15 0, policy := imm w 22 21, lead := 0, leadMax := 64,
          untouched := 0, lastTrig := (getCl s cl).tick }
      fin (pfRun (putPf s cl i f) cl i who.part 66) t x)

/-- SPSTOP (R126, R202). -/
def execSpstop (t : ThreadRef) (w : Word) (s : State) : Out :=
  issue .spstop t w s (fun s x =>
    let cl := clKey t.die t.cl
    let i := imm w 20 16
    fin (putPf s cl i { vget {} (getCl s cl).pf i with running := false }) t x)

end Sys2Proof.Machine
end

