-- ==== Sys2Proof/Machine/Waits.lean ====
section
/-! DEFINITION. WAIT, SIGNAL, FENCE and NOP descriptors (R244 to R246, R262, R265, R268 to R270). -/
namespace Sys2Proof.Machine

/-- A read of n bytes within one line by a hub agent, uncached, whatever stands there (R218, R245, R262, R268). -/
def hubLoad (s : State) (w : Who) (tva n : Nat) : Status × Nat × State :=
  match hubTranslate s w tva .read with
  | (.ok, ga, _, s) =>
    match homeOf s ga with
    | .bell p ctx off => windowLoad s w ga p ctx off n
    | .counter _ _ =>
      let (st, d, v, s) := counterLoad s w ga n
      (st, v, noteDegraded s w d)
    | _ =>
      let (st, d, v, s) := lineReadN s w ga n false
      (st, fld v (8 * (ga % 64 + n) - 1) (8 * (ga % 64)), noteDegraded s w d)
  | (st, _, _, s) => (st, 0, s)

/-- A write of n bytes within one line by a hub agent. -/
def hubStore (s : State) (w : Who) (tva n v : Nat) : Status × State :=
  match hubTranslate s w tva .write with
  | (.ok, ga, _, s) =>
    match homeOf s ga with
    | .bell p ctx off => windowStore s w ga p ctx off n (BitVec.ofNat 64 v)
    | .counter _ _ =>
      let (st, d, s) := counterStore s w ga n v
      (st, noteDegraded s w d)
    | _ =>
      let (st, d, s) := partWrite s w (ga / 64 * 64) (spanMask ga n) (BitVec.ofNat 512 (v * 2 ^ (8 * (ga % 64))))
      (st, noteDegraded s w d)
  | (st, _, _, s) => (st, s)

/-! ## WAIT (R268) -/

/-- A command that carries out a chosen or waiting descriptor of one opcode and mode. -/
def onWait (s : State) (p k : Nat) (mode : Nat) (f : Op → State) : Out :=
  guardWf (p < 16) (.next (
    match getOp s p k with
    | some o => if dOpc o.desc = 0x08 ∧ dFld o.desc 2 0 0 = mode then f o else s
    | none => s))

/-- The partition a WAIT or SIGNAL names: absent, out of service, outside the tenant's domain, or fit. -/
def partCheck (s : State) (q tenant : Nat) : Status :=
  if q ≥ nParts s then .unsupported
  else if !(partUp s q) then .linkLost
  else if partDomain s q ≠ tenDomain s tenant then .access
  else .ok

/-- The value reached its threshold: the WAIT completes; else it waits on. -/
def waitTest (s : State) (p k : Nat) (o : Op) (v : Word32) : State :=
  if reached v (BitVec.ofNat 32 (dFld o.desc 2 63 32)) then finishUnit s p k .ok else setOp s p k { o with phase := .waiting }

/-- WAIT_COUNTER: the counter tested, at the start and at every change (R246, R268). -/
def execWaitCounter (p op : Nat) (s : State) : Out :=
  onWait s p op 0 (fun o =>
    let q := dFld o.desc 2 11 8
    if dWord o.desc 3 ≠ 0 then finishUnit s p op .badDesc
    else match partCheck s q o.tenant with
      | .ok => waitTest s p op o (getArr s q (dFld o.desc 2 31 16))
      | st => finishUnit s p op st)

/-- One read of the waited word. -/
def waitRead (s : State) (p k : Nat) (o : Op) : State :=
  let a := (dWord o.desc 3).toNat
  if a % 4 ≠ 0 then finishUnit s p k .badDesc
  else match hubLoad s (opWho s p k o) a 4 with
    | (.ok, v, s) => waitTest s p k o (BitVec.ofNat 32 v)
    | (st, _, s) => finishUnit s p k st

/-- WAIT_WORD: the first read (R268). -/
def execWaitWord (p op : Nat) (s : State) : Out := onWait s p op 1 (fun o => if o.phase = .chosen then waitRead s p op o else s)

/-- WAIT_WORD_POLL: a further read, at least once every 2 µs (R268). -/
def execWaitWordPoll (p op : Nat) (s : State) : Out := onWait s p op 1 (fun o => if o.phase = .waiting then waitRead s p op o else s)

/-- WAIT_TIMEOUT (R268). -/
def execWaitTimeout (p op : Nat) (s : State) : Out :=
  guardWf (p < 16) (.next (
    match getOp s p op with
    | none => s
    | some o =>
      let us := dFld o.desc 4 31 0
      if dOpc o.desc ≠ 0x08 ∨ us = 0 ∨ o.phase ≠ .waiting then s
      else finishUnit { s with timebase := max s.timebase (o.t0 + 1000 * us) } p op .timeout))

/-! ## SIGNAL (R269) -/

/-- A command that carries out a chosen SIGNAL of one mode. -/
def onSignal (s : State) (p k mode : Nat) (f : Op → State) : Out :=
  onChosen s p k 0x09 (fun o =>
    if dFld o.desc 2 2 0 ≠ mode then s
    else if mode ≠ 2 ∧ dFld o.desc 2 5 4 ≠ 0 then finishUnit s p k .badDesc
    else f o)

/-- The global address of the counter that a SIGNAL names (R219). -/
def signalGa (s : State) (o : Op) : Nat := gaOf s (memKey (dFld o.desc 2 11 8) (winBase + 4 * dFld o.desc 2 31 16))

/-- COUNTER_ADD: ATOM ADD.I32 on the counter, with every check of such an access (R218, R227, R245, R269). -/
def execCounterAdd (p op : Nat) (s : State) : Out :=
  onSignal s p op 0 (fun o =>
    let w := opWho s p op o
    let (st, d, _, s) := atomicAt s w (signalGa s o) 0 (fld (dWord o.desc 3) 31 0) 0
    finishUnit (noteDegraded s w d) p op st)

/-- COUNTER_SET: a 4-byte store to the counter (R218, R227, R245, R269). -/
def execCounterSet (p op : Nat) (s : State) : Out :=
  onSignal s p op 1 (fun o =>
    let w := opWho s p op o
    let (st, d, s) := counterStore s w (signalGa s o) 4 (fld (dWord o.desc 3) 31 0)
    finishUnit (noteDegraded s w d) p op st)

/-- WRITE64 (R269). -/
def execWrite64 (p op : Nat) (s : State) : Out :=
  onSignal s p op 2 (fun o =>
    let a := (dWord o.desc 4).toNat
    let v := (dWord o.desc 3).toNat
    if a % 8 ≠ 0 then finishUnit s p op .badDesc
    else
      let (st, s) := if dFld o.desc 2 5 4 = 2 then hubHostWrite s (opWho s p op o) a 8 v else hubStore s (opWho s p op o) a 8 v
      finishUnit s p op st)

/-- SQ_ADD on a ring of the same tenant (R259, R269). -/
def execSignalSqAdd (p op : Nat) (s : State) : Out :=
  onSignal s p op 3 (fun o =>
    let inc := dWord o.desc 3
    match ringOf s (o.tenant * 512 + dFld o.desc 2 40 32) with
    | none => finishUnit s p op .access
    | some (q, ctx, r) =>
      if r.state ≠ .active ∨ partDomain s q ≠ tenDomain s o.tenant then finishUnit s p op .access
      else if inc.toNat = 0 ∨ inc.toNat > 65536 ∨ !(tailOk r (r.sqTail + inc.setWidth 32)) then finishUnit s p op .badDesc
      else finishUnit (setRing s q ctx { r with sqTail := r.sqTail + inc.setWidth 32 }) p op .ok)

/-! ## FENCE and NOP (R198, R265, R270) -/

/-- The discards of an acquire for a ring's job tag: every cluster cache of the partition, and at PACKAGE and SYSTEM its
remote-data cache (R198, R270). -/
def ringAcquire (s : State) (p tag scope : Nat) : State :=
  let s := ((s.clusters.filter (fun e => e.1 / 160 == p)).map (·.1)).foldl (fun s cl => acquireCl s cl tag) s
  if scope ≥ 2 then acquireRdc s p tag else s

/-- A command that carries out a chosen FENCE of one kind. -/
def onFence (s : State) (p k kind : Nat) (f : Op → State) : Out :=
  onChosen s p k 0x0A (fun o => if dFld o.desc 2 1 0 = kind then finishUnit (f o) p k .ok else s)

/-- FENCE REL: every earlier descriptor has completed (R266, R270). -/
def execFenceDescRel (p op : Nat) (s : State) : Out := onFence s p op 0 (fun _ => s)

/-- FENCE ACQ. -/
def execFenceDescAcq (p op : Nat) (s : State) : Out := onFence s p op 1 (fun o => ringAcquire s p o.jobTag (dFld o.desc 2 3 2))

/-- FENCE FULL. -/
def execFenceDescFull (p op : Nat) (s : State) : Out := onFence s p op 2 (fun o => ringAcquire s p o.jobTag (dFld o.desc 2 3 2))

/-- NOP completes with OK (R265). -/
def execNopDescriptor (p op : Nat) (s : State) : Out := onChosen s p op 0x3F (fun _ => finishUnit s p op .ok)

end Sys2Proof.Machine
end

