-- ==== Sys2Proof/Machine/Copies.lean ====
section
/-! DEFINITION. Asynchronous copies: their checks, their units, their completion, and the local completion of 0x3E requests (R103 to R105, R178, R190, R191, R230, R235 to R248). -/
namespace Sys2Proof.Machine

/-! ## Requests of cores (R103 to R105) -/

/-- Word i of a request block in the local store. -/
def blockWord (c : CoreSt) (a i : Nat) : Word := BitVec.ofNat 64 (lsRead c (a + 8 * i) 8)

/-- The local address of a request block (R93). -/
def blockAddr (x : ThreadSt) (w : Word) : Nat := ((rd x (wA w)).toNat + imm w 15 0) % 65536

/-- A request finished: its record, then its counter; results of a launch that has stopped, or of a core that has been reset
since, are discarded (R97, R101, R103, R104). -/
def localDone (s : State) (i : Issuer) (st : Status) (cflags done ff : Nat) : State :=
  match i with
  | .op _ _ _ => s
  | .core k th id lcnt lcr tag en =>
    let c := getCore s k
    let live := c.reqs.contains id
    let c := { c with reqs := c.reqs.filter (fun r => r != id) }
    match live, (getThread c th).stat with
    | false, _ => s
    | _, .stopped => setCore s k c
    | _, .trapped _ => setCore s k c
    | _, _ =>
      let rec_ := tag + 2 ^ 32 * stCode st + 2 ^ 40 * (cflags ||| (if st = .partialDone then 1 else 0)) + 2 ^ 64 * (done % 2 ^ 32)
        + 2 ^ 96 * (ff % 2 ^ 32)
      bumpLocal (setCore s k (if en then lsWrite c (lcr / 16 * 16) 16 rec_ else c)) k lcnt

/-- The issuer of a request by its block's word 0 (R103). -/
def coreIssuer (k th id : Nat) (w0 : Word) : Issuer :=
  .core k th id (fld w0 12 8) (fld w0 31 16) (fld w0 63 32) (fld w0 13 13 == 1)

/-- Word 0 of a block is sound (R103, R105). -/
def word0Ok (w0 : Word) : Bool := fld w0 15 14 == 0 && fld w0 19 16 == 0

/-- A 0x3E instruction issued: the block is read, the request counts against the core's 64, and `k` goes on with its issuer,
the block's address and the state (R103, R105). -/
def request (r : CoreRow) (t : ThreadRef) (w : Word) (s : State) (go : Issuer → List Word → State → State) : Out :=
  issue r t w s (fun s x =>
    let k := tKey t
    let c := getCore s k
    let a := blockAddr x w
    if a % 64 ≠ 0 then takeTrap s t .misaligned []
    else if c.reqs.length ≥ 64 then s
    else
      let ws := (List.range 8).map (blockWord c a)
      let w0 := lget 0 ws 0
      let id := s.nextJob
      let i := coreIssuer k t.th id w0
      let s := fin { s with nextJob := id + 1 } t x
      let s := setCore s k { getCore s k with reqs := (getCore s k).reqs ++ [id] }
      if !(word0Ok w0) then localDone s i .badDesc 0 0 0 else go i ws s)

/-! ## Checks (R178, R235, R236) -/

/-- A LOCAL address: local address, logical core, logical cluster, compute die; its reserved bits are 0, its core and cluster
exist, the range does not cross the end of the store (R236). -/
def localOk (a len : Nat) : Bool :=
  nbits a 22 16 < 120 && nbits a 28 23 < 40 && a < 2 ^ 35 && nbits a 15 0 + len ≤ 65536

/-- The destination length of a copy; for MDL it is what its segments come to (R237). -/
def destLen (xform xfmt len : Nat) : Nat :=
  match xform with
  | 1 => len / 64 * blkBytes xfmt
  | 2 => len / blkBytes xfmt * 64
  | _ => len

/-- A copy's parameters break none of the rules of R235, R236 and R178; `bit48` is where ORDERED stands in a block. -/
def copyOk (ws : List Word) (bit48 : Bool) : Bool :=
  let p2 := lget 0 ws 2
  let p3 := lget 0 ws 3
  let len := fld p2 35 0
  let sk := fld p2 37 36
  let dk := fld p2 39 38
  let pol := fld p2 41 40
  let xf := fld p2 43 42
  let fm := fld p2 47 44
  fld p2 63 50 == 0 && fld p3 63 16 == 0 && (bit48 || fld p2 48 48 == 0)
    && pol != 3 && (pol == 0 || sk == 0 || sk == 3)
    && xf != 3 && (if xf = 0 then fm == 0 else fm ≤ 5)
    && (xf != 1 || len % 64 == 0) && (xf != 2 || fm == 5 || len % blkBytes fm == 0)
    && (sk != 1 || localOk (lget 0 ws 0).toNat len)
    && (dk != 1 || localOk (lget 0 ws 1).toNat (if fm = 5 then 0 else destLen xf fm len))
    && !(dk == 2 && fld p2 49 49 == 1)

/-! ## Bytes by address kind (R230, R236, R238) -/

/-- The core key a LOCAL address names. -/
def localCore (a : Nat) : Nat := coreKey (nbits a 34 29) (nbits a 28 23) (nbits a 22 16)

/-- Whether a copy may touch a local store: its die, the way there, and the launch that holds the core (R218, R230). -/
def localCheck (s : State) (w : Who) (a : Nat) : Status × Bool :=
  let die := nbits a 34 29
  if die / 4 ≥ nParts s then (.unsupported, false)
  else if !(partUp s (die / 4)) then (.linkLost, false)
  else match routeOf s w (gaOf s (memKey (die / 4) 0)) with
    | (.ok, d) =>
      if ((getCore s (localCore a)).launch.map (·.jobTag)) = some w.jobTag then (.ok, d) else (.access, d)
    | r => r

/-- The cluster whose cache a copy's source reads look up: a core's own; none for a COPY descriptor. -/
def copyCluster (j : CopyJob) : Option Nat :=
  match j.issuer with
  | .core k _ _ _ _ _ _ => some (clOf k)
  | .op _ _ _ => none

/-- An arrival counter stands at the address: a copy may not read it (R245). -/
def atCounter (s : State) (ga : Nat) : Bool :=
  match homeOf s ga with
  | .counter _ _ => true
  | _ => false

/-- A translated read of n bytes within one line, through the agent's cache (R193, R210, R214). -/
def copyReadGa (s : State) (j : CopyJob) (tva : Option Nat) (ga attr n : Nat) (ecc : Ecc) : Status × Bool × Nat × State :=
  match copyCluster j with
  | some cl =>
    if atCounter s ga then
      let (st, d, _, s) := lineRead s j.who (ga / 64 * 64)
      (st, d, 0, s)
    else demandLoad (upset s (some cl) j.who.part ga ecc) cl j.who tva ga n attr j.spol true
  | none =>
    if atCounter s ga then
      let (st, d, _, s) := lineRead s j.who (ga / 64 * 64)
      (st, d, 0, s)
    else
      let (st, d, v, s) := partRead (upset s none j.who.part ga ecc) j.who ga n attr j.spol (gathers s ga n j.spol true)
      (st, d, fld v (8 * (ga % 64 + n) - 1) (8 * (ga % 64)), s)

/-- Translation by a copy's agent. -/
def copyTranslate (s : State) (j : CopyJob) (tva : Nat) (n : Need) : Status × Nat × Nat × State :=
  match copyCluster j with
  | some cl => clTranslate s cl j.who tva n
  | none => hubTranslate s j.who tva n

/-- n source bytes, within one line of their space. A GLOBAL source counts as SHARED_CACHED (log entry 19). -/
def copyRead (s : State) (j : CopyJob) (a n : Nat) (ecc : Ecc) : Status × Bool × Nat × State :=
  match j.skind with
  | 0 =>
    match copyTranslate s j a .read with
    | (.ok, ga, attr, s) => copyReadGa s j (some a) ga attr n ecc
    | (st, _, _, s) => (st, false, 0, s)
  | 1 =>
    match localCheck s j.who a with
    | (.ok, d) => (.ok, d, lsRead (getCore s (localCore a)) (a % 65536) n, s)
    | (st, d) => (st, d, 0, s)
  | 2 =>
    let (st, v, s) := hubHostRead s j.who a n
    (st, false, v, s)
  | _ => copyReadGa s { j with who := { j.who with glob := true } } none a 1 n ecc

/-- A run of n source bytes, line by line. -/
def copyReadRun (s : State) (j : CopyJob) (ecc : Ecc) : Nat → Nat → Nat → Status × Bool × List (BitVec 8) × State
  | 0, _, _ => (.ok, false, [], s)
  | fuel + 1, a, n =>
    if n = 0 then (.ok, false, [], s)
    else
      let m := min n (64 - a % 64)
      match copyRead s j a m ecc with
      | (.ok, d, v, s) =>
        let (st, d', l, s) := copyReadRun s j ecc fuel (a + m) (n - m)
        (st, d || d', toBytes m v ++ l, s)
      | (st, d, _, s) => (st, d, [], s)

/-- A unit written: the bytes `l` at destination address a, within one line; the partition whose counter counts it, and the
address for the record (R237, R238, R244). A copy updates no cached copy of its destination. -/
def copyWrite (s : State) (j : CopyJob) (a : Nat) (l : List (BitVec 8)) : Status × Bool × Option Nat × Nat × State :=
  let n := l.length
  let toGa (s : State) (w : Who) (ga : Nat) : Status × Bool × Option Nat × Nat × State :=
    let (st, d, s) := lineWrite s w (ga / 64 * 64) ((2 ^ n - 1) * 2 ^ (ga % 64)) (BitVec.ofNat 512 (ofBytes l * 2 ^ (8 * (ga % 64))))
    (st, d, if nbits ga 63 48 = pkgNum s then some (nbits ga 47 44) else none, ga, s)
  match j.dkind with
  | 0 =>
    match copyTranslate s j a .write with
    | (.ok, ga, _, s) => toGa s j.who ga
    | (st, _, _, s) => (st, false, none, a, s)
  | 1 =>
    match localCheck s j.who a with
    | (.ok, d) =>
      let k := localCore a
      (.ok, d, some (partOf k), a, setCore s k (lsWriteList (getCore s k) (a % 65536) l))
    | (st, d) => (st, d, none, a, s)
  | 2 =>
    let (st, s) := hubHostWrite s j.who a n (ofBytes l)
    (st, false, none, a, s)
  | _ => toGa s { j.who with glob := true } a

/-! ## Units (R237, R243, R247) -/

/-- The part of the destination that unit u holds: offset and length. -/
def unitSpan (j : CopyJob) (u : Nat) : Nat × Nat :=
  let line := (j.dst / 64 + u) * 64
  let lo := max line j.dst
  (lo - j.dst, min (line + 64) (j.dst + j.dlen) - lo)

/-- Blocks from b on, `n` of them, encoded from the source. The flag is SAT. -/
def encodeRun (s : State) (j : CopyJob) (ecc : Ecc) : Nat → Nat → Status × Bool × List (BitVec 8) × Bool × State
  | 0, _ => (.ok, false, [], false, s)
  | n + 1, b =>
    match copyReadRun s j ecc 3 (j.src + 64 * b) 64 with
    | (.ok, d, l, s) =>
      let (bytes, c) := encodeBlock j.xfmt ((List.range 32).map (fun i =>
        decBF16 (bytesAt l (2 * i) 2)))
      let (st, d', more, sat, s) := encodeRun s j ecc n (b + 1)
      (st, d || d', bytes ++ more, sat || c.sat || c.ovf, s)
    | (st, d, _, s) => (st, d, [], false, s)

/-- Blocks from b on, `n` of them, decoded to BF16. -/
def decodeRun (s : State) (j : CopyJob) (ecc : Ecc) : Nat → Nat → Status × Bool × List (BitVec 8) × State
  | 0, _ => (.ok, false, [], s)
  | n + 1, b =>
    let sz := blkBytes j.xfmt
    match copyReadRun s j ecc 3 (j.src + sz * b) sz with
    | (.ok, d, l, s) =>
      let bytes := (decodeBlock j.xfmt l).flatMap (fun x => toBytes 2 (bf16Exact x))
      let (st, d', more, s) := decodeRun s j ecc n (b + 1)
      (st, d || d', bytes ++ more, s)
    | (st, d, _, s) => (st, d, [], s)

/-- MDL: bytes o to o + n − 1 of the output hold a byte of a block that raised SAT (R191, R248). -/
def mdlSat (j : CopyJob) (o n : Nat) : Bool := j.satSpans.any (fun e => e.1 < o + n && o < e.2)

/-- The bytes of a unit of a copy other than MDL from its source: status, degraded route, bytes, SAT (R237). -/
def unitBytes (s : State) (j : CopyJob) (u : Nat) (ecc : Ecc) : Status × Bool × List (BitVec 8) × Bool × State :=
  let (o, n) := unitSpan j u
  match j.xform with
  | 1 =>
    let sz := blkBytes j.xfmt
    let (st, d, l, sat, s) := encodeRun s j ecc ((o + n - 1) / sz + 1 - o / sz) (o / sz)
    (st, d, (l.drop (o % sz)).take n, sat, s)
  | 2 =>
    let (st, d, l, s) := decodeRun s j ecc ((o + n - 1) / 64 + 1 - o / 64) (o / 64)
    (st, d, (l.drop (o % 64)).take n, false, s)
  | _ =>
    let (st, d, l, s) := copyReadRun s j ecc 3 (j.src + o) n
    (st, d, l, false, s)

/-- Where bytes of an address kind lie: 0 global memory, 1 local stores, 2 the host's memory. -/
def kindSpace (k : Nat) : Nat := if k = 1 ∨ k = 2 then k else 0

/-- A run of addresses of a kind in the space it lies in, page by page: first byte and length. A page without a translation
lies nowhere. -/
def spaceRuns (s : State) (j : CopyJob) (kind : Nat) : Nat → Nat → Nat → List (Nat × Nat)
  | 0, _, _ => []
  | fuel + 1, a, n =>
    if n = 0 then []
    else if kind ≠ 0 then [(a, n)]
    else
      let m := min n (2 ^ 21 - a % 2 ^ 21)
      let rest := spaceRuns s j kind fuel (a + m) (n - m)
      match copyTranslate s j a .read with
      | (.ok, ga, _, _) => (ga, m) :: rest
      | _ => rest

/-- Destination bytes that the source covers too, under whatever address, are undefined: each of them is free (R238, log
entry 1). -/
def overlapBytes (s : State) (j : CopyJob) (a : Nat) (l : List (BitVec 8)) : List (BitVec 8) :=
  if kindSpace j.skind ≠ kindSpace j.dkind then l
  else match spaceRuns s j j.dkind 2 a l.length with
    | (d, _) :: _ =>
      let src := spaceRuns s j j.skind (j.len / 2 ^ 21 + 2) j.src j.len
      l.zipIdx.map (fun b =>
        if src.any (fun r => r.1 ≤ d + b.2 && d + b.2 < r.1 + r.2) then Config.freeByte s.free (a + b.2) else b.1)
    | [] => l

/-- The status a unit's write would have now, without writing: how an MDL copy finds the first unit that fails (R247). -/
def unitPeek (s : State) (j : CopyJob) (u : Nat) : Status :=
  let (o, n) := unitSpan j u
  (copyWrite s j (j.dst + o) (List.replicate n 0)).1

/-- The first unit of the segment that holds an offset of the destination. -/
def segmentUnit (j : CopyJob) (o : Nat) : Nat :=
  let start := (j.ends.filter (fun e => e ≤ o)).foldl max 0
  (j.dst + start) / 64 - j.dst / 64

/-- MDL: the first unit that may not be written, as the segment of the first failure begins there (R247). -/
def mdlCut (s : State) (j : CopyJob) : Option (Nat × Status) :=
  let bad := (List.range j.units).find? (fun u => unitPeek s j u != .ok)
  let here := bad.map (fun u => (segmentUnit j (unitSpan j u).1, unitPeek s j u))
  match here, j.cut with
  | some a, some b => some (if a.1 < b.1 then a else b)
  | none, c => c
  | c, none => c

/-- MDL: `n` units from u on written, to the first whose write fails: its segment and all later ones are cut off. -/
def mdlRun (s : State) (j : CopyJob) : Nat → Nat → CopyJob × State
  | 0, _ => (j, s)
  | n + 1, u =>
    let (o, m) := unitSpan j u
    let l := overlapBytes s j (j.dst + o) ((j.out.drop o).take m)
    match copyWrite { s with free := s.free + 1 } j (j.dst + o) l with
    | (.ok, d, p, addr, s) => mdlRun s { j with acks := mput u (d, p, addr) j.acks } n (u + 1)
    | (st, _, _, _, s) => ({ j with cut := some (segmentUnit j o, st) }, s)

/-- MDL: at the first acknowledgement the units of the segments before the first failure are written, in order, and no other
ever is, so that the segment of the first failure and all later ones stay unwritten (R247, log entry 20). -/
def mdlWrite (s : State) (j : CopyJob) : CopyJob × State :=
  if j.wrote then (j, s)
  else
    let cut := mdlCut s j
    mdlRun s { j with cut := cut, wrote := true } ((cut.map (·.1)).getD j.units) 0

/-- A job kept, or its copy completed where every unit has resolved or an ORDERED copy has failed (R243, R248). -/
def settleCopy (s : State) (n : Nat) (j : CopyJob) (halt : Bool) : State :=
  if j.resolved.length < j.units ∧ !halt then { s with copies := mput n j s.copies }
  else
    let s := { s with copies := mdel n s.copies }
    let (st, done, ff) := copyOutcome j .aborted
    let s := copyEvent s j .aborted
    match j.issuer with
    | .op p k _ =>
      (match getOp s p k with
       | some o => finishOp (setOp s p k { o with cflags := o.cflags ||| copyFlags j }) p k st (done % 2 ^ 32) (ff % 2 ^ 32)
       | none => s)
    | i => localDone s i st (copyFlags j) done ff

/-- A unit resolved: its status noted, its counter raised where it succeeded (R244). -/
def noteUnit (s : State) (n : Nat) (j : CopyJob) (u : Nat) (st : Status) (d sat : Bool) (part : Option Nat) (addr : Nat) : State :=
  let j := { j with resolved := mput u st j.resolved, degraded := j.degraded || d, sat := j.sat || (sat && st == .ok),
                    fails := if st = .ok then j.fails else mput u addr j.fails }
  let s := match st, j.acEn, part with
    | .ok, true, some p => setArr s p j.acIdx (getArr s p j.acIdx + 1)
    | _, _, _ => s
  settleCopy s n j (j.ordered && st != .ok)

/-- The same issuer: the same thread, or the same ring (R243). -/
def sameIssuer (s : State) (a b : Issuer) : Bool :=
  match a, b with
  | .core k th _ _ _ _ _, .core k' th' _ _ _ _ _ => k == k' && th == th'
  | .op p o _, .op p' o' _ => p == p' && (getOp s p o).map (·.ring) == (getOp s p' o').map (·.ring)
  | _, _ => false

/-- An ORDERED copy waits for its lower units and for earlier ORDERED copies of its issuer (R243). -/
def orderedWaits (s : State) (n : Nat) (j : CopyJob) (u : Nat) : Bool :=
  j.ordered && (j.resolved.length != u || s.copies.any (fun e => e.1 < n && e.2.ordered && sameIssuer s e.2.issuer j.issuer))

/-- The unit touches a segment that waits for a new mode, at its source or its destination (R209). -/
def unitHeld (s : State) (j : CopyJob) (u : Nat) : Bool :=
  let (o, n) := unitSpan j u
  let held (kind a : Nat) : Bool :=
    match kind with
    | 0 => (match copyTranslate s j a .read with
      | (.ok, ga, _, _) => segHeld s ga
      | _ => false)
    | 3 => segHeld s a
    | _ => false
  held j.dkind (j.dst + o) || held j.skind (j.src + o) || held j.skind (j.src + o + n - 1)

/-- COPY_UNIT_ACK: a unit is read, written and acknowledged, or fails (R237, R244, R247). -/
def execCopyUnitAck (job unit : Nat) (ecc : Ecc) (s : State) : Out :=
  match mfind s.copies job with
  | none => .next s
  | some j =>
    .next (
      if unit ≥ j.units || (mfind j.resolved unit).isSome || orderedWaits s job j unit || unitHeld s j unit then s
      else
        let a := j.dst + (unitSpan j unit).1
        if j.xfmt = 5 then segment (mdlWrite s j).2 job (mdlWrite s j).1 unit a else write s job j unit a ecc)
where
  /-- A unit of an MDL copy: written already, or cut off. -/
  segment (s : State) (job : Nat) (j : CopyJob) (u a : Nat) : State :=
    match j.cut, mget (false, none, a) j.acks u with
    | some (c, st), (d, p, addr) =>
      if u ≥ c then noteUnit s job j u st false false none a
      else noteUnit s job j u .ok d (mdlSat j (unitSpan j u).1 (unitSpan j u).2) p addr
    | none, (d, p, addr) => noteUnit s job j u .ok d (mdlSat j (unitSpan j u).1 (unitSpan j u).2) p addr
  /-- The unit's bytes read and written. -/
  write (s : State) (job : Nat) (j : CopyJob) (u a : Nat) (ecc : Ecc) : State :=
    match unitBytes s j u ecc with
    | (.ok, d, l, sat, s) =>
      let l := overlapBytes s j a l
      let s := { s with free := s.free + 1 }
      let (st, d', p, addr, s) := copyWrite s j a l
      noteUnit s job j u st (d || d') sat p addr
    | (st, d, _, _, s) => noteUnit s job j u st d false none a

/-! ## MDL (R178, R188 to R190, R247) -/

/-- The source of an MDL copy up to its first failing line, and that line's status. -/
def sourcePrefix (s : State) (j : CopyJob) : Nat → Nat → Nat → List (BitVec 8) × Option Status × Bool × State
  | 0, _, _ => ([], none, false, s)
  | fuel + 1, a, n =>
    if n = 0 then ([], none, false, s)
    else
      let m := min n (64 - a % 64)
      match copyRead s j a m .good with
      | (.ok, d, v, s) =>
        let (l, st, d', s) := sourcePrefix s j fuel (a + m) (n - m)
        (toBytes m v ++ l, st, d || d', s)
      | (st, d, _, s) => ([], some st, d, s)

/-- BF16 source bytes as MDB blocks, with SAT. -/
def mdbBlock (b : List (BitVec 8)) : List (BitVec 8) × Cond :=
  encodeBlock 0 ((List.range 32).map (fun i => decBF16 (bytesAt b (2 * i) 2)))

/-- Segments of an encode, each of up to 65,536 blocks whose source was read, with the bytes of the output that hold its blocks
which raised SAT, where the segment begins at byte `at_`. -/
def encodeSegs : Nat → Nat → List (BitVec 8) → Nat → List (List (BitVec 8) × List (Nat × Nat))
  | 0, _, _, _ => []
  | fuel + 1, at_, l, left =>
    let n := min left (65536 * 64)
    if n = 0 ∨ l.length < n then []
    else
      let bs := (chunkBytes 64 65536 (l.take n)).map mdbBlock
      let seg := mdlSegment (bs.map (·.1))
      let sats := ((mdlSpans 0 (bs.map (·.1))).zip bs).filter (fun e => e.2.2.sat || e.2.2.ovf)
      (seg, sats.map (fun e => (at_ + e.1.1, at_ + e.1.2))) :: encodeSegs fuel (at_ + seg.length) (l.drop n) (left - n)

/-- Segments of a decode, to the first that R190 refuses or that the bytes do not hold whole, with which of the two it was. -/
def decodeSegs : Nat → List (BitVec 8) → List (List (BitVec 8)) × Option MdlAns
  | 0, _ => ([], none)
  | fuel + 1, l =>
    if l.isEmpty then ([], none)
    else match mdlDecode l with
      | .segment b rest =>
        let (more, e) := decodeSegs fuel rest
        (b :: more, e)
      | e => ([], some e)

/-- The status of the segment that ends an MDL stream early, if one does: a malformed one before what could not be read, and one
whose body goes on past the last byte, are refused (R190); otherwise the read's own status. -/
def mdlStop (e : Option MdlAns) (read : Option Status) : Option Status :=
  match e, read with
  | some .malformed, _ => some .badDesc
  | some _, none => some .badDesc
  | _, st => st

/-- An MDL job with its bytes formed; a segment that cannot be formed stands for one further unit, which fails (log entry 20). -/
def formMdl (s : State) (j : CopyJob) : CopyJob × State :=
  let (l, st, d, s) := sourcePrefix s j (j.len / 64 + 2) j.src j.len
  let (segs, sats, stop) :=
    if j.xform = 1 then
      let e := (encodeSegs (j.len / 64 + 1) 0 l j.len).unzip
      (e.1, e.2.flatten, st)
    else
      let e := decodeSegs (l.length + 1) l
      (e.1, [], mdlStop e.2 st)
  let out := segs.flatten
  let ends := segs.foldl (fun e x => e ++ [(e.getLast?.getD 0) + x.length]) []
  let dlen := out.length + (if stop.isSome then 1 else 0)
  let j := { j with out := out, ends := ends, dlen := dlen, satSpans := sats, degraded := d }
  let j := { j with units := if dlen = 0 then 0 else (j.dst + dlen - 1) / 64 + 1 - j.dst / 64 }
  ({ j with cut := stop.map (fun st => (segmentUnit j out.length, st)) }, s)

/-! ## Issue (R235, R236) -/

/-- A copy's job from its four parameter words. -/
def copyJob (w : Who) (i : Issuer) (ws : List Word) (ordered : Bool) : CopyJob :=
  let p2 := lget 0 ws 2
  let j : CopyJob :=
    { who := w, issuer := i, src := (lget 0 ws 0).toNat, dst := (lget 0 ws 1).toNat, len := fld p2 35 0, skind := fld p2 37 36,
      dkind := fld p2 39 38, spol := fld p2 41 40, xform := fld p2 43 42, xfmt := fld p2 47 44, ordered := ordered,
      acEn := fld p2 49 49 == 1, acIdx := fld (lget 0 ws 3) 15 0 }
  let dlen := destLen j.xform j.xfmt j.len
  { j with dlen := dlen, units := if dlen = 0 then 0 else (j.dst + dlen - 1) / 64 + 1 - j.dst / 64 }

/-- A copy issued: refused whole, or with its units to come. `none` where it completes at once with a status. -/
def startCopy (s : State) (n : Nat) (admin bit48 : Bool) (ws : List Word) (w : Who) (i : Issuer) (ordered : Bool) :
    Option Status × State :=
  let p2 := lget 0 ws 2
  if !(copyOk ws bit48) then (some .badDesc, s)
  else if (fld p2 37 36 = 3 ∨ fld p2 39 38 = 3) ∧ !admin then (some .access, s)
  else
    let j := copyJob w i ws ordered
    let (j, s') := if j.xfmt = 5 then formMdl s j else (j, s)
    if j.dkind = 1 ∧ j.dst % 65536 + j.dlen > 65536 then (some .badDesc, s)
    else if j.units = 0 then (some .ok, s') else (none, { s' with copies := mput n j s'.copies })

/-- COPY: a descriptor's copy begins (R235, R236, R238). -/
def execCopy (p op : Nat) (s : State) : Out :=
  onChosen s p op 0x02 (fun o =>
    let n := s.nextJob
    let r := startCopy { s with nextJob := n + 1 } n (isAdmin o.tenant) false ((o.desc.words.drop 2).take 4)
      { opWho s p op o with port := 0x41 } (.op p op 0) (dFld o.desc 0 9 9 == 1)
    match r.1 with
    | some st => finishOp r.2 p op st 0 0
    | none => setOp r.2 p op { o with phase := .running, job := n })

/-- CPREQ (R103, R105, R235, R238). -/
def execCpreq (t : ThreadRef) (w : Word) (s : State) : Out :=
  request .cpreq t w s (fun i ws s =>
    let l : Launch := ((getCore s (tKey t)).launch).getD {}
    let n := s.nextJob - 1
    if fld (lget 0 ws 0) 7 0 ≠ 1 ∨ !((ws.drop 5).all (fun v => v == 0)) then localDone s i .badDesc 0 0 0
    else
      let r := startCopy s n l.admin true ((ws.drop 1).take 4) (threadWho s t) i (fld (lget 0 ws 3) 48 48 == 1)
      match r.1 with
      | some st => localDone r.2 i st 0 0 0
      | none => r.2)

end Sys2Proof.Machine
end

