-- ==== Sys2Proof/Machine/StateEngine.lean ====
section
/-! DEFINITION. The State Engine: contexts, pages, its eight operations, and their order (R134 to R175, R539). -/
namespace Sys2Proof.Machine

/-! ## Request blocks (R144 to R147) -/

/-- Bits [hi:lo] of word i of a block. -/
def seFld (ws : List Word) (i hi lo : Nat) : Nat := fld (lget 0 ws i) hi lo

/-- The operations of R144, MOVE by its mode (R157) and STATS by its scope (R159). -/
inductive SeOp where
  | open_ | close | attend | select | attendSel | append | keepRange | keepList | moveOut | moveIn | statsCtx | statsStack
  deriving DecidableEq, Repr

/-- The operation a block names; none where KIND_OP is not one of R144. -/
def seOp (ws : List Word) : Option SeOp :=
  match seFld ws 0 7 0 with
  | 0x01 => some .open_
  | 0x02 => some .close
  | 0x10 => some .attend
  | 0x11 => some .select
  | 0x12 => some .attendSel
  | 0x20 => some .append
  | 0x30 =>
    match seFld ws 5 1 0 with
    | 0 => some .keepRange
    | 1 => some .keepList
    | 2 => some .moveOut
    | _ => some .moveIn
  | 0x40 => some (if seFld ws 2 32 32 = 0 then .statsCtx else .statsStack)
  | _ => none

/-- The three operations that use KVH, NQM1 and SCALE. -/
def seQueries (o : SeOp) : Bool := o == .attend || o == .select || o == .attendSel

/-- Operations with an input, and with a result (R146). -/
def seInputs (o : SeOp) : Bool :=
  o == .attend || o == .select || o == .attendSel || o == .append || o == .keepList || o == .moveIn

/-- Whether every bit the operation does not use is 0 (R145). -/
def seReserved (o : SeOp) (ws : List Word) : Bool :=
  let z (i hi lo : Nat) : Bool := seFld ws i hi lo == 0
  z 2 31 15 && (seQueries o || z 2 14 8) &&
  (match o with
   | .open_ => z 1 63 0 && z 2 63 47 && z 5 63 37 && z 6 63 32 && z 7 63 0
   | .close => z 2 63 32 && z 5 63 0 && z 6 63 0 && z 7 63 0
   | .attend => z 2 63 32 && z 6 63 32 && z 7 63 0
   | .select => z 2 63 32 && z 6 63 44 && z 7 63 0
   | .attendSel => z 2 63 32 && z 5 63 11 && z 6 63 32 && z 7 63 0
   | .append => z 2 63 32 && z 5 63 40 && z 6 63 0 && z 7 63 0
   | .keepRange => z 2 63 32 && z 5 63 2 && z 7 63 0
   | .keepList => z 2 63 32 && z 5 63 2 && z 6 63 32 && z 7 63 0
   | .moveOut => z 2 63 32 && z 5 63 3
   | .moveIn => z 2 63 32 && z 5 63 2 && z 6 63 0 && z 7 63 0
   | .statsCtx => z 2 63 33 && z 5 63 0 && z 6 63 0 && z 7 63 0
   | .statsStack => z 1 63 0 && z 2 63 33 && z 5 63 0 && z 6 63 0 && z 7 63 0)

/-- An input or result address is sound (R146). -/
def seAddrOk (glob : Bool) (a : Nat) : Bool := if glob then a % 64 == 0 else a < 65536 && a % 16 == 0

/-- Fields within the ranges that do not depend on the context (R147). -/
def seRanges (o : SeOp) (ws : List Word) : Bool :=
  match o with
  | .open_ =>
    seFld ws 2 35 32 ≤ 4 && seFld ws 2 39 36 ≤ 4 && seFld ws 5 36 0 % 8 == 0 && 1 ≤ seFld ws 6 31 0 && seFld ws 6 31 0 ≤ 2 ^ 24
      && seFld ws 5 36 0 + 8 * seFld ws 6 31 0 ≤ 2 ^ 37
  | .attend => seFld ws 5 31 0 ≤ seFld ws 5 63 32
  | .select => seFld ws 5 31 0 ≤ seFld ws 5 63 32
  | .keepRange => seFld ws 6 31 0 ≤ seFld ws 6 63 32
  | .moveOut => seFld ws 6 31 0 ≤ seFld ws 6 63 32
  | .keepList => 1 ≤ seFld ws 6 31 0
  | _ => true

/-- What a member of a step may not do (R163). -/
def seReplayBad (o : SeOp) (ws : List Word) : Bool :=
  match o with
  | .open_ => true
  | .close => true
  | .keepRange => true
  | .keepList => true
  | .moveIn => true
  | .append => seFld ws 5 31 0 == 0xFFFFFFFF
  | _ => false

/-- Check 1 of R147, and R163. -/
def seSound (o : SeOp) (ws : List Word) (inStep : Bool) : Bool :=
  seReserved o ws && seRanges o ws &&
  (!(seInputs o) || seAddrOk (seFld ws 2 7 7 == 1) (lget 0 ws 3).toNat) &&
  (o == .close || seAddrOk (seFld ws 2 6 6 == 1) (lget 0 ws 4).toNat) && !(inStep && seReplayBad o ws)

/-- The stack a block names, as 4 PART + POS. -/
def seStack (ws : List Word) : Nat := 4 * seFld ws 2 3 0 + seFld ws 2 5 4

/-- The partition offset of a stack offset (R134). -/
def seOffset (k off : Nat) : Nat := stkBase + k % 4 * 2 ^ 37 + off

/-- Check 2: the target (R147, R148). -/
def seTarget (s : State) (w : Who) (k : Nat) : Status :=
  let p := k / 4
  if p ≥ nParts s ∨ !(hasSe s) then .unsupported
  else if partDomain s p ≠ w.domain then .access
  else if !(partUp s p) then .linkLost
  else (routeOf s w (gaOf s (memKey p (seOffset k 0)))).1

/-! ## Accesses of the State Engine (R135, R140, R173) -/

/-- The address of a failed access recorded: the one cause with an address and a status (R146, R150). -/
def addrEvent (s : State) (k addr : Nat) (st : Status) : State := emit s 0x0025 (srcStack k) [(8, addr), (1, stCode st)]

/-- Whether the State Engine may touch the line of a stack offset (R135, R140, R429). DEDUCED (log entry 41): a page table or a page
that lies in the context table is refused as any other access to it is. -/
def seAllowed (s : State) (w : Who) (k off : Nat) (write : Bool) : Status × State :=
  let p := k / 4
  let po := seOffset k off
  let ga := gaOf s (memKey p po)
  if off < 0x400000 ∨ off ≥ 2 ^ 37 then
    (.access, emit s 0x0031 (srcStack k) [(8, ga / 0x200000 * 0x200000), (2, w.jobTag), (1, w.domain)])
  else if !(ownPass s w p po write) then (.access, denyRecord s p (ga / 0x200000 * 0x200000) w.jobTag w.domain false)
  else if write ∧ stepProtected s w p po then (.access, s)
  else (.ok, s)

/-- Bytes counted as read from, or written to, the DRAM dies of a stack (R159). -/
def countRead (s : State) (k n : Nat) : State := let x := getStack s k; setStack s k { x with bytesRead := x.bytesRead + n }

def countWritten (s : State) (k n : Nat) : State :=
  let x := getStack s k
  setStack s k { x with bytesWritten := x.bytesWritten + n }

/-- A run of n bytes of a stack read, line by line. -/
def seRead (s : State) (w : Who) (k : Nat) : Nat → Nat → Nat → Status × List (BitVec 8) × State
  | 0, _, _ => (.ok, [], s)
  | fuel + 1, off, n =>
    if n = 0 then (.ok, [], s)
    else
      let m := min n (64 - off % 64)
      match seAllowed s w k off false with
      | (.ok, s) =>
        let key := memKey (k / 4) (seOffset k off)
        if ueIn s (key / 64 * 64) ((2 ^ m - 1) * 2 ^ (off % 64)) then (.faultMem, [], foundUe s (k / 4) (seOffset k off))
        else
          let v := toBytes m (memRead s key m)
          let (st, l, s) := seRead (countRead s k m) w k fuel (off + m) (n - m)
          (st, v ++ l, s)
      | (st, s) => (st, [], s)

/-- A run of bytes of a stack written, line by line. -/
def seWrite (s : State) (w : Who) (k : Nat) : Nat → Nat → List (BitVec 8) → Status × State
  | 0, _, _ => (.ok, s)
  | fuel + 1, off, l =>
    if l.isEmpty then (.ok, s)
    else
      let m := min l.length (64 - off % 64)
      match seAllowed s w k off true with
      | (.ok, s) =>
        let key := memKey (k / 4) (seOffset k off)
        (match ueCover s (key / 64 * 64) ((2 ^ m - 1) * 2 ^ (off % 64)) with
         | none => (.faultMem, foundUe s (k / 4) (seOffset k off))
         | some s => seWrite (countWritten { s with mem := bwriteList s.mem key (l.take m) } k m) w k fuel (off + m) (l.drop m))
      | (st, s) => (st, s)

/-- What stands behind a page table entry (R539). -/
inductive PageAns where
  | page (off : Nat)
  | absent
  | malformed
  | fail (st : Status)
  deriving DecidableEq, Repr

/-- Entry j of a context's page table (R139, R539). -/
def pageEntry (s : State) (w : Who) (k : Nat) (c : Ctx) (j : Nat) : PageAns × State :=
  if j ≥ c.pcap then (.absent, s)
  else match seRead s w k 2 (c.ptab + 8 * j) 8 with
    | (.ok, l, s) =>
      let e := ofBytes l
      let p := nbits e 36 0
      if e / 2 ^ 37 ≠ 0 then (.malformed, s)
      else if p = 0 then (.absent, s)
      else if p % 256 ≠ 0 ∨ p < 0x400000 ∨ p + pageBytes c > 2 ^ 37 then (.malformed, s)
      else (.page p, s)
    | (st, _, s) => (.fail st, s)

/-- What a request has read of its context's page table: each entry once, when it first touches the page (R139). -/
abbrev Pages := AMap PageAns

/-- The page of a position, its entry read where the request has not read it yet. -/
def pageOf (s : State) (w : Who) (k : Nat) (c : Ctx) (m : Pages) (x : Nat) : PageAns × Pages × State :=
  match mfind m (x / 256) with
  | some a => (a, m, s)
  | none =>
    let (a, s) := pageEntry s w k c (x / 256)
    (a, mput (x / 256) a m, s)

/-- The pages of a list of positions. -/
def seekPages (s : State) (w : Who) (k : Nat) (c : Ctx) : Pages → List Nat → Pages × State
  | m, [] => (m, s)
  | m, x :: xs =>
    let (_, m, s) := pageOf s w k c m x
    seekPages s w k c m xs

/-- Where a page that has been read begins; 0 for one that is not present. -/
def pageAt (m : Pages) (x : Nat) : Nat :=
  match mfind m (x / 256) with
  | some (.page p) => p
  | _ => 0

/-- The status by which a page's entry ends a reader or a KEEP (R173, R539). -/
def entryStatus : PageAns → Status
  | .page _ => .ok
  | .fail st => st
  | _ => .badDesc

/-- A list read element by element to the first failure. -/
def gather {β : Type} (f : State → Nat → Status × β × State) (s : State) : Nat → List Nat → Option (Status × Nat) × List β × State
  | _, [] => (none, [], s)
  | i, x :: xs =>
    match f s x with
    | (.ok, v, s) =>
      let (e, l, s) := gather f s (i + 1) xs
      (e, v :: l, s)
    | (st, _, s) => (some (st, i), [], s)

/-- A reader's positions, each as `f` reads it: where an entry is 0, malformed or beyond PCAP, the lowest place of one; otherwise
the lowest place whose entry or data cannot be read (R173, R539). How many were read, and what they hold. -/
def readOver {β : Type} [Inhabited β] (f : Pages → State → Nat → Status × β × State) (s : State) (w : Who) (k : Nat) (c : Ctx) (ps : List Nat) :
    Option (Status × Nat) × List β × State :=
  let (m, s) := seekPages s w k c [] ps
  let bad (st : PageAns) : Bool := st == .absent || st == .malformed
  match ps.findIdx? (fun x => bad (mget .absent m (x / 256))) with
  | some i => (some (.badDesc, i), [], s)
  | none =>
    gather (fun s x =>
      match mget .absent m (x / 256) with
      | .page _ => f m s x
      | a => (entryStatus a, default, s)) s 0 ps

/-- The key or value blocks of a head at a position. -/
def seHead (w : Who) (k : Nat) (c : Ctx) (value : Bool) (h : Nat) (pages : Pages) (s : State) (x : Nat) :
    Status × List (BitVec 8) × State :=
  let n := headBytes (if value then c.fmtV else c.fmtK) c.nb
  seRead s w k (n / 64 + 2) (pageAt pages x + slotOff c value h (x % 256)) n

/-- The key and the value of a head at a position, decoded. -/
def seHeads (w : Who) (k : Nat) (c : Ctx) (h : Nat) (pages : Pages) (s : State) (x : Nat) :
    Status × (List FVal × List FVal) × State :=
  match seHead w k c false h pages s x with
  | (.ok, kb, s) =>
    (match seHead w k c true h pages s x with
     | (.ok, vb, s) => (.ok, (decodeHead c.fmtK kb, decodeHead c.fmtV vb), s)
     | (st, _, s) => (st, ([], []), s))
  | (st, _, s) => (st, ([], []), s)

/-- A token's blocks in the order of a stream: keys of heads 0 to H − 1, then values (R158). -/
def seToken (w : Who) (k : Nat) (c : Ctx) (pages : Pages) (s : State) (x : Nat) : Status × List (BitVec 8) × State :=
  let (e, l, s) := gather (fun s i => seHead w k c (i ≥ c.h) (i % c.h) pages s x) s 0 (List.range (2 * c.h))
  ((e.map (·.1)).getD .ok, l.flatten, s)

/-- A token's blocks stored, block vector by block vector; those stored before a failure stay (R156). -/
def storeToken (s : State) (w : Who) (k : Nat) (c : Ctx) (page r : Nat) : Nat → List (BitVec 8) → Status × State
  | 0, _ => (.ok, s)
  | n + 1, l =>
    let i := 2 * c.h - (n + 1)
    let value := decide (i ≥ c.h)
    let sz := headBytes (if value then c.fmtV else c.fmtK) c.nb
    match seWrite s w k (sz / 64 + 2) (page + slotOff c value (i % c.h) r) (l.take sz) with
    | (.ok, s) => storeToken s w k c page r n (l.drop sz)
    | (st, s) => (st, s)

/-! ## Inputs and results (R146) -/

/-- The issuing core's local store, for a local address. -/
def seLocal (s : State) (i : Issuer) : CoreSt :=
  match i with
  | .core k _ _ _ _ _ _ => getCore s k
  | .op _ _ _ => {}

/-- n bytes of a request's input at an offset; a failed read is recorded. -/
def seInput (s : State) (k : Nat) (r : SeReq) (off n : Nat) : Status × List (BitVec 8) × State :=
  let a := (lget 0 r.words 3).toNat + off
  if seFld r.words 2 7 7 = 0 then
    let c := seLocal s r.issuer
    (.ok, (List.range n).map (fun i => lsGet c (a + i)), s)
  else match tvaReadList s r.who (n / 64 + 2) a n with
    | (.ok, l, s) => (.ok, l, s)
    | (st, _, s) => (st, [], addrEvent s k a st)

/-! ## Outcomes -/

/-- What an operation reports. -/
structure SeRes where
  st : Status := .ok
  done : Nat := 0
  ff : Nat := 0
  flags : Nat := 0
  result : List (BitVec 8) := []
  deriving DecidableEq, Repr

/-- A reader that failed at place i of its range or list: on FAULT_MEM and on a page entry the place is reported (R173, R539). Its
results are undefined: DESIGN CHOICE (log entry 41), the bytes at RESULT stay as they are. -/
def readerFail (e : Status × Nat) (place : Nat → Nat) : SeRes :=
  { st := e.1, ff := if e.1 = .faultMem ∨ e.1 = .badDesc then place e.2 else 0 }

/-- A context of a stack, as a handle names it (R141). -/
def seCtx (s : State) (k : Nat) (ws : List Word) : Option Ctx :=
  match mfind (getStack s k).ctx (seFld ws 1 15 0) with
  | some c => if c.isOpen ∧ c.gen = seFld ws 1 63 16 then some c else none
  | none => none

def setCtx (s : State) (k i : Nat) (c : Ctx) : State :=
  let x := getStack s k
  setStack s k { x with ctx := mput i c x.ctx }

/-- The context as it stands now at the block's index. -/
def nowCtx (s : State) (k : Nat) (ws : List Word) : Ctx := mget {} (getStack s k).ctx (seFld ws 1 15 0)

/-- LEN of the block's context set. -/
def setLen (s : State) (k : Nat) (ws : List Word) (n : Nat) : State :=
  setCtx s k (seFld ws 1 15 0) { nowCtx s k ws with len := n }

/-- A context record (R142). -/
def ctxBytes (i : Nat) (c : Ctx) : List (BitVec 8) :=
  toBytes 8 (i + 2 ^ 16 * c.gen) ++
  toBytes 8 (c.jobTag + 2 ^ 16 * c.fmtK + 2 ^ 20 * c.fmtV + 2 ^ 24 * (c.h - 1) + 2 ^ 28 * (c.nb - 1) + 2 ^ 31 * b2n c.isOpen + 2 ^ 32 * c.len) ++
  toBytes 8 c.ptab ++ toBytes 8 c.pcap ++ toBytes 8 c.written ++ toBytes 8 c.tOpen ++ toBytes 16 0

/-! ## Operations (R151 to R159) -/

/-- OPEN (R141, R143, R151): an index never used goes before one that was freed. The spec gives GEN no first value: DESIGN CHOICE
(log entry 41), it counts from 0 at initialisation, so the first OPEN of an index gives 1. -/
def runOpen (s : State) (k : Nat) (r : SeReq) : SeRes × State :=
  let x := getStack s k
  let pick : Option (Nat × StackSt) :=
    if x.nextNew < 65536 then some (x.nextNew, { x with nextNew := x.nextNew + 1 })
    else match x.freed with
      | i :: fs => some (i, { x with freed := fs })
      | [] => none
  match pick with
  | none => ({ st := .noResource }, s)
  | some (i, x) =>
    let gen := (mget {} x.ctx i).gen + 1
    let c : Ctx :=
      { gen := gen, jobTag := r.who.jobTag, fmtK := seFld r.words 2 35 32, fmtV := seFld r.words 2 39 36, h := seFld r.words 2 43 40 + 1,
        nb := seFld r.words 2 46 44 + 1, isOpen := true, ptab := seFld r.words 5 36 0, pcap := seFld r.words 6 31 0, tOpen := s.timebase }
    ({ done := 1, result := toBytes 8 (i + 2 ^ 16 * gen) }, setStack s k { x with ctx := mput i c x.ctx })

/-- CLOSE (R152). -/
def runClose (s : State) (k : Nat) (r : SeReq) (c : Ctx) : SeRes × State :=
  let i := seFld r.words 1 15 0
  let s := setCtx s k i { c with isOpen := false }
  let x := getStack s k
  ({ done := 1 }, setStack s k { x with freed := x.freed ++ [i] })

/-- The queries of a request: NQ lists of D elements. -/
def seQueryIn (s : State) (k : Nat) (r : SeReq) (c : Ctx) : Status × List (List FVal) × State :=
  let d := 32 * c.nb
  let nq := seFld r.words 2 14 12 + 1
  match seInput s k r 0 (2 * d * nq) with
  | (.ok, l, s) =>
    (.ok, (List.range nq).map (fun i => (List.range d).map (fun e => decBF16 (bytesAt l (2 * (d * i + e)) 2))), s)
  | (st, _, s) => (st, [], s)

/-- SCALE (R164). -/
def seScale (ws : List Word) : Word32 := (lget 0 ws 6).setWidth 32

/-- Token-heads read (R159). -/
def countKeys (s : State) (k n : Nat) : State := let x := getStack s k; setStack s k { x with keysRead := x.keysRead + n }

/-- Positions cut into groups: by page, or by 256 list places (R165). -/
def groupsOf (byPage : Bool) (l : List (Nat × Nat × α)) : List (AMap (Nat × α)) :=
  l.foldr (fun e gs =>
    let key := if byPage then e.2.1 / 256 else e.1 / 256
    let slot := if byPage then e.2.1 % 256 else e.1 % 256
    match gs with
    | g :: rest => if (g.head?.map (fun f => if byPage then f.2.1 / 256 else f.2.1)) = some key
        then ((slot, (if byPage then e.2.1 else key, e.2.2)) :: g) :: rest
        else [(slot, (if byPage then e.2.1 else key, e.2.2))] :: gs
    | [] => [[(slot, (if byPage then e.2.1 else key, e.2.2))]]) []

/-- ATTEND over a list of positions (R153, R155, R164, R165). -/
def attendOver (s : State) (k : Nat) (r : SeReq) (c : Ctx) (qs : List (List FVal)) (ps : List Nat) (byPage : Bool)
    (place : Nat → Nat) : SeRes × State :=
  match readOver (seHeads r.who k c (seFld r.words 2 11 8)) s r.who k c ps with
  | (some e, kvs, s) => (readerFail e place, countKeys s k kvs.length)
  | (none, kvs, s) =>
    let items := (ps.zip kvs).zipIdx.map (fun e => (e.2, e.1.1, e.1.2))
    let gs := groupsOf byPage items
    let part (q : List FVal) : Partial :=
      foldGroups (32 * c.nb) (gs.map (fun g => g.map (fun e => (e.1, (seScore (seScale r.words) q e.2.2.1, e.2.2.2)))))
    let ps' := qs.map part
    ({ done := ps.length, flags := ps'.foldl (fun f p => f ||| partialFlags p) 0, result := ps'.flatMap partialBytes },
      countKeys s k kvs.length)

/-- ATTEND (R153). -/
def runAttend (s : State) (k : Nat) (r : SeReq) (c : Ctx) : SeRes × State :=
  let t0 := seFld r.words 5 31 0
  match seQueryIn s k r c with
  | (.ok, qs, s) => attendOver s k r c qs ((List.range (seFld r.words 5 63 32 - t0)).map (t0 + ·)) true (t0 + ·)
  | (st, _, s) => ({ st := st }, s)

/-- SELECT (R154). -/
def runSelect (s : State) (k : Nat) (r : SeReq) (c : Ctx) : SeRes × State :=
  let t0 := seFld r.words 5 31 0
  let ps := (List.range (seFld r.words 5 63 32 - t0)).map (t0 + ·)
  match seQueryIn s k r c with
  | (.ok, qs, s) =>
    (match readOver (seHead r.who k c false (seFld r.words 2 11 8)) s r.who k c ps with
     | (some e, ks, s) => (readerFail e (t0 + ·), countKeys s k ks.length)
     | (none, ks, s) =>
       let score (b : List (BitVec 8)) : Word32 :=
         let kh := decodeHead c.fmtK b
         groupScore (seFld r.words 6 43 43 == 1) (qs.map (fun q => seScore (seScale r.words) q kh))
       let out := (ranked (ps.zip (ks.map score))).take (seFld r.words 6 42 32 + 1)
       ({ done := out.length, flags := wordFlags (out.map (·.2)), result := out.flatMap (fun e => toBytes 4 e.1 ++ toBytes 4 e.2.toNat) },
         countKeys s k ks.length))
  | (st, _, s) => ({ st := st }, s)

/-- A list of n positions at an offset of the input. -/
def seList (s : State) (k : Nat) (r : SeReq) (off n : Nat) : Status × List Nat × State :=
  match seInput s k r off (4 * n) with
  | (.ok, l, s) => (.ok, (List.range n).map (fun i => bytesAt l (4 * i) 4), s)
  | (st, _, s) => (st, [], s)

/-- ATTEND_SEL (R155): its list is check 5 of R147, so it goes before the queries. -/
def runAttendSel (s : State) (k : Nat) (r : SeReq) (c : Ctx) : SeRes × State :=
  let n := seFld r.words 5 10 0 + 1
  match seList s k r (64 * c.nb * (seFld r.words 2 14 12 + 1)) n with
  | (.ok, ps, s) =>
    (match findIdx (fun p => p ≥ c.len) ps 0 with
     | some (i, _) => ({ st := .badDesc, ff := i }, s)
     | none =>
       match seQueryIn s k r c with
       | (.ok, qs, s) => attendOver s k r c qs ps false id
       | (st, _, s) => ({ st := st }, s))
  | (st, _, s) => ({ st := st }, s)

/-- Why a run of tokens stopped: the status of the failed access, which tokens written before it make PARTIAL (R156); or one that
completes the request whatever was written: BAD_DESC, and ACCESS for the page table (R140, R539). -/
inductive RunEnd where
  | done
  | token (st : Status)
  | whole (st : Status)
  deriving DecidableEq, Repr

/-- A token placed at a position: its page sought, its blocks stored, LEN advanced, TOKENS_WRITTEN raised (R142, R156). -/
def placeToken (s : State) (k : Nat) (r : SeReq) (m : Pages) (x : Nat) (l : List (BitVec 8)) : RunEnd × Pages × State :=
  let c := nowCtx s k r.words
  match pageOf s r.who k c m x with
  | (.page p, m, s) =>
    (match storeToken s r.who k c p (x % 256) (2 * c.h) l with
     | (.ok, s) =>
       let c := nowCtx s k r.words
       (.done, m, setCtx s k (seFld r.words 1 15 0) { c with len := max c.len (x + 1), written := c.written + 1 })
     | (st, s) => (.token st, m, s))
  | (.absent, m, s) => (.token .noResource, m, s)
  | (.malformed, m, s) => (.whole .badDesc, m, s)
  | (.fail .access, m, s) => (.whole .access, m, s)
  | (.fail st, m, s) => (.token st, m, s)

/-- Tokens placed from a position on, each as `tok` supplies it, until one fails: how many, why it stopped, SAT. -/
def placeRun (tok : State → Nat → Status × (List (BitVec 8) × Bool) × State) (k : Nat) (r : SeReq) (x : Nat) (s : State) (m : Pages) :
    Nat → Nat → RunEnd × Nat × Bool × State
  | 0, i => (.done, i, false, s)
  | n + 1, i =>
    match tok s i with
    | (.ok, (l, sat), s) =>
      (match placeToken s k r m (x + i) l with
       | (.done, m, s) =>
         let (e, i, sat', s) := placeRun tok k r x s m n (i + 1)
         (e, i, sat || sat', s)
       | (e, _, s) => (e, i, sat, s))
    | (st, _, s) => (if st = .badDesc then .whole st else .token st, i, false, s)

/-- The status of a run that stopped after so many tokens (R156, R539). -/
def runStatus (e : RunEnd) (done : Nat) : Status :=
  match e with
  | .done => .ok
  | .whole st => st
  | .token st => if done = 0 then st else .partialDone

/-- A token of an APPEND read and encoded (R156). -/
def appendToken (k : Nat) (r : SeReq) (c : Ctx) (s : State) (i : Nat) : Status × (List (BitVec 8) × Bool) × State :=
  let hd := 64 * c.nb
  match seInput s k r (2 * c.h * hd * i) (2 * c.h * hd) with
  | (.ok, l, s) =>
    let vs := (chunkBytes hd (2 * c.h) l).zipIdx.map (fun e => encodeHead (if e.2 < c.h then c.fmtK else c.fmtV) e.1)
    (.ok, (vs.flatMap (·.1), vs.any (·.2)), s)
  | (st, _, s) => (st, ([], false), s)

/-- APPEND (R156). -/
def runAppend (s : State) (k : Nat) (r : SeReq) (c : Ctx) : SeRes × State :=
  let at_ := if seFld r.words 5 31 0 = 0xFFFFFFFF then c.len else seFld r.words 5 31 0
  let n := seFld r.words 5 39 32 + 1
  let (e, m, sat, s) := placeRun (appendToken k r c) k r at_ s [] n 0
  ({ st := runStatus e m, done := m, ff := if e = .done then 0 else m, flags := 8 * b2n sat,
     result := toBytes 4 at_ ++ toBytes 4 (nowCtx s k r.words).len }, s)

/-- Page table entries from j on set to 0 (R157); refused where a page of the table may not be written. -/
def clearEntries (s : State) (w : Who) (k : Nat) (c : Ctx) (j : Nat) : Status × State :=
  if j ≥ c.pcap then (.ok, s)
  else
    let lo := c.ptab + 8 * j
    let hi := c.ptab + 8 * c.pcap
    let lines := (lo / 0x200000 :: (List.range (hi / 0x200000 + 1)).filter (fun g => lo < g * 0x200000 ∧ g * 0x200000 < hi))
    let bad := lines.find? (fun g => (seAllowed s w k (max lo (g * 0x200000)) true).1 != .ok)
    match bad with
    | some g => seAllowed s w k (max lo (g * 0x200000)) true
    | none =>
      let a := memKey (k / 4) (seOffset k lo)
      let b := a + (hi - lo)
      if s.hubs.any (fun h => h.2.steps.any (fun st => st.2.prot.any (fun q =>
          stepProtected s w q.1 q.2.1 && memKey q.1 (q.2.1 / 64 * 64) < b && a < memKey q.1 ((q.2.1 + q.2.2 + 63) / 64 * 64)))) then (.access, s)
      else (.ok, countWritten { s with mem := s.mem.filter (fun e => !(a ≤ e.1 && e.1 < b)),
                                       ue := s.ue.filter (fun e => !(a ≤ 8 * e.1 && 8 * e.1 < b)) } k (hi - lo))

/-- Tokens moved to positions 0, 1, … until an access fails (R157, R173). -/
def keepRun (s : State) (k : Nat) (r : SeReq) (c : Ctx) (m : Pages) : Nat → List Nat → Status × Nat × State
  | i, [] => (.ok, i, s)
  | i, x :: xs =>
    let (a, m, s) := pageOf s r.who k c m x
    let (b, m, s) := pageOf s r.who k c m i
    match entryStatus a, entryStatus b with
    | .ok, .ok =>
      (match seToken r.who k c m s x with
       | (.ok, l, s) =>
         (match storeToken s r.who k c (pageAt m i) (i % 256) (2 * c.h) l with
          | (.ok, s) => keepRun s k r c m (i + 1) xs
          | (st, s) => (st, i, s))
       | (st, _, s) => (st, i, s))
    | .ok, st => (st, i, s)
    | st, _ => (st, i, s)

/-- KEEP_RANGE and KEEP_LIST over their positions (R157, R173). -/
def keepOver (s : State) (k : Nat) (r : SeReq) (c : Ctx) (ps : List Nat) : SeRes × State :=
  let (st, n, s) := keepRun s k r c [] 0 ps
  let s := setLen s k r.words n
  let (st, s) := if st = .ok then clearEntries s r.who k c (cdiv n 256) else (st, s)
  ({ st := if st = .ok then .ok else if n > 0 then .partialDone else st, done := n, ff := if st = .ok then 0 else n, result := toBytes 8 n }, s)

/-- Whether a list is strictly ascending. -/
def ascending : List Nat → Bool
  | a :: b :: l => a < b && ascending (b :: l)
  | _ => true

/-- KEEP_LIST (R157). -/
def runKeepList (s : State) (k : Nat) (r : SeReq) (c : Ctx) : SeRes × State :=
  match seList s k r 0 (seFld r.words 6 31 0) with
  | (.ok, ps, s) => if ascending ps && ps.all (fun p => p < c.len) then keepOver s k r c ps else ({ st := .badDesc }, s)
  | (st, _, s) => ({ st := st }, s)

/-- The payload of a stream of tokens: as it stands, or each 256 tokens as an MDL segment (R158). -/
def streamPayload (c : Ctx) (mdl : Bool) (toks : List (List (BitVec 8))) : List (BitVec 8) :=
  if mdl then
    ((List.range (cdiv toks.length 256)).map (fun g =>
      let b := ((toks.drop (256 * g)).take 256).flatten
      mdlSegment (chunkBytes 64 (2 * 256 * c.h * c.nb) b))).flatten
  else toks.flatten

/-- The stream header (R158). -/
def streamHeader (c : Ctx) (mdl : Bool) (n : Nat) (payload : List (BitVec 8)) : List (BitVec 8) :=
  toBytes 4 0x4D445331 ++ toBytes 1 1 ++ toBytes 1 c.fmtK ++ toBytes 1 c.fmtV ++ toBytes 1 (c.h - 1 + 16 * (c.nb - 1) + 128 * b2n mdl) ++
  toBytes 4 n ++ toBytes 4 0 ++ toBytes 8 payload.length ++ toBytes 4 (crc32c payload).toNat ++ toBytes 36 0

/-- MOVE OUT (R157, R158): as many whole tokens as CAP holds. The stream stands at RESULT; the 8-byte result, LEN and the stream's
bytes, follows it where CAP leaves room (DEDUCED, log entry 41). -/
def runMoveOut (s : State) (k : Nat) (r : SeReq) (c : Ctx) : SeRes × State :=
  let t0 := seFld r.words 6 31 0
  let ps := (List.range (seFld r.words 6 63 32 - t0)).map (t0 + ·)
  let mdl := seFld r.words 5 2 2 == 1
  let cap := (lget 0 r.words 7).toNat
  match readOver (seToken r.who k c) s r.who k c ps with
  | (some e, _, s) => (readerFail e (t0 + ·), s)
  | (none, toks, s) =>
    let fits (n : Nat) : Bool := 64 + (streamPayload c mdl (toks.take n)).length ≤ cap
    let tail (n : Nat) : List (BitVec 8) := if n + 8 ≤ cap then toBytes 4 c.len ++ toBytes 4 n else []
    match (List.range (toks.length + 1)).reverse.find? fits with
    | none => ({ st := .partialDone, result := tail 0 }, s)
    | some n =>
      let pay := streamPayload c mdl (toks.take n)
      let str := streamHeader c mdl n pay ++ pay
      ({ st := if n = toks.length then .ok else .partialDone, done := n, ff := if n = toks.length then 0 else n,
         result := str ++ tail str.length }, s)

/-- The tokens an MDL payload yields until a segment ends it early, and how: each segment holds the blocks of 1 to 256 tokens, no
more than are left (R158, R188, R190). -/
def mdlTokens (c : Ctx) : Nat → Nat → List (BitVec 8) → List (List (BitVec 8)) × Option MdlAns
  | 0, _, _ => ([], some .malformed)
  | fuel + 1, left, l =>
    if left = 0 then ([], if l.isEmpty then none else some .malformed)
    else match mdlDecode l with
      | .segment b rest =>
        let n := b.length / tokenBytes c
        if n * tokenBytes c ≠ b.length ∨ n = 0 ∨ n > min left 256 then ([], some .malformed)
        else
          let (ts, e) := mdlTokens c fuel (left - n) rest
          (chunkBytes (tokenBytes c) n b ++ ts, e)
      | e => ([], some e)

/-- The readable prefix of an input, and the status of the read that failed. -/
def seInputPrefix (s : State) (k : Nat) (r : SeReq) : Nat → Nat → Nat → List (BitVec 8) × Option Status × State
  | 0, _, _ => ([], none, s)
  | fuel + 1, off, n =>
    if n = 0 then ([], none, s)
    else match seInput s k r off (min n 64) with
      | (.ok, l, s) =>
        let (more, st, s) := seInputPrefix s k r fuel (off + 64) (n - min n 64)
        (l ++ more, st, s)
      | (st, _, s) => ([], some st, s)

/-- MOVE IN (R146, R157, R158). -/
def runMoveIn (s : State) (k : Nat) (r : SeReq) (c : Ctx) : SeRes × State :=
  match seInput s k r 0 64 with
  | (.ok, hd, s) =>
    let n := bytesAt hd 8 4
    let bytes := bytesAt hd 16 8
    let mdl := nbit (bytesAt hd 7 1) 7
    if bytesAt hd 0 4 ≠ 0x4D445331 ∨ bytesAt hd 4 1 ≠ 1 ∨ bytesAt hd 5 1 ≠ c.fmtK ∨ bytesAt hd 6 1 ≠ c.fmtV ∨
        bytesAt hd 7 1 % 128 ≠ c.h - 1 + 16 * (c.nb - 1) ∨ bytesAt hd 12 4 ≠ 0 ∨ (hd.drop 28).any (fun b => b != 0) ∨
        (mdl ∧ (c.fmtK ≠ 0 ∨ c.fmtV ≠ 0)) ∨ (!mdl ∧ bytes ≠ n * tokenBytes c) then ({ st := .badDesc }, s)
    else
      let (pay, bad, s) := seInputPrefix s k r (bytes / 64 + 1) 64 bytes
      if bad.isNone ∧ (crc32c pay).toNat ≠ bytesAt hd 24 4 then ({ st := .faultMem }, s)
      else
        let (toks, stop) :=
          if mdl then
            let e := mdlTokens c (n + 1) n pay
            (e.1, mdlStop e.2 bad)
          else (chunkBytes (tokenBytes c) (pay.length / tokenBytes c) pay, bad)
        let tok (s : State) (i : Nat) : Status × (List (BitVec 8) × Bool) × State :=
          match toks[i]? with
          | some l => (.ok, (l, false), s)
          | none => (stop.getD .badDesc, ([], false), s)
        let (e, m, _, s) := placeRun tok k r c.len s [] n 0
        let e := if e = .done ∧ stop = some .badDesc then .whole .badDesc else e
        ({ st := runStatus e m, done := m, ff := if e = .done then 0 else m, result := toBytes 8 (nowCtx s k r.words).len }, s)
  | (st, _, s) => ({ st := st }, s)

/-- The last temperature of a stack, in sixteenths of a degree (R416, R417). DESIGN CHOICE (log entry 41): 0 where there is no valid
reading, of which the spec says nothing. -/
def stackTemp (s : State) (k : Nat) : Int :=
  let v := rfld s (rThmTemp ((336 + k) / 4)) (16 * ((336 + k) % 4) + 15) (16 * ((336 + k) % 4))
  if v = 0x8000 then 0 else sgn 16 v

/-- The temperature above which a stack's refresh rate doubles, by its capability record (R136). -/
def refreshHot (s : State) (k : Nat) : Int := rfld s (rDieCap (80 + k) 3) 39 32 * 16

/-- STATS with scope 1 (R159). DESIGN CHOICE (log entry 41): TEMP_C shows 0 below 0 °C, of which the spec says nothing. -/
def statsWords (s : State) (k : Nat) : List (BitVec 8) :=
  let x := getStack s k
  let t := stackTemp s k
  toBytes 4 (x.ctx.filter (fun c => c.2.isOpen)).length ++ toBytes 4 x.reqs.length ++ toBytes 8 x.keysRead ++ toBytes 8 x.bytesRead ++
  toBytes 8 x.bytesWritten ++ toBytes 4 x.ce ++ toBytes 4 x.ueCount ++
  toBytes 8 ((t / 16).toNat % 256 + 256 * b2n (decide (t > refreshHot s k)) + 512 * min x.gate 15) ++ toBytes 16 0

/-- Limits that the context sets (check 5 of R147). -/
def seWithin (o : SeOp) (ws : List Word) (c : Ctx) : Bool :=
  (!(seQueries o) || seFld ws 2 11 8 < c.h) &&
  (match o with
   | .attend => seFld ws 5 63 32 ≤ c.len
   | .select => seFld ws 5 63 32 ≤ c.len
   | .append => seFld ws 5 31 0 == 0xFFFFFFFF || seFld ws 5 31 0 ≤ c.len
   | .keepRange => seFld ws 6 63 32 ≤ c.len
   | .keepList => seFld ws 6 31 0 ≤ c.len
   | .moveOut => seFld ws 6 63 32 ≤ c.len && (seFld ws 5 2 2 == 0 || (c.fmtK == 0 && c.fmtV == 0))
   | _ => true)

/-- An operation on an open context. -/
def runOn (s : State) (k : Nat) (r : SeReq) (o : SeOp) (c : Ctx) : SeRes × State :=
  match o with
  | .close => runClose s k r c
  | .attend => runAttend s k r c
  | .select => runSelect s k r c
  | .attendSel => runAttendSel s k r c
  | .append => runAppend s k r c
  | .keepRange => keepOver s k r c ((List.range (seFld r.words 6 63 32 - seFld r.words 6 31 0)).map (seFld r.words 6 31 0 + ·))
  | .keepList => runKeepList s k r c
  | .moveOut => runMoveOut s k r c
  | .moveIn => runMoveIn s k r c
  | _ => ({ done := 1, result := ctxBytes (seFld r.words 1 15 0) c }, s)

/-- A request carried out from its start: checks 3 to 5, then the operation (R147). -/
def runSe (s : State) (k : Nat) (r : SeReq) : SeRes × State :=
  match seOp r.words with
  | none => ({ st := .badDesc }, s)
  | some .open_ => runOpen s k r
  | some .statsStack => ({ done := 1, result := statsWords s k }, s)
  | some o =>
    match seCtx s k r.words with
    | none => ({ st := .badDesc }, s)
    | some c =>
      if c.jobTag ≠ r.who.jobTag then ({ st := .access }, s)
      else if !(seWithin o r.words c) then ({ st := .badDesc }, s)
      else runOn s k r o c

/-! ## Order (R160, R161, R171) -/

/-- The context index a request is ordered by, and whether it is a writer; none for OPEN and STATS of the stack. -/
def seClaims (ws : List Word) : Option (Nat × Bool) :=
  match seOp ws with
  | none => none
  | some .open_ => none
  | some .statsStack => none
  | some o =>
    some (seFld ws 1 15 0, o == .close || o == .append || o == .keepRange || o == .keepList || o == .moveIn)

/-- A request must wait for an earlier one: they name one context and one of them is a writer (R160). -/
def seConflict (a b : List Word) : Bool :=
  match seClaims a, seClaims b with
  | some x, some y => x.1 == y.1 && (x.2 || y.2)
  | _, _ => false

/-- The first held request that may start: among the 256 the State Engine holds, with every earlier one on its context done. -/
def seNext : List (Nat × SeReq) → List (Nat × SeReq) → Option (Nat × SeReq)
  | _, [] => none
  | before, e :: rest =>
    if !e.2.started ∧ !(before.any (fun b => seConflict b.2.words e.2.words)) then some e else seNext (before ++ [e]) rest

/-- Requests started while fewer than 16 run, none during a power failure (R160, R171, R470). -/
def admitSe (s : State) (k : Nat) : Nat → State
  | 0 => s
  | fuel + 1 =>
    let x := getStack s k
    if (x.reqs.filter (fun e => e.2.started)).length ≥ 16 ∨ s.stage ≠ .up then s
    else match seNext [] (x.reqs.take 256) with
      | none => s
      | some (n, r) =>
        let (a, s) := runSe s k r
        let x := getStack s k
        let r := { r with started := true, status := a.st, done := a.done, firstFail := a.ff, cflags := a.flags, result := a.result }
        admitSe (setStack s k { x with reqs := mput n r x.reqs }) k fuel

/-! ## Completion (R101, R104, R146, R150) -/

/-- A block of a batch completed: its status entry written, then the batch with it (R150). -/
def blockDone (s : State) (p op idx tag : Nat) (st : Status) (cflags done ff : Nat) : State :=
  match getOp s p op with
  | none => s
  | some o =>
    let a := (dWord o.desc 4).toNat + 16 * idx
    let v := tag + 2 ^ 32 * stCode st + 2 ^ 40 * (cflags ||| (if st = .partialDone then 1 else 0)) + 2 ^ 64 * (done % 2 ^ 32) + 2 ^ 96 * (ff % 2 ^ 32)
    let (wst, s) := tvaWrite s (opWho s p op o) a 16 v
    let s := if wst = .ok then s else emit s 0x0025 (srcHub p) [(8, a), (1, stCode wst)]
    let o := { o with blocks := mput idx (if wst = .ok then st else wst) o.blocks }
    let s := setOp s p op o
    let nblk := dFld o.desc 3 12 0
    if o.stop.isSome then
      let s := endStopped s p op
      match o.step with
      | some key => settleStep s p key
      | none => s
    else if o.blocks.length = nblk then
      let ok := (o.blocks.filter (fun b => b.2 == .ok)).length
      if ok = nblk then finishOp s p op .ok ok 0
      else finishOp s p op .partialDone ok (((lowestFailed nblk 0 o.blocks).map (·.1)).getD 0)
    else s

/-- A request completed towards its issuer. -/
def seComplete (s : State) (i : Issuer) (tag : Nat) (st : Status) (cflags done ff : Nat) : State :=
  match i with
  | .op p op idx => blockDone s p op idx tag st cflags done ff
  | i => localDone s i st cflags done ff

/-- A thread that issued a request still takes results: its launch has not stopped it (R97). -/
def takesResults (s : State) (i : Issuer) : Bool :=
  match i with
  | .op _ _ _ => true
  | .core k th id _ _ _ _ =>
    match (getThread (getCore s k) th).stat with
    | .stopped => false
    | .trapped _ => false
    | _ => (getCore s k).reqs.contains id

/-- A request's results written at RESULT: the status of the write that failed, if one did (R146). -/
def seResults (s : State) (k : Nat) (r : SeReq) : Option Status × State :=
  let a := (lget 0 r.words 4).toNat
  if seFld r.words 2 6 6 = 1 then
    match tvaWriteList s r.who (r.result.length / 64 + 2) a r.result with
    | (none, s) => (none, s)
    | (some (st, at_), s) => (some st, addrEvent s k at_ st)
  else match r.issuer with
    | .core c _ _ _ _ _ _ => (none, if takesResults s r.issuer then setCore s c (lsWriteList (getCore s c) a r.result) else s)
    | _ => (none, s)

/-- STATE_ENGINE_REQUEST_DONE: results, then the record, then the counter; the next requests start (R101, R146, R160). -/
def execStateEngineRequestDone (stack req : Nat) (s : State) : Out :=
  .next (
    match mfind (getStack s stack).reqs req with
    | none => s
    | some r =>
      if stack ≥ 4 * nParts s ∨ !r.started ∨ !(running s) then s
      else
        let (bad, s) := seResults s stack r
        let x := getStack s stack
        let s := setStack s stack { x with reqs := mdel req x.reqs }
        let st := bad.getD r.status
        let s := seComplete s r.issuer (fld (lget 0 r.words 0) 63 32) st r.cflags r.done r.firstFail
        admitSe s stack 16)

/-- Requests of a stack that leaves service complete with LINK_LOST (R174). -/
def dropStack (s : State) (k : Nat) : State :=
  let rs := (getStack s k).reqs
  let s := setStack s k { getStack s k with reqs := [] }
  rs.foldl (fun s e => seComplete s e.2.issuer (fld (lget 0 e.2.words 0) 63 32) .linkLost 0 0 0) s

/-! ## Arrival (R144, R147, R150, R161) -/

/-- A request at the State Engine's hub port: checks 1 and 2, then it waits its turn. -/
def seArrive (s : State) (w : Who) (i : Issuer) (ws : List Word) (inStep : Bool) : State :=
  let tag := fld (lget 0 ws 0) 63 32
  match seOp ws with
  | none => seComplete s i tag .badDesc 0 0 0
  | some o =>
    if !(seSound o ws inStep) then seComplete s i tag .badDesc 0 0 0
    else
      let k := seStack ws
      match seTarget s w k with
      | .ok =>
        let x := getStack s k
        admitSe (setStack s k { x with reqs := mput x.nextReq { who := w, issuer := i, words := ws, inStep := inStep } x.reqs,
                                       nextReq := x.nextReq + 1 }) k 16
      | st => seComplete s i tag st 0 0 0

/-- A block's operation is another row's. -/
def seOther (o : SeOp) (ws : List Word) : Bool :=
  match seOp ws with
  | some o' => o' != o
  | none => false

/-- SEREQ by a thread (R103, R105, R144). -/
def seThread (o : SeOp) (t : ThreadRef) (w : Word) (s : State) : Out :=
  let c := getCore s (tKey t)
  let a := blockAddr (threadOf s t) w
  if fateOf .sereq t w s = .go ∧ a % 64 = 0 ∧ seOther o ((List.range 8).map (blockWord c a)) then .refused .notThisCommand
  else request .sereq t w s (fun i ws s =>
    seArrive s (threadWho s t) i ws ((getCore s (tKey t)).launch.bind (·.step)).isSome)

/-- Block idx of a running SE_CMD: the batch's next (R150). The spec does not say how a block that cannot be read completes: DESIGN
CHOICE (log entry 41), it completes alone, with the read's status, TAG 0 and no event. -/
def seBatch (o : SeOp) (p op idx : Nat) (s : State) : Out :=
  match getOp s p op with
  | none => .next s
  | some x =>
    if dOpc x.desc ≠ 5 ∨ x.phase ≠ .running ∨ x.stop.isSome ∨ x.issued ≠ idx ∨ !(running s) then .next s
    else
      let w := opWho s p op x
      match tvaReadList s w 2 ((dWord x.desc 2).toNat + 64 * idx) 64 with
      | (.ok, l, s') =>
        let ws := (List.range 8).map (fun i => BitVec.ofNat 64 (bytesAt l (8 * i) 8))
        let w0 := lget 0 ws 0
        if seOther o ws then .refused .notThisCommand
        else
          let s' := setOp s' p op { x with issued := idx + 1 }
          if !(word0Ok w0) ∨ fld w0 13 8 ≠ 0 ∨ fld w0 31 16 ≠ 0 ∨ seFld ws 2 7 6 ≠ 3 then
            .next (blockDone s' p op idx (fld w0 63 32) .badDesc 0 0 0)
          else .next (seArrive s' w (.op p op idx) ws x.step.isSome)
      | (st, _, s') => .next (blockDone (setOp s' p op { x with issued := idx + 1 }) p op idx 0 st 0 0 0)

/-- A State Engine row's request, from a thread or from a batch. -/
def seRow (o : SeOp) (q : SeSource) (s : State) : Out :=
  match q with
  | .thread t w => seThread o t w s
  | .batch p op idx => guardWf (p < 16) (seBatch o p op idx s)

/-- OPEN (R151). -/
def execSeOpen (q : SeSource) (s : State) : Out := seRow .open_ q s

/-- CLOSE (R152). -/
def execSeClose (q : SeSource) (s : State) : Out := seRow .close q s

/-- ATTEND (R153). -/
def execSeAttend (q : SeSource) (s : State) : Out := seRow .attend q s

/-- SELECT (R154). -/
def execSeSelect (q : SeSource) (s : State) : Out := seRow .select q s

/-- ATTEND_SEL (R155). -/
def execSeAttendSel (q : SeSource) (s : State) : Out := seRow .attendSel q s

/-- APPEND (R156). -/
def execSeAppend (q : SeSource) (s : State) : Out := seRow .append q s

/-- MOVE KEEP_RANGE (R157). -/
def execSeMoveKeepRange (q : SeSource) (s : State) : Out := seRow .keepRange q s

/-- MOVE KEEP_LIST (R157). -/
def execSeMoveKeepList (q : SeSource) (s : State) : Out := seRow .keepList q s

/-- MOVE OUT (R157). -/
def execSeMoveOut (q : SeSource) (s : State) : Out := seRow .moveOut q s

/-- MOVE IN (R157). -/
def execSeMoveIn (q : SeSource) (s : State) : Out := seRow .moveIn q s

/-- STATS of a context (R159). -/
def execSeStatsContext (q : SeSource) (s : State) : Out := seRow .statsCtx q s

/-- STATS of the stack (R159). -/
def execSeStatsStack (q : SeSource) (s : State) : Out := seRow .statsStack q s

/-- SE_CMD: the batch begins; its blocks follow in order (R150). -/
def execSeCmd (p op : Nat) (s : State) : Out :=
  onChosen s p op 0x05 (fun o =>
    let n := dFld o.desc 3 12 0
    if n = 0 ∨ n > 4096 ∨ (dWord o.desc 2).toNat % 64 ≠ 0 ∨ (dWord o.desc 4).toNat % 16 ≠ 0 then finishOp s p op .badDesc 0 0
    else setOp s p op { o with phase := .running })

end Sys2Proof.Machine
end

