-- ==== Sys2Proof/Machine/Currant.lean ====
section
/-! DEFINITION. The Currant path: trees, their operations, and the frames of a link (R386 to R395). -/
namespace Sys2Proof.Machine

/-! ## Trees (R387) -/

/-- A field of word w of a tree's entry. -/
def treeFld (s : State) (t w hi lo : Nat) : Nat := rfld s (rCurTree t w) hi lo

def getTree (s : State) (t : Nat) : TreeSt := mget {} s.trees t

def setTree (s : State) (t : Nat) (x : TreeSt) : State := { s with trees := mput t x s.trees }

def treeValid (s : State) (t : Nat) : Bool := rbit s (rCurTree t 0) 0
def treeBroken (s : State) (t : Nat) : Bool := rbit s (rCurTree t 0) 1
def treeRoot (s : State) (t : Nat) : Bool := rbit s (rCurTree t 0) 2
def treeHome (s : State) (t : Nat) : Nat := treeFld s t 0 11 8
def treeSlots (s : State) (t : Nat) : Nat := treeFld s t 1 22 17 + 1

/-- The engines of a tree's children, as 8 die + engine. -/
def treeKids (s : State) (t : Nat) : List Nat := (List.range 64).filter (fun e => rbit s (rCurTree t 2) e)

/-- An operation of a tree, where it is open. -/
def treeOp (s : State) (t n : Nat) : Option TreeOp := mfind (getTree s t).ops n

def setTreeOp (s : State) (t n : Nat) (o : TreeOp) : State :=
  let x := getTree s t
  setTree s t { x with ops := mput n o x.ops }

/-! ## Links (R392, R395) -/

/-- The Currant role is on a wavelength of the direction, or out with it for calibration. -/
def hasCur (s : State) (eng : Nat) (tx : Bool) : Bool :=
  (List.range 20).any (fun w => role s eng tx w == 0x10) ||
    (match (dirOf (getEng s eng) tx).cal with
     | some c => c.role == 0x10 && calOut (dirOf (getEng s eng) tx)
     | none => false)

/-- The link is up for Currant: UP, with the role kept in both directions (R354, R395). -/
def curUp (s : State) (eng : Nat) : Bool :=
  engLive s eng && linkState s eng == 4 && hasCur s eng true && hasCur s eng false

/-- The role is out for calibration without a spare: frames are held (R322, R395). -/
def curHeld (s : State) (eng : Nat) : Bool := !((List.range 20).any (fun w => role s eng true w == 0x10))

/-- A frame put on the wavelength, with the current LACK (R391, R392). -/
def curPut (c : CurLink) (f : CurFrame) (lseq : Nat) : CurLink :=
  let b := curBlocks (curBytes f lseq c.last) c.scr
  { c with told := c.last, out := b.1, scr := b.2 }

/-- An ACK frame: it consumes no LSEQ and is never sent again (R392). -/
def ackFrame : CurFrame := { kind := 0, op := 0, rop := 0, dtype := 0, nelem := 0, tid := 0, minidx := 0, opseq := 0, cause := 0, data := [] }

/-- Frames that wait go out, up to 32 unacknowledged. -/
def curPump (s : State) (eng : Nat) : Nat → State
  | 0 => s
  | fuel + 1 =>
    let x := getEng s eng
    match x.cur.queue with
    | [] => s
    | f :: rest =>
      if x.cur.unack.length ≥ 32 ∨ !(curUp s eng) ∨ curHeld s eng then s
      else
        let c := { x.cur with queue := rest, unack := x.cur.unack ++ [f], lseq := (x.cur.lseq + 1) % 256,
                              ackAt := if x.cur.unack.isEmpty then s.timebase else x.cur.ackAt }
        curPump (setEng s eng { x with cur := curPut c f x.cur.lseq }) eng fuel

/-- ACK where the receiver discarded a frame, or holds input that no frame has acknowledged (R392). -/
def curTell (s : State) (eng : Nat) (discarded : Bool) : State :=
  let x := getEng s eng
  if (discarded || x.cur.told != x.cur.last) && curUp s eng && !(curHeld s eng) then
    setEng s eng { x with cur := curPut x.cur ackFrame x.cur.lseq } else s

/-- A frame handed to an engine. -/
def curSend (s : State) (eng : Nat) (f : CurFrame) : State :=
  let x := getEng s eng
  let s := setEng s eng { x with cur := { x.cur with queue := x.cur.queue ++ [f] } }
  curPump s eng (x.cur.queue.length + 1)

/-- LACK taken: the frames it covers leave the sender (R392). -/
def curAcked (s : State) (eng lack : Nat) : State :=
  let x := getEng s eng
  let first := (x.cur.lseq + 256 - x.cur.unack.length) % 256
  let n := (lack + 256 - first) % 256 + 1
  if n ≤ x.cur.unack.length then
    let s := setEng s eng { x with cur := { x.cur with unack := x.cur.unack.drop n, ackAt := s.timebase } }
    curPump s eng x.cur.queue.length
  else s

/-- CURRANT_RESEND: every unacknowledged frame again, 1 µs after LACK advanced last (R392). -/
def execCurrantResend (eng : Nat) (s : State) : Out :=
  guardWf (eng < 64) (.next (
    let x := getEng s eng
    if x.cur.unack.isEmpty ∨ !(curUp s eng) then s
    else
      let s := { s with timebase := max s.timebase (x.cur.ackAt + 1000) }
      let first := (x.cur.lseq + 256 - x.cur.unack.length) % 256
      let c := if curHeld s eng then x.cur else x.cur.unack.zipIdx.foldl (fun c f => curPut c f.1 ((first + f.2) % 256)) x.cur
      setEng s eng { x with cur := { c with ackAt := s.timebase } }))

/-! ## Operations (R388 to R390, R393, R395) -/

/-- The status a code stands for; an undefined one means what an ABORT without a cause of its own means, PEER_LOST. -/
def statusOf (c : Nat) : Status :=
  ([Status.ok, .partialDone, .faultMem, .linkLost, .timeout, .access, .noResource, .replayReq, .aborted, .badDesc, .unsupported].find?
    (fun st => stCode st == c)).getD .peerLost

/-- A participant's result (R368, R388, R389, R377). -/
def treeDeliver (s : State) (i : TreeIn) (st : Status) (data : List Word32) (sat : Bool) : State :=
  let bytes := data.flatMap (fun w => toBytes 4 w.toNat)
  let flags := (if i.kind = 1 ∧ i.dtype = 0 then wordFlags data else 0) + 8 * b2n sat
  match i.who with
  | .req (.core k th id l r g e) dst =>
    let is : Issuer := .core k th id l r g e
    if st ≠ .ok then localDone s is st 0 0 0
    else
      let s := if takesResults s is then setCore s k (lsWriteList (getCore s k) dst bytes) else s
      localDone s is .ok flags 1 0
  | .req _ _ => s
  | .coll p op dst =>
    (match getOp s p op with
     | none => s
     | some o =>
       let s := collLeave s p op
       if st ≠ .ok then finishOp s p op st 0 0xFFFFFFFF
       else
         let (bad, s) := tvaWriteList s (opWho s p op o) (bytes.length / 64 + 2) dst bytes
         match bad with
         | some (st, _) => finishOp s p op st 0 (dFld o.desc 2 28 23)
         | none =>
           finishOp (setOp s p op { o with cflags := o.cflags ||| flags }) p op .ok (if i.kind = 1 then 1 else 0) 0)
  | .phase p inst =>
    let h := getHub s p
    match mfind h.colls inst with
    | none => s
    | some c =>
      if st = .ok then setHub s p { h with colls := mput inst { c with barrier := false } h.colls }
      else finishOp (collLeave s p c.op) p c.op .peerLost 0 0xFFFFFFFF

/-- An operation ended at this package: every participant has its result. -/
def treeEnd (s : State) (t n : Nat) (st : Status) (data : List Word32) (sat : Bool) : State :=
  match treeOp s t n with
  | none => s
  | some o =>
    let x := getTree s t
    let s := setTree s t { x with ops := mdel n x.ops }
    o.slots.foldl (fun s e => treeDeliver s e.2 st data sat) s

/-- BROKEN set; requests that wait for a slot complete with PEER_LOST (R388, R395). -/
def treeBreak (s : State) (t : Nat) : State :=
  let x := getTree s t
  let s := setRbit (setTree s t { x with waiting := [] }) (rCurTree t 0) 1 true
  x.waiting.foldl (fun s w => treeDeliver s w.2 .peerLost [] false) s

/-- A frame of a tree's operation. -/
def treeFrame (s : State) (t kind n : Nat) (i : TreeIn) (minidx : Nat) (cause : Nat) (data : List Word32) : CurFrame :=
  { kind := kind, op := i.kind, rop := i.rop, dtype := i.dtype, nelem := data.length, tid := treeFld s t 0 31 16, minidx := minidx,
    opseq := n, cause := cause, data := data }

/-- What an ABORT or an empty frame says of the operation. -/
def emptyIn : TreeIn := { who := .phase 0 0, kind := 0, rop := 0, dtype := 0, nelem := 0 }

/-- ABORT sent up and down, but not back where it came from (R393). -/
def treeSpread (s : State) (t n : Nat) (up : Option Nat) (cause : Nat) (source : Option Nat) : State :=
  let f := treeFrame s t 3 n emptyIn 0 cause []
  let outs := (match up with
    | some e => [e]
    | none => []) ++ treeKids s t
  (outs.filter (fun e => some e != source)).foldl (fun s e => if curUp s e then curSend s e f else s) s

/-- An operation aborted here (R393, R395). -/
def treeAbortOp (s : State) (t n : Nat) (st : Status) (source : Option Nat) : State :=
  let up := (treeOp s t n).bind (·.up)
  treeBreak (treeEnd (treeSpread s t n up (stCode st) source) t n st [] false) t

/-- The uplink an operation takes: none at the root, the usual one, the alternative; `none` of all where none is up (R395). -/
def treeUplink (s : State) (t : Nat) : Option (Option Nat) :=
  let eng (c : Nat) : Option Nat := if 0x40 ≤ c ∧ c < 0x80 then some (c - 0x40) else none
  let up (c : Nat) : Option Nat := (eng c).bind (fun e => if curUp s e then some e else none)
  if treeRoot s t then some none
  else match up (treeFld s t 1 7 0) with
    | some e => some (some e)
    | none => if treeFld s t 1 16 16 = 1 then (up (treeFld s t 1 15 8)).map some else none

/-- Inputs of an operation in ascending order of MINIDX. -/
def insertIn (e : Nat × Nat × List RWord) : List (Nat × Nat × List RWord) → List (Nat × Nat × List RWord)
  | [] => [e]
  | f :: l => if e.1 < f.1 then e :: f :: l else f :: insertIn e l

/-- The fold of an operation whose inputs are all here: smallest MINIDX and words, or none where the inputs disagree (R390, R393). -/
def treeFold (s : State) (t : Nat) (o : TreeOp) : Option (Nat × List RWord) :=
  match o.slots with
  | [] => none
  | (_, i) :: _ =>
    let same (k r d : Nat) : Bool := k == i.kind && r == i.rop && d == i.dtype
    let okN (n : Nat) : Bool := n == i.nelem || (i.kind == 2 && n == 0)
    let my := treeFld s t 0 47 32
    if !(o.slots.all (fun e => same e.2.kind e.2.rop e.2.dtype && e.2.nelem == i.nelem))
      ∨ !(o.kids.all (fun e => same e.2.op e.2.rop e.2.dtype && okN e.2.nelem)) then none
    else
      let fresh (l : List Word32) : List RWord := l.map (fun w => (w, false))
      let mine : List RWord :=
        if i.kind = 1 then foldWords (i.dtype == 1) i.rop i.nelem (o.slots.map (fun e => fresh e.2.data))
        else if i.kind = 2 then fresh (((o.slots.find? (fun e => e.2.root == (my, e.1))).map (·.2.data)).getD [])
        else []
      let ins := o.kids.foldl (fun l e => insertIn (e.2.minidx, e.2.nelem, fresh e.2.data) l) [(my, mine.length, mine)]
      let words :=
        if i.kind = 1 then foldWords (i.dtype == 1) i.rop i.nelem (ins.map (·.2.2))
        else ((ins.find? (fun e => e.2.1 != 0)).map (·.2.2)).getD []
      if i.kind = 2 ∧ treeRoot s t ∧ words.isEmpty then none
      else some (((ins.head?).map (·.1)).getD my, words)

/-- An operation goes on where every input has arrived: UP to the parent, or at the root DOWN and the result (R393). -/
def treeStep (s : State) (t n : Nat) : State :=
  match treeOp s t n with
  | none => s
  | some o =>
    if o.sent ∨ o.slots.length < treeSlots s t ∨ !((treeKids s t).all (fun e => (mfind o.kids e).isSome)) then s
    else match treeFold s t o, o.slots with
      | some (idx, ws), (_, i) :: _ =>
        let data := ws.map (·.1)
        let sat := ws.any (·.2)
        (match o.up with
         | some e => curSend (setTreeOp s t n { o with sent := true, sat := sat }) e (treeFrame s t 1 n i idx 0 data)
         | none =>
           let s := (treeKids s t).foldl (fun s e => curSend s e (treeFrame s t 2 n i idx 0 data)) s
           treeEnd s t n .ok data sat)
      | _, _ => treeAbortOp s t n .badDesc none

/-- An operation opened by its first input; false where no uplink is up (R395). -/
def treeOpen (s : State) (t n : Nat) : Bool × State :=
  match treeOp s t n with
  | some _ => (true, s)
  | none =>
    let x := getTree s t
    let s := setRfld (setTree s t { x with next := max x.next (n + 1) }) (rCurTree t 1) 63 48 (max x.next (n + 1) % 65536)
    match treeUplink s t with
    | some up => (true, setTreeOp s t n { up := up })
    | none => (false, s)

/-- Operations of a slot that are open. -/
def slotOpen (x : TreeSt) (slot : Nat) : Nat := (x.ops.filter (fun o => (mfind o.2.slots slot).isSome)).length

/-- A slot's part joins its next operation. -/
def treeAdd (s : State) (t slot : Nat) (i : TreeIn) : State :=
  let x := getTree s t
  let n := mget 0 x.slotNext slot
  let s := setTree s t { x with slotNext := mput slot (n + 1) x.slotNext }
  let (up, s) := treeOpen s t n
  if !up then treeBreak (treeDeliver s i .linkLost [] false) t
  else match treeOp s t n with
    | none => s
    | some o => treeStep (setTreeOp s t n { o with slots := mput slot i o.slots, t0 := some (o.t0.getD s.timebase) }) t n

/-- Requests that wait join while their slots have fewer than four operations open (R388). -/
def treeDrain (s : State) (t : Nat) : Nat → State
  | 0 => s
  | fuel + 1 =>
    let x := getTree s t
    match findIdx (fun w => slotOpen x w.1 < 4) x.waiting 0 with
    | none => s
    | some (i, w) => treeDrain (treeAdd (setTree s t { x with waiting := x.waiting.eraseIdx i }) t w.1 w.2) t fuel

/-- What waits is tried again. -/
def treeGoOn (s : State) (t : Nat) : State := treeDrain s t (getTree s t).waiting.length

/-- A request of a slot: PEER_LOST on a broken tree; else it waits its turn (R388). -/
def treeJoin (s : State) (t slot : Nat) (i : TreeIn) : State :=
  if treeBroken s t then treeDeliver s i .peerLost [] false
  else
    let x := getTree s t
    treeGoOn (setTree s t { x with waiting := x.waiting ++ [(slot, i)] }) t

/-! ## CURREQ (R388) -/

/-- Word 1 and 2 of the request block break no rule, for KIND_OP 1 to 3. -/
def curOk (s : State) (ws : List Word) : Bool :=
  let f (hi lo : Nat) : Nat := seFld ws 1 hi lo
  let kind := seFld ws 0 7 0
  1 ≤ kind && kind ≤ 3 && f 31 22 == 0 && f 63 54 == 0 && seFld ws 2 63 32 == 0 && (List.range 5).all (fun (i : Nat) => lget 0 ws (3 + i) == 0)
    && f 13 8 < treeSlots s (f 7 0) && f 15 14 != 3 && (if kind = 1 then f 21 17 == 0 else 1 ≤ f 21 17 && f 21 17 ≤ 16)
    && seFld ws 2 15 0 % 16 == 0 && seFld ws 2 31 16 % 16 == 0

/-- A CURREQ's part (R388). -/
def curRequest (s : State) (t : ThreadRef) (i : Issuer) (ws : List Word) : State :=
  let tr := seFld ws 1 7 0
  let w := threadWho s t
  if !(curOk s ws) ∨ !(treeValid s tr) ∨ w.jobTag ≠ treeFld s tr 0 63 48 ∨ w.domain ≠ treeFld s tr 0 15 12 then localDone s i .badDesc 0 0 0
  else
    let n := seFld ws 1 21 17
    let c := seLocal s i
    let a := seFld ws 2 15 0
    treeJoin s tr (seFld ws 1 13 8)
      { who := .req i (seFld ws 2 31 16), kind := seFld ws 0 7 0 - 1, rop := seFld ws 1 15 14, dtype := seFld ws 1 16 16, nelem := n,
        root := (seFld ws 1 47 32, seFld ws 1 53 48), data := (List.range n).map (fun j => BitVec.ofNat 32 (lsRead c (a + 4 * j) 4)) }

/-- CURREQ with a row's KIND_OP; a code that none of the three has is the barrier row's, and refused as R388 says. -/
def curReq (kind : Nat) (t : ThreadRef) (w : Word) (s : State) : Out :=
  let c := getCore s (tKey t)
  let a := blockAddr (threadOf s t) w
  let k := fld (blockWord c a 0) 7 0
  let row := if k = 2 ∨ k = 3 then k else 1
  if fateOf .curreq t w s = .go ∧ a % 64 = 0 ∧ row ≠ kind then .refused .notThisCommand
  else request .curreq t w s (fun i ws s => curRequest s t i ws)

/-- CURRANT_BARRIER (R388). -/
def execCurrantBarrier (t : ThreadRef) (w : Word) (s : State) : Out := curReq 1 t w s

/-- SMALL_ALL_REDUCE (R388). -/
def execSmallAllReduce (t : ThreadRef) (w : Word) (s : State) : Out := curReq 2 t w s

/-- SMALL_BCAST (R388). -/
def execSmallBcast (t : ThreadRef) (w : Word) (s : State) : Out := curReq 3 t w s

/-! ## Frames (R391 to R393) -/

/-- The valid tree of a TID that an engine leads to, as a child's link or an uplink. -/
def treeAt (s : State) (eng tid : Nat) : Option Nat :=
  (List.range 256).find? (fun t => treeValid s t && treeFld s t 0 31 16 == tid &&
    ((treeKids s t).contains eng || (!(treeRoot s t) && (treeFld s t 1 7 0 == 0x40 + eng || (treeFld s t 1 16 16 == 1 && treeFld s t 1 15 8 == 0x40 + eng)))))

/-- UP: a child's part (R393). -/
def treeUp (s : State) (eng t : Nat) (f : CurFrame) : State :=
  let n := f.opseq
  if !((treeKids s t).contains eng) ∨ treeBroken s t ∨ ((treeOp s t n).isNone ∧ n < (getTree s t).next) then s
  else
    let (up, s) := treeOpen s t n
    if !up then treeBreak s t
    else match treeOp s t n with
      | none => s
      | some o => treeStep (setTreeOp s t n { o with kids := mput eng f o.kids }) t n

/-- DOWN: forwarded to the children and delivered to the slots (R393). -/
def treeDown (s : State) (eng t : Nat) (f : CurFrame) : State :=
  match treeOp s t f.opseq with
  | none => s
  | some o =>
    if o.up ≠ some eng ∨ !o.sent then s
    else
      let s := (treeKids s t).foldl (fun s e => curSend s e f) s
      treeEnd s t f.opseq .ok f.data o.sat

/-- ABORT: spread, and every participant completes with its CAUSE (R393). -/
def treeStop (s : State) (eng t : Nat) (f : CurFrame) : State :=
  if (treeOp s t f.opseq).isNone ∧ treeBroken s t then s
  else treeAbortOp s t f.opseq (statusOf f.cause) (some eng)

/-- A frame accepted in order, at its tree's HOME hub, by its KIND. One whose fields R391 does not name has no effect there
(DESIGN CHOICE, log entry 58). -/
def treeTake (s : State) (eng : Nat) (f : CurFrame) : State :=
  match treeAt s eng f.tid with
  | none => s
  | some t =>
    if !(partUp s (treeHome s t)) ∨ f.op > 2 ∨ f.rop > 2 ∨ f.nelem > 16 then s
    else
      let s := match f.kind with
        | 1 => treeUp s eng t f
        | 2 => treeDown s eng t f
        | 3 => treeStop s eng t f
        | _ => s
      treeGoOn s t

/-- A frame at its engine (R392): its LACK counts where its CRC passes; the one whose LSEQ follows the last accepted goes to its tree;
a discarded one is answered with ACK, and input is acknowledged where no frame has done it. -/
def rxCurrant (s : State) (eng : Nat) (l : List Byte) : State :=
  let f := treeFrameOf l
  if !(curUp s eng) then s
  else if !f.sound then curTell s eng true
  else
    let s := curAcked s eng f.lack
    if f.f.kind = 0 then s
    else
      let x := getEng s eng
      if f.lseq ≠ (x.cur.last + 1) % 256 then curTell s eng true
      else curTell (treeTake (setEng s eng { x with cur := { x.cur with last := f.lseq } }) eng f.f) eng false

/-- UP: a frame arrives; one of KIND UP brings a child's part (R393). -/
def execUp (f : CurArrival) (s : State) : Out := guardWf (f.eng < 64) (.next (rxCurrant s f.eng f.bytes))

/-- DOWN: a frame arrives; one of KIND DOWN is forwarded and delivered (R393). -/
def execDown (f : CurArrival) (s : State) : Out := guardWf (f.eng < 64) (.next (rxCurrant s f.eng f.bytes))

/-- ABORT: a frame arrives; one of KIND ABORT ends its operation everywhere (R393). -/
def execTreeAbort (f : CurArrival) (s : State) : Out := guardWf (f.eng < 64) (.next (rxCurrant s f.eng f.bytes))

/-- CURRANT_ACK: a frame arrives; its LACK frees what it covers, and an ACK frame does no more (R392). -/
def execCurrantAck (eng : Nat) (f : List Byte) (s : State) : Out := guardWf (eng < 64) (.next (rxCurrant s eng f))

/-- CURRANT_TREE_TIMEOUT (R395). -/
def execCurrantTreeTimeout (tree opseq : Nat) (s : State) : Out :=
  guardWf (tree < 256) (.next (
    match (treeOp s tree opseq).bind (·.t0) with
    | none => s
    | some t0 =>
      let s := { s with timebase := max s.timebase (t0 + 1000 * max 3000 (treeFld s tree 1 47 32)) }
      treeBreak (treeEnd s tree opseq .timeout [] false) tree))

/-- Open operations of the trees that use an engine a steering point moves complete with LINK_LOST; they and a moved uplink break
their trees (R387, R395). -/
def treesMoved (s : State) (eng : Nat) : State :=
  let hit := (List.range 256).filter (fun t => treeValid s t &&
    ((!(treeRoot s t) && treeFld s t 1 7 0 == 0x40 + eng) || ((treeKids s t).contains eng && !(getTree s t).ops.isEmpty)))
  hit.foldl (fun s t =>
    treeBreak ((getTree s t).ops.foldl (fun s o => treeEnd s t o.1 .linkLost [] false) s) t) s

/-! ## Setting trees up (R387) -/

/-- A write of word 0: VALID starts the tree, or ends its operations; with VALID set only a write that clears it counts. -/
def treeWrite0 (s : State) (t : Nat) (v : Word) : State :=
  let on := v.getLsbD 0
  if treeValid s t ∧ on then s
  else
    let was := treeValid s t
    let s := writeReg s (rCurTree t 0) v
    if on then setTree (setRfld (setRbit s (rCurTree t 0) 1 false) (rCurTree t 1) 63 48 0) t {}
    else if was then
      let x := getTree s t
      let s := x.ops.foldl (fun s o => treeEnd s t o.1 .aborted [] false) s
      x.waiting.foldl (fun s w => treeDeliver s w.2 .aborted [] false) (setTree s t {})
    else s

/-- CUR_TREE_VALID_SET (R387). -/
def execCurTreeValidSet (tenant tree : Nat) (v : Word) (s : State) : Out :=
  guardWf (tree < 256) (adminCmd s tenant (rCurTree tree 0) (fun s => treeWrite0 s tree v))

/-- CUR_TREE_VALID_CLEAR (R387). -/
def execCurTreeValidClear (tenant tree : Nat) (v : Word) (s : State) : Out :=
  guardWf (tree < 256) (adminCmd s tenant (rCurTree tree 0) (fun s => treeWrite0 s tree v))

end Sys2Proof.Machine
end

