-- ==== Sys2Proof/Machine/Collect.lean ====
section
/-! DEFINITION. Collectives: their start, the values of R367, joins, packets, aborts and timeouts (R362 to R371, R374, R376, R377, R380 to R385, R389). -/
namespace Sys2Proof.Machine

/-! ## Buffers (R365, R374) -/

/-- Whether an OP reduces: ALL_REDUCE, REDUCE_SCATTER, REDUCE. -/
def reduces (opc : Nat) : Bool := opc == 0 || opc == 1 || opc == 5

/-- The bytes that are cut in chunks: the input, or the output of an ALL_GATHER. -/
def collTotal (c : Coll) : Nat :=
  match c.opc with
  | 1 => c.members.length * collB c
  | 2 => c.members.length * collB c
  | 4 => c.members.length * collB c
  | 6 => 0
  | _ => collB c

def chunkSize (c : Coll) : Nat := 65536 * 2 ^ c.chunk

def chunks (c : Coll) : Nat := cdiv (collTotal c) (chunkSize c)

/-- First byte of chunk k and the byte behind it. -/
def chunkSpan (c : Coll) (k : Nat) : Nat × Nat := (k * chunkSize c, min ((k + 1) * chunkSize c) (collTotal c))

/-- What member j sends the member of rank r of chunk k, where data is moved: offset in SRC, length, offset in DST. -/
def movePart (c : Coll) (r j k : Nat) : Nat × Nat × Nat :=
  let b := collB c
  let (lo, hi) := chunkSpan c k
  match c.opc with
  | 2 =>
    let x := max lo (j * b)
    let y := min hi ((j + 1) * b)
    (x - j * b, y - x, x)
  | 3 => (lo, if j = c.root then hi - lo else 0, lo)
  | 4 =>
    let x := max lo (r * b)
    let y := min hi ((r + 1) * b)
    (x, y - x, j * b + (x - r * b))
  | _ => (0, 0, 0)

/-! ## Groups (R363, R364, R367) -/

def memPkg (m : Nat) : Nat := m % 65536
def memPart (m : Nat) : Nat := m / 65536 % 16

/-- A package's number within its pod: packages in ascending rank. -/
def pkgIndex (ms : List Nat) (pkg : Nat) : Nat :=
  let pods := ((ms.map memPkg).filter (fun q => q / 4096 == pkg / 4096)).eraseDups
  pods.idxOf pkg

/-- A number that the members of one group of a level share: 0 a member, 1 a partition, 2 a package, 3 + d folded along
dimension d, above those every pod. -/
def grpKey (c : Coll) (lvl r : Nat) : Nat :=
  let m := lget 0 c.members r
  match lvl with
  | 0 => r
  | 1 => memPkg m * 16 + memPart m
  | 2 => memPkg m
  | l + 3 =>
    if l < c.ext.length then
      memPkg m / 4096 * 2 ^ 32 + pkgIndex c.members (memPkg m) / (c.ext.take (l + 1)).foldl (· * ·) 1
    else 0

/-- The level of the whole group. -/
def topLevel (c : Coll) : Nat := 3 + c.ext.length

/-- Ranks of the group that rank g belongs to at a level. -/
def grpRanks (c : Coll) (lvl g : Nat) : List Nat :=
  (List.range c.members.length).filter (fun r => grpKey c lvl r == grpKey c lvl g)

/-- Leaders, ascending, of the groups of level lvl within rank g's group of the level above. -/
def grpKids (c : Coll) (lvl g : Nat) : List Nat :=
  (grpRanks c (lvl + 1) g).foldl (fun a r => if a.any (fun x => grpKey c lvl x == grpKey c lvl r) then a else a ++ [r]) []

/-- The rank of rank g's group at a level. -/
def grpLead (c : Coll) (lvl g : Nat) : Nat := ((grpRanks c lvl g).head?).getD g

/-! ## Instances -/

def getColl (s : State) (p i : Nat) : Option Coll := mfind (getHub s p).colls i

def setColl (s : State) (p i : Nat) (c : Coll) : State :=
  let h := getHub s p
  setHub s p { h with colls := mput i c h.colls }

/-- The instance of a key at the member of a rank at hub p. -/
def findColl (s : State) (p : Nat) (k : CollKey) (r : Nat) : Option (Nat × Coll) :=
  (getHub s p).colls.find? (fun e => e.2.key == k && e.2.rank == r && !e.2.onTree)

/-- Every instance of a key in the package, by hub and number. -/
def keyColls (s : State) (k : CollKey) : List (Nat × Nat × Coll) :=
  (List.range (nParts s)).flatMap (fun p => ((getHub s p).colls.filter (fun e => e.2.key == k && !e.2.onTree)).map (fun e => (p, e.1, e.2)))

/-- Bytes of a member's own SRC. -/
def readSrc (s : State) (p : Nat) (c : Coll) (off n : Nat) : Status × List (BitVec 8) × State :=
  match getOp s p c.op with
  | none => (.aborted, [], s)
  | some o => tvaReadList s (collWho s p c.op o) (n / 64 + 2) (c.src + off) n

/-- Data that packets brought for a group and a chunk. -/
def heldAt (c : Coll) (lvl g k : Nat) : Option (List Nat) :=
  (c.held.find? (fun e => e.1 == lvl && e.2.1 == g && e.2.2.1 == k)).map (·.2.2.2)

/-- Data kept for a group and a chunk. -/
def holdAt (c : Coll) (lvl g k : Nat) (d : List Nat) : Coll :=
  if (heldAt c lvl g k).isSome then c else { c with held := c.held ++ [(lvl, g, k, d)] }

/-! ## Values (R366, R367) -/

/-- An input element as a word of a partial: FP32 and INT32 as they stand, the others converted exactly. -/
def partialWord (dtype x : Nat) : Word32 :=
  match dtype with
  | 1 => (enc32 (decBF16 x)).1
  | 2 => (enc32 (decE4M3 x)).1
  | 3 => (enc32 (decE5M2 x)).1
  | _ => BitVec.ofNat 32 x

/-- The elements of a run of bytes. -/
def elemsOf (dtype : Nat) (l : List (BitVec 8)) : List Nat :=
  let b := elemBytes dtype
  (List.range (l.length / b)).map (fun i => bytesAt l (b * i) b)

/-- A word of a partial as a packet carries it. -/
def packWord (w : RWord) : Nat := w.1.toNat + 2 ^ 32 * b2n w.2

def unpackWord (n : Nat) : RWord := (BitVec.ofNat 32 n, nbit n 32)

/-- What a partial comes to: not here yet, a failed access of the member of a rank at this hub, or its words. -/
inductive CollRes where
  | missing
  | fail (inst : Nat) (st : Status)
  | data (l : List RWord)
  deriving DecidableEq, Repr

/-- A member's words of chunk k, read at its hub. -/
def memberWords (s : State) (p : Nat) (i : Nat) (m : Coll) (k : Nat) : CollRes × State :=
  let (lo, hi) := chunkSpan m k
  match readSrc s p m lo (hi - lo) with
  | (.ok, l, s) => (.data ((elemsOf m.dtype l).map (fun x => (partialWord m.dtype x, false))), s)
  | (st, _, s) => (.fail i st, s)

/-- The partial of rank g's group at a level for chunk k, as hub p can form it for an instance (R366, R367). -/
def collVal (p : Nat) (c : Coll) (k : Nat) : Nat → Nat → State → CollRes × State
  | 0, g, s =>
    match heldAt c 0 g k with
    | some d => (.data (d.map unpackWord), s)
    | none =>
      match findColl s p c.key g with
      | some (i, m) => memberWords s p i m k
      | none => (.missing, s)
  | l + 1, g, s =>
    match heldAt c (l + 1) (grpLead c (l + 1) g) k with
    | some d => (.data (d.map unpackWord), s)
    | none =>
      let rs := (grpKids c l g).foldl (fun (a : Option CollRes × List (List RWord) × State) g' =>
        match a.1 with
        | some _ => a
        | none =>
          match collVal p c k l g' a.2.2 with
          | (.data d, s) => (none, a.2.1 ++ [d], s)
          | (r, s) => (some r, a.2.1, s)) (none, [], s)
      match rs with
      | (some r, _, s) => (r, s)
      | (none, ds, s) => (.data (foldWords (c.dtype == 4) c.rop ((ds.head?.map (·.length)).getD 0) ds), s)

/-- Whether hub p could form a partial now, without reading (R377). -/
def collHas (s : State) (p : Nat) (c : Coll) (k : Nat) : Nat → Nat → Bool
  | 0, g => (heldAt c 0 g k).isSome || (findColl s p c.key g).isSome
  | l + 1, g => (heldAt c (l + 1) (grpLead c (l + 1) g) k).isSome || (grpKids c l g).all (fun g' => collHas s p c k l g')

/-- An output element's bytes and its conditions, rounded once to DTYPE (R115, R366). -/
def outElem (dtype : Nat) (w : Word32) : List (BitVec 8) × Cond :=
  let pk (f b : Nat) : List (BitVec 8) × Cond :=
    let r := packFp f (dec32 w)
    (toBytes b r.1, r.2)
  match dtype with
  | 0 => (toBytes 4 w.toNat, condOf w)
  | 1 => pk 5 2
  | 2 => pk 0 1
  | 3 => pk 1 1
  | _ => (toBytes 4 w.toNat, {})

/-! ## Phases (R376, R377) -/

/-- A word of a group context. -/
def grpWord (s : State) (p g i : Nat) : Word := lget 0 (mget ({} : Grp) (getHub s p).grp g).words i

def grpFld (s : State) (p g i hi lo : Nat) : Nat := fld (grpWord s p g i) hi lo

/-- PRESET_k where EN is set. -/
def presetOf (s : State) (p g k : Nat) : Option Nat :=
  if grpFld s p g 4 (8 * k + 7) (8 * k + 7) = 1 then some (grpFld s p g 4 (8 * k + 3) (8 * k)) else none

/-- Phases of an instance's group. -/
def phasesOf (c : Coll) : Nat := 2 * c.ext.length - 1

/-- The next steered boundary of an instance, and its preset (R376). -/
def nextSteered (s : State) (p : Nat) (c : Coll) : Option (Nat × Nat) :=
  match c.grp with
  | none => none
  | some g =>
    (List.range (phasesOf c)).findSome? (fun k =>
      if k < c.phase then none
      else match presetOf s p g k, c.preset with
        | some q, some v => if q = v then none else some (k, q)
        | _, _ => none)

/-- Phases below this number may run now. -/
def phaseLimit (s : State) (p : Nat) (c : Coll) : Nat :=
  if c.resume.isSome ∨ c.barrier then c.phase - 1
  else match nextSteered s p c with
    | some (k, _) => k
    | none => phasesOf c

/-- The phase in which a partial of a level from another package travels, at the earliest. -/
def packetPhase (c : Coll) (lvl : Nat) : Nat := min (lvl - 2) (c.ext.length - 1)

/-- The armed contexts of the package whose GID a group has, by hub and index, with MYRANK. -/
def gidContexts (s : State) (gid : Nat) : List (Nat × Nat × Nat) :=
  (List.range (nParts s)).flatMap (fun p =>
    ((getHub s p).grp.filter (fun e => grpFld s p e.1 0 19 19 == 1 && grpFld s p e.1 6 31 0 == gid)).map
      (fun e => (p, e.1, grpFld s p e.1 2 16 0)))

/-- The package's steering member: its lowest-ranked one whose OPT_MASK is not 0 (R377). -/
def steeringMember (s : State) (gid : Nat) : Option (Nat × Nat × Nat) :=
  ((gidContexts s gid).filter (fun x => grpFld s x.1 x.2.1 5 23 16 != 0)).foldl (fun a x =>
    match a with
    | some b => if x.2.2 < b.2.2 then some x else a
    | none => some x) none

/-- The preset in force where the steering member steers: ACTIVE of its lowest die. -/
def presetNow (s : State) (gid : Nat) : Option Nat :=
  (steeringMember s gid).bind (fun x =>
    ((List.range 8).find? (fun o => grpFld s x.1 x.2.1 5 (16 + o) (16 + o) == 1)).map (fun o => rfld s (rQctl o) 3 0))

/-! ## Ends (R368, R380) -/

/-- A member's collective ended with a failure: ABORT to its peers and on its tree, its output undefined, then its record (R380, R382). -/
def collFail (s : State) (p i : Nat) (st : Status) (ff : Nat) : State :=
  match getColl s p i with
  | none => s
  | some c =>
    let s := spoilOut (collAborts s p c st ff) p c
    let s := collLeave s p c.op
    let s := match c.grp with
      | some g =>
        if grpFld s p g 2 32 32 = 1 then
          let t := grpFld s p g 2 31 24
          if treeValid s t ∧ !(treeBroken s t) then
            treeAbortOp s t (((getTree s t).ops.head?.map (·.1)).getD (getTree s t).next) st none
          else s
        else s
      | none => s
    finishOp s p c.op st 0 ff

/-- A member done: OK, with its chunks (R368). -/
def collDone (s : State) (p : Nat) (c : Coll) : State := finishOp (collLeave s p c.op) p c.op .ok (chunks c) 0

/-- Flags noted for a member's completion. -/
def collFlags (s : State) (p op fl : Nat) : State :=
  match getOp s p op with
  | some o => setOp s p op { o with cflags := o.cflags ||| fl }
  | none => s

/-! ## Output -/

/-- A member's data for a chunk given to every instance of its key; the first failure is answered. -/
def giveAll (s : State) (c : Coll) (k : Nat) (f : Nat × Nat × Coll → State → Status × List Nat × State) : Option Status × State :=
  (keyColls s c.key).foldl (fun a x =>
    match a.1 with
    | some _ => a
    | none =>
      match f x a.2 with
      | (.ok, d, s) => (none, match getColl s x.1 x.2.1 with
          | some y => setColl s x.1 x.2.1 (holdAt y 0 c.rank k d)
          | none => s)
      | (st, _, s) => (some st, s)) (none, s)

/-- What a member gives every instance of its key in the package before its first output is written: its whole input, as the
packets of R374 would have carried it. Its own failed read is answered. -/
def handOff (s : State) (p : Nat) (c : Coll) : Option Status × State :=
  (List.range (chunks c)).foldl (fun a k =>
    match a.1 with
    | some _ => a
    | none =>
      if reduces c.opc then
        match memberWords a.2 p 0 c k with
        | (.data d, s) => giveAll s c k (fun _ s => (.ok, d.map packWord, s))
        | (.fail _ st, s) => (some st, s)
        | (_, s) => (none, s)
      else
        giveAll a.2 c k (fun x s =>
          let q := movePart c x.2.2.rank c.rank k
          if q.2.1 = 0 then (.ok, [], s)
          else
            let r := readSrc s p c q.1 q.2.1
            (r.1, r.2.1.map (·.toNat), r.2.2))) (none, s)

/-- Bytes written to a member's own DST; a failure ends the collective with that status. -/
def writeDst (s : State) (p i : Nat) (c : Coll) (off : Nat) (l : List (BitVec 8)) : Bool × State :=
  match getOp s p c.op with
  | none => (false, s)
  | some o =>
    match tvaWriteList s (collWho s p c.op o) (l.length / 64 + 2) (c.dst + off) l with
    | (none, s) => (true, s)
    | (some (st, _), s) => (false, collFail s p i st c.rank)

/-- The first and the last byte of chunk k that the member writes, and where in DST, for a reduction. -/
def reduceSpan (c : Coll) (k : Nat) : Nat × Nat × Nat :=
  let (lo, hi) := chunkSpan c k
  match c.opc with
  | 0 => (lo, hi, lo)
  | 1 =>
    let x := max lo (c.rank * collB c)
    let y := min hi ((c.rank + 1) * collB c)
    (x, y, x - c.rank * collB c)
  | _ => (lo, if c.rank = c.root then hi else lo, lo)

/-- A chunk's output written where its data is here: whether the chunk is done, and whether the instance goes on. -/
def outChunk (s : State) (p i : Nat) (c : Coll) (k : Nat) : Bool × Bool × State :=
  if reduces c.opc then
    let (x, y, d) := reduceSpan c k
    if y ≤ x then (true, true, s)
    else match collVal p c k (topLevel c) c.rank s with
      | (.missing, s) => (false, true, s)
      | (.fail j st, s) => (false, j != i, collFail s p j st (((getColl s p j).map (·.rank)).getD 0xFFFFFFFF))
      | (.data ws, s) =>
        let b := elemBytes c.dtype
        let mine := (ws.drop ((x - (chunkSpan c k).1) / b)).take ((y - x) / b)
        let os := mine.map (fun w => outElem c.dtype w.1)
        let sat := mine.any (·.2) || os.any (fun o => o.2.sat)
        let s := collFlags s p c.op (2 * b2n (os.any (fun o => o.2.nan)) + 4 * b2n (os.any (fun o => o.2.inf)) + 8 * b2n sat)
        let (ok, s) := writeDst s p i c d (os.flatMap (·.1))
        (ok, ok, s)
  else
    let parts := (List.range c.members.length).filter (fun j => (movePart c c.rank j k).2.1 != 0)
    if !(parts.all (fun j => (heldAt c 0 j k).isSome)) then (false, true, s)
    else
      parts.foldl (fun (a : Bool × Bool × State) j =>
        if !a.2.1 then a
        else
          let (ok, s) := writeDst a.2.2 p i c (movePart c c.rank j k).2.2 (((heldAt c 0 j k).getD []).map (BitVec.ofNat 8))
          (ok, ok, s)) (true, true, s)

/-- Every member of the package has joined. -/
def nearJoined (c : Coll) : Bool := (grpRanks c 2 c.rank).all (fun r => c.joined.contains r)

/-- A chunk's data is here for a member: its partial can be formed, or all of its parts have come. -/
def chunkReady (s : State) (p : Nat) (c : Coll) (k : Nat) : Bool :=
  if reduces c.opc then collHas s p c k (topLevel c) c.rank
  else (List.range c.members.length).all (fun j =>
    (movePart c c.rank j k).2.1 == 0 || (heldAt c 0 j k).isSome || (findColl s p c.key j).isSome)

/-- A member of this hub has given its input to the package already. -/
def handedOff (c : Coll) : Bool := (heldAt c 0 c.rank 0).isSome

/-- An instance brought as far as its data lets it go (R367, R374). -/
def collAdvance (s : State) (p i : Nat) : State :=
  match getColl s p i with
  | none => s
  | some c =>
    let all := c.joined.length == c.members.length
    if c.onTree ∨ phaseLimit s p c < phasesOf c ∨ !(nearJoined c) then s
    else if c.opc = 6 then (if all then collDone s p c else s)
    else if c.opc = 5 ∧ c.rank ≠ c.root ∧ !all then s
    else
      let todo := (List.range (chunks c)).filter (fun k => !(c.doneChunks.contains k))
      let ready := if c.opc = 5 ∧ c.rank ≠ c.root then todo else todo.filter (chunkReady s p c)
      if ready.isEmpty ∧ !todo.isEmpty then s
      else
        -- the inputs of this hub's members, before an output may overwrite one
        let local_ := (keyColls s c.key).filter (fun x => x.1 == p && !(handedOff x.2.2))
        let s := if chunks c = 0 then s else local_.foldl (fun s x =>
          match handOff s p x.2.2 with
          | (none, s) => s
          | (some st, s) => collFail s p x.2.1 st x.2.2.rank) s
        let r := ready.foldl (fun (a : Bool × State) k =>
          if !a.1 then a
          else match getColl a.2 p i with
            | none => (false, a.2)
            | some c =>
              let (done, go, s) := outChunk a.2 p i c k
              (go, match done, getColl s p i with
                | true, some c => setColl s p i { c with doneChunks := c.doneChunks ++ [k] }
                | _, _ => s)) (true, s)
        match getColl r.2 p i with
        | some c => if c.doneChunks.length = chunks c then collDone r.2 p c else r.2
        | none => r.2

/-- Every instance of a key in the package brought on, until none gains by another's data. -/
def collPass (s : State) (k : CollKey) : State :=
  let n := (keyColls s k).length
  (List.range n).foldl (fun s _ => (keyColls s k).foldl (fun s x => collAdvance s x.1 x.2.1) s) s

/-! ## Starting (R365, R370, R371, R383, R389) -/

/-- Field rules of R365 and of the descriptor, with the number of members and this member's rank. -/
def collFields (d : Desc) (n rank : Nat) (comm : Bool) : Bool :=
  let f (hi lo : Nat) : Nat := dFld d 2 hi lo
  let op := f 3 0
  let root := f 34 29
  let src := dWord d 3
  let dst := dWord d 4
  let isRoot := rank == root
  f 15 10 == 0 && f 63 38 == 0 && dFld d 5 63 40 == 0 && dFld d 7 63 48 == 0 && op ≤ 6 && f 7 4 ≤ 4 && f 9 8 != 3 && f 37 35 ≤ 6
    && (if comm then f 22 16 == 0 && f 28 23 == 0 && f 37 35 == 0 && dWord d 6 == 0 else 1 ≤ f 22 16 && f 22 16 ≤ 64 && rank < n)
    && root < n && (op == 3 || op == 5 || root == 0) && (reduces op || f 9 8 == 0)
    && src.toNat % 64 == 0 && dst.toNat % 64 == 0
    && (op != 6 || (src == 0 && dst == 0 && dFld d 5 39 0 == 0)) && (op != 3 || isRoot || src == 0) && (op != 5 || isRoot || dst == 0)

/-- Input and output of a member overlap (R383). -/
def collOverlap (d : Desc) (n rank : Nat) : Bool :=
  let sp := collSpans (dFld d 2 3 0) n (dFld d 5 39 0 * elemBytes (dFld d 2 7 4)) (rank == dFld d 2 34 29)
  let a := (dWord d 3).toNat
  let b := (dWord d 4).toNat
  sp.1 != 0 && sp.2 != 0 && a < b + sp.2 && b < a + sp.1

/-- A member list's entries of R369, sound in themselves: reserved bits 0, no two equal. -/
def membersOk (es : List Nat) : Bool := es.all (fun e => e < 2 ^ 22) && es.eraseDups.length == es.length

/-- A join's fields agree with an instance's (R371). -/
def joinAgrees (c : Coll) (j : JoinMsg) : Bool :=
  j.op == c.opc && j.dtype == c.dtype && j.rop == c.rop && j.count == c.count && j.root == c.root && j.chunk == c.chunk
    && j.n == c.members.length

/-- A join taken by an instance: counted, or the collective fails (R371). -/
def takeJoin (s : State) (p i : Nat) (j : JoinMsg) : State :=
  match getColl s p i with
  | none => s
  | some c =>
    if !(joinAgrees c j) then collFail s p i .badDesc j.sender
    else if c.joined.contains j.sender ∨ j.sender ≥ c.members.length then s
    else setColl s p i { c with joined := c.joined ++ [j.sender] }

/-- The join an instance sends the member of a rank. -/
def joinOf (c : Coll) (dest : Nat) : JoinMsg :=
  { key := c.key, dest := dest, sender := c.rank, op := c.opc, dtype := c.dtype, rop := c.rop, count := c.count, root := c.root,
    chunk := c.chunk, n := c.members.length }

/-- A member's instance started: its joins go out to the members at other hubs, those of its own hub pass at once, and those that
came early are taken (R371). -/
def collBegin (s : State) (p : Nat) (c : Coll) : State :=
  let h := getHub s p
  let i := h.nextColl
  let peers := h.colls.filter (fun e => e.2.key == c.key && !e.2.onTree)
  let far := ((List.range c.members.length).filter (fun r => !(atHub s p (lget 0 c.members r)))).map (fun r => (lget 0 c.members r, CollMsg.join (joinOf c r)))
  let early := h.joins.filter (fun j => j.key == c.key && j.dest == c.rank)
  let s := setHub s p { h with colls := mput i c h.colls, nextColl := i + 1,
                               joins := h.joins.filter (fun j => !(j.key == c.key && j.dest == c.rank)),
                               msgs := h.msgs ++ far }
  let s := early.foldl (fun s j => takeJoin s p i j) s
  let s := peers.foldl (fun s e => takeJoin (takeJoin s p i (joinOf e.2 c.rank)) p e.1 (joinOf c e.2.rank)) s
  collPass s c.key

/-- A member's instance from its descriptor, its rank, members and dimensions. -/
def collOf (s : State) (p op : Nat) (o : Op) (rank : Nat) (ms ext : List Nat) (chunk : Nat) (comm : Bool) (ident : Nat)
    (grp : Option Nat) : Coll :=
  let d := o.desc
  let f (hi lo : Nat) : Nat := dFld d 2 hi lo
  let att := match o.step.bind (getStep s p) with
    | some x => x.attempt % 16
    | none => 0
  let t := dFld d 7 47 32
  { key := { tag := o.jobTag, domain := tenDomain s o.tenant, cid := dFld d 7 31 0, attempt := att, comm := comm, ident := ident },
    op := op, opc := f 3 0, dtype := f 7 4, rop := f 9 8, count := dFld d 5 39 0, root := f 34 29, chunk := chunk, rank := rank,
    members := ms, ext := ext, src := (dWord d 3).toNat, dst := (dWord d 4).toNat, joined := [rank], grp := grp,
    preset := if grp.isSome then presetNow s ident else none, t0 := s.timebase, timeout := if t = 0 then 2000 else t }

/-- An instance starts unless one of its key is still outstanding at the member (R371), on its tree or on the engine (R389). -/
def collStart (s : State) (p op : Nat) (o : Op) (c : Coll) : State :=
  if (getHub s p).colls.any (fun e => e.2.key == c.key && e.2.rank == c.rank) then finishOp s p op .badDesc 0 c.rank
  else
    let s := setOp s p op { o with phase := .running }
    let small := c.opc == 6 || (c.opc == 0 && 1 ≤ c.count && c.count ≤ 16 && (c.dtype == 0 || c.dtype == 4))
    match c.grp with
    | some g =>
      if small ∧ grpFld s p g 2 32 32 = 1 then
        let h := getHub s p
        let s := setHub s p { h with colls := mput h.nextColl { c with onTree := true } h.colls, nextColl := h.nextColl + 1 }
        let n := if c.opc = 6 then 0 else c.count
        match readSrc s p c 0 (4 * n) with
        | (.ok, l, s) =>
          if !(treeValid s (grpFld s p g 2 31 24)) then finishOp (collLeave s p op) p op .badDesc 0 c.rank
          else treeJoin s (grpFld s p g 2 31 24) (grpFld s p g 2 38 33)
            { who := .coll p op c.dst, kind := if c.opc = 6 then 0 else 1, rop := c.rop, dtype := b2n (c.dtype == 4), nelem := n,
              data := (elemsOf 0 l).map (BitVec.ofNat 32) }
        | (st, _, s) => collFail s p h.nextColl st c.rank
      else collBegin s p c
    | none => collBegin s p c

/-- A COLL on a NORMAL ring (R369, R370). -/
def collNormal (s : State) (p op : Nat) (o : Op) : State :=
  let d := o.desc
  let n := dFld d 2 22 16
  let rank := dFld d 2 28 23
  let bad (s : State) : State := finishOp s p op .badDesc 0 (if rank < n then rank else 0xFFFFFFFF)
  if !(collFields d n rank false) ∨ (dMember d ∧ collOverlap d n rank) then bad s
  else match tvaReadList s (collWho s p op o) (n / 8 + 2) (dWord d 6).toNat (8 * n) with
    | (.ok, l, s) =>
      let es := (List.range n).map (fun i => bytesAt l (8 * i) 8)
      let me := lget 0 es rank
      if !(membersOk es) ∨ memPkg me ≠ pkgNum s ∨ memPart me ≠ p then bad s
      else
        let per := (es.map memPkg).eraseDups.filter (fun q => q / 4096 == pkgNum s / 4096)
        collStart s p op o (collOf s p op o rank es [max 1 per.length] (dFld d 2 37 35) false (crc32c l).toNat none)
    | (st, _, s) => finishOp s p op st 0 rank

/-- A COLL on a COMM ring (R372, R373). -/
def collComm (s : State) (p op : Nat) (o : Op) (g : Nat) : State :=
  let x : Grp := mget {} (getHub s p).grp g
  let rank := grpFld s p g 2 16 0
  let n := x.members.length
  if grpFld s p g 0 19 19 = 0 ∨ x.disarm ∨ !(collFields o.desc n rank true) ∨ (dMember o.desc ∧ collOverlap o.desc n rank) then
    finishOp s p op .badDesc 0 (if grpFld s p g 0 19 19 = 1 then rank else 0xFFFFFFFF)
  else
    let ext := (List.range (grpFld s p g 2 23 20)).map (fun (d : Nat) => grpFld s p g 3 (16 * d + 15) (16 * d))
    collStart s p op o (collOf s p op o rank x.members ext (grpFld s p g 2 19 17) true (grpFld s p g 6 31 0) (some g))

/-- A COLL of a row's OP; a reserved OP is the barrier row's, and refused as R265 says. -/
def coll (opc p op : Nat) (s : State) : Out :=
  onChosen s p op 0x04 (fun o =>
    if min (dFld o.desc 2 3 0) 6 ≠ opc then s
    else
      let r := getRing s p o.ring
      if r.comm then collComm s p op o r.group else collNormal s p op o)

/-- ALL_REDUCE (R365). -/
def execAllReduce (p op : Nat) (s : State) : Out := coll 0 p op s

/-- REDUCE_SCATTER (R365). -/
def execReduceScatter (p op : Nat) (s : State) : Out := coll 1 p op s

/-- ALL_GATHER (R365). -/
def execAllGather (p op : Nat) (s : State) : Out := coll 2 p op s

/-- BROADCAST (R365). -/
def execBroadcast (p op : Nat) (s : State) : Out := coll 3 p op s

/-- ALL_TO_ALL (R365). -/
def execAllToAll (p op : Nat) (s : State) : Out := coll 4 p op s

/-- REDUCE (R365). -/
def execReduce (p op : Nat) (s : State) : Out := coll 5 p op s

/-- BARRIER (R365). -/
def execBarrier (p op : Nat) (s : State) : Out := coll 6 p op s

/-! ## Messages (R371, R374, R380, R381) -/

/-- A message of this package's hubs has arrived. -/
def arrived (s : State) (m : CollMsg) : State :=
  { s with hubs := s.hubs.map (fun e => (e.1, { e.2 with msgs := e.2.msgs.filter (fun x => x.2 != m) })) }

/-- COLLECTIVE_JOIN: taken by the member it is for, discarded where it is of an instance that has ended there, else kept until that
member starts (R371). -/
def execCollectiveJoin (p : Nat) (j : JoinMsg) (s : State) : Out :=
  guardWf (p < 16) (.next (
    if !(running s) ∨ !(partUp s p) then s
    else
      let s := arrived s (.join j)
      match findColl s p j.key j.dest with
      | some (i, _) => collPass (takeJoin s p i j) j.key
      | none =>
        let h := getHub s p
        let late := (j.key, j.dest, j.sender)
        setHub s p (if h.lateJoins.contains late then { h with lateJoins := h.lateJoins.erase late } else { h with joins := h.joins ++ [j] })))

/-- A packet's data kept at an instance, with the joins it implies. -/
def takeData (s : State) (p i : Nat) (k : CollPacket) (d : List Nat) : State :=
  match getColl s p i with
  | none => s
  | some c =>
    let c := { c with joined := (grpRanks c k.level k.group).foldl (fun a r => if a.contains r then a else a ++ [r]) c.joined }
    collPass (setColl s p i (holdAt c k.level (if k.level = 0 then k.group else grpLead c k.level k.group) k.chunk d)) k.key

/-- A packet from a hub of this package, with the data that hub can give (R374, R380). -/
def nearPacket (s : State) (p i : Nat) (c : Coll) (k : CollPacket) (q : Nat) : State :=
  match (keyColls s k.key).find? (fun x => x.1 == q && x.2.2.joined.contains c.rank && (reduces c.opc || x.2.2.rank == k.group)) with
  | none => s
  | some (_, j, m) =>
    match getOp s q m.op with
    | none => s
    | some o =>
      let way := routeOf s (collWho s q m.op o) (gaOf s (memKey p 0))
      if way.1 ≠ .ok then collFail s q j way.1 m.rank
      else
        let s := if way.2 then collFlags (collFlags s q m.op 64) p c.op 64 else s
        if reduces c.opc then
          match collVal q m k.chunk k.level k.group s with
          | (.data d, s) => takeData s p i k (d.map packWord)
          | (.fail f st, s) => collFail s q f st (((getColl s q f).map (·.rank)).getD 0xFFFFFFFF)
          | (.missing, s) => s
        else
          let w := movePart c c.rank m.rank k.chunk
          if k.level ≠ 0 ∨ (heldAt m 0 m.rank k.chunk).isSome then s
          else match readSrc s q m w.1 w.2.1 with
            | (.ok, l, s) => takeData s p i k (l.map (·.toNat))
            | (st, _, s) => collFail s q j st m.rank

/-- COLLECTIVE_PACKET: a group's partial or a member's bytes arrive for a chunk (R362, R374). -/
def execCollectivePacket (p : Nat) (k : CollPacket) (s : State) : Out :=
  guardWf (p < 16) (.next (
    if !(running s) ∨ !(partUp s p) then s
    else match findColl s p k.key k.dest with
      | none => s
      | some (i, c) =>
        if k.level > topLevel c ∨ k.chunk ≥ chunks c ∨ k.group ≥ c.members.length ∨ packetPhase c k.level ≥ phaseLimit s p c then s
        else match k.src with
          | .near q => if q < nParts s ∧ q ≠ p then nearPacket s p i c k q else s
          | .far d =>
            let n := if reduces c.opc then ((chunkSpan c k.chunk).2 - (chunkSpan c k.chunk).1) / elemBytes c.dtype
              else (movePart c c.rank k.group k.chunk).2.1
            if d.length = n then takeData s p i k d else s))

/-- COLLECTIVE_ABORT (R380). -/
def execCollectiveAbort (p : Nat) (a : CollAbort) (s : State) : Out :=
  guardWf (p < 16) (.next (
    let s := arrived s (.abort a)
    match findColl s p a.key a.dest with
    | some (i, _) => collFail s p i (if a.status = stCode .badDesc then .badDesc else .peerLost) a.rank
    | none => s))

/-- COLLECTIVE_TIMEOUT (R381); a step member's that expires during a power failure is to be replayed (R473). -/
def execCollectiveTimeout (p inst : Nat) (s : State) : Out :=
  guardWf (p < 16) (.next (
    match getColl s p inst with
    | none => s
    | some c =>
      let s := { s with timebase := max s.timebase (c.t0 + 1000 * c.timeout) }
      let st : Status := if c.joined.length < c.members.length then .timeout else .peerLost
      let member := ((getOp s p c.op).bind (·.step)).isSome
      let st : Status := if st = .timeout ∧ s.stage = .powerFail ∧ member then .replayReq else st
      finishOp (collLeave (spoilOut s p c) p c.op) p c.op st 0 0xFFFFFFFF))

/-! ## After a steered boundary (R377) -/

/-- An instance whose relock has ended goes on: with its tree's barrier, or at once. -/
def collResumeOne (s : State) (p i : Nat) : State :=
  match getColl s p i with
  | none => s
  | some c =>
    match c.resume, c.grp with
    | some t, some g =>
      if s.timebase < t then s
      else
        let s := setColl s p i { c with resume := none }
        if c.barrier then
          treeJoin s (grpFld s p g 2 31 24) (grpFld s p g 2 38 33) { who := .phase p i, kind := 0, rop := 0, dtype := 0, nelem := 0 }
        else collAdvance s p i
    | _, _ => collAdvance s p i

/-- Every instance of a group that waits at a steered boundary looked at again. -/
def collResume (s : State) : State :=
  (List.range (nParts s)).foldl (fun s p =>
    ((getHub s p).colls.filter (fun e => e.2.grp.isSome && !e.2.onTree)).foldl (fun s e => collResumeOne s p e.1) s) s

end Sys2Proof.Machine
end

