-- ==== Sys2Proof/Machine/Debug.lean ====
section
/-! DEFINITION. The debug port: the TAP's instructions, halts, breakpoints and watchpoints, registers and memory (R490 to R494). -/
namespace Sys2Proof.Machine

/-! ## The TAP (R490) -/

/-- The port has its supply. -/
def tapOn (s : State) : Bool := s.stage != .waitSupply && s.stage != .off

/-- An instruction loaded. -/
def tapLoad (s : State) (ir : BitVec 8) : State := if tapOn s then { s with dbg := { s.dbg with ir := ir } } else s

/-- IDCODE: version of the Saley die, 0x4C52, Orhazo's JEP106 code, 1. -/
def idcode (s : State) : BitVec 32 :=
  BitVec.ofNat 32 (mget 1 s.fuses.steps 152 % 16 * 2 ^ 28 + 0x4C52 * 2 ^ 12 + s.fuses.mfr % 2 ^ 11 * 2 + 1)

/-- TAP_RESET: IDCODE; no halt, breakpoint or watchpoint changes. -/
def execTapReset (s : State) : Out := .next (tapLoad s 0x01)

/-- EXTEST: the boundary register drives the pins while debug is enabled; otherwise BYPASS. -/
def execExtest (v : BitVec 64) (s : State) : Out :=
  .next (
    if !(tapOn s) then s
    else if dbgOn s then { s with dbg := { s.dbg with ir := 0x00, boundary := v } }
    else tapLoad s 0xFF)

/-- IDCODE. -/
def execIdcode (s : State) : Out := .next (tapLoad s 0x01)

/-- SAMPLE/PRELOAD. -/
def execSamplePreload (v : BitVec 64) (s : State) : Out :=
  .next (if tapOn s then { s with dbg := { s.dbg with ir := 0x02, boundary := v } } else s)

/-- BYPASS. -/
def execBypass (s : State) : Out := .next (tapLoad s 0xFF)

/-! ## Enabling (R491) -/

/-- A thread is halted through the port: a halt ends with the thread's launch (R493). -/
def isHalted (x : ThreadSt) : Bool := x.halted && alive x

/-- DBG_CTL.HALTED. -/
def anyHalted (s : State) : Bool := s.cores.any (fun e => (List.range 16).any (fun i => isHalted (getThread e.2 i)))

/-- Every halted thread resumed, every breakpoint and watchpoint cleared. -/
def dbgClear (s : State) : State :=
  { s with cores := s.cores.map (fun e => (e.1, { e.2 with
      bps := [], wps := [], threads := e.2.threads.map (fun x => { x with halted := false, stepping := false, bpSkip := false }) })) }

/-- A write of DBG_CTL: ACTIVE follows, and what hangs on it. -/
def dbgCtlSet (s : State) (v : Word) : State :=
  let was := dbgOn s
  let s := writeReg s rDbgCtl v
  let s := setRbit s rDbgCtl 1 (dbgOn s)
  if was && !(dbgOn s) then dbgClear s else s

/-- DBG_CTL_WRITE. -/
def execDbgCtlWrite (tenant : Nat) (v : Word) (s : State) : Out := adminCmd s tenant rDbgCtl (fun s => dbgCtlSet s v)

/-! ## Commands (R492, R493) -/

/-- What a command answers: its status, whether the named thread is halted and where, its data. -/
structure DbgAns where
  status : Status := .ok
  halted : Bool := false
  pc : Nat := 0
  data : Nat := 0
  deriving DecidableEq, Repr

/-- DBG_RESP, with BUSY 0: the command has ended. -/
def dbgWord (a : DbgAns) : BitVec 128 :=
  BitVec.ofNat 128 (stCode a.status + b2n a.halted * 2 ^ 9 + a.pc % 2 ^ 48 * 2 ^ 16 + a.data % 2 ^ 64 * 2 ^ 64)

/-- The fields of DBG_CMD fit their widths. -/
def dbgOk (c : DbgCmd) : Bool :=
  c.pkg < 65536 && c.part < 16 && c.die < 4 && c.cl < 64 && c.core < 128 && c.th < 16

/-- A command run: DBG_CMD is loaded, its answer stands in DBG_RESP; ACCESS while debug is disabled (R491). -/
def dbgRun (c : DbgCmd) (s : State) (body : State → DbgAns × State) : Out :=
  guardWf (dbgOk c) (.next (
    if !(tapOn s) then s
    else
      let (a, s) := if dbgOn s then body s else ({ status := .access }, s)
      { s with dbg := { s.dbg with ir := 0x10, resp := dbgWord a } }))

/-- Key of the core a command names. -/
def dbgKey (c : DbgCmd) : Nat := coreKey (4 * c.part + c.die) c.cl c.core

/-- What a thread shows of itself. -/
def showThread (x : ThreadSt) (data : Nat) : DbgAns :=
  { halted := isHalted x, pc := if isHalted x then x.pc.toNat else 0, data := data }

/-- A command that names a thread: absent or unmapped units, cores without a launch, and, where `still`, threads not halted have
their statuses (R493). Another package answers as it will (log entry 1). `f` gives the status, the data and what is new. -/
def dbgThread (c : DbgCmd) (s : State) (still : Bool) (f : State → CoreSt → ThreadSt → Status × Nat × State) : Out :=
  dbgRun c s (fun s =>
    let k := dbgKey c
    if c.pkg ≠ pkgNum s then
      let (st, s) := remoteStatus s
      let w := (Config.freeWord s.free).toNat
      ({ status := st, halted := nbit w 0, pc := if nbit w 0 then w / 2 else 0, data := (Config.freeWord (s.free + 1)).toNat },
        { s with free := s.free + 2 })
    else if !(saleyReaches s) then ({ status := .linkLost }, s)
    else if c.part ≥ nParts s ∨ c.cl ≥ 40 ∨ c.core ≥ 120 ∨ (mfind s.clusterOut (clOf k)).isSome then ({ status := .unsupported }, s)
    else
      let x := getCore s k
      let t := getThread x c.th
      if x.launch.isNone then ({ status := .aborted }, s)
      else if still && !(isHalted t) then ({ showThread t 0 with status := .badDesc }, s)
      else
        let (st, d, s) := f s x t
        ({ showThread (getThread (getCore s k) c.th) d with status := st }, s))

/-- The named thread with a change. -/
def dbgSet (c : DbgCmd) (s : State) (x : CoreSt) (t : ThreadSt) : Status × Nat × State :=
  (.ok, 0, setCore s (dbgKey c) (setThread x c.th t))

/-- HALT. -/
def execDbgHalt (c : DbgCmd) (s : State) : Out :=
  dbgThread c s false (fun s x t => dbgSet c s x { t with halted := t.halted || alive t, stepping := false })

/-- RESUME: a breakpoint at the pc is passed once. -/
def execDbgResume (c : DbgCmd) (s : State) : Out :=
  dbgThread c s false (fun s x t => dbgSet c s x (if t.halted then { t with halted := false, bpSkip := true } else t))

/-- STEP: one instruction, and the thread halts again. -/
def execDbgStep (c : DbgCmd) (s : State) : Out :=
  dbgThread c s true (fun s x t => dbgSet c s x { t with halted := false, stepping := true, bpSkip := true })

/-- The number in ARG[7:0] names a register of the thread (log entry 30). -/
def dbgRegOk (t : ThreadSt) (r : Nat) : Bool :=
  r < 0x28 || r == 0x40 || r == 0x41 || (0x80 ≤ r && r < 0x80 + t.quota)

/-- REG_READ. -/
def execDbgRegRead (c : DbgCmd) (s : State) : Out :=
  dbgThread c s true (fun s x t =>
    let r := fld c.arg 7 0
    let w := fld c.arg 11 8
    if !(dbgRegOk t r) then (.badDesc, 0, s)
    else if r < 0x20 then (.ok, (rd t r).toNat, s)
    else if r < 0x28 then (.ok, b2n (rdP t (r - 0x20)), s)
    else if r = 0x40 then (.ok, t.pc.toNat, s)
    else if r = 0x41 then (.ok, b2n t.fNan + 2 * b2n t.fInf + 4 * b2n t.fSat + 8 * b2n t.fOvf, s)
    else (.ok, fld (rdV x t (r - 0x80)) (64 * w + 63) (64 * w), s))

/-- REG_WRITE: s0, p0 and the flags discard it. -/
def execDbgRegWrite (c : DbgCmd) (s : State) : Out :=
  dbgThread c s true (fun s x t =>
    let r := fld c.arg 7 0
    let w := fld c.arg 11 8
    if !(dbgRegOk t r) then (.badDesc, 0, s)
    else if r < 0x20 then dbgSet c s x (wr t r c.data)
    else if r < 0x28 then dbgSet c s x (wrP t (r - 0x20) (c.data.getLsbD 0))
    else if r = 0x40 then dbgSet c s x { t with pc := c.data.setWidth 48 }
    else if r = 0x41 then (.ok, 0, s)
    else (.ok, 0, setCore s (dbgKey c) (wrV x t (r - 0x80) (setFld (rdV x t (r - 0x80)) (64 * w + 63) (64 * w) c.data.toNat))))

/-- The local-store address in ARG, rounded down to a multiple of 8 (log entry 30). -/
def dbgLs (c : DbgCmd) : Nat := c.arg.toNat / 8 * 8

/-- LS_READ. -/
def execDbgLsRead (c : DbgCmd) (s : State) : Out := dbgThread c s true (fun s x _ => (.ok, bread x.ls (dbgLs c) 8, s))

/-- LS_WRITE. -/
def execDbgLsWrite (c : DbgCmd) (s : State) : Out :=
  dbgThread c s true (fun s x _ => (.ok, 0, setCore s (dbgKey c) { x with ls := bwrite x.ls (dbgLs c) 8 c.data.toNat }))

/-- The threads a breakpoint or watchpoint stands on. -/
def dbgMask (c : DbgCmd) : Nat := if c.arg.getLsbD 15 then 0xFFFF else 2 ^ c.th

/-- BP_SET. -/
def execDbgBpSet (c : DbgCmd) (s : State) : Out :=
  dbgThread c s false (fun s x _ =>
    (.ok, 0, setCore s (dbgKey c) { x with bps := mput (fld c.arg 2 0) ⟨fld c.data 47 0, dbgMask c⟩ x.bps }))

/-- BP_CLR. -/
def execDbgBpClr (c : DbgCmd) (s : State) : Out :=
  dbgThread c s false (fun s x _ => (.ok, 0, setCore s (dbgKey c) { x with bps := mdel (fld c.arg 2 0) x.bps }))

/-- WP_SET: an exponent above 12, or no kind of access, is refused (log entry 30). -/
def execDbgWpSet (c : DbgCmd) (s : State) : Out :=
  dbgThread c s false (fun s x _ =>
    let e := fld c.arg 7 4
    let ls := c.arg.getLsbD 10
    let a := if ls then fld c.data 15 0 else c.data.toNat
    if 12 < e ∨ fld c.arg 9 8 = 0 then (.badDesc, 0, s)
    else (.ok, 0, setCore s (dbgKey c)
      { x with wps := mput (fld c.arg 1 0) ⟨a / 2 ^ e * 2 ^ e, 2 ^ e, fld c.arg 9 8, ls, dbgMask c⟩ x.wps }))

/-- WP_CLR. -/
def execDbgWpClr (c : DbgCmd) (s : State) : Out :=
  dbgThread c s false (fun s x _ => (.ok, 0, setCore s (dbgKey c) { x with wps := mdel (fld c.arg 1 0) x.wps }))

/-- STATUS. -/
def execDbgStatus (c : DbgCmd) (s : State) : Out := dbgThread c s false (fun s _ _ => (.ok, 0, s))

/-! ## Memory (R494) -/

/-- The identity of the port's accesses: Saley's port of the first hub it reaches, job tag 0, DBG_CTL.DOMAIN, no ownership check. -/
def dbgWho (s : State) : Who :=
  { domain := rfld s rDbgCtl 7 4, glob := true, part := ((List.range 4).find? (saleyHub s)).getD 0, port := 0x30 }

/-- ADDR. -/
def execDbgAddr (c : DbgCmd) (s : State) : Out :=
  dbgRun c s (fun s => ({}, { s with dbg := { s.dbg with addr := c.data } }))

/-- MEM_READ: the home copy of the eight bytes at the latched address, rounded down to a multiple of 8 (log entry 30). -/
def execDbgMemRead (c : DbgCmd) (s : State) : Out :=
  if segHeld s s.dbg.addr.toNat then .next s
  else dbgRun c s (fun s =>
    let ga := s.dbg.addr.toNat / 8 * 8
    let w := dbgWho s
    if !(saleyReaches s) then ({ status := .linkLost }, s)
    else match homeOf s ga with
      | .bell p ctx off =>
        let (st, v, s) := windowLoad s w ga p ctx off 8
        ({ status := st, data := v }, s)
      | .counter _ _ =>
        let (st, _, v, s) := counterLoad s w ga 8
        ({ status := st, data := v }, s)
      | _ =>
        let (st, _, v, s) := lineRead s w (ga / 64 * 64)
        ({ status := st, data := if st = .ok then fld v (8 * (ga % 64) + 63) (8 * (ga % 64)) else 0 }, s))

/-- MEM_WRITE: a masked line write of eight bytes. -/
def execDbgMemWrite (c : DbgCmd) (s : State) : Out :=
  if segHeld s s.dbg.addr.toNat then .next s
  else dbgRun c s (fun s =>
    let ga := s.dbg.addr.toNat / 8 * 8
    let w := dbgWho s
    if !(saleyReaches s) then ({ status := .linkLost }, s)
    else match homeOf s ga with
      | .bell p ctx off =>
        let (st, s) := windowStore s w ga p ctx off 8 c.data
        ({ status := st }, s)
      | .counter _ _ =>
        let (st, _, s) := counterStore s w ga 8 c.data.toNat
        ({ status := st }, s)
      | _ =>
        let (st, _, s) := lineWrite s w (ga / 64 * 64) (0xFF * 2 ^ (ga % 64)) (BitVec.ofNat 512 (c.data.toNat * 2 ^ (8 * (ga % 64))))
        ({ status := st }, s))

end Sys2Proof.Machine
end

