-- ==== Sys2Proof/Machine/Dispatcher.lean ====
section
/-! DEFINITION. Fetching descriptors and choosing them: the forms of R264 and R265, the candidates of R266, the energy gate and the round of R279 (R263 to R266, R272, R278 to R280, R412, R414, R415). -/
namespace Sys2Proof.Machine

/-! ## Fetching (R261, R263) -/

/-- The eight words of the descriptor in slot n (R254, R257). -/
def readSlot (s : State) (p ctx : Nat) (n : Nat) : Status × List Word × State :=
  let r := getRing s p ctx
  let (st, v, s) := kindRead s (ringWho s p r) r.sqKind (r.sqBase.toNat + 64 * (n % ringSize r)) 64
  (st, (List.range 8).map (fun i => BitVec.ofNat 64 (v / 2 ^ (64 * i))), s)

/-- A STEP_COMMIT fetched for the open step of its ring. -/
def noteCommit (s : State) (p : Nat) (r : Ring) (d : Desc) : State :=
  match r.step with
  | none => s
  | some key => match getStep s p key with
    | none => s
    | some x => if dOpc d = 0x11 ∧ x.commit.isNone then setStep s p key { x with commit := some d.n } else s

/-- Up to `k` further descriptors fetched; a fetch that fails puts the ring in ERROR. -/
def fetchDescs (s : State) (p ctx : Nat) : Nat → State
  | 0 => s
  | k + 1 =>
    let r := getRing s p ctx
    if r.state != .active || r.fetchPos == r.sqTail then s
    else match readSlot s p ctx r.fetchPos.toNat with
      | (.ok, ws, s) =>
        let d : Desc := { n := r.fetchPos.toNat, words := ws }
        let r := getRing s p ctx
        let s := setRing s p ctx { r with fetched := r.fetched ++ [d], fetchPos := r.fetchPos + 1 }
        fetchDescs (noteCommit s p r d) p ctx k
      | (_, _, s) => ringError s p ctx 1

/-- DESCRIPTOR_FETCH: n descriptors of a ring, as far as it has posted them (R263). -/
def execDescriptorFetch (p ctx n : Nat) (s : State) : Out :=
  guardWf (p < 16 && ctx < 32768) (.next (if s.stage = .up then refreshHead (fetchDescs s p ctx n) p ctx else s))

/-! ## Forms (R12, R264, R265) -/

/-- Words of a descriptor from i on are 0. -/
def dZeroFrom (d : Desc) (i : Nat) : Bool := (d.words.drop i).all (fun w => w == 0)

/-- No reserved field or reserved value in words 2 to 7. -/
def dBodyOk (d : Desc) : Bool :=
  match dOpc d with
  | 0x01 => dFld d 2 63 48 == 0 && dFld d 4 31 27 == 0 && dZeroFrom d 6
  | 0x02 => dZeroFrom d 6
  | 0x04 => dFld d 2 3 0 ≤ 6 && dFld d 2 7 4 ≤ 4 && dFld d 2 9 8 != 3 && dFld d 2 15 10 == 0 && dFld d 2 63 38 == 0
            && dFld d 5 63 40 == 0 && dFld d 7 63 48 == 0
  | 0x05 => dFld d 3 63 13 == 0 && dZeroFrom d 5
  | 0x08 => dFld d 2 7 1 == 0 && dFld d 2 15 12 == 0 && dFld d 4 63 32 == 0 && dZeroFrom d 5
  | 0x09 => dFld d 2 2 0 ≤ 3 && dFld d 2 3 3 == 0 && dFld d 2 5 4 % 2 == 0 && dFld d 2 7 6 == 0 && dFld d 2 15 12 == 0
            && dFld d 2 63 41 == 0 && dZeroFrom d 5
  | 0x0A => dFld d 2 1 0 != 3 && dFld d 2 3 2 != 0 && dFld d 2 63 4 == 0 && dZeroFrom d 3
  | 0x10 => dFld d 3 63 7 == 0 && dZeroFrom d 4
  | 0x11 => dFld d 3 63 8 == 0 && dZeroFrom d 4
  | 0x12 => dFld d 2 63 9 == 0 && dZeroFrom d 3
  | 0x13 => dFld d 2 63 9 == 0 && dZeroFrom d 3
  | 0x18 => dFld d 3 63 36 == 0 && dZeroFrom d 4
  | 0x20 => dFld d 2 7 2 == 0 && dFld d 2 63 14 == 0 && dZeroFrom d 3
  | 0x3F => dZeroFrom d 2
  | _ => false

/-- Opcodes a COMM ring carries (R265). -/
def commOpc (o : Nat) : Bool := o == 0x04 || o == 0x08 || o == 0x09 || o == 0x0A || o == 0x3F

/-- The STEP_ opcodes. -/
def stepOpc (o : Nat) : Bool := 0x10 ≤ o && o ≤ 0x13

/-- The form of words 0 and 1, the opcode on its kind of ring, the reserved fields (R12, R264, R265). -/
def dFormOk (d : Desc) (comm : Bool) : Bool :=
  let o := dOpc d
  dBodyOk d && (!comm || commOpc o) && (o == 0x02 || dFld d 0 9 9 == 0) && dFld d 0 15 12 == 0 && dFld d 0 31 24 == 0
    && dFld d 1 63 32 == 0 && (dMember d || stepOpc o || dStep d == 0)

/-- Opcodes that may be members of a step (R265). -/
def memberOpc (o : Nat) : Bool := !(o == 0x10 || o == 0x11 || o == 0x12 || o == 0x13 || o == 0x20)

/-- With what status a descriptor that starts is refused before its own row, if it is: its form, its ring, its place in or
outside a step, the privilege of FIELD_TEST (R265, R272, R431). In a FAILED step the members and the STEP_COMMIT have REPLAY_REQ. -/
def refusal (s : State) (p : Nat) (r : Ring) (d : Desc) : Option Status :=
  let o := dOpc d
  if r.skipStep then some .aborted
  else match r.step.bind (getStep s p) with
    | some x =>
      let outside := dStep d != x.stepId || (o != 0x11 && (!(dMember d) || !(memberOpc o)))
      if x.state = .failed then (if outside then some .badDesc else if o = 0x11 then none else some .replayReq)
      else if !(dFormOk d r.comm) || outside then some .badDesc
      else none
    | none =>
      if !(dFormOk d r.comm) then some .badDesc
      else if dMember d then some .badDesc
      else if o = 0x11 then some .badDesc
      else if o = 0x10 ∧ dStep d = 0 then some .badDesc
      else if o = 0x20 ∧ !(isAdmin (ringTenant r)) then some .access
      else none

/-! ## Costs and energy (R279, R414) -/

/-- Cores a KERNEL names. -/
def kernelCores (d : Desc) : Nat := (dFld d 4 3 2 + 1) * (dFld d 4 15 10 + 1) * (dFld d 4 22 16 + 1)

/-- The cost of a descriptor (R279). -/
def descCost (d : Desc) : Nat :=
  match dOpc d with
  | 0x01 => kernelCores d
  | 0x02 => max 1 (cdiv (dFld d 4 35 0) 65536)
  | 0x05 => dFld d 3 12 0
  | _ => 1

/-- Opcodes the energy gate weighs. -/
def gatedOpc (o : Nat) : Bool := o == 0x01 || o == 0x02 || o == 0x04 || o == 0x05

/-- ΔP in mW (R414). -/
def descPower (d : Desc) : Nat :=
  match dOpc d with
  | 0x01 => dEcls d * 8 * kernelCores d
  | o => if gatedOpc o then dEcls d * 8 * 160 else 0

/-! ## Candidates (R266, R267, R279) -/

/-- Whether a KERNEL names a logical cluster that is out for a field test, or about to be (R267, R444). -/
def namesTested (s : State) (p : Nat) (d : Desc) : Bool :=
  let cls := (List.range (dFld d 4 3 2 + 1)).flatMap (fun i =>
    (List.range (dFld d 4 15 10 + 1)).map (fun c => clKey (4 * p + dFld d 4 1 0 + i) (dFld d 4 9 4 + c)))
  cls.any (fun c => mfind s.clusterOut c == some 2 || s.tests.any (fun t => t.cl == c && t.begun.isSome && t.phys.isNone))

/-- No descriptor after a WAIT, FENCE, STEP_BEGIN or STEP_COMMIT starts until it has completed (R266, R273). -/
def blocks (o : Op) : Bool := dOpc o.desc == 0x08 || dOpc o.desc == 0x0A || dOpc o.desc == 0x10 || dOpc o.desc == 0x11

/-- The state of the ring's step lets its next descriptor start. -/
def stepLets (s : State) (p : Nat) (r : Ring) : Bool :=
  match r.step.bind (getStep s p) with
  | none => true
  | some x => !x.committed && !x.replayPending && (x.state == .open_ || x.state == .failed)

/-- The candidate of a ring: its next descriptor, where it may start (R266, R267, R274, R279). -/
def candidate (s : State) (p ctx : Nat) (r : Ring) : Option Desc :=
  match r.fetched with
  | [] => none
  | d :: _ =>
    let ops := (ringOps s p ctx).map (·.2)
    let o := dOpc d
    if r.state != .active || !r.waiting.isEmpty || ops.length ≥ 64 || ops.any blocks then none
    else if (dFence d || o == 0x0A || o == 0x11) && !ops.isEmpty then none
    else if !(stepLets s p r) then none
    else if o == 0x01 && namesTested s p d then none
    else if flrBusy s (ringTenant r) then none
    else some d

/-- A candidate with its ring. -/
structure Cand1 where
  ctx : Nat
  ring : Ring
  desc : Desc
  deriving DecidableEq, Repr

/-- QoS of a tenant as committed (R278). -/
def qosOf (s : State) (p t : Nat) : Word := mget 1 (getHub s p).qosAct t

/-- Candidates of a partition, without tenants of weight 0. -/
def candidates (s : State) (p : Nat) : List Cand1 :=
  ((getHub s p).rings.filterMap (fun e => (candidate s p e.1 e.2).map (fun d => Cand1.mk e.1 e.2 d))).filter
    (fun c => fld (qosOf s p (ringTenant c.ring)) 7 0 != 0)

/-! ## The slope (R404, R410) -/

/-- The slope limit in W/µs. -/
def slopeLimit (s : State) : Nat := max 20 (min 800 (rfld s rPwrCtl 9 0))

/-- Partitions in service. -/
def partsUp (s : State) : List Nat := (List.range (nParts s)).filter (partUp s)

/-- SHARE of a partition. -/
def shareOf (s : State) (p : Nat) : Nat := rfld s (rPwrPart p) 7 0

/-- The sum of SHARE over partitions. -/
def shareSum (s : State) (ps : List Nat) : Nat := ps.foldl (fun a p => a + shareOf s p) 0

/-- A partition's part of an amount that is divided among partitions in proportion to SHARE; in equal parts where every SHARE is 0, of
which the spec says nothing (log entry 60). -/
def shareCut (s : State) (ps : List Nat) (p : Nat) (x : Int) : Int :=
  let t := shareSum s ps
  if t = 0 then x / (ps.length : Int) else x * (shareOf s p : Int) / (t : Int)

/-- A partition's share of the rise budget per 2 µs, in mW (R404). -/
def slopeBase (s : State) (p : Nat) : Int := shareCut s (partsUp s) p (2000 * slopeLimit s : Nat)

/-- What is left of a demand that falls after a hint. -/
def fallLeft (s : State) (p : Nat) (f : Nat × Int) : Int := f.2 - slopeBase s p * ((s.timebase - f.1) / 2000 : Nat)

/-! ## The energy gate (R415) -/

/-- The sum of ΔP of descriptors started in the last 20 µs. -/
def pendingPower (s : State) (p : Nat) : Int :=
  ((getHub s p).disp.recent.filter (fun e => s.timebase < e.1 + 20000)).foldl (fun a e => a + e.2) 0

/-- Whether the partition holds work that the gate weighs. -/
def gatedWork (s : State) (p : Nat) : Bool := (getHub s p).ops.any (fun e => gatedOpc (dOpc e.2.desc))

/-- energy_gate of R415. -/
def energyGate (s : State) (p : Nat) (cands : List Cand1) (c : Cand1) : Bool :=
  let h := getHub s p
  let dp : Int := descPower c.desc
  let classes := (cands.filter (fun x => gatedOpc (dOpc x.desc))).map (fun x => dEcls x.desc)
  let low := classes.foldl min 15
  let head := h.pow.allow - (h.pow.est - h.pow.ballast) - pendingPower s p
  if dp = 0 then true
  else if s.timebase ≥ mget s.timebase h.disp.waitSince c.ctx + 2000000 then true
  else if !(gatedWork s p) then true
  else if dp > head then false
  else if head * 16 < h.pow.allow * (rfld s rPwrCtl 15 12 : Nat) ∧ dEcls c.desc > low then false
  else true

/-- Background work fills a ramp: BG_EN is set, and a hint of the partition ramps or a fall after one still lies above the
estimate (R412, log entry 17). -/
def bgTime (s : State) (p : Nat) : Bool :=
  let h := getHub s p
  rbit s rPwrCtl 20 && (h.hints.any (fun x => x.ramp.isSome && s.timebase < x.tStart)
    || h.pow.falls.any (fun f => fallLeft s p f > h.pow.est))

/-- The PRIO a descriptor is served with (R264). -/
def servedPrio (c : Cand1) : Nat := min (dPrio c.desc) c.ring.rprioMax

/-! ## Weighted deficit round-robin (R279, R280) -/

/-- Cores a tenant's launches hold in a partition. -/
def heldCores (s : State) (p t : Nat) : Nat :=
  (s.cores.filter (fun kc => partOf kc.1 == p && (kc.2.launch.map (·.tenant)) == some t)).length

/-- eff_guar of R279: the guarantee scaled to the cores in service. -/
def effGuar (s : State) (p t inService : Nat) : Nat := fld (qosOf s p t) 15 8 * 75 * inService / 19200

/-- The tenant of a pool that comes next after another, cyclically. -/
def nextTenant (pool : List Nat) (last : Nat) : Nat :=
  pool.foldl (fun best t => if (t + 1023 - last) % 512 < (best + 1023 - last) % 512 then t else best) (pool.headD 0)

/-- The candidate of a tenant that is served: the highest PRIO, ties to the lowest ring number after the last served one. -/
def bestOf (cands : List Cand1) (t last : Nat) : Option Cand1 :=
  let key (c : Cand1) : Nat := (15 - servedPrio c) * 512 + (ringNo c.ring + 1023 - last) % 512
  (cands.filter (fun c => ringTenant c.ring == t)).foldl (fun b c =>
    match b with
    | none => some c
    | some x => if key c < key x then some c else b) none

/-- The loop of R279: the candidate chosen, with the dispatcher's memory after the choice. -/
def drr (s : State) (p : Nat) (all cands : List Cand1) (pool : List Nat) : Nat → Nat → Disp → Option (Cand1 × Disp)
  | 0, _, _ => none
  | fuel + 1, last, d =>
    let t := nextTenant pool last
    let d := if d.visited.contains t then d
      else { d with deficit := mput t (mget 0 d.deficit t + 64 * fld (qosOf s p t) 7 0) d.deficit, visited := t :: d.visited }
    let d := if pool.all (fun u => d.visited.contains u) then
        { d with visited := [], deficit := d.deficit.filter (fun e => all.any (fun c => ringTenant c.ring == e.1)) }
      else d
    match bestOf cands t (mget 511 d.lastRing t) with
    | none => drr s p all cands pool fuel t d
    | some c =>
      let def_ := mget 0 d.deficit t
      if descCost c.desc ≤ def_ then
        some (c, { d with deficit := mput t (def_ - descCost c.desc) d.deficit, lastTenant := t,
                          lastRing := mput t (ringNo c.ring) d.lastRing })
      else drr s p all cands pool fuel t d

/-- The candidates with the time each first was one (R415). -/
def noteSince (s : State) (p : Nat) (cs : List Cand1) : State :=
  let h := getHub s p
  let w := cs.foldl (fun w c => if (mfind w c.ctx).isSome then w else mput c.ctx s.timebase w) h.disp.waitSince
  setHub s p { h with disp := { h.disp with waitSince := w } }

/-- The ring's next descriptor is another: its time as a candidate starts anew (R415). -/
def forgetSince (s : State) (p ctx : Nat) : State :=
  let h := getHub s p
  setHub s p { h with disp := { h.disp with waitSince := mdel ctx h.disp.waitSince } }

/-- A descriptor started: it leaves its ring's queue and is carried out by its own row, or completes at once where it is
refused, or was a SIGNAL that has been done (R266, R272, R431, R435). -/
def startDesc (s : State) (p : Nat) (c : Cand1) (d : Disp) : State :=
  let h := getHub s p
  let r := getRing s p c.ctx
  let k := h.nextOp
  let why := refusal s p r c.desc
  let key := if r.skipStep then none else r.step
  let o : Op := { ring := c.ctx, tenant := ringTenant r, jobTag := r.jobTag, desc := c.desc, t0 := s.timebase, step := key }
  let d := { d with waitSince := mdel c.ctx d.waitSince,
                    recent := (d.recent.filter (fun e => s.timebase < e.1 + 20000)) ++
                      (if why.isNone ∧ descPower c.desc ≠ 0 then [(s.timebase, (descPower c.desc : Int))] else []) }
  let s := setHub s p { h with ops := mput k o h.ops, nextOp := k + 1, disp := d }
  let s := setRing s p c.ctx { r with fetched := r.fetched.drop 1,
                                      skipStep := (r.skipStep && dOpc c.desc != 0x11) ||
                                        (why.isSome && dOpc c.desc == 0x10 && key.isNone && !r.skipStep && !r.comm) }
  let s := match key.bind (getStep s p) with
    | none => s
    | some x =>
      let x := if c.desc.replay then x
        else { x with members := x.members ++ [{ n := c.desc.n, opc := dOpc c.desc }],
                      commit := if dOpc c.desc = 0x11 ∧ x.commit.isNone then some c.desc.n else x.commit }
      setStep s p (key.getD 0) x
  let done := c.desc.replay && dOpc c.desc == 9 && (match key.bind (getStep s p) with
    | none => false
    | some x => x.members.any (fun m => m.n == c.desc.n && m.signalOk))
  match why with
  | some st => finishUnit s p k st
  | none => if done then finishUnit s p k .ok else s

/-- One choice of the dispatcher of a partition (R279, R412, R415). -/
def dispatch (s : State) (p : Nat) : State :=
  let all := candidates s p
  let s := noteSince s p all
  let cands := all.filter (energyGate s p all)
  let bg := cands.filter (fun c => servedPrio c ≤ rfld s rPwrCtl 19 16)
  let cands := if bgTime s p && !bg.isEmpty then bg else cands
  if cands.isEmpty then s
  else
    let svc := coresInService s p
    let tens := (cands.map (fun c => ringTenant c.ring)).eraseDups
    let g := tens.filter (fun t =>
      cands.any (fun c => ringTenant c.ring == t && dOpc c.desc == 0x01) && heldCores s p t < effGuar s p t svc)
    let pool := if g.isEmpty then tens else g
    let most := cands.foldl (fun m c => max m (descCost c.desc)) 0
    match drr s p all cands pool ((pool.length + 1) * (most + 2)) (getHub s p).disp.lastTenant (getHub s p).disp with
    | none => s
    | some (c, d) => startDesc s p c d

/-- Dispatch is stopped: the package is not up, the partition is out of service, or a power failure is in progress (R470). -/
def dispatchOn (s : State) (p : Nat) : Bool := s.stage == .up && partUp s p

/-- DISPATCH (R279). -/
def execDispatch (p : Nat) (s : State) : Out :=
  guardWf (p < 16) (.next (if p < nParts s ∧ dispatchOn s p then dispatch s p else s))

/-- ENERGY_GATE_STARVATION: the candidate of a ring has waited 2 ms, so that the gate passes it (R415). -/
def execEnergyGateStarvation (p ctx : Nat) (s : State) : Out :=
  guardWf (p < 16 && ctx < 32768) (.next (
    match mfind (getHub s p).disp.waitSince ctx with
    | some t => { s with timebase := max s.timebase (t + 2000000) }
    | none => s))

end Sys2Proof.Machine
end

