-- ==== Sys2Proof/Machine/Kernels.lean ====
section
/-! DEFINITION. Launches: reserving cores, starting threads, ending, faults of cores and clusters, spares (R86 to R88, R97, R129, R199, R201, R267, R294, R413, R433, R440 to R442). -/
namespace Sys2Proof.Machine

/-! ## Reserving cores (R86, R267, R279) -/

/-- The quota code of thread k (R267). -/
def quotaCode (q : Word) (k : Nat) : Nat := fld q (4 * k + 3) (4 * k)

/-- A KERNEL's fields are in range (R86, R267). -/
def kernelOk (d : Desc) : Bool :=
  let n := dFld d 4 26 23 + 1
  dFld d 2 47 0 % 8 == 0 && dFld d 4 1 0 + dFld d 4 3 2 + 1 ≤ 4 && dFld d 4 9 4 + dFld d 4 15 10 + 1 ≤ 40 && dFld d 4 22 16 ≤ 119
    && (List.range 16).all (fun k => k < n || quotaCode (dWord d 5) k == 0)
    && sumOver 16 (quotaCode (dWord d 5)) ≤ 16

/-- The logical clusters a KERNEL names. -/
def kernelClusters (p : Nat) (d : Desc) : List Nat :=
  (List.range (dFld d 4 3 2 + 1)).flatMap (fun i =>
    (List.range (dFld d 4 15 10 + 1)).map (fun c => clKey (4 * p + dFld d 4 1 0 + i) (dFld d 4 9 4 + c)))

/-- The cores a KERNEL names, in the order of thread indices (R267). -/
def kernelKeys (p : Nat) (d : Desc) : List Nat :=
  (kernelClusters p d).flatMap (fun c => (List.range (dFld d 4 22 16 + 1)).map (fun k => c * 120 + k))

/-- The launch of a KERNEL on its i-th core. -/
def launchOf (p k : Nat) (o : Op) (domain i : Nat) : Launch :=
  let d := o.desc
  let n := dFld d 4 26 23 + 1
  { part := p, op := k, tenant := o.tenant, domain := domain, jobTag := o.jobTag, descTag := dTag d, admin := isAdmin o.tenant,
    entry := dFld d 2 47 0, arg := dWord d 3, nthr := n, total := kernelCores d * n, base := i * n, quotas := dWord d 5,
    step := o.step, t0 := o.t0 }

/-- A launch put among those that wait for a core, in the order in which they were chosen (R279). -/
def insertLaunch (l : Launch) : List Launch → List Launch
  | [] => [l]
  | m :: ms => if l.op < m.op then l :: m :: ms else m :: insertLaunch l ms

/-- KERNEL: malformed fields; a logical cluster without a unit; else its cores are reserved (R86, R267, R279). -/
def execKernel (p op : Nat) (s : State) : Out :=
  onChosen s p op 0x01 (fun o =>
    if !(kernelOk o.desc) then finishOp s p op .badDesc 0 0
    else if (kernelClusters p o.desc).any (fun c => mfind s.clusterOut c == some 0) then finishOp s p op .noResource 0 0
    else
      let keys := kernelKeys p o.desc
      let dom := tenDomain s o.tenant
      let s := setOp s p op { o with phase := .running, cores := keys }
      (keys.zip (List.range keys.length)).foldl (fun s ki =>
        let c := getCore s ki.1
        setCore s ki.1 { c with next := insertLaunch (launchOf p op o dom ki.2) c.next }) s)

/-! ## A core's launch ends (R87, R97, R129, R441) -/

/-- The launch on a core has ended: every thread has, no request is open, no queue entry waits (R53, R87). -/
def coreIdle (c : CoreSt) : Bool := c.threads.all (fun x => !(alive x)) && c.reqs.isEmpty && c.mq.isEmpty

/-- The completion flags that threads' sticky flags give (R129). -/
def threadFlags (c : CoreSt) : Nat :=
  let any (f : ThreadSt → Bool) : Nat := b2n (c.threads.any f)
  2 * any (fun x => x.fNan) + 4 * any (fun x => x.fInf || x.fOvf) + 8 * any (fun x => x.fSat)

/-- Threads of a core that reached END. -/
def endedThreads (c : CoreSt) : Nat := (c.threads.toList.filter (fun x => x.stat == .ended)).length

/-- A faulty core's logical number given to the cluster's lowest-numbered spare core: the die's record changes with it (R34, R441). -/
def swapCore (s : State) (k : Nat) : State :=
  let c := getCore s k
  if !c.fault then s
  else
    let die := keyDie k
    let q := physCluster s die (keyCl k)
    match spareCore s die q with
    | none => s
    | some x =>
      let s := { s with physCore := mput (pclKey die q * 120 + keyCore k) x s.physCore }
      capSpares (setCore s k { next := c.next }) die

/-- The launch of a core handed back: its ended threads and flags go to the operation, the core is free (R87, R97, R129). -/
def gatherCore (s : State) (k : Nat) : State :=
  let c := getCore s k
  match c.launch with
  | none => s
  | some l =>
    let s := match getOp s l.part l.op with
      | some o => setOp s l.part l.op { o with done := o.done + endedThreads c, cflags := o.cflags ||| threadFlags c }
      | none => s
    swapCore (setCore s k { c with launch := none, threads := Vector.replicate 16 {}, bps := [], wps := [] }) k

/-! ## Starting (R87, R88, R413) -/

/-- Sum of the quotas of the threads below k. -/
def quotaBase (q : Word) (k : Nat) : Nat := sumOver k (quotaCode q)

/-- A thread at the start of its launch (R88). -/
def newThread (l : Launch) (t : Nat) : ThreadSt :=
  if t < l.nthr then
    let regs : Vector Word 32 := Vector.replicate 32 0
    { stat := .run, pc := BitVec.ofNat 48 l.entry,
      regs := vset (vset (vset regs 1 l.arg) 2 (BitVec.ofNat 64 (l.base + t))) 3 (BitVec.ofNat 64 l.total),
      quota := quotaCode l.quotas t, vbase := quotaBase l.quotas t, index := l.base + t }
  else {}

/-- THROTTLED set for the work resident in those of some clusters that are gated (R277, R406). -/
def markCores (s : State) (cls : Nat → Bool) : State :=
  s.cores.foldl (fun s kc =>
    if cls (clOf kc.1) && pauseOf s (clOf kc.1) != 0 then
      match kc.2.launch with
      | some l => match getOp s l.part l.op with
        | some o => setOp s l.part l.op { o with cflags := o.cflags ||| 32 }
        | none => s
      | none => s
    else s) s

/-- Work resident in a cluster that is gated has THROTTLED set (R406). -/
def markThrottled (s : State) (cl : Nat) : State := markCores s (· == cl)

/-- Work resident in any gated cluster has THROTTLED set: after a pause that every cluster may have, for power or for heat (R277,
R406). -/
def markGated (s : State) : State := markCores s (fun _ => true)

/-- The next launch's threads start on a core that is free or whose launch has ended there. -/
def startLaunch (s : State) (k : Nat) : State :=
  let c := getCore s k
  if !(c.launch.isNone || coreIdle c) || (mfind s.clusterOut (clOf k)).isSome || !(partUp s (partOf k)) then s
  else match c.next with
    | [] => s
    | l :: rest =>
      let s := gatherCore s k
      let c := getCore s k
      let t0 : Vector ThreadSt 16 := Vector.replicate 16 {}
      let s := setCore s k { c with launch := some l, next := rest, threads := t0.mapIdx (fun i _ => newThread l i),
                                    vregs := Vector.replicate 16 0, lc := Vector.replicate 32 0, nw := Vector.replicate 4 0, ibuf := [] }
      let s := match getOp s l.part l.op with
        | some o => setOp s l.part l.op { o with started := o.started ++ [k] }
        | none => s
      let cl := getCl s (clOf k)
      markThrottled (setCl s (clOf k) { cl with ballast := false }) (clOf k)

/-- LAUNCH_START (R87, R88). -/
def execLaunchStart (c : CoreRef) (s : State) : Out :=
  guardWf (coreWf c) (.next (if s.stage = .up then startLaunch s (coreKey c.die c.cl c.core) else s))

/-! ## Completing (R97, R199, R267) -/

/-- Every thread of a KERNEL has stopped and every request has completed. -/
def kernelDone (s : State) (p k : Nat) (o : Op) : Bool :=
  o.phase == .running &&
  o.cores.all (fun key =>
    let c := getCore s key
    if ofLaunch c p k then coreIdle c
    else o.started.contains key || !(c.next.any (fun l => l.part == p && l.op == k)))

/-- A KERNEL's outcome: the status it was stopped with; else its lowest-indexed trap; else a failed write-back (R97, R199, R267). -/
def kernelOutcome (o : Op) : Status × Nat :=
  match o.stop, o.trap with
  | some st, _ => (st, 0)
  | none, some (i, c) => (trapStatus c, (trapCode c + 256 * i) % 2 ^ 32)
  | none, none => (o.wbFail.getD .ok, 0)

/-- A KERNEL completes where nothing of it runs on: its cores are handed back, what it dirtied is written back, its record
is written (R97, R199, R242, R274). -/
def completeKernel (s : State) (p k : Nat) : State :=
  match getOp s p k with
  | none => s
  | some o =>
    if dOpc o.desc ≠ 0x01 ∨ !(kernelDone s p k o) then s
    else
      let s := o.cores.foldl (fun s key => if ofLaunch (getCore s key) p k then gatherCore s key else s) s
      let s := (kernelClusters p o.desc).foldl (fun s cl => wbCluster s cl p (fun _ x => x.ops.contains (p, k))) s
      match getOp s p k with
      | none => s
      | some o =>
        let (st, ff) := kernelOutcome o
        finishOp s p k st o.done ff

/-- KERNEL_COMPLETE. -/
def execKernelComplete (p op : Nat) (s : State) : Out := guardWf (p < 16) (.next (completeKernel s p op))

/-- KERNEL_TIMEOUT: the watchdog stops the launch with TIMEOUT (R267). -/
def execKernelTimeout (p op : Nat) (s : State) : Out :=
  guardWf (p < 16) (.next (
    match getOp s p op with
    | none => s
    | some o =>
      let us := dFld o.desc 4 63 32
      if dOpc o.desc ≠ 0x01 ∨ us = 0 ∨ o.stop.isSome ∨ o.trap.isSome ∨ o.phase ≠ .running then s
      else
        let s := { s with timebase := max s.timebase (o.t0 + 1000 * us) }
        completeKernel (stopOp s p op .timeout) p op))

/-! ## Faults (R201, R294, R433, R441, R442) -/

/-- A thread of a failed unit takes MEM_FAULT; one that has reached END stays ended and still counts as on the unit (R433). -/
def faultThread (s : State) (t : ThreadRef) : State :=
  let x := threadOf s t
  match x.stat with
  | .none => s
  | .ended =>
    let s := takeTrap s t .memFault []
    putThread s t { threadOf s t with stat := .ended }
  | _ => takeTrap s t .memFault []

/-- Every thread resident on a failed core takes MEM_FAULT. -/
def faultCore (s : State) (k : Nat) : State :=
  if (getCore s k).launch.isNone then s else (List.range 16).foldl (fun s th => faultThread s (refOf k th)) s

/-- The cores of a cluster that hold a launch or wait for one. -/
def clusterCores (s : State) (cl : Nat) : List Nat := (s.cores.filter (fun kc => clOf kc.1 == cl)).map (·.1)

/-- KERNELs that wait for a core of a cluster that no unit holds any more cannot run (R267). -/
def refuseWaiting (s : State) (cl : Nat) : State :=
  let ls := (clusterCores s cl).flatMap (fun k => (getCore s k).next.map (fun l => (l.part, l.op)))
  ls.eraseDups.foldl (fun s e =>
    completeKernel (stopOp s e.1 e.2 .noResource) e.1 e.2) s

/-- A logical cluster taken off its physical cluster: dirty sectors written back unless the cut-out is abrupt, its cores
handed back, a spare cluster brought in with an empty cache where the die has one (R201, R294, R442). Whether a spare took
the number. -/
def cutCluster (s : State) (cl : Nat) (abrupt : Bool) (gone : Nat) : Bool × State :=
  let die := cl / 40
  let q := physOf s cl
  let s := if abrupt then s else wbCluster s cl (die / 4) (fun _ _ => true)
  let s := (clusterCores s cl).foldl (fun s k =>
    let c := getCore s k
    let s := gatherCore (setCore s k { c with reqs := [], mq := [], fault := false }) k
    setCore s k { next := (getCore s k).next }) s
  let c := getCl s cl
  let s := setCl s cl { op := c.op, gp := c.gp, gpHigh := c.gpHigh, gpZero := c.gpZero }
  let spare := (spareClusters s die).head?
  let s := { s with clGone := mput (pclKey die q) gone s.clGone, calDirty := true }
  match spare with
  | some x => (true, { s with physCl := mput cl x s.physCl })
  | none => (false, { s with clusterOut := mput cl (if gone = 1 then 2 else 0) s.clusterOut })

/-- A failed cluster cut out: its launches trap (R433), the event names the logical cluster and whether a spare was used. -/
def cutFailed (s : State) (cl : Nat) (abrupt : Bool) : State :=
  let q := physOf s cl
  let s := (clusterCores s cl).foldl faultCore s
  let (sp, s) := cutCluster s cl abrupt 0
  let s := emit s 0x0028 (srcDie (cl / 40) q) [(1, cl % 40), (1, b2n sp)]
  health (capSpares (if sp then s else refuseWaiting s cl) (cl / 40))

/-- CLUSTER_CUTOUT after a hardware fault report (R294). -/
def execClusterCutout (c : ClusterRef) (abrupt : Bool) (s : State) : Out :=
  guardWf (clusterWf c) (.next (
    let cl := clKey c.die c.cl
    if running s ∧ (mfind s.clusterOut cl).isNone ∧ partUp s (c.die / 4) then cutFailed s cl abrupt else s))

/-- CORE_FAULT: the core is marked failed, its threads take MEM_FAULT, a spare core takes its number when the launch has
ended; with no spare core left the cluster is retired (R433, R441). -/
def execCoreFault (c : CoreRef) (s : State) : Out :=
  guardWf (coreWf c) (.next (
    let k := coreKey c.die c.cl c.core
    let cl := clKey c.die c.cl
    let q := physOf s cl
    let phys := physCoreOf s c.die q c.core
    if !(running s) ∨ (mfind s.clusterOut cl).isSome ∨ !(partUp s (c.die / 4)) ∨ (getCore s k).fault then s
    else
      let spares := coreSpares s c.die q
      let s := { s with coreGone := mput (pclKey c.die q * 128 + phys) () s.coreGone, calDirty := true }
      let s := emit s 0x0027 (srcDie c.die q) [(1, c.core), (1, phys)]
      let s := faultCore s k
      if spares = 0 then cutFailed s cl false
      else
        let s := setCore s k { getCore s k with fault := true }
        health (if (getCore s k).launch.isNone then swapCore s k else s)))

end Sys2Proof.Machine
end

