-- ==== Sys2Proof/Machine/Power.lean ====
section
/-! DEFINITION. The power governor: estimates, allowances, slope, pauses, hints, operating points (R40 to R42, R396 to R413, R518, R524). -/
namespace Sys2Proof.Machine

/-! ## Figures (R396, R403) -/

/-- Burst and sustained limits and floor power, in mW. -/
def pBurst (s : State) : Int := if small s then 27000000 else 54000000
def pSust (s : State) : Int := if small s then 24000000 else 48000000
def pFloor (s : State) : Int := if small s then 3500000 else 6000000

/-- The average limit and its window in µs, as they are taken. -/
def pAvg (s : State) : Int := min (pSust s) (max (pFloor s) (100000 * (rfld s rPwrLimit 15 0 : Nat)))
def avgWindow (s : State) : Nat := 1000000 * (if rfld s rPwrLimit 21 16 = 0 then 1 else min 60 (rfld s rPwrLimit 21 16))

/-- CAP of a partition in mW, where there is one. -/
def capOf (s : State) (p : Nat) : Option Int :=
  if rfld s (rPwrPart p) 19 8 = 0xFFF then none else some (10000 * (rfld s (rPwrPart p) 19 8 : Nat))

/-- Floor power is held: for a coolant condition or a doubtful THM_IN_1 (R401, R418, R423). -/
def floorHeld (s : State) : Bool := s.thm.coolHeld || s.thm.in1Bad

/-! ## Hints (R409 to R411) -/

/-- What a hint asks for: its target from T_START on; before that, the power its ramp has reached. A ramp that began after T_START (at
the release of floor power) is followed to its end (R410, R411). -/
def hintAsks (s : State) (p : Nat) (x : Hint) : Int :=
  match x.ramp with
  | some (t, from_) =>
    if t < x.tStart ∧ x.tStart ≤ s.timebase then x.target
    else min x.target (from_ + slopeBase s p * ((s.timebase - t) / 2000 : Nat))
  | none => if x.tStart ≤ s.timebase then x.target else 0

/-- The demand that a hub's hints and falls make at this moment, in mW: of the hints in force, the highest (R411). -/
def hintDemand (s : State) (p : Nat) : Int :=
  if floorHeld s then 0
  else
    let h := getHub s p
    (h.pow.falls.map (fallLeft s p)).foldl max ((h.hints.map (hintAsks s p)).foldl max 0)

/-- A hint accepted: its target P_h over P_base; one that starts at once begins now (R409). -/
def newHint (s : State) (p cls tStart dur : Nat) : Hint :=
  { target := (getHub s p).pow.base + (cls * 8 * coresInService s p : Nat),
    tStart := max tStart s.timebase,
    tEnd := (if tStart = 0 then s.timebase else tStart) + 1000 * dur }

/-- Room for a hint: a partition holds up to 16 (R411). -/
def hintRoom (s : State) (p : Nat) : Bool := (getHub s p).hints.length < 16

def addHint (s : State) (p : Nat) (x : Hint) : State :=
  let h := getHub s p
  setHub s p { h with hints := h.hints ++ [x] }

/-- HINT (R265, R409, R411). -/
def execHint (p op : Nat) (s : State) : Out :=
  onChosen s p op 0x18 (fun o =>
    if !(hintRoom s p) then finishUnit s p op .noResource
    else finishUnit (addHint s p (newHint s p (dFld o.desc 3 35 32) (dWord o.desc 2).toNat (dFld o.desc 3 31 0))) p op .ok)

/-- PHINT: a hint that starts at once, or is dropped and counted (R409, R411). -/
def execPhint (t : ThreadRef) (w : Word) (s : State) : Out :=
  issue .phint t w s (fun s x =>
    let p := t.die / 4
    let s := fin s t x
    if hintRoom s p then addHint s p (newHint s p (imm w 3 0) 0 (imm w 31 16))
    else leaf (setRfld s rPwrCnt 31 0 (min (2 ^ 32 - 1) (rfld s rPwrCnt 31 0 + 1))) 24 2)

/-- When a hint's ramp begins (R410): T_START less the time the rise takes, rounded up to a µs, down to a 2 µs boundary. -/
def rampTime (s : State) (p : Nat) (x : Hint) : Nat :=
  let rise := x.target - (getHub s p).pow.est
  let step := slopeBase s p
  if rise ≤ 0 ∨ step ≤ 0 then x.tStart
  else (x.tStart - 1000 * cdiv (2 * rise.toNat) step.toNat) / 2000 * 2000

/-- HINT_RAMP_START: refused while Saley restarts (R410, R425). -/
def execHintRampStart (p i : Nat) (s : State) : Out :=
  guardWf (p < 16) (.next (
    let h := getHub s p
    match h.hints[i]? with
    | none => s
    | some x =>
      let t := max s.timebase (rampTime s p x)
      if s.restarting ∨ x.ramp.isSome ∨ t ≥ x.tStart then s
      else setHub { s with timebase := t } p { h with hints := lset h.hints i { x with ramp := some (t, h.pow.est) } }))

/-- HINT_END: the hint is gone; the demand falls along the slope from what the hint asked for (R410, R411). -/
def execHintEnd (p i : Nat) (s : State) : Out :=
  guardWf (p < 16) (.next (
    let h := getHub s p
    match h.hints[i]? with
    | none => s
    | some x =>
      let t := max s.timebase x.tEnd
      let s := { s with timebase := t }
      let falls := if floorHeld s then h.pow.falls else h.pow.falls ++ [(t, hintAsks s p x)]
      setHub s p { h with hints := h.hints.eraseIdx i, pow := { h.pow with falls := falls } }))

/-! ## Estimates (R397 to R400) -/

/-- The weight of a row on a die, in 0.01 pJ. -/
def weightOf (s : State) (i r : Nat) : Nat := rfld s (rWeights i (r / 4)) (16 * (r % 4) + 15) (16 * (r % 4))

/-- The diode channels of a unit, in the numbering of `ThermalSt` (R416). -/
def unitChans (u : Nat) : List Nat :=
  if u < 64 then (List.range 4).map (fun h => 4 * u + h) else if u < 80 then [256 + (u - 64)] else if u < 144 then [336 + (u - 80)]
  else if u < 160 then [400 + 2 * (u - 144), 401 + 2 * (u - 144)] else if 200 ≤ u then [272 + (u - 200)] else []

/-- The latest valid readings of a unit's diodes, to which its weights and static power are brought (R397, R398, R426). -/
def unitReadings (s : State) (u : Nat) : List Int := (unitChans u).filterMap (mfind s.comp)

/-- What counts of the rows a test accepts draw, in mW over 2 µs (2,000 pJ to the mW), by the weights at the island's temperature. -/
def activityPower (s : State) (a : IslandAct) (counts : List Nat) (rows : Nat → Bool) : Nat :=
  ((counts.take 11).zipIdx.foldl (fun e c => if rows c.2 then e + c.1 * weightOf s a.die c.2 else e) 0)
    * Config.weightScale a.die (unitReadings s a.die) / 65536 / 200000

/-- The partition of a die, where it has one. -/
def diePart (i : Nat) : Option Nat := if i < 64 then some (i / 4) else if i < 80 then some (i - 64) else if i < 144 then some ((i - 80) / 4) else none

/-- K in 2^-14, the fused conversion efficiency, and the rise of a lost PMBus, on a figure in mW (R397, R399, R400). -/
def corrected (s : State) (mw : Nat) : Int :=
  let e := mw * 1000 / s.fuses.eff * rfld s rPwrStatus 47 32 / 16384
  ((if rbit s rPwrStatus 49 then e * 110 / 100 else e : Nat) : Int)

/-- The die's rail: OP_VOLT of the highest operating point in use on it, by the logical clusters that hold a unit (R41). -/
def railPoint (s : State) (die : Nat) : Nat :=
  (List.range 40).foldl (fun m c => if (mfind s.clusterOut (clKey die c)).isSome then m else max m (getCl s (clKey die c)).op) 0
def railMv10 (s : State) (die : Nat) : Nat :=
  5000 + 25 * fld (mget 0 s.fuses.opVolt die) (8 * railPoint s die + 7) (8 * railPoint s die)

/-- An island's power over the interval: its activity and its static power at its voltage and temperature (R397). -/
def islandPower (s : State) (a : IslandAct) : Nat :=
  activityPower s a a.counts (fun _ => true) +
    Config.staticPower a.die (weightOf s a.die 11) (if a.die < 64 then railMv10 s a.die else 0) (unitReadings s a.die)

/-- The sum of a figure over the islands a test accepts. -/
def sumActs (acts : List IslandAct) (ok : Nat → Bool) (f : IslandAct → Nat) : Nat :=
  acts.foldl (fun n a => if ok a.die then n + f a else n) 0

/-- A partition's figures for the interval. -/
def partEstimate (s : State) (acts : List IslandAct) (p : Nat) : State :=
  let mine (i : Nat) : Bool := diePart i == some p
  let est := corrected s (sumActs acts mine (islandPower s))
  let mv (a : IslandAct) : Nat := if a.die < 64 then activityPower s a a.counts (fun r => r < 4) else 0
  let bal := corrected s (sumActs acts mine (fun a => activityPower s a a.ballast (fun _ => true)))
  let held := corrected s (sumActs acts mine (·.held))
  let h := getHub s p
  let w := h.pow
  let s := setHub s p { h with pow := { w with
    prev := w.est, est := est, ballast := bal, base := est - corrected s (sumActs acts mine mv), demand := est + held,
    used := w.used + max 0 (est - w.est) } }
  setRfld s (rPwrPart p) 63 48 (min 65535 (est.toNat / 10000))

/-- The mean over the intervals since a time. -/
def meanSince (s : State) (t : Nat) (f : Int × Int → Int) : Int :=
  let l := s.pow.hist.filter (fun e => t < e.1)
  if l.isEmpty then 0 else l.foldl (fun a e => a + f e.2) 0 / (l.length : Int)

/-- POWER_ESTIMATE: every island's energy over the 2 µs just ended, the partitions' estimates and the package's (R397, R398). A
fall of more than the slope without ballast is counted (R405). -/
def execPowerEstimate (acts : List IslandAct) (s : State) : Out :=
  guardWf (acts.all (fun a => a.die < 153)) (.next (
    if !(running s) then s
    else
      let raw := sumActs acts (fun _ => true) (islandPower s)
      let cor := corrected s raw
      let before := (s.pow.hist.head?.map (fun e => e.2.1)).getD cor
      let s := (partsUp s).foldl (fun s p => partEstimate s acts p) s
      let keep := 1000 * avgWindow s + 100000000
      let hist := (s.timebase, cor, ((raw * 1000 / s.fuses.eff : Nat) : Int)) :: s.pow.hist.filter (fun e => s.timebase < e.1 + keep)
      let s := { s with pow := { s.pow with
        hist := hist,
        optical := corrected s (sumActs acts (fun i => 144 ≤ i && i < 152) (islandPower s)),
        saley := corrected s (sumActs acts (fun i => i == 152) (islandPower s)) } }
      let s := setRfld s rPwrStatus 15 0 (min 65535 ((meanSince s (s.timebase - 20000) (·.1)).toNat / 10000))
      if !(rbit s rPwrCtl 10) ∧ before - cor > (2000 * slopeLimit s : Nat) then
        setRfld s rPwrCnt 63 32 (min (2 ^ 32 - 1) (rfld s rPwrCnt 63 32 + 1))
      else s))

/-- K_UPDATE: a complete set of readings, their sum in mW (R399, R400). -/
def execKUpdate (pin : Nat) (s : State) : Out :=
  .next (
    if !(running s) ∨ s.restarting then s
    else
      let k := rfld s rPwrStatus 47 32
      let est := (meanSince s (s.timebase - 10000000) (·.2)).toNat
      let new := if est = 0 then k else pin * 16384 / est
      let new := max (cdiv (16384 * 80) 100) (min (16384 * 125 / 100) new)
      let new := max (cdiv (k * 98) 100) (min (k * 102 / 100) new)
      let s := setRfld (setRfld s rPwrStatus 47 32 (min 65535 new)) rPwrStatus 31 16 (min 65535 (pin / 10000))
      setRbit { s with pow := { s.pow with pmbAt := s.timebase } } rPwrStatus 49 false)

/-- PMBUS_LOST: 100 ms without a complete set (R400). -/
def execPmbusLost (s : State) : Out :=
  .next (
    if !(running s) ∨ s.restarting ∨ rbit s rPwrStatus 49 then s
    else
      let s := { s with timebase := max s.timebase (s.pow.pmbAt + 100000000) }
      leaf (emit (setRbit s rPwrStatus 49 true) 0x0053 0 []) 24 0)

/-- PMB_ALERT: an event record for every fault bit that a configured controller's STATUS_WORD shows; the cause table has no
code of its own for it (R524, log entry 23). -/
def execPmbAlert (i : Nat) (status : BitVec 16) (s : State) : Out :=
  guardWf (0x40 ≤ i && i < 0x48) (.next (
    if !(running s) ∨ s.restarting ∨ extestOn s ∨ !(s.pow.pmbus.contains i) then s
    else ((List.range 16).filter (fun b => status.getLsbD b)).foldl (fun s b =>
      emit s (Config.code 0x524 0 % 65536) 0 [(1, i), (1, b)]) s))

/-! ## Allowance (R401 to R404, R518) -/

/-- room(P, W) with W in µs (R401). -/
def roomIn (s : State) (limit : Int) (w : Nat) : Int :=
  let from_ := s.timebase + 20000 - 1000 * w
  let e := (s.pow.hist.filter (fun h => from_ < h.1)).foldl (fun a h => a + 2 * h.2.1) 0
  (limit * w - e) / 20

/-- The package allowance. -/
def packageAllowance (s : State) : Int :=
  let a := min (roomIn s (pBurst s) 1000) (min (roomIn s (pSust s) 100000) (roomIn s (pAvg s) (avgWindow s)))
  let a := if floorHeld s then min a (pFloor s) else a
  let a := max a (pFloor s)
  match s.pow.vinCap with
  | some c => min a c
  | none => a

/-- A sum given out in proportion to SHARE, none beyond its limit; where only partitions of share 0 are left it is given in
equal parts (R402; the equal parts: log entry 60). -/
def fillUp (s : State) (lim : Nat → Option Int) : Nat → Int → AMap Int → AMap Int × Int
  | 0, r, m => (m, r)
  | fuel + 1, r, m =>
    let open_ := (m.map (·.1)).filter (fun p => match lim p with
      | some l => mget 0 m p < l
      | none => true)
    if r ≤ 0 ∨ open_.isEmpty then (m, r)
    else
      let give (p : Nat) : Int := match lim p with
        | some l => min (shareCut s open_ p r) (l - mget 0 m p)
        | none => shareCut s open_ p r
      let got := open_.foldl (fun a p => a + give p) 0
      if got = 0 then (m, r)
      else fillUp s lim fuel (r - got) (m.map (fun e => if open_.contains e.1 then (e.1, e.2 + give e.1) else e))

/-- A partition's demand: its estimate without pauses, or its hint target where that is higher. -/
def demandOf (s : State) (p : Nat) : Int := max (getHub s p).pow.demand (hintDemand s p)

/-- The division of the allowance (R402). -/
def divide (s : State) (a : Int) : AMap Int :=
  let ps := partsUp s
  let want (p : Nat) : Int := match capOf s p with
    | some c => min (demandOf s p) c
    | none => demandOf s p
  let r := a - s.pow.optical - s.pow.saley
  let t := shareSum s ps
  let first := ps.map (fun p => (p, max 0 (min (want p) (if t = 0 then 0 else r * (shareOf s p : Int) / (t : Int)))))
  let r := r - first.foldl (fun x e => x + e.2) 0
  let (m, r) := fillUp s (fun p => some (want p)) 20 r first
  (fillUp s (capOf s) 20 r m).1

/-- ALLOWANCE: the package's and the partitions' allowances and slope shares for the next 20 µs (R401, R402, R404). -/
def execAllowance (s : State) : Out :=
  .next (
    if !(running s) ∨ s.restarting then s
    else
      let a := packageAllowance s
      let m := divide s a
      let ps := partsUp s
      let lim := ps.filter (fun p => (getHub s p).pow.limited)
      let short := ps.any (fun p => demandOf s p > mget 0 m p)
      let unused := ps.foldl (fun x p =>
        let w := (getHub s p).pow
        if w.limited then x else x + max 0 (10 * w.slope - w.used)) 0
      let s := { s with pow := { s.pow with allow := a } }
      let s := ps.foldl (fun s p =>
        let h := getHub s p
        let extra : Int := if h.pow.limited then shareCut s lim p unused / 10 else 0
        let s := setHub s p { h with pow := { h.pow with
          allow := mget 0 m p, slope := slopeBase s p + extra, used := 0, limited := false, floor := false } }
        setRfld s (rPwrPart p) 47 32 (min 65535 ((mget 0 m p).toNat / 10000))) s
      setRbit (setRbit s rPwrStatus 50 short) rPwrStatus 51 (!lim.isEmpty))

/-- VIN48_SAMPLE: the allowance is capped at the maximum input current (R518); no allowance is computed while Saley restarts (R425). -/
def execVin48Sample (mv : Nat) (s : State) : Out :=
  .next (
    let cap : Int := ((if small s then 625 else 1250) * mv : Nat)
    let s := { s with pins := { s.pins with vin := mv } }
    if !(running s) ∨ s.restarting then s else { s with pow := { s.pow with vinCap := some cap, allow := min s.pow.allow cap } })

/-! ## Pauses (R406, R407, R413) -/

/-- A descriptor's PRIO, as its ring lets it be served, counts as background (R264, R412). -/
def isBg (s : State) (p : Nat) (o : Op) : Bool := min (dPrio o.desc) (getRing s p o.ring).rprioMax ≤ rfld s rPwrCtl 19 16

/-- A cluster runs background work. -/
def clusterBg (s : State) (cl : Nat) : Bool :=
  s.cores.any (fun kc => clOf kc.1 == cl && (match kc.2.launch with
    | some l => (match getOp s l.part l.op with
      | some o => isBg s l.part o
      | none => false)
    | none => false))

/-- A cluster holds a launch. -/
def clusterBusy (s : State) (cl : Nat) : Bool := s.cores.any (fun kc => clOf kc.1 == cl && kc.2.launch.isSome)

/-- The clusters of a partition. -/
def partClusters (p : Nat) : List Nat := (List.range 160).map (fun c => 160 * p + c)

/-- Gp of clusters raised by an amount. -/
def raiseGp (s : State) (cls : List Nat) (n : Nat) : State :=
  cls.foldl (fun s c => markThrottled (setGp s c (min 16 ((getCl s c).gp + n))) c) s

/-- Gp of clusters lowered by 1. -/
def lowerGp (s : State) (cls : List Nat) : State := cls.foldl (fun s c => setGp s c ((getCl s c).gp - 1)) s

/-- The estimate lies above the allowance, or has risen by more than the slope budget permits; or it lies below both (R407). -/
def overPower (w : Pow) : Bool := w.est > w.allow || w.est > w.prev + w.slope
def underPower (w : Pow) : Bool := w.est < w.allow && w.est < w.prev + w.slope

/-- Pauses for heat act on the partition: a fall is then taken to be theirs, which no ballast fills (R405, log entry 60). -/
def heatPaused (s : State) (p : Nat) : Bool := (partClusters p).any (fun c => gtOf s c != 0)

/-- Ballast has a gap to fill: a hint's ramp, up to 20 µs past its T_START, a fall after one, or a fall steeper than the slope
(R405, R412, R413). -/
def ballastGap (s : State) (p : Nat) : Bool :=
  let h := getHub s p
  rbit s rPwrCtl 10 && !(floorHeld s) &&
  (h.hints.any (fun x => x.ramp.isSome && s.timebase < x.tStart + 20000 && h.pow.est < hintDemand s p)
    || h.pow.falls.any (fun f => fallLeft s p f > h.pow.est)
    || (h.pow.est + slopeBase s p < h.pow.prev && !(heatPaused s p)))

/-- Ballast started in clusters without a launch, or stopped. -/
def setBallast (s : State) (p : Nat) : State :=
  let on := ballastGap s p
  (partClusters p).foldl (fun s c =>
    let x := getCl s c
    let b := on && !(clusterBusy s c)
    if x.ballast = b then s else setCl s c { x with ballast := b }) s

/-- PAUSE_LEVEL_UPDATE: a hub over its allowance or its rise budget raises Gp, by at most 4 on the clusters of background work
and then by at most 4 on all (by how much is free, log entry 1); under both it lowers Gp by 1, first where no background work
runs (R407). -/
def execPauseLevelUpdate (p : Nat) (s : State) : Out :=
  guardWf (p < 16) (.next (
    if s.stage ≠ .up ∨ !(partUp s p) then s
    else
      let cls := partClusters p
      let w := (getHub s p).pow
      let bg := cls.filter (clusterBg s)
      let s :=
        if !(overPower w) ∧ !(underPower w) then s
        else if overPower w then
          let a := Config.freeNat s.free
          let b := Config.freeNat (s.free + 1)
          let s := { s with free := s.free + 2 }
          let s := if bg.isEmpty then raiseGp s cls (1 + b % 4) else raiseGp (raiseGp s bg (1 + a % 4)) cls (b % 5)
          let h := getHub s p
          setHub s p { h with pow := { h.pow with limited := h.pow.limited || h.pow.est > h.pow.prev + h.pow.slope } }
        else
          let fore := cls.filter (fun c => !(bg.contains c) && (getCl s c).gp != 0)
          lowerGp s (if fore.isEmpty then bg else fore)
      let h := getHub s p
      let live := h.pow.falls.filter (fun f => fallLeft s p f > h.pow.base)
      setBallast (setHub s p { h with pow := { h.pow with falls := live } }) p))

/-! ## Operating points (R40 to R42, R408) -/

/-- Operating points that the committed table permits, and its default. -/
def opPermit (s : State) (p i : Nat) : Bool := (getHub s p).opAct.getLsbD i
def opDefault (s : State) (p : Nat) : Nat := fld (getHub s p).opAct 10 8

/-- A cluster moved to an operating point. -/
def moveOp (s : State) (cl op : Nat) : State := setCl s cl { getCl s cl with op := op }

/-- Where a cluster that a table does not permit goes: the highest permitted point below, else the lowest permitted (R408). -/
def legalOp (s : State) (p op : Nat) : Nat :=
  if opPermit s p op then op
  else match ((List.range op).filter (opPermit s p)).getLast? with
    | some i => i
    | none => (((List.range 8).filter (opPermit s p)).head?).getD op

/-- The clusters of a partition where the committed table and OP_AUTO have them: with OP_AUTO at a point it permits, else at DEFAULT
(R408). -/
def settleOps (s : State) (p : Nat) : State :=
  (partClusters p).foldl (fun s c =>
    let x := getCl s c
    let op := if rbit s rPwrCtl 11 then legalOp s p x.op else opDefault s p
    if op = x.op then s else moveOp s c op) s

/-- A write of PWR_CTL: without OP_AUTO every cluster runs at DEFAULT (R408). -/
def pwrCtlWrite (s : State) (v : Word) : State :=
  let s := writeReg s rPwrCtl v
  if rbit s rPwrCtl 11 then s else (partsUp s).foldl settleOps s

/-- OPERATING_POINT_CHANGE: to a permitted point, or to DEFAULT without OP_AUTO (R41, R408). -/
def execOperatingPointChange (c : ClusterRef) (op : Nat) (s : State) : Out :=
  guardWf (clusterWf c && op < 8) (.next (
    let p := c.die / 4
    let ok := if rbit s rPwrCtl 11 then opPermit s p op else op == opDefault s p
    if running s ∧ partUp s p ∧ ok then moveOp s (clKey c.die c.cl) op else s))

/-- OP_AUTO_MOVE: down by one permitted point after Gp has stood at 6 or more for 1 ms; up by one after it has stood at 0 for
1 ms with a tenth of a[p] unused (R408). -/
def execOpAutoMove (c : ClusterRef) (s : State) : Out :=
  guardWf (clusterWf c) (.next (
    let p := c.die / 4
    let cl := clKey c.die c.cl
    let x := getCl s cl
    let w := (getHub s p).pow
    let past (t : Option Nat) : Bool := match t with
      | some t => t + 1000000 ≤ s.timebase
      | none => false
    if s.stage ≠ .up ∨ !(rbit s rPwrCtl 11) ∨ !(partUp s p) then s
    else if past x.gpHigh then
      match ((List.range x.op).filter (opPermit s p)).getLast? with
      | some i => setCl s cl { x with op := i, gpHigh := some s.timebase }
      | none => s
    else if past x.gpZero ∧ 10 * w.est ≤ 9 * w.allow then
      match ((List.range 8).filter (fun i => x.op < i && opPermit s p i)).head? with
      | some i => setCl s cl { x with op := i, gpZero := some s.timebase }
      | none => s
    else s))

/-- OSCILLATOR_CHECK: the oscillator's deviation from the package reference, in parts per million, is taken out; in holdover
there is no reference to check against (R39, R42). -/
def execOscillatorCheck (c : ClusterRef) (ppm : Int) (s : State) : Out :=
  guardWf (clusterWf c) (.next (
    let cl := clKey c.die c.cl
    let x := getCl s cl
    if running s ∧ !(rbit s rRefclk 4) ∧ partUp s (c.die / 4) then setCl s cl { x with trim := x.trim - ppm } else s))

end Sys2Proof.Machine
end

