-- ==== Sys2Proof/Machine/Net.lean ====
section
/-! DEFINITION. The hub network: routing a packet, moving an entry's traffic, requests that fail (R295 to R304, R359, R540). -/
namespace Sys2Proof.Machine

/-- What a hub reports of a packet that ends there. -/
def netAnswer (s : State) (p : Nat) (st : Status) : State :=
  let h := getHub s p
  setHub s p { h with resp := { status := st }, routed := none }

/-- The entry a packet uses: Saley's packets go by PART_ROUTE (R297, R303). -/
def entryFor (s : State) (k : RoutePacket) : Nat := entryOff s k.host k.target.toNat

/-- The alternatives of the entry in the tables of the packet's epoch, open to every domain for a host mark (R303, R304). -/
def altsFor (s : State) (p : Nat) (k : RoutePacket) (off : Nat) : List Alt :=
  let e := if k.old && rfld s rEpochStatus 2 0 == 4 then (mfind (getHub s p).routeOld off).getD (regReset (small s) (pBase p + off), 0) else activeRoute s p off
  openAlts k.host e

/-- A packet comes over a hub-to-hub link (R540). -/
def fromHub (k : RoutePacket) : Option Nat := if 0x10 ≤ k.srcPort ∧ k.srcPort < 0x20 then some (k.srcPort - 0x10) else none

/-- A packet as it enters the hub: one that comes from a hub keeps its level and epoch tag; any other is stamped with the epoch
current now, and starts at level 0 (R296, R304, R341). -/
def stampPkt (k : RoutePacket) : RoutePacket := if (fromHub k).isSome then k else { k with old := false, hops := 0 }

/-- A packet must wait for traffic of its entry that is still out on another egress (R300). -/
def mustSettle (s : State) (p off e : Nat) (k : RoutePacket) (spread : Bool) : Bool :=
  (getHub s p).outst.any (fun o =>
    o.2.off == off && (match o.2.egress with
      | some e' => e' != e && (!spread || (o.2.pkt.target.toNat / 64 == k.target.toNat / 64 && o.2.pkt.srcPort == k.srcPort))
      | none => false))

/-- An earlier packet of the entry, other than number r, is still held at the hub: packets of an entry go in order (R300). -/
def heldBefore (s : State) (p off r : Nat) : Bool :=
  (getHub s p).outst.any (fun o => o.1 < r && o.2.off == off && o.2.egress.isNone)

/-- A packet of the new epoch must wait for old packets of an entry whose alternatives the boundary changed (R512). -/
def epochWaits (s : State) (p off : Nat) (k : RoutePacket) : Bool :=
  let h := getHub s p
  !k.old && rfld s rEpochStatus 2 0 == 4
    && (mfind h.routeOld off).getD (regReset (small s) (pBase p + off), 0) != activeRoute s p off
    && h.outst.any (fun o => o.2.off == off && o.2.pkt.old && o.2.egress.isSome)

/-- The virtual channel of a packet on a link to the hub of partition q (R296). -/
def vcKey (q cls level : Nat) : Nat := 12 * q + 4 * cls + level

/-- A credit is at hand on a hub-to-hub link: the receiving port holds at least 4 flit buffers per virtual channel (R296). -/
def vcCredit (s : State) (p q : Nat) (k : RoutePacket) : Bool :=
  let n := mget 0 (getHub s p).vc (vcKey q k.cls k.hops)
  n < 4 || n < Config.hubFlits

/-- Flits of a packet on hub-to-hub links (R20, R341). -/
def hubFlits (k : RoutePacket) : Nat := pktFlits k.dlen

/-- The flits that a virtual channel of hub p toward hub q holds changed. -/
def vcSet (s : State) (p q cls level : Nat) (f : Nat → Nat) : State :=
  let h := getHub s p
  let i := vcKey q cls level
  setHub s p { h with vc := mput i (f (mget 0 h.vc i)) h.vc }

/-- A packet that comes from another hub leaves its receive buffers, and the credits go back (R296). -/
def vcFree (s : State) (p : Nat) (k : RoutePacket) : State :=
  match fromHub k with
  | some q => if k.hops = 0 then s else vcSet s q p k.cls (k.hops - 1) (fun n => n - hubFlits k)
  | none => s

/-- A packet noted at its hub as sent or held. -/
def noteOut (s : State) (p r : Nat) (o : Outst) : State :=
  let h := getHub s p
  setHub s p { h with outst := mput r o h.outst }

/-- A note taken off. -/
def dropNote (s : State) (p r : Nat) : State :=
  let h := getHub s p
  setHub s p { h with outst := mdel r h.outst }

/-- A request has reached its final unit in the package, or failed: its notes stay until it is answered, but it is in flight no more
(R513). -/
def noteArrived (s : State) (p r : Nat) : State :=
  match mfind (getHub s p).outst r with
  | some o => noteOut s p r { o with arrived := true }
  | none => s

/-- A packet has reached its final unit in the package, or has failed: the notes of a response or stream packet go (R300, R513). -/
def dropTrack (s : State) (k : RoutePacket) : State :=
  k.track.foldl (fun s n => if k.cls = 0 then noteArrived s n.1 n.2 else dropNote s n.1 n.2) s

/-- DEGRADED_ROUTE for the packet's operation (R277, R299). -/
def degrade (s : State) (p : Nat) (k : RoutePacket) (d : Bool) : State :=
  match d, k.op with
  | true, some n =>
    (match mfind (getHub s p).ops n with
     | some o => let h := getHub s p; setHub s p { h with ops := mput n { o with cflags := o.cflags ||| 64 } h.ops }
     | none => s)
  | _, _ => s

/-- A packet handed to a general port (R359). -/
def sendGp (s : State) (p r g : Nat) (k : RoutePacket) (o : Outst) : State :=
  let fail (i : Nat) : State :=
    let h := getHub s p
    let s := setHub s p { h with outst := mdel r h.outst }
    leaf (emit (netAnswer s p .linkLost) 0x0048 (srcGp g) [(2, i)]) (16 + g) 22
  match connFor s g (nbits k.target.toNat 63 48) with
  | none => fail 0xFFFF
  | some i =>
    if connFailed s g i then fail i
    else
      let s := if k.cls = 0 then noteOut s p r { o with conn := some i } else s
      let c := getConn s g i
      gpSend (setConn s g i { c with queue := c.queue ++ [{ cls := k.cls, flits := 0, hub := p, req := r, pkt := { k with prio := some (gpPrio s g k) } }] }) g i

/-- A packet leaves the package: one of another package that has passed 15 is discarded and counted, else it has passed one more
(R342). -/
def transit (s : State) (p : Nat) (k : RoutePacket) : Option RoutePacket × State :=
  if k.srcPkg = pkgNum s then (some k, s)
  else if k.passed ≥ 15 then
    let h := getHub s p
    (none, setHub s p { h with hopDrops := h.hopDrops + 1 })
  else (some { k with passed := k.passed + 1 }, s)

/-- A packet sent on an egress: to the next hub, over a tensor link or a general port. A request is noted until it is answered; a
response or stream packet that stays in the package, until it has arrived (R300, R301). -/
def sendOn (s : State) (p r : Nat) (k : RoutePacket) (off e : Nat) (d : Bool) : State :=
  let o : Outst := { pkt := k, off := off, egress := some e, time := s.timebase }
  let s := dropNote (degrade s p k d) p r
  let h := getHub s p
  let s := setHub s p { h with routed := some (e, d), resp := {} }
  if e < 16 then
    let s := vcSet s p e k.cls k.hops (fun n => n + hubFlits k)
    if k.cls = 0 ∨ nbits k.target.toNat 63 48 = pkgNum s then noteOut s p r o else s
  else
    match transit s p k with
    | (none, s) => dropTrack s k
    | (some k, s) =>
      let s := dropTrack (if k.cls = 0 then noteOut s p r { o with arrived := true } else s) k
      if e < 0x80 then
        let eng := e - 0x40
        let x := getEng s eng
        engSend (setEng s eng { x with queue := x.queue ++ [{ cls := k.cls, flits := pktFlits k.dlen, hub := p, req := r, pkt := k }] }) eng
      else sendGp s p r (e - 0x80) k o

/-- A packet fails at a hub for lack of a route. -/
def routeFails (s : State) (p : Nat) (k : RoutePacket) (st : Status) (record : Bool) : State :=
  netAnswer (dropTrack (if record then noRoute s p k.target.toNat k.domain else s) k) p st

/-- A hub's choice for a packet carried out (R296 to R300). -/
def routePacket (s : State) (p r : Nat) (k : RoutePacket) : State :=
  let off := entryFor s k
  let alts := altsFor s p k off
  let held (d : Bool) : State := noteOut (degrade s p k d) p r { pkt := k, off := off, egress := none, time := s.timebase }
  match chooseAlt s p alts k.domain k.target.toNat k.srcPort with
  | .noEntry => if k.issued then routeFails s p k .access false else routeFails s p k .linkLost true
  | .held => held true
  | .take e d =>
    if e < 16 ∧ k.hops ≥ 4 then routeFails s p k .linkLost true
    else if mustSettle s p off e k ((alts.head?.map (·.spread)).getD false) || heldBefore s p off r || epochWaits s p off k
        || (e < 16 && !(vcCredit s p e k)) then held d
    else sendOn s p r k off e d

/-- A packet that reached its hub: delivered to the hub's own dies, a poisoned one as an uncorrectable memory error (R291); the
request it answers, and the notes of a response, are done with. -/
def deliver' (s : State) (p : Nat) (k : RoutePacket) : State :=
  netAnswer (dropTrack s k) p (if k.poison then .faultMem else .ok)

/-- Bytes of the receive buffer that one priority has: its eighth of 4 MiB (R360, log entry 24). -/
def gpShare : Nat := 4194304 / 8

/-- PAUSING_PEER of a priority by its buffer's fill (R360). -/
def gpXoff (s : State) (g prio : Nat) : State :=
  let n := mget 0 s.gbuf (8 * g + prio)
  let on := rbit s (rGpStatus g) (16 + prio)
  setRbit s (rGpStatus g) (16 + prio) (rbit s (rGpCtl g) (48 + prio) && (if on then 2 * n ≥ gpShare else 4 * n > 3 * gpShare))

/-- A packet that general port g received is passed on: it leaves the receive buffer (R360). -/
def takeGp (s : State) (g : Nat) (b : List Byte) : State :=
  match s.gconns.find? (fun c => c.1 / 4096 == g && c.2.inbox.any (fun e => e.2.2 == b)) with
  | none => s
  | some (i, c) =>
    match c.inbox.find? (fun e => e.2.2 == b) with
    | none => s
    | some e =>
      let s := setConn s g (i % 4096) { c with inbox := c.inbox.erase e }
      gpXoff { s with gbuf := mput (8 * g + e.1) (mget 0 s.gbuf (8 * g + e.1) - e.2.1) s.gbuf } g e.1

/-- A packet that an engine of die o received is passed on: its flits are freed (R344). -/
def takeEng (s : State) (o : Nat) (b : List Byte) : State :=
  match s.engs.find? (fun e => e.1 / 8 == o && e.2.inbox.any (fun k => k.2.2 == b)) with
  | none => s
  | some (i, x) =>
    match x.inbox.find? (fun k => k.2.2 == b) with
    | none => s
    | some k =>
      setEng s i { x with inbox := x.inbox.erase k, passed := lset x.passed k.1 ((lget 0 x.passed k.1 + k.2.1) % 2 ^ 32) }

/-- A packet from an optical die is taken from where it was received, if it stands there (R344, R360). -/
def takeIn (s : State) (k : RoutePacket) : State :=
  if 0x20 ≤ k.srcPort ∧ k.srcPort < 0x28 then
    (if k.gp then takeGp s (k.srcPort - 0x20) (packetBytes k) else takeEng s (k.srcPort - 0x20) (packetBytes k))
  else s

/-- HUB_ROUTE (R297, R299, R303, R304): a packet for the hub's own dies is delivered; a response ends its request. -/
def execHubRoute (p : Nat) (k : RoutePacket) (s : State) : Out :=
  guardWf (routeWf p k) (.next (
    if !(running s) ∨ !(partUp s p) then s
    else
      let k := stampPkt k
      let s := vcFree (takeIn s k) p k
      let s := match k.answers with
        | some r => dropNote s p r
        | none => s
      let ga := k.target.toNat
      if nbits ga 63 48 = pkgNum s ∧ nbits ga 47 44 = p then deliver' s p k
      else
        let h := getHub s p
        routePacket (setHub s p { h with nextReq := h.nextReq + 1 }) p h.nextReq k))

/-- A held packet tried again. -/
def retryHeld (s : State) (p : Nat) (e : Nat × Outst) : State :=
  let s := routePacket (dropNote s p e.1) p e.1 e.2.pkt
  let h := getHub s p
  match mfind h.outst e.1 with
  | some o => if o.egress.isNone then setHub s p { h with outst := mput e.1 { o with time := e.2.time } h.outst } else s
  | none => s

/-- ROUTE_FAILOVER: an entry's waiting packets go on, in order, where nothing of it is out on another egress (R300). -/
def execRouteFailover (p off : Nat) (s : State) : Out :=
  guardWf (p < 16) (.next (
    ((getHub s p).outst.filter (fun o => o.2.off == off && o.2.egress.isNone)).foldl (fun s e => retryHeld s p e) s))

/-- A packet still in an engine's or a connection's queue is taken from it. -/
def unqueue (s : State) (p r : Nat) : State :=
  let keep (k : EngPkt) : Bool := !(k.hub == p && k.req == r)
  { s with engs := s.engs.map (fun e => (e.1, { e.2 with queue := e.2.queue.filter keep })),
           gconns := s.gconns.map (fun e => (e.1, { e.2 with queue := e.2.queue.filter keep })) }

/-- A request failed at its hub; one of a collective fails the collective (R380). -/
def failReq (s : State) (p r : Nat) (st : Status) : State :=
  let h := getHub s p
  let s' := netAnswer (setHub (unqueue s p r) p { h with outst := mdel r h.outst }) p st
  match (mfind h.outst r).bind (·.pkt.op) with
  | none => s'
  | some n =>
    match h.colls.find? (fun e => e.2.op == n) with
    | some (i, c) => collFail s' p i st c.rank
    | none => s'

/-- A note that ends with its link: a request fails, a response or stream packet has failed unseen (R300, R301). -/
def loseNote (s : State) (p r : Nat) (o : Outst) : State :=
  if o.pkt.cls = 0 ∨ o.egress.isNone then failReq s p r .linkLost else dropNote s p r

/-- A request of a ring's unit that never had its answer (R291). -/
def ringTimeout (s : State) (die ring stop txid : Nat) : State :=
  let t := getStop s die ring stop
  match mfind t.opened txid with
  | none => s
  | some at_ =>
    let s := { s with timebase := max s.timebase (at_ + linkTimeoutNs s (die / 4)) }
    setStop s die ring stop { t with opened := mdel txid t.opened, ended := mput txid .linkLost t.ended }

/-- LINK_TIMEOUT (R291, R301). -/
def execLinkTimeout (p : Nat) (req : TimeoutRef) (s : State) : Out :=
  guardWf (p < 16) (.next (
    match req with
    | .ring die ring stop txid => if die / 4 = p then ringTimeout s die ring stop txid else s
    | .hub r =>
      match mfind (getHub s p).outst r with
      | none => s
      | some o =>
        let s := { s with timebase := max s.timebase (o.time + linkTimeoutNs s p) }
        let s := if o.egress.isNone then noRoute s p o.pkt.target.toNat o.pkt.domain else s
        loseNote s p r o))

/-- No alternative of the entry of a line's package is up any more at hub p. -/
def lastRouteGone (s : State) (p ga : Nat) : Bool :=
  nbits ga 63 48 != pkgNum s && !((entryAlts (activeRoute s p (routeEntryOff s ga))).any (fun a => a.valid && egressUp s p a.egress))

/-- The remote-data cache of hub p lets the lines of a package go whose last route has gone down (R213). -/
def dropUnrouted (s : State) (p : Nat) : State := discardRdc s p (fun l => lastRouteGone s p (l.line * 64))

/-- An egress leaves service: its record, every request sent on it fails, and the remote-data cache lets the lines of a package
go whose last route this was (R213, R301). -/
def egressDown (s : State) (p e : Nat) : State :=
  let s := emit s 0x0036 (srcLink p e) [(1, e)]
  let s := dropUnrouted s p
  ((getHub s p).outst.filter (fun o => o.2.egress == some e)).foldl (fun s o => loseNote s p o.1 o.2) s

/-- A hub-to-hub link leaves service at both ends (R26). -/
def hubLinkDown (s : State) (p q : Nat) : State :=
  let one (s : State) (p q : Nat) : State := if rbit s (rEgr p) q then egressDown (setRbit s (rEgr p) q false) p q else s
  one (one s p q) q p

/-- The hubs attached to an optical die. -/
def hubsOf (s : State) (o : Nat) : List Nat := (List.range (nParts s)).filter (fun p => optAttached (small s) p o)

/-- The link of general port g is down: its leaf, and the lines of packages that only it led to (R213, R356). -/
def gpFalls (s : State) (g : Nat) : State :=
  if !(rbit s (rGpStatus g) 0) then s
  else (hubsOf s g).foldl dropUnrouted (leaf (setRbit s (rGpStatus g) 0 false) (16 + g) 21)

/-- The egresses of an optical die leave service at one hub (R26). -/
def optLinkDown (s : State) (p o : Nat) : State :=
  if !(rbit s (rEgr p) (16 + o)) then s
  else
    let live := ((0x80 + o) :: (List.range 8).map (fun e => 0x40 + 8 * o + e)).filter (egressUp s p)
    live.foldl (fun s e => egressDown s p e) (setRbit s (rEgr p) (16 + o) false)

end Sys2Proof.Machine
end

