-- ==== Sys2Proof/Machine/Melux.lean ====
section
/-! DEFINITION. Melux links: flits and retry, credits, control messages, lane changes, training and failure (R316, R336 to R355). -/
namespace Sys2Proof.Machine

/-- A row of an engine: nothing happens while its die is absent or out. -/
def onEng (s : State) (eng : Nat) (ok : Bool) (f : State) : Out := guardWf (eng < 64 && ok) (.next (if engLive s eng then f else s))

/-- What the engine holds goes on where it may: packets and Currant frames. -/
def lineGoesOn (s : State) (eng : Nat) : State :=
  let s := engSend s eng
  curTell (curPump s eng (getEng s eng).cur.queue.length) eng false

/-! ## Retry (R346) -/

/-- A replay: counted, and every unacknowledged flit sent again. -/
def replay (s : State) (eng : Nat) : State := resend (mlxCount s eng 3 1) eng

/-- A received flit's ACK and NAK (R346). After a block that a loss swap or a drop named, the first flit received starts the one
replay (DEDUCED, log entry 58). -/
def headerAck (s : State) (eng : Nat) (h : FlitHead) : State :=
  let x := getEng s eng
  let first := (x.txSeq + 4096 - x.unack.length) % 4096
  let n := if h.ackV then (h.ack + 4096 - first) % 4096 + 1 else 4096
  let x := if n ≤ x.unack.length then { x with unack := x.unack.drop n, ackAt := s.timebase } else x
  let again : Bool := match x.lastNak with
    | some (a, t) => a == h.ack && decide (s.timebase < t + 1000)
    | none => false
  let due := ((h.nak && !again) || x.replayDue) && !(changePending x.tx)
  let s := if due && !x.unack.isEmpty then
      replay (setEng s eng { x with lastNak := some (h.ack, s.timebase), ackAt := s.timebase, replayDue := false }) eng
    else setEng s eng { x with replayDue := x.replayDue && changePending x.tx }
  engSend s eng

/-- The first discard sets NAK, in the next flit (R346). -/
def setNak (s : State) (eng : Nat) : State :=
  let x := getEng s eng
  if x.nak then s else setEng s eng { x with nak := true, nakAt := s.timebase, nakDue := true }

/-- A data flit after its header: in sequence, and with room in its class's 1,024 flits, it is accepted, and a packet that it ends
waits for a hub; any other is discarded (R341, R344, R346; a flit beyond the room: log entry 58). -/
def acceptData (s : State) (eng : Nat) (h : FlitHead) (p : List Byte) : State :=
  let x := getEng s eng
  if h.seq = x.expect ∧ (lget 0 x.got h.cls + 2 ^ 32 - lget 0 x.passed h.cls) % 2 ^ 32 < 1024 then
    let part : Option (List Byte) := if h.sop then some (p.take h.valid) else x.asm.map (fun b => b ++ p.take h.valid)
    let whole := if h.eop then part.bind (packetOf (0x20 + eng / 8) false) else none
    setEng s eng { x with
      expect := (x.expect + 1) % 4096, ackV := true, nak := false, nakDue := false,
      got := lset x.got h.cls ((lget 0 x.got h.cls + 1) % 2 ^ 32), asm := if h.eop then none else part,
      inbox := match whole with
        | some k => x.inbox ++ [(h.cls, pktFlits k.dlen, packetBytes k)]
        | none => x.inbox }
  else setNak s eng

/-- REPLAY_TIMEOUT (R346). -/
def execReplayTimeout (eng : Nat) (s : State) : Out :=
  onEng s eng true (
    let x := getEng s eng
    if linkState s eng ≠ 4 ∨ x.unack.isEmpty ∨ changePending x.tx then s
    else
      let s := { s with timebase := max s.timebase (x.ackAt + 5000) }
      replay (setEng s eng { x with ackAt := s.timebase }) eng)

/-- NAK_REPEAT (R346). -/
def execNakRepeat (eng : Nat) (s : State) : Out :=
  onEng s eng true (
    let x := getEng s eng
    if linkState s eng ≠ 4 ∨ !x.nak ∨ changePending x.rx then s
    else
      let s := { s with timebase := max s.timebase (x.nakAt + 2000) }
      setEng s eng { x with nakAt := s.timebase, nakDue := true })

/-! ## Control messages (R316, R320, R343 to R348) -/

/-- FREED taken over (R344). -/
def takeCredit (s : State) (eng : Nat) (freed : List Nat) : State :=
  if linkState s eng = 4 then engSend (setEng s eng { getEng s eng with freed := freed }) eng else s

/-- CREDIT (R344). -/
def execCredit (eng : Nat) (freed : List Nat) (s : State) : Out :=
  onEng s eng (freed.length == 3 && freed.all (fun n => n < 2 ^ 32)) (takeCredit s eng freed)

/-- A byte of an OMA register. -/
def setOma (s : State) (r w v : Nat) : State := setRfld s (r + 8 * (w / 8)) (8 * (w % 8) + 7) (8 * (w % 8)) v

/-- The far end's figures for this transmitter taken over (R316). -/
def takePower (s : State) (eng : Nat) (omas : List Nat) : State :=
  let s := omas.zipIdx.foldl (fun s v => setOma s (rFeOma (eng / 8) (eng % 8) 0) v.2 v.1) s
  setEng s eng { getEng s eng with feAt := (List.range 20).map (fun w => (w, s.timebase)) }

/-- RX_POWER (R316). -/
def execRxPower (eng : Nat) (omas : List Nat) (s : State) : Out :=
  onEng s eng (omas.length == 20 && omas.all (fun n => n < 256)) (takePower s eng omas)

/-- OMA_MEASUREMENT of a wavelength (R316), in tenths of a dBm. -/
def execOmaMeasurement (eng wl : Nat) (oma : Int) (s : State) : Out :=
  onEng s eng (wl < 20) (
    let x := getEng s eng
    let a := mget (0, 0) x.oma wl
    setEng s eng { x with oma := mput wl (a.1 + oma, a.2 + 1) x.oma })

/-- RX_OMA_PUBLISH: the mean of each measured wavelength (R316). -/
def execRxOmaPublish (eng : Nat) (s : State) : Out :=
  onEng s eng true (
    let x := getEng s eng
    let s := x.oma.foldl (fun s e =>
      let m := e.2.1 / (e.2.2 : Int)
      let m := if m < -128 then -128 else if m > 127 then 127 else m
      setOma s (rRxOma (eng / 8) (eng % 8) 0) e.1 (intBits 8 m)) s
    setEng s eng { getEng s eng with oma := [] })

/-- The peer's steering point noted (R349, R350). -/
def takeAnn (s : State) (eng t : Nat) (moves : Bool) : State := setEng s eng { getEng s eng with ann := some (t, moves) }

/-- STEER_ANN (R349, R350). -/
def execSteerAnn (eng t : Nat) (moves : Bool) (s : State) : Out := onEng s eng true (takeAnn s eng t moves)

/-- Peers over links in service that report LOCKED: MASTER, STRATUM, engine. -/
def lockedPeers (s : State) : List (Nat × Nat × Nat) :=
  s.engs.filterMap (fun e => match e.2.peer with
    | some (m, st, true) => if linkState s e.1 = 4 then some (m, st, e.1) else none
    | _ => none)

def rankBefore (a b : Nat × Nat × Nat) : Bool :=
  a.1 < b.1 || (a.1 == b.1 && (a.2.1 < b.2.1 || (a.2.1 == b.2.1 && a.2.2 < b.2.2)))

/-- The peer to follow: the lowest MASTER, then STRATUM, then engine. -/
def followed (s : State) : Option (Nat × Nat × Nat) :=
  (lockedPeers s).foldl (fun b a => match b with
    | none => some a
    | some x => if rankBefore a x then some a else some x) none

/-- The TIMEBASE at which the next flit's first symbol leaves (R347). -/
def nextTx (s : State) (eng : Nat) : Nat := max s.timebase ((getEng s eng).busy / 1000)

/-- TS_SYNC as this package sends it (R347). The MASTER of a package that follows no peer and is none is a free value. -/
def tsMsg (s : State) (eng : Nat) : CtlMsg :=
  let x := getEng s eng
  let me := rbit s rTbCtl 0
  .tsSync (nextTx s eng) ((x.tsLast.map (·.2)).getD 0) ((x.tsLast.map (·.1)).getD 0) ((x.tsNum + 1) % 256)
    (if me then pkgNum s else ((followed s).map (·.1)).getD (fld (Config.freeWord s.free) 15 0))
    (if me then 0 else min 255 (((followed s).map (fun p => p.2.1 + 1)).getD 255)) (me || rbit s rTbStatus 0)

/-- The message of a TYPE that a timer sends: CREDIT 1, RX_POWER 2, TS_SYNC 3, ROLE_MAP 6, LINK_ID 8. -/
def timedMsg (s : State) (eng kind : Nat) : CtlMsg :=
  match kind with
  | 1 => .credit (getEng s eng).passed
  | 2 => rxPowerMsg s eng
  | 3 => tsMsg s eng
  | 6 => roleMapMsg s eng
  | _ => linkIdMsg s eng

/-- CONTROL_MESSAGE_SEND: CREDIT 1, RX_POWER 2, TS_SYNC 3, ROLE_MAP 6 or LINK_ID 8 goes out in a control flit; LINK_ID in training
and relock, ROLE_MAP there and in UP, the others in UP (R345, R347). -/
def execControlMessageSend (eng kind : Nat) (s : State) : Out :=
  onEng s eng (kind == 1 || kind == 2 || kind == 3 || kind == 6 || kind == 8) (
    let st := linkState s eng
    let may : Bool := (st == 4 && kind != 8) || ((st == 3 || st == 5) && (kind == 6 || kind == 8))
    if !may ∨ (kind = 3 ∧ !(rbit s (rMlxCtl (eng / 8)) 0)) then s
    else
      let at_ := nextTx s eng
      let s := sendCtl s eng [timedMsg s eng kind]
      let x := getEng s eng
      let x := { x with ctlAt := mput kind s.timebase x.ctlAt }
      if kind = 3 then setEng { s with free := s.free + 1 } eng { x with tsNum := (x.tsNum + 1) % 256, tsSent := at_ } else setEng s eng x)

/-- A role map taken over for the direction the peer transmits; changes that it has overtaken no longer wait. -/
def adoptMap (s : State) (eng gen : Nat) (roles : List Nat) (all : Bool) : State :=
  let s := roles.zipIdx.foldl (fun s r => putRole s eng false r.2 r.1) s
  let newer (m : LaneChg) : Bool := !all && (m.gen + 256 - gen) % 256 != 0 && (m.gen + 256 - gen) % 256 < 128
  refreshEng (onDir s eng false (fun d => { d with
    gen := gen, pend := d.pend.filter newer,
    cal := d.cal.filter (fun c => !all && lget 0 roles c.w == 0x12) })) eng

/-! ## Lane changes (R343, R350 to R354) -/

/-- Picoseconds that a block lasts on n data lanes (R337). -/
def blockPs (n : Nat) : Nat := 1285 * slotPs n

/-- Number of the first block of a direction that begins at least d ns from now: the transmit direction's by this end's line, the
receive direction's by the last marker (R336, R337, R351). -/
def blockAhead (s : State) (eng : Nat) (tx : Bool) (d : Nat) : Nat :=
  let x := getEng s eng
  let goal := 1000 * (s.timebase + d)
  if tx then
    let ps := slotPs (dataLanes s eng).length
    let start := max x.busy (1000 * s.timebase) + (1285 - x.line.inBlk) * ps
    (x.line.block + 1 + cdiv (goal - start) (1285 * ps)) % 2 ^ 32
  else (x.rxBlk.1 + cdiv (goal - 1000 * x.rxBlk.2) (blockPs (lanesIn s eng false))) % 2 ^ 32

/-- Block a is block b of the same count or comes after it. -/
def blockFrom (b a : Nat) : Bool := (a + 2 ^ 32 - b) % 2 ^ 32 < 2 ^ 31

/-- A spare in a direction that no announced change has taken. -/
def nextSpare (s : State) (eng : Nat) (tx : Bool) : Option Nat :=
  let named := ((dirOf (getEng s eng) tx).pend.filter (fun m => m.kind == 4 || m.kind == 5)).map (·.s)
  (spares s eng tx).find? (fun w => !(named.contains w))

/-- A change announced in a direction and told to the peer. A loss swap or a drop shares the block of one that waits already, where
that block is still far enough ahead (R353). -/
def announce (s : State) (eng : Nat) (tx : Bool) (kind w sp r ahead : Nat) : State :=
  let d := dirOf (getEng s eng) tx
  let first := blockAhead s eng tx ahead
  let shared := if tx then none else (d.pend.find? (fun m => blockFrom first m.block)).map (·.block)
  let b := shared.getD first
  let gen := match d.pend.getLast? with
    | some m => if m.block = b then m.gen else (m.gen + 1) % 256
    | none => (d.gen + 1) % 256
  let m : LaneChg := { kind := kind, w := w, s := sp, role := r, block := b, gen := gen }
  sendCtl (onDir s eng tx (fun d => { d with pend := d.pend ++ [m] })) eng [.laneChg m]

/-- A wavelength of the receive direction lost: a free spare takes its role, or the role is dropped, at a block at least 5 µs ahead
(R353, R354). -/
def replaceWave (s : State) (eng w r : Nat) : State :=
  match nextSpare s eng false with
  | some sp => announce s eng false 4 w sp r 5000
  | none => announce s eng false 7 w 0 r 5000

/-- A swap of this end's calibration that was announced and not made is cancelled (R324, R343). -/
def unsay (s : State) (eng : Nat) : State :=
  match (getEng s eng).tx.said with
  | none => s
  | some m => sendCtl (onDir s eng true (fun d => { d with said := none })) eng [.laneChg { m with kind := 6 }]

/-- A calibration ended at once: the wavelength takes its role back with its earlier settings, the spare is free, and it is
calibrated first in the next period (R323, R325). -/
def endCal (s : State) (eng : Nat) (tx : Bool) : State :=
  let d := dirOf (getEng s eng) tx
  match d.cal with
  | none => s
  | some c =>
    let s := if calOut d then
        (match c.spare with
         | some sp => putRole (putRole s eng tx c.w c.role) eng tx sp 0x11
         | none => putRole s eng tx c.w c.role)
      else s
    onDir (if tx then unsay s eng else s) eng tx (fun d => { d with cal := none, first := d.first ++ [c.w] })

/-- LANE_LOST (0x0040): direction (0 transmit, 1 receive), wavelength, the spare taken or 0xFF for a dropped role; and its leaf. -/
def laneLost (s : State) (eng : Nat) (tx : Bool) (w : Nat) (sp : Option Nat) : State :=
  leaf (emit s 0x0040 (srcOpt (eng / 8) (eng % 8)) [(1, b2n (!tx)), (1, w), (1, sp.getD 0xFF)]) (16 + eng / 8) (8 + eng % 8)

/-- NAK with ACK = E − 1 in the header of the flit that announces a loss (R353). -/
def nakNow (s : State) (eng : Nat) : State := setEng s eng { getEng s eng with nak := true, nakAt := s.timebase, nakDue := true }

/-- A receiver loses a wavelength (R323, R352, R353): with a spare that stands in for a calibrated wavelength, that one returns;
with no free spare, a calibration in progress ends first; for a spare that a waiting loss swap names, the next is named. -/
def lostWave (s : State) (eng w : Nat) : State :=
  let d := (getEng s eng).rx
  let r := role s eng false w
  if r = 0x11 then
    let s := putRole s eng false w 0x13
    (match d.pend.find? (fun m => m.kind == 4 && m.s == w) with
     | some m =>
       let s := onDir s eng false (fun d => { d with pend := d.pend.filter (fun e => e != m) })
       refreshEng (replaceWave (nakNow s eng) eng m.w m.role) eng
     | none => refreshEng s eng)
  else if r > 0x10 ∨ d.pend.any (fun m => m.w == w) then s
  else
    let stands : Bool := match d.cal with
      | some c => c.spare == some w && calOut d
      | none => false
    if stands then refreshEng (putRole (laneLost (endCal (setNak s eng) eng false) eng false w none) eng false w 0x13) eng
    else
      let s := if (nextSpare s eng false).isNone then endCal s eng false else s
      refreshEng (replaceWave (nakNow s eng) eng w (role s eng false w)) eng

/-- A codeword that ended (R335, R352): up to 15 wrong symbols are corrected; of one with more, the wavelength with the most wrong
symbols is the one that causes it (DESIGN CHOICE, log entry 58), and 16 within 10 µs lose it. -/
def codeword (eng : Nat) (s : State) (wrong : AMap Nat) : State :=
  let n := wrong.foldl (fun a e => a + e.2) 0
  if n = 0 then s
  else if n ≤ 15 then mlxCount s eng 0 1
  else
    let w := (wrong.foldl (fun (a : Nat × Nat) e => if e.2 > a.2 then e else a) (0, 0)).1
    let x := getEng s eng
    let l := ((mget [] x.cwBad w).filter (fun t => s.timebase < t + 10000)) ++ [s.timebase]
    let s := mlxCount (setEng s eng { x with cwBad := mput w l x.cwBad }) eng 1 1
    if l.length ≥ 16 ∧ linkState s eng = 4 then lostWave s eng w else s

/-- LIGHT of the port that an engine lights. -/
def setLight (s : State) (eng : Nat) (v : Bool) : State :=
  if engPort s eng < 12 then setRbit s (rPortStatus (eng / 8)) (16 + engPort s eng) v else s

/-- WAVELENGTH_LOSS (R348, R352, R353): in training or relock the wavelength is one that has not locked, and without light on any
the link is DARK. -/
def execWavelengthLoss (eng wl : Nat) (s : State) : Out :=
  onEng s eng (wl < 20) (
    let st := linkState s eng
    if st = 4 then lostWave s eng wl
    else if st = 1 ∨ st = 2 ∨ st = 3 ∨ st = 5 then
      let x := getEng s eng
      let u := if x.unlocked.contains wl then x.unlocked else x.unlocked ++ [wl]
      let s := setEng s eng { x with unlocked := u }
      if u.length ≥ 20 then setLinkState (setLight s eng false) eng 0 else s
    else s)

/-- ALIGNMENT_MARKER: 340 bits that a lane delivers as a marker. One that disagrees with the role map is a loss; what carries no SYNC
is no marker (R336, R352). -/
def execAlignmentMarker (eng wl : Nat) (low : BitVec 92) (high : BitVec 248) (s : State) : Out :=
  onEng s eng (wl < 20) (
    match markerOf (high ++ low) with
    | none => s
    | some (lane, gen, block) =>
      if linkState s eng ≠ 4 ∨ role s eng false wl ≥ 16 then s
      else if role s eng false wl ≠ lane ∨ gen ≠ (getEng s eng).rx.gen % 256 then lostWave s eng wl
      else setEng s eng { getEng s eng with rxBlk := (block, s.timebase) })

/-- The direction a LANE_CHG received here concerns: kinds 4 and 7 this end's transmit direction, others the peer's (R343). -/
def chgTx (m : LaneChg) : Bool := m.kind == 4 || m.kind == 7

/-- One change made (R343, R353, R354). -/
def applyChange (eng : Nat) (tx : Bool) (s : State) (m : LaneChg) : State :=
  let old := role s eng tx m.w
  let cal (c : Option CalSt) (s : State) : State := onDir s eng tx (fun d => { d with cal := c })
  let outNow (s : State) : State := onDir s eng tx (fun d => { d with outAt := s.timebase })
  let s := match m.kind with
    | 0 => outNow (cal (some ⟨m.w, old, some m.s, false, .tuning⟩) (putRole (putRole s eng tx m.s old) eng tx m.w 0x12))
    | 1 => cal none (putRole (putRole s eng tx m.w (role s eng tx m.s)) eng tx m.s 0x11)
    | 2 => outNow (cal (some ⟨m.w, old, none, false, .tuning⟩) (putRole s eng tx m.w 0x12))
    | 3 => cal none (putRole s eng tx m.w (((dirOf (getEng s eng) tx).cal.map (·.role)).getD m.role))
    | 4 => laneLost (mlxCount (putRole (putRole s eng tx m.s m.role) eng tx m.w 0x13) eng 4 1) eng tx m.w (some m.s)
    | 5 => putRole (putRole s eng tx m.s old) eng tx m.w 0x13
    | 7 => laneLost (mlxCount (putRole s eng tx m.w 0x13) eng 4 1) eng tx m.w none
    | _ => s
  onDir s eng tx (fun d => { d with gen := m.gen })

/-- MIN_LANES as it is taken (R354). -/
def minLanes (s : State) (o : Nat) : Nat := min 16 (max 8 (rfld s (rMlxCtl o) 12 8))

/-! ## Ports (R309, R329, R330) -/

/-- The lowest-numbered eligible port of a plane that no engine lights. -/
def spareFor (s : State) (o port : Nat) : Option Nat :=
  ((List.range 3).map (fun (i : Nat) => port / 3 * 3 + i)).find? (fun k => portEligible s o k)

/-- NO_SPARE of a plane, and its leaf when it begins. -/
def setNoSpare (s : State) (o plane : Nat) (v : Bool) : State :=
  let s' := setRbit s (rPortStatus o) (28 + plane) v
  if v && !(rbit s (rPortStatus o) (28 + plane)) then leaf s' (16 + o) 17 else s'

/-- An engine's port set. -/
def setPort' (s : State) (eng port : Nat) : State := setRfld s (rEngStatus (eng / 8) (eng % 8)) 3 0 port

/-- SEQ, ACK and credit counts set to 0, what was being received let go (R348, R349). Packets received whole stay for their hub; their
flits belong to no count any more. -/
def clearLink (x : EngSt) : EngSt :=
  { x with txSeq := 0, unack := [], lastNak := none, sent := [0, 0, 0], freed := [0, 0, 0], bufs := [0, 0, 0], expect := 0, ackV := false,
           nak := false, nakDue := false, got := [0, 0, 0], passed := [0, 0, 0], asm := none, inbox := x.inbox.map (fun k => (k.1, 0, k.2.2)),
           replayDue := false, cwBad := [], gotId := false, gotMap := false,
           cur := { x.cur with lseq := 0, unack := [], last := 255, told := 255 } }

/-- A failed port marked and its engine moved to the substitute, to train there in full (R330). -/
def sparePort (s : State) (eng : Nat) : State :=
  let o := eng / 8
  let k := engPort s eng
  if small s ∨ k = 15 ∨ !(rbit s (rQctl o) 9) ∨ (getEng s eng).subst.isSome then s
  else
    let s := { setRbit (setLight s eng false) (rPortStatus o) k true with calDirty := true }
    let sub := spareFor s o k
    let s := match sub with
      | some j => setLinkState (setPort' s eng j) eng 1
      | none => setNoSpare (setLinkState (setPort' s eng 15) eng 0) o (k / 3) true
    let s := setEng s eng { getEng s eng with subst := some (k, s.timebase) }
    leaf (emit s 0x0046 (srcOpt o (eng % 8)) [(1, k), (1, sub.getD 15)]) (16 + o) 17

/-- A link out of service: its retry buffer gone, its record and leaf, the requests sent on it failed (R301, R355). -/
def linkFalls (s : State) (eng : Nat) : State :=
  let o := eng / 8
  let s := mlxCount (setEng s eng (clearLink (getEng s eng))) eng 6 1
  let s := setLinkState s eng 6
  let s := leaf (emit s 0x0045 (srcOpt o (eng % 8)) []) (16 + o) (eng % 8)
  (hubsOf s o).foldl (fun s p => egressDown s p (0x40 + eng)) s

/-- Packets an engine holds, given back to their hubs and routed again (R351). -/
def returnHeld (s : State) (eng : Nat) : State :=
  let q := (getEng s eng).queue
  let s := setEng s eng { getEng s eng with queue := [] }
  q.foldl (fun s k =>
    let h := getHub s k.hub
    routePacket (setHub s k.hub { h with outst := mdel k.req h.outst }) k.hub k.req k.pkt) s

/-- The peer has moved away at the point it announced: the link is DARK without a loss, its unacknowledged flits are counted and
let go, its receiver state is kept, and the packets it holds go back to their hubs (R328, R349, R351). -/
def peerGone (s : State) (eng : Nat) : State :=
  let x := getEng s eng
  let s := mlxCount s eng 5 x.unack.length
  let s := setEng s eng { clearLink x with ann := none }
  returnHeld (setLinkState (setLight s eng false) eng 0) eng

/-- A link declared DOWN, with port sparing (R355, R330); not one whose peer has moved away at its announced point (R349). -/
def linkDownNow (s : State) (eng : Nat) : State :=
  let x := getEng s eng
  let left : Bool := match x.ann with
    | some (t, m) => m && decide (t ≤ s.timebase)
    | none => false
  if left then peerGone s eng
  else health (sparePort (linkFalls s eng) eng)

/-- LINK_DOWN (R355): codeword lock or ACK progress has failed for 100 µs. -/
def execLinkDown (eng : Nat) (s : State) : Out :=
  onEng s eng true (if linkState s eng = 4 then linkDownNow s eng else s)

/-- RETRAIN: a DOWN link with light present trains again (R355). -/
def execRetrain (eng : Nat) (s : State) : Out :=
  onEng s eng true (if linkState s eng = 6 then setLinkState (setLight s eng true) eng 1 else s)

/-- NO_SPARE of a plane cleared where a port of it can be taken now, or no engine that the map gives a port of it is dark (R331). -/
def freeNoSpare (s : State) (o plane : Nat) : State :=
  let want := (getOpt s o).want
  let dark := (List.range 8).any (fun e => engPort s (8 * o + e) == 15 && lget 15 want e / 3 == plane)
  if dark && (spareFor s o (3 * plane)).isNone then s else setNoSpare s o plane false

/-- Every plane of a die looked at again. -/
def freePlanes (s : State) (o : Nat) : State := (List.range 4).foldl (fun s p => freeNoSpare s o p) s

/-- PORT_SPARE_TIMEOUT: the engine returns to its original port, whose mark is removed (R330). -/
def execPortSpareTimeout (eng : Nat) (s : State) : Out :=
  onEng s eng true (
    match (getEng s eng).subst with
    | none => s
    | some (k, t) =>
      if linkState s eng = 4 then s
      else
        let o := eng / 8
        let s := setLight s eng false
        let s := { s with timebase := max s.timebase (t + 10000000), calDirty := true }
        let s := setPort' (setEng (setRbit s (rPortStatus o) k false) eng { getEng s eng with subst := none }) eng k
        health (setLinkState (freeNoSpare s o (k / 3)) eng 6))

/-- The change of a direction whose block comes first. -/
def nextChange (x : EngSt) (tx : Bool) : Option LaneChg :=
  let ahead (m : LaneChg) : Nat := (m.block + 2 ^ 32 - (if tx then x.line.block else x.rxBlk.1)) % 2 ^ 32
  (dirOf x tx).pend.foldl (fun b m => match b with
    | none => some m
    | some a => if ahead m < ahead a then some m else some a) none

/-- The line of a direction brought to the start of a block, and TIMEBASE to its instant: this end's line fills up with the slots
that carry no data. -/
def toBlock (s : State) (eng : Nat) (tx : Bool) (b : Nat) : State :=
  if tx then
    let s := onLine s eng (fun ls now x => putIdles ls now (slotsTo x.line b) x)
    { s with timebase := max s.timebase ((getEng s eng).busy / 1000) }
  else
    let x := getEng s eng
    let n := if blockFrom x.rxBlk.1 b then (b + 2 ^ 32 - x.rxBlk.1) % 2 ^ 32 else 0
    let s := { s with timebase := max s.timebase (x.rxBlk.2 + n * blockPs (lanesIn s eng false) / 1000) }
    setEng s eng { x with rxBlk := (b, s.timebase) }

/-- LANE_CHANGE_BOUNDARY: the changes that name the next block are made together (R353, R354); after a loss swap or a drop of the
transmit direction one replay is due (R346). -/
def execLaneChangeBoundary (eng : Nat) (tx : Bool) (s : State) : Out :=
  onEng s eng true (
    match nextChange (getEng s eng) tx with
    | none => s
    | some m =>
      let s := toBlock s eng tx m.block
      let now := (dirOf (getEng s eng) tx).pend.filter (fun e => e.block == m.block)
      let lost := now.any (fun e => e.kind == 4 || e.kind == 7)
      let s := now.foldl (applyChange eng tx) s
      let s := onDir s eng tx (fun d => { d with pend := d.pend.filter (fun e => e.block != m.block) })
      let s := if tx && lost then setEng s eng { getEng s eng with replayDue := true } else s
      let s := refreshEng s eng
      if now.any (fun e => e.kind == 7) ∧ lanesIn s eng tx < minLanes s (eng / 8) ∧ linkState s eng = 4 then linkDownNow s eng
      else lineGoesOn s eng)

/-- CODEWORD_LOCK_REGAINED: the receiving end sends ACK and no longer repeats NAK (R346, R353). -/
def execCodewordLockRegained (eng : Nat) (s : State) : Out :=
  onEng s eng true (
    let x := getEng s eng
    if linkState s eng ≠ 4 ∨ changePending x.rx then s
    else sendCtl (setEng s eng { x with nak := false, nakDue := false }) eng [.credit x.passed])

/-! ## Training (R348, R349) -/

/-- A link goes UP: its line starts at slot 0 of block 0, with a scrambler state that nothing gives (a free value); the port's receiver
state is held from now on (R328); wavelengths that did not lock are handled as lost, waiting packets go. -/
def linkUpNow (s : State) (eng : Nat) : State :=
  let (w, s) := freshWord s
  let x := getEng s eng
  let k := engPort s eng
  let s := setLinkState (setEng s eng { x with
    unlocked := [], subst := none, ann := none, ackAt := s.timebase, stored := if x.stored.contains k then x.stored else x.stored ++ [k],
    line := { scr := w.setWidth 58 }, busy := 1000 * s.timebase, rxBlk := (0, s.timebase) }) eng 4
  lineGoesOn (refreshEng (x.unlocked.foldl (fun s w => lostWave s eng w) s) eng) eng

/-- LINK_TRAINING: LOCK (1), ALIGN (2) or PARAM (3) is entered; LOCK with the wavelengths that do not lock (R348). A dark port that
receives light begins with RELOCK where it holds receiver state for the path (R349). -/
def execLinkTraining (eng stage : Nat) (fails : List Nat) (s : State) : Out :=
  onEng s eng (1 ≤ stage && stage ≤ 3 && fails.all (fun w => w < 20)) (
    let st := linkState s eng
    if engPort s eng = 15 then s
    else if stage = 1 ∧ (st = 0 ∨ st = 1 ∨ st = 6) then
      let lit := setLight (setEng s eng { getEng s eng with unlocked := fails }) eng true
      if st = 0 ∧ (getEng s eng).stored.contains (engPort s eng) then introduce (setLinkState lit eng 5) eng else setLinkState lit eng 1
    else if stage = 2 ∧ st = 1 then setLinkState s eng 2
    else if stage = 3 ∧ st = 2 then introduce (setLinkState (setEng s eng (clearLink (getEng s eng))) eng 3) eng
    else s)

/-- The peer's identity and buffers (R343, R344); in PARAM the link goes UP once ROLE_MAP has come too (R348). -/
def takeId (s : State) (eng : Nat) (m : LinkIdMsg) : State :=
  let st := linkState s eng
  if st ≠ 3 ∧ st ≠ 4 ∧ st ≠ 5 then s
  else
    let r := rMlxState (eng / 8) (eng % 8)
    let s := setRbit (setRfld s r 31 16 m.num) r 32 m.switch
    let s := setEng s eng { getEng s eng with bufs := m.bufs, gotId := true }
    if st = 3 ∧ (getEng s eng).gotMap then linkUpNow s eng else s

/-- LINK_ID (R343, R344, R348). -/
def execLinkId (eng : Nat) (m : LinkIdMsg) (s : State) : Out :=
  onEng s eng (m.num < 65536 && m.bufs.length == 3 && m.bufs.all (fun b => b < 65536)) (takeId s eng m)

/-- A ROLE_MAP taken: in PARAM and in RELOCK as it comes, in UP where its generation is ahead of the map held; one with a reserved role
is ignored (R313, R345, R348, R349; log entry 58). In PARAM the link goes UP once LINK_ID has come too. -/
def takeMap (s : State) (eng gen : Nat) (roles : List Nat) : State :=
  let st := linkState s eng
  let ahead := (gen + 256 - (getEng s eng).rx.gen) % 256
  if !(roles.all (fun r => r < 0x14)) then s
  else if st = 3 ∨ st = 5 then
    let s := adoptMap s eng gen roles true
    let s := setEng s eng { getEng s eng with gotMap := true }
    if st = 3 ∧ (getEng s eng).gotId then linkUpNow s eng else s
  else if st = 4 ∧ ahead ≠ 0 ∧ ahead < 128 then adoptMap s eng gen roles false
  else s

/-- ROLE_MAP: adopted in PARAM and in RELOCK, and in UP where its generation is ahead of the map held (R313, R345, R348, R349). -/
def execRoleMap (eng gen : Nat) (roles : List Nat) (s : State) : Out :=
  onEng s eng (roles.length == 20 && roles.all (fun r => r < 32) && gen < 256) (takeMap s eng gen roles)

end Sys2Proof.Machine
end

