-- ==== Sys2Proof/Machine/Quince.lean ====
section
/-! DEFINITION. The optical edge: steering points, calibration, lasers (R309, R310, R317 to R329). -/
namespace Sys2Proof.Machine

/-! ## Steering points (R324 to R328, R349, R351) -/

/-- A map's ports and NO_SPARE marks. -/
def markPlanes (s : State) (o : Nat) (bad : List Nat) : State :=
  (List.range 4).foldl (fun s p => setNoSpare s o p (bad.contains p)) s

/-- PENDING and NEXT_PRESET. -/
def showPoints (s : State) (o : Nat) : State :=
  let ps := (getOpt s o).points
  setRfld (setRfld s (rSteerStatus o) 3 0 ps.length) (rSteerStatus o) 7 4 ((ps.head?.map (·.preset)).getD 0)

/-- The checks of R327 in their order. -/
def steerCheck (s : State) (o : Nat) (dom : Option Nat) (t : Nat) : Status :=
  let q := rQctl o
  let barred : Bool := match dom with
    | some d => !(rbit s q 8) || rfld s q 7 4 != d
    | none => false
  if small s then .unsupported
  else if barred then .access
  else if t < s.timebase + 25000 ∨ (getOpt s o).points.any (fun p => p.t ≤ t + 10000 && t ≤ p.t + 10000) then .badDesc
  else if (getOpt s o).points.length ≥ 8 then .noResource
  else .ok

/-- A point put in order. -/
def insertPoint (p : SteerPt) : List SteerPt → List SteerPt
  | [] => [p]
  | q :: l => if p.t < q.t then p :: q :: l else q :: insertPoint p l

/-- Two instants lie less than 50 µs apart. -/
def near (a b : Nat) : Bool := a < b + 50000 && b < a + 50000

/-- The first instant from a given one on that is clear of every pending steering point, these in order (R324). -/
def clearOf (ps : List SteerPt) (t : Nat) : Nat := ps.foldl (fun t p => if near t p.t then p.t + 50000 else t) t

/-- The swap that a calibration waits for, told to the peer with the first block at its instant or after it (R321, R322, R343). -/
def sayCal (s : State) (eng : Nat) : State :=
  let d := (getEng s eng).tx
  match d.cal with
  | none => s
  | some c =>
    let say (t : Nat) (back : Bool) : State :=
      let m : LaneChg :=
        { kind := b2n back + 2 * b2n c.spare.isNone, w := c.w, s := c.spare.getD 0, role := if back && c.spare.isSome then 0x11 else c.role,
          block := blockAhead s eng true (t - s.timebase), gen := (d.gen + 1) % 256 }
      sendCtl (onDir s eng true (fun d => { d with said := some m })) eng [.laneChg m]
    match c.phase with
    | .outAt t => if c.inPlace then s else say t false
    | .backAt t => say t true
    | .tuning => s

/-- The swaps of a direction that an accepted point at T puts off, to an instant clear of the points then pending (R324). -/
def guardCal (ps : List SteerPt) (t : Nat) (moved : Bool) (d : DirSt) : DirSt :=
  match d.cal with
  | none => d
  | some c =>
    match c.phase with
    | .outAt p => if near p t then { d with cal := some { c with phase := .outAt (clearOf ps (t + 50000)) } } else d
    | .backAt p => if near p t && !moved then { d with cal := some { c with phase := .backAt (clearOf ps (t + 50000)) } } else d
    | .tuning => d

/-- An engine hears of an accepted point: a swap that it puts off is cancelled and announced again, and a link in service is told the
point (R324, R325). -/
def pointAt (ps : List SteerPt) (t : Nat) (moved : Bool) (s : State) (eng : Nat) : State :=
  let d := (getEng s eng).tx
  let d' := guardCal ps t moved d
  let s := if d' = d then s else sayCal (unsay (onDir s eng true (fun _ => d')) eng) eng
  if linkState s eng = 4 then sendCtl s eng [.steerAnn t moved] else s

/-- A request checked and queued (R324, R327). -/
def steerRequest (s : State) (o : Nat) (dom : Option Nat) (preset t : Nat) : Status × State :=
  match steerCheck s o dom t with
  | .ok =>
    let x := getOpt s o
    let m := presetMap s o preset
    let before := (x.points.filter (fun p => p.t < t)).getLast?.map (fun p => (applyMap s o p.map).1)
    let m' := (applyMap s o m).1
    let ps := insertPoint ⟨t, preset, m⟩ x.points
    let s := setOpt s o { x with points := ps }
    let s := (List.range 8).foldl (fun s e =>
      let was := match before with
        | some b => lget 15 b e
        | none => engPort s (8 * o + e)
      pointAt ps t (lget 15 m' e != was) s (8 * o + e)) s
    (.ok, showPoints s o)
  | st => (st, s)

/-- A write of STEER_CMD: GO submits a request (R327). -/
def steerCmdWrite (s : State) (die : Nat) (v : Word) : State :=
  let s := writeReg s (rSteerCmd die) v
  if fld v 4 4 = 0 then s
  else
    let (st, s) := steerRequest s die none (fld v 3 0) (reg s (rSteerTime die)).toNat
    setRfld s (rSteerCmd die) 15 8 (stCode st)

/-- STEERING_REQUEST (R327). -/
def execSteeringRequest (q : SteerReq) (s : State) : Out :=
  match q with
  | .admin tenant die v =>
    guardWf (die < 8) (adminCmd s tenant (rSteerCmd die) (fun s => steerCmdWrite s die v))
  | .group die domain preset t =>
    guardWf (die < 8 && domain < 16 && preset < 16) (.next (
      if running s && optUp s die then (steerRequest s die (some domain) preset t).2 else s))

/-- An engine moved at a point (R325, R328, R349, R395). -/
def moveEngine (s : State) (eng new : Nat) : State :=
  let s := treesMoved s eng
  let s := endCal (endCal s eng true) eng false
  let x := getEng s eng
  let s := mlxCount s eng 5 x.unack.length
  let s := setEng s eng { clearLink x with
    tx := { x.tx with pend := [], said := none }, rx := { x.rx with pend := [] }, subst := none }
  let s := setLight s eng false
  let s := setLinkState (setPort' s eng new) eng (if new = 15 then 0 else 5)
  let s := refreshEng s eng
  if new = 15 then returnHeld s eng else introduce s eng

/-- STEERING_POINT: the die's earliest pending point is carried out (R325, R326, R329). -/
def execSteeringPoint (die : Nat) (s : State) : Out :=
  guardWf (die < 8) (.next (
    let x := getOpt s die
    match x.points with
    | [] => s
    | p :: rest =>
      if !(running s && optUp s die) then s
      else
        let s := setOpt { s with timebase := max s.timebase p.t } die { x with points := rest, want := p.map }
        let (m, bad) := applyMap s die p.map
        let moved := (List.range 8).filter (fun e => lget 15 m e != engPort s (8 * die + e))
        let s := markPlanes s die bad
        let s := moved.foldl (fun s e => moveEngine s (8 * die + e) (lget 15 m e)) s
        let s := setRfld s (rQctl die) 3 0 p.preset
        let s := setRfld s (rSteerStatus die) 15 8 (moved.foldl (fun a e => a + 2 ^ e) 0)
        let n := rfld s (rSteerStatus die) 47 16
        let s := setRfld s (rSteerStatus die) 47 16 (if n < 2 ^ 32 - 1 then n + 1 else n)
        health (leaf (showPoints s die) (16 + die) 20)))

/-- RELOCK_DONE: traffic resumes, or the engine falls back to full training (R325, R328, R377). -/
def execRelockDone (eng : Nat) (fails : List Nat) (s : State) : Out :=
  onEng s eng (fails.all (fun w => w < 20)) (
    if linkState s eng ≠ 5 then s
    else
      let x := getEng s eng
      let k := engPort s eng
      let s := setRbit s (rPortStatus (eng / 8)) (16 + k) true
      if x.stored.contains k ∧ fails.length ≤ 3 then collResume (linkUpNow (setEng s eng { x with unlocked := fails }) eng)
      else
        let s := setLinkState (setEng s eng { x with unlocked := fails }) eng 1
        let s := setRbit s (rEngStatus (eng / 8) (eng % 8)) 21 true
        leaf (emit s 0x0044 (srcOpt (eng / 8) (eng % 8)) [(1, k)]) (16 + eng / 8) 18)

/-! ## Calibration (R320 to R324) -/

/-- A swap point at least 10 µs ahead, clear of every pending steering point of the die (R324). -/
def swapPoint (s : State) (o : Nat) : Nat := clearOf (getOpt s o).points (s.timebase + 10000)

/-- Whether a laser emits: it has neither failed nor retired (R319). -/
def laserOk (s : State) (o a w : Nat) : Bool := !(rbit s (rLaser o a w) 34) && !(rbit s (rLaser o a w) 35)

/-- The next wavelength of the period that can be calibrated taken up (R320 to R322). -/
def calStart (s : State) (eng : Nat) : Nat → State
  | 0 => s
  | fuel + 1 =>
    let o := eng / 8
    let d := (getEng s eng).tx
    match d.cal, d.todo with
    | none, w :: rest =>
      let r := role s eng true w
      let s := onDir s eng true (fun d => { d with todo := rest })
      let begin_ (c : CalSt) : State := sayCal (refreshEng (onDir s eng true (fun d => { d with cal := some c })) eng) eng
      if r = 0x11 ∨ (r = 0x13 ∧ laserOk s o (eng % 8 / 4) w) then begin_ ⟨w, r, none, true, .tuning⟩
      else if r > 0x10 then calStart s eng fuel
      else match nextSpare s eng true with
        | some sp => begin_ ⟨w, r, some sp, false, .outAt (swapPoint s o)⟩
        | none => if rbit s (rCalCtl o) 1 then begin_ ⟨w, r, none, false, .outAt (swapPoint s o)⟩ else calStart s eng fuel
    | _, _ => s

/-- A calibration over, its announced swap cancelled if it was not made; the next begins, and what the engine holds goes on. -/
def calNext (s : State) (eng : Nat) : State :=
  lineGoesOn (calStart (refreshEng (onDir (unsay s eng) eng true (fun d => { d with cal := none })) eng) eng 20) eng

/-- A change that the peer announces for this end's transmit direction ends a calibration there whose spare is lost or is the one it
takes, and any where no spare is left (R323). -/
def calYields (d : DirSt) (m : LaneChg) : Bool :=
  chgTx m && calOut d && (m.kind == 7 || d.cal.any (fun c => c.spare == some m.s || c.spare == some m.w))

/-- A LANE_CHG whose bytes name no change: a kind or wavelength that there is none of, or in S's place where the kind uses it, or a
reserved role for a loss swap (R313, R343). -/
def chgBad (m : LaneChg) : Bool :=
  m.kind ≥ 8 || m.w ≥ 20 || ([0, 1, 4, 5].contains m.kind && m.s ≥ 20) || (m.kind == 4 && m.role ≥ 0x14)

/-- A LANE_CHG taken: a change announced, or one that has not taken effect cancelled (R343); one that names no change is ignored (log
entry 58). A block less than 10 µs or 5 µs ahead is
taken as it comes: R351 binds the sender (DESIGN CHOICE, log entry 58). -/
def takeChg (s : State) (eng : Nat) (m : LaneChg) : State :=
  if linkState s eng ≠ 4 ∨ chgBad m then s
  else if m.kind = 6 then
    let drop (d : DirSt) : DirSt := { d with pend := d.pend.filter (fun e => !(e.w == m.w && e.block == m.block)) }
    onDir (onDir s eng false drop) eng true drop
  else
    let s := if calYields (getEng s eng).tx m then calNext (endCal s eng true) eng else s
    onDir s eng (chgTx m) (fun d => { d with pend := d.pend.filter (fun e => !(e.w == m.w && chgTx m)) ++ [m] })

/-- LANE_CHG (R343). -/
def execLaneChg (eng : Nat) (m : LaneChg) (s : State) : Out :=
  onEng s eng (m.kind < 256 && m.w < 256 && m.s < 256 && m.role < 256 && m.block < 2 ^ 32 && m.gen < 256) (takeChg s eng m)

/-- A row about the calibration in progress in a direction. -/
def onCal (s : State) (eng : Nat) (tx : Bool) (f : CalSt → State) : Out :=
  onEng s eng true (
    match (dirOf (getEng s eng) tx).cal with
    | some c => if linkState s eng = 4 then f c else s
    | none => s)

/-- CAL_CTL.PERIOD_S in nanoseconds, as it is taken (R320). -/
def calPeriod (s : State) (o : Nat) : Nat :=
  let n := rfld s (rCalCtl o) 15 8
  1000000000 * (if n = 0 then 10 else min 60 n)

/-- CALIBRATION_PERIOD: this end's transmit direction is swept, PERIOD_S after its last sweep began; the peer sweeps the other
(R320, R323). -/
def execCalibrationPeriod (eng : Nat) (tx : Bool) (s : State) : Out :=
  onEng s eng true (
    if !tx ∨ linkState s eng ≠ 4 ∨ !(rbit s (rCalCtl (eng / 8)) 0) then s
    else
      let d := (getEng s eng).tx
      let s := { s with timebase := max s.timebase ((d.swept.map (fun t => t + calPeriod s (eng / 8))).getD 0) }
      calStart (onDir s eng true (fun d' => { d' with
        swept := some s.timebase, todo := d.first ++ (List.range 20).filter (fun w => !(d.first.contains w)), first := [] })) eng 20)

/-- A wavelength that the peer asks for joins those to calibrate (R320). -/
def takeCalReq (s : State) (eng wl : Nat) : State :=
  if wl ≥ 20 ∨ linkState s eng ≠ 4 ∨ !(rbit s (rCalCtl (eng / 8)) 0) then s
  else calStart (onDir s eng true (fun d => if d.todo.contains wl then d else { d with todo := d.todo ++ [wl] })) eng 20

/-- CAL_REQ (R320). -/
def execCalReq (eng wl : Nat) (s : State) : Out := onEng s eng (wl < 256) (takeCalReq s eng wl)

/-- The announced swap made: this end's line and TIMEBASE come to its block (R321). -/
def atSwap (s : State) (eng t : Nat) : State :=
  let s := match (getEng s eng).tx.said with
    | some m => toBlock s eng true m.block
    | none => s
  { s with timebase := max s.timebase t }

/-- The generation of a transmit direction's role map moves on with a swap, which is no longer to come. -/
def nextGen (s : State) (eng : Nat) (c : CalSt) : State :=
  refreshEng (onDir s eng true (fun d => { d with gen := (d.gen + 1) % 256, cal := some c, said := none })) eng

/-- A receive direction's swap: the peer's announced change of a kind is made (R320, R343). -/
def peerChange (s : State) (eng kind : Nat) : State :=
  match (getEng s eng).rx.pend.find? (fun m => m.kind == kind) with
  | none => s
  | some m =>
    let s := applyChange eng false (toBlock s eng false m.block) m
    refreshEng (onDir s eng false (fun d => { d with pend := d.pend.filter (fun e => e != m) })) eng

/-- A row about a swap of either direction: this end's own, or the peer's. -/
def onSwap (s : State) (eng : Nat) (tx : Bool) (kind : Nat) (f : CalSt → State) : Out :=
  if tx then onCal s eng true f else onEng s eng true (if linkState s eng = 4 then peerChange s eng kind else s)

/-- A wavelength out for calibration from now on. -/
def calGone (s : State) (eng : Nat) (c : CalSt) : State :=
  lineGoesOn (onDir (nextGen s eng { c with phase := .tuning }) eng true (fun d => { d with outAt := s.timebase })) eng

/-- SWAP_OUT (R321). -/
def execSwapOut (eng : Nat) (tx : Bool) (s : State) : Out :=
  onSwap s eng tx 0 (fun c =>
    match c.phase, c.spare with
    | .outAt t, some sp =>
      let s := atSwap s eng t
      if role s eng true sp ≠ 0x11 ∨ role s eng true c.w ≠ c.role then calNext (onDir s eng true (fun d => { d with first := d.first ++ [c.w] })) eng
      else calGone (putRole (putRole s eng true sp c.role) eng true c.w 0x12) eng c
    | _, _ => s)

/-- A failed retune: the wavelength becomes 0x13, a spare keeps the role (R321). -/
def calFail (s : State) (eng : Nat) (c : CalSt) : State :=
  let s := if c.inPlace ∧ c.role = 0x13 then s
    else mapChanged (leaf (emit (putRole s eng true c.w 0x13) 0x0043 (srcOpt (eng / 8) (eng % 8)) [(1, c.w)]) (16 + eng / 8) 19) eng
  calNext s eng

/-- The peer's retune in the receive direction has failed: the wavelength is 0x13 here too, what stood in for it keeps the role
(R313, R321). One that succeeds changes nothing here until its way back is announced. -/
def peerRetune (s : State) (eng : Nat) (ok : Bool) : State :=
  match (getEng s eng).rx.cal with
  | none => s
  | some c =>
    if ok ∨ linkState s eng ≠ 4 then s
    else refreshEng (onDir (putRole s eng false c.w 0x13) eng false (fun d => { d with cal := none })) eng

/-- RETUNE_END (R320, R321): a wavelength calibrated in place is done, any other announces its way back. -/
def execRetuneEnd (eng : Nat) (tx ok : Bool) (s : State) : Out :=
  onEng s eng true (
    if !tx then peerRetune s eng ok
    else match (getEng s eng).tx.cal with
    | none => s
    | some c =>
      if linkState s eng ≠ 4 ∨ c.phase ≠ .tuning then s
      else if !ok then calFail s eng c
      else if c.inPlace then calNext (if c.role = 0x13 then mapChanged (putRole s eng true c.w 0x11) eng else s) eng
      else sayCal (onDir s eng true (fun d => { d with cal := some { c with phase := .backAt (swapPoint s (eng / 8)) } })) eng)

/-- SWAP_BACK (R321). -/
def execSwapBack (eng : Nat) (tx : Bool) (s : State) : Out :=
  onSwap s eng tx 1 (fun c =>
    match c.phase, c.spare with
    | .backAt t, some sp =>
      let s := atSwap s eng t
      let s := putRole (putRole s eng true c.w c.role) eng true sp 0x11
      calNext (nextGen s eng c) eng
    | _, _ => s)

/-- SPARELESS_OUT (R322). -/
def execSparelessOut (eng : Nat) (tx : Bool) (s : State) : Out :=
  onSwap s eng tx 2 (fun c =>
    match c.phase, c.spare, c.inPlace with
    | .outAt t, none, false =>
      let s := atSwap s eng t
      if role s eng true c.w ≠ c.role then calNext s eng else calGone (putRole s eng true c.w 0x12) eng c
    | _, _, _ => s)

/-- SPARELESS_RETURN: the wavelength returns, or its retune has failed (R321, R322). -/
def execSparelessReturn (eng : Nat) (tx ok : Bool) (s : State) : Out :=
  onSwap s eng tx 3 (fun c =>
    match c.phase, c.spare, c.inPlace with
    | .outAt _, _, _ => s
    | p, none, false =>
      let s := match p with
        | .backAt t => atSwap s eng t
        | _ => s
      if ok then calNext (nextGen (putRole s eng true c.w c.role) eng c) eng else calFail s eng c
    | _, _, _ => s)

/-- A wavelength out without a spare has been out so long that its return is announced, for the 2 ms to hold (R322). -/
def sparelessDue (s : State) (eng : Nat) : State :=
  match (getEng s eng).tx.cal with
  | none => s
  | some c =>
    if c.spare.isNone ∧ !c.inPlace ∧ c.phase = .tuning ∧ (getEng s eng).tx.outAt + 1980000 ≤ s.timebase then
      sayCal (onDir s eng true (fun d => { d with cal := some { c with phase := .backAt (swapPoint s (eng / 8)) } })) eng
    else s

/-! ## Lasers (R317 to R319) -/

/-- A wavelength of a transmit direction without light (R313, R319): in UP the far end finds a failed laser's loss, and a retired one's
is announced 10 µs ahead where a spare is free (R351, R352); without a spare the far end finds that too (DEDUCED, log entry 58). Where
the link is not UP a spare takes the role at once, or it is dropped. -/
def waveGone (s : State) (eng w code : Nat) : State :=
  let d := (getEng s eng).tx
  let r := role s eng true w
  if calOut d && d.cal.any (fun c => c.spare == some w) then mapChanged (calNext (putRole (endCal s eng true) eng true w 0x13) eng) eng
  else if d.cal.any (fun c => c.w == w && (c.inPlace || calOut d)) then calFail s eng (d.cal.getD ⟨w, r, none, true, .tuning⟩)
  else if r = 0x11 then mapChanged (refreshEng (putRole s eng true w 0x13) eng) eng
  else if r > 0x10 then s
  else if linkState s eng = 4 then
    (if code ≠ 1 then s
     else
      let s := if (nextSpare s eng true).isNone then endCal s eng true else s
      match nextSpare s eng true with
      | some sp => announce s eng true 5 w sp r 10000
      | none => s)
  else
    let s := putRole s eng true w 0x13
    let s := match nextSpare s eng true with
      | some sp => putRole s eng true sp r
      | none => s
    refreshEng (mapChanged s eng) eng

/-- A laser's light is gone for good: its mark, record and leaf; every link it feeds loses the wavelength (R319). -/
def loseLaser (s : State) (o a w code : Nat) : State :=
  let s := setRbit s (rLaser o a w) (if code = 1 then 35 else 34) true
  let s := leaf (emit s 0x0042 (srcOpt o 0xF) [(1, o), (1, a), (1, w), (1, code)]) (16 + o) 16
  health ((List.range 4).foldl (fun s i => waveGone s (8 * o + 4 * a + i) w code) s)

/-- LASER_FAILURE (R319). -/
def execLaserFailure (die arr wl : Nat) (s : State) : Out :=
  guardWf (die < 8 && arr < 2 && wl < 20) (.next (
    if running s && optUp s die && laserOk s die arr wl then loseLaser s die arr wl 2 else s))

/-- The margin of a laser's worst link in tenths of a dB, from figures at most 10 ms old (R317). -/
def laserMargin (s : State) (o a w : Nat) : Option Int :=
  (List.range 4).foldl (fun (m : Option Int) (i : Nat) =>
    let e := 4 * a + i
    let eng := 8 * o + e
    match mfind (getEng s eng).feAt w with
    | some t =>
      if linkState s eng = 4 ∧ role s eng true w ≠ 0x13 ∧ s.timebase ≤ t + 10000000 then
        let v := sgn 8 (rfld s (rFeOma o e (w / 8)) (8 * (w % 8) + 7) (8 * (w % 8))) + 90
        some (match m with
          | some x => if x < v then x else v
          | none => v)
      else m
    | none => m) none

/-- Steps of 0.5 % that BIAS stands above BIAS_INIT, as the calibration store gives them back (R317, R477). -/
def biasSteps (s : State) (o a w : Nat) : Nat :=
  let n := rfld s (rLaser o a w) 15 0
  if n = 0 then 0 else min 120 (cdiv (200 * rfld s (rLaser o a w) 31 16) n - 200)

/-- LASER_BIAS_CONTROL (R317 to R319): the bias stands at BIAS_INIT + 0.005 k BIAS_INIT for k from 0 to 120. -/
def execLaserBiasControl (die arr wl : Nat) (s : State) : Out :=
  guardWf (die < 8 && arr < 2 && wl < 20) (.next (
    if !(running s && optUp s die && laserOk s die arr wl) then s
    else match laserMargin s die arr wl with
      | none => s
      | some m =>
        let x := getOpt s die
        let i := 20 * arr + wl
        let k := (mfind x.steps i).getD (biasSteps s die arr wl)
        let rest : Bool := match mfind x.changed i with
          | some t => decide (s.timebase < t + 10000000)
          | none => false
        let k' := if rest then k else if 2 * m < 35 ∧ k < 120 then k + 1 else if m > 35 ∧ k > 0 then k - 1 else k
        let s := if k' = k then s else setOpt s die { x with steps := mput i k' x.steps, changed := mput i s.timebase x.changed }
        let r := rLaser die arr wl
        let s := setRfld s r 31 16 (rfld s r 15 0 * (200 + k') / 200)
        let s := setRbit s r 33 (k' == 120)
        let s := if k' ≥ 88 ∧ !(rbit s r 32) then
            { health (leaf (emit (setRbit s r 32 true) 0x0041 (srcOpt die 0xF) [(1, die), (1, arr), (1, wl)]) (16 + die) 16) with calDirty := true }
          else s
        if k' = 120 ∧ m < 5 then loseLaser s die arr wl 1 else s))

end Sys2Proof.Machine
end

