-- ==== Sys2Proof/Machine/Epochs.lean ====
section
/-! DEFINITION. Settings committed by epoch: preparation, acknowledgment, commit, boundary and drain (R278, R302, R326, R408, R505 to R514). -/
namespace Sys2Proof.Machine

/-! ## Shadow copies and their checks (R505, R509) -/

/-- Offsets in a partition block of the registers that hubs hold by epoch: TEN_QOS, the route tables, OP_TABLE. -/
def hubShadow (o : Nat) : Bool :=
  (0x1000 ≤ o && o < 0x2000) || (0x20100 ≤ o && o < 0x20300) || (0x21000 ≤ o && o < 0x31000) || o == 0x50000

/-- A hub's shadow copies that do not hold their reset values, by offset in its block. -/
def hubShadows (s : State) (p : Nat) : AMap Word :=
  (s.bar0.filter (fun (c : Nat × Word) => pBase p ≤ c.1 && hubShadow (c.1 - pBase p))).map (fun (c : Nat × Word) => (c.1 - pBase p, c.2))

/-- Route entries of a set of shadow copies that can hold an alternative: every PART_ROUTE, and those written. -/
def shadowEntries (m : AMap Word) : List Nat :=
  let written : List Nat := m.map (fun (c : Nat × Word) => c.1)
  ((List.range 16).map (fun q => 0x20100 + 16 * q)
    ++ (written.filter (fun o => 0x20100 ≤ o && o < 0x31000)).map (fun o => o / 16 * 16)).eraseDups

/-- A route entry of a set of shadow copies. -/
def shadowEntry (s : State) (p : Nat) (m : AMap Word) (off : Nat) : Word × Word :=
  ((mfind m off).getD (regReset (small s) (pBase p + off)), mget 0 m (off + 8))

/-- GUAR of all tenants sums to at most 256 (R278). -/
def guarOk (m : AMap Word) : Bool :=
  ((m.filter (fun (c : Nat × Word) => 0x1000 ≤ c.1 && c.1 < 0x2000)).foldl (fun a c => a + fld c.2 15 8) 0) ≤ 256

/-- The route rules of R302, for the VALID alternatives of every entry. -/
def routesOk (s : State) (p : Nat) (m : AMap Word) : Bool :=
  let es := shadowEntries m
  let alts := es.flatMap (fun o => ((entryAlts (shadowEntry s p m o)).filter (·.valid)).map (fun a => (o, a)))
  let domains (e : Nat) : Nat := (alts.filter (fun a => a.2.egress == e)).foldl (fun d a => d ||| a.2.dmask) 0
  alts.all (fun a =>
    egressValid s p a.2.egress
      && !(0x20200 ≤ a.1 && a.1 < 0x20300 && 0x40 ≤ a.2.egress && a.2.egress < 0x80)
      && ((List.range 16).filter (fun d => nbit (domains a.2.egress) d)).length ≤ 1)

/-- OP_TABLE of a set of shadow copies. -/
def shadowOp (m : AMap Word) : Word := mget 0x47F m 0x50000

/-- A hub's checks (R509). -/
def hubChecks (s : State) (p : Nat) : Bool :=
  let m := hubShadows s p
  guarOk m && routesOk s p m && (shadowOp m).getLsbD (fld (shadowOp m) 10 8)

/-- An optical die's checks: no preset names a port for two engines, or a port value from 12 to 14 (R326). -/
def optChecks (s : State) (o : Nat) : Bool :=
  (List.range 16).all (fun k =>
    let ports := (List.range 8).map (fun e => rfld s (rQcfg o k) (4 * e + 3) (4 * e))
    let lit := ports.filter (fun x => x < 12)
    ports.all (fun x => x < 12 || x == 15) && lit.eraseDups.length == lit.length)

/-- An optical die's presets as it acknowledges them, by preset. -/
def optShadows (s : State) (o : Nat) : AMap Word := (List.range 16).map (fun k => (k, reg s (rQcfg o k)))

/-! ## Participants (R506) -/

/-- The bit of EPOCH_ACK in which a unit acknowledges, by DIE_CAP index; its participant bit lies 32 above. -/
def unitBit (u : Nat) : Option Nat :=
  if 64 ≤ u ∧ u < 80 then some (u - 64) else if 144 ≤ u ∧ u < 152 then some (16 + (u - 144)) else none

/-- All participants, by DIE_CAP index, ascending; and those of them that have not acknowledged. -/
def participants (s : State) : List Nat :=
  (List.range 152).filter (fun u => match unitBit u with
    | some b => rbit s rEpochAck (32 + b)
    | none => false)

def silent (s : State) : List Nat :=
  (participants s).filter (fun u => match unitBit u with
    | some b => !(rbit s rEpochAck b)
    | none => false)

def epochState (s : State) : Nat := rfld s rEpochStatus 2 0

def setEpochState (s : State) (v : Nat) : State := setRfld s rEpochStatus 2 0 v

def epochResult (s : State) (st : Status) : State := setRfld s rEpochStatus 23 16 (stCode st)

/-- A preparation that every participant has acknowledged (R510). -/
def settlePrepare (s : State) : State :=
  if epochState s = 1 ∧ (silent s).isEmpty then epochResult (setEpochState s 2) .ok else s

/-- Every participant's prepared copy discarded. -/
def dropPrepared (s : State) : State :=
  { s with hubs := s.hubs.map (fun e => (e.1, { e.2 with prep := [] })), opts := s.opts.map (fun e => (e.1, { e.2 with prep := [] })) }

/-- The preparation aborted (R510): FIRST_UNIT 0xFF where no unit is to name. -/
def abortEpoch (s : State) (unit : Nat) (st : Status) : State :=
  let s := epochResult (setRfld (setRbit (setEpochState (dropPrepared s) 0) rEpochStatus 3 true) rEpochStatus 15 8 unit) st
  leaf (emit s 0x0037 0 [(4, (rfld s rEpochCur 31 0 + 1) % 2 ^ 32), (1, unit)]) 26 1

/-- A unit leaves service or enters reset: it leaves the set, and what EPOCH_CUR was is kept for its return (R506, R514). -/
def epochLeave (s : State) (u : Nat) : State :=
  match unitBit u with
  | none => s
  | some b =>
    let key := if u < 80 then u - 64 else 16 + (u - 144)
    let s := { s with resetEpoch := mput key (BitVec.ofNat 32 (rfld s rEpochCur 31 0)) s.resetEpoch }
    let s := if u < 80 then setHub s (u - 64) { getHub s (u - 64) with prep := [] }
      else setOpt s (u - 144) { getOpt s (u - 144) with prep := [] }
    settlePrepare (setRbit s rEpochAck (32 + b) false)

/-! ## Active copies -/

/-- A hub's active copies replaced by a set of shadow copies. Its clusters go to points the new table permits, or to DEFAULT
without OP_AUTO (R408). -/
def hubSwitch (s : State) (p : Nat) (m : AMap Word) : State :=
  let h := getHub s p
  settleOps (setHub s p { h with
    prep := [],
    routeOld := h.routeAct,
    routeAct := (shadowEntries m).foldl (fun a o => mput o (shadowEntry s p m o) a) [],
    qosAct := ((m.filter (fun (c : Nat × Word) => 0x1000 ≤ c.1 && c.1 < 0x2000)).map (fun c => ((c.1 - 0x1000) / 8, c.2))),
    opAct := shadowOp m }) p

/-- An optical die's active presets replaced. -/
def optSwitch (s : State) (o : Nat) (m : AMap Word) : State := setOpt s o { getOpt s o with qact := m, prep := [] }

/-- A hub that returns from reset adopts its shadow copies where EPOCH_CUR has advanced meanwhile, if they pass its checks;
else what it restored stays active (R468, R514). -/
def hubReturns (s : State) (p : Nat) : State :=
  match mfind s.resetEpoch p with
  | none => s
  | some n =>
    let s := { s with resetEpoch := mdel p s.resetEpoch }
    if n.toNat = rfld s rEpochCur 31 0 then s
    else if hubChecks s p then hubSwitch s p (hubShadows s p)
    else emit s 0x0037 0 [(4, rfld s rEpochCur 31 0), (1, 64 + p)]

/-- The same for an optical die and its presets. -/
def optReturns (s : State) (o : Nat) : State :=
  match mfind s.resetEpoch (16 + o) with
  | none => s
  | some n =>
    let s := { s with resetEpoch := mdel (16 + o) s.resetEpoch }
    if n.toNat = rfld s rEpochCur 31 0 then s
    else if optChecks s o then optSwitch s o (optShadows s o)
    else emit s 0x0037 0 [(4, rfld s rEpochCur 31 0), (1, 144 + o)]

/-! ## Commands -/

/-- The participants of a preparation: hubs with PART_READY, optical dies past step 8 and not shut down (R506). -/
def participantBits (s : State) : Nat :=
  bitsOver 16 (fun p => partReady s p) + bitsOver 8 (fun o => optUp s o) * 2 ^ 16

/-- A PREPARE write (R509). -/
def prepareWrite (s : State) (n : Nat) : State :=
  if epochState s ≠ 0 ∨ n ≠ (rfld s rEpochCur 31 0 + 1) % 2 ^ 32 then epochResult s .badDesc
  else
    let s := setRbit (setEpochState s 1) rEpochStatus 3 false
    let s := setRfld s rEpochAck 63 0 (participantBits s * 2 ^ 32)
    settlePrepare { s with prepAt := s.timebase }

/-- EPOCH_PREPARE (R509). -/
def execEpochPrepare (tenant : Nat) (v : Word) (s : State) : Out :=
  adminCmd s tenant rEpochPrepare (fun s => prepareWrite s (fld v 31 0))

/-- EPOCH_ACK: a participant checks its shadows, and acknowledges them with a prepared copy or refuses (R509, R510). -/
def execEpochAck (unit : Nat) (s : State) : Out :=
  match unitBit unit with
  | none => illFormed
  | some b => .next (
      if !(running s) ∨ s.restarting ∨ epochState s ≠ 1 ∨ !(rbit s rEpochAck (32 + b)) ∨ rbit s rEpochAck b then s
      else if unit < 80 then
        let p := unit - 64
        if hubChecks s p then settlePrepare (setRbit (setHub s p { getHub s p with prep := hubShadows s p }) rEpochAck b true)
        else abortEpoch s unit .badDesc
      else
        let o := unit - 144
        if optChecks s o then settlePrepare (setRbit (setOpt s o { getOpt s o with prep := optShadows s o }) rEpochAck b true)
        else abortEpoch s unit .badDesc)

/-- EPOCH_PREPARE_TIMEOUT: 1 ms after acceptance a participant is still silent (R510). -/
def execEpochPrepareTimeout (s : State) : Out :=
  .next (
    match epochState s, silent s with
    | 1, u :: _ => abortEpoch { s with timebase := max s.timebase (s.prepAt + 1000000) } u .timeout
    | _, _ => s)

/-- A COMMIT write: T_B is fixed and delivered (R511). -/
def commitWrite (s : State) (go : Bool) : State :=
  if !go then s
  else if epochState s ≠ 2 then epochResult s .badDesc
  else
    let s := epochResult (setEpochState s 3) .ok
    { s with boundAt := s.timebase + 1000 * max 20 (rfld s rEpochCtl 15 0) }

/-- EPOCH_COMMIT (R511). -/
def execEpochCommit (tenant : Nat) (v : Word) (s : State) : Out :=
  adminCmd s tenant rEpochCommit (fun s => commitWrite s (v.getLsbD 0))

/-- Packets under way carry the tag of the epoch that ends. -/
def markOld (s : State) (b : Bool) : State :=
  let mark (k : EngPkt) : EngPkt := { k with pkt := { k.pkt with old := b } }
  { s with
    hubs := s.hubs.map (fun e => (e.1, { e.2 with outst := e.2.outst.map (fun o => (o.1, { o.2 with pkt := { o.2.pkt with old := b } })) })),
    engs := s.engs.map (fun e => (e.1, { e.2 with queue := e.2.queue.map mark })),
    gconns := s.gconns.map (fun e => (e.1, { e.2 with queue := e.2.queue.map mark })) }

/-- EPOCH_BOUNDARY: at T_B the participants switch, and the drain begins (R512). -/
def execEpochBoundary (s : State) : Out :=
  .next (
    if !(running s) ∨ epochState s ≠ 3 then s
    else
      let us := participants s
      let s := markOld { s with timebase := max s.timebase s.boundAt } true
      let s := us.foldl (fun s u =>
        if u < 80 then hubSwitch s (u - 64) (getHub s (u - 64)).prep else optSwitch s (u - 144) (getOpt s (u - 144)).prep) s
      let s := setRfld s rEpochCur 31 0 ((rfld s rEpochCur 31 0 + 1) % 2 ^ 32)
      leaf (setEpochState (setReg s rEpochTime (BitVec.ofNat 64 s.boundAt)) 4) 26 0)

/-- Packets of the previous epoch that have not reached their final unit in the package: noted at the hub where they entered the hub
network and not arrived or failed, or on a Bramble ring or waiting to enter one (R513). -/
def oldPackets (s : State) : Nat :=
  if epochState s ≠ 4 then 0
  else
    let tag := (rfld s rEpochCur 31 0 + 3) % 4
    let held := s.hubs.foldl (fun n e => n + (e.2.outst.filter (fun o => o.2.pkt.old && o.2.pkt.track.isEmpty && !o.2.arrived)).length) 0
    let slots := s.brRings.foldl (fun n e => n + (e.2.slots.filter (fun x => x.2.epoch == tag)).length) 0
    let waits := s.brStops.foldl (fun n e => n + (e.2.wait.filter (fun x => x.dst.isNone && x.slot.epoch == tag)).length) 0
    held + slots + waits

/-- EPOCH_DRAIN_DONE: the old copies are discarded (R513). -/
def execEpochDrainDone (s : State) : Out :=
  .next (
    if epochState s ≠ 4 ∨ oldPackets s ≠ 0 then s
    else
      let s := markOld s false
      setEpochState { s with hubs := s.hubs.map (fun e => (e.1, { e.2 with routeOld := [] })) } 0)

end Sys2Proof.Machine
end

