-- ==== Sys2Proof/Machine/EventLog.lean ====
section
/-! DEFINITION. The event log: records, the host's event ring, drops, the history (R485 to R489); NOTIFY (R281, R282, R484). -/
namespace Sys2Proof.Machine

/-! ## Records (R485) -/

/-- A little-endian run of fields, each with its width in bytes. -/
def packFields : List (Nat × Nat) → Nat
  | [] => 0
  | (n, v) :: fs => v % 256 ^ n + 256 ^ n * packFields fs

/-- The 64 bytes of an event record. -/
def recordOf (seq : Word32) (e : Event) : BitVec 512 :=
  BitVec.ofNat 512 (seq.toNat + e.cause * 2 ^ 32 + e.source * 2 ^ 48 + e.time % 2 ^ 64 * 2 ^ 64
    + packFields e.data % 2 ^ 256 * 2 ^ 128 + e.count % 2 ^ 32 * 2 ^ 384 + packFields e.arg % 2 ^ 96 * 2 ^ 416)

/-- NEXT_SEQ. -/
def nextSeq (s : State) : Word32 := BitVec.ofNat 32 (rfld s rEvtStatus 63 32)

/-- The size of the event ring (R487). -/
def evtSize (s : State) : Nat := 2 ^ max 6 (min 20 (rfld s rEvtCtl 12 8))

def evtEn (s : State) : Bool := rbit s rEvtCtl 0
def evtFault (s : State) : Bool := rbit s rEvtStatus 12

/-- Records written and not read. -/
def evtUnread (s : State) : Nat := (BitVec.ofNat 32 (rfld s rEvtTail 31 0) - BitVec.ofNat 32 (rfld s rEvtHead 31 0) : BitVec 32).toNat

/-- Unread records that set the RECORD leaf. -/
def evtThresh (s : State) : Nat := max 1 (rfld s rEvtCtl 35 16)

/-- The condition of the RECORD leaf; the leaf is set where it begins (R481, R483). -/
def atThresh (s : State) : Bool := evtThresh s ≤ evtUnread s
def noteThresh (was : Bool) (s : State) : State := if !was && atThresh s then leaf s 27 0 else s

/-- The ring is enabled, not at fault, and full. -/
def ringFull (s : State) : Bool := evtEn s && !(evtFault s) && evtUnread s ≥ evtSize s

/-- Writes to the ring are on. -/
def ringOn (s : State) : Bool := evtEn s && !(evtFault s)

/-- A failed write to the ring stops ring writes (R487). -/
def evtFail (s : State) (seq : Word32) : State :=
  leaf { setRbit s rEvtStatus 12 true with evResume := some (s.evResume.getD seq) } 27 2

/-- One record sent to the ring: it advances EVT_TAIL, with the RECORD leaf where the threshold is reached, or fails. -/
def sendRecord (s : State) (seq : Word32) (ok : Bool) : State :=
  let tail := rfld s rEvtTail 31 0
  let data := mget (0 : BitVec 512) s.hist (seq.toNat % 4096)
  let port := rfld s rEvtCtl 1 1
  if !ok then evtFail s seq
  else match hostWrite s (256 * port) ((reg s rEvtBase).toNat + 64 * (tail % evtSize s)) 64 (2 ^ 64 - 1) data.toNat with
    | (.ok, s) =>
      noteThresh (atThresh s) (setRfld s rEvtTail 31 0 ((tail + 1) % 2 ^ 32))
    | (_, s) => evtFail s seq

/-- A record formed: it takes NEXT_SEQ and enters the history, and goes to the ring where ring writes are on (R487, R489). -/
def formRecord (s : State) (e : Event) (ok : Bool) : State :=
  let seq := nextSeq s
  let s := { s with hist := mput (seq.toNat % 4096) (recordOf seq e) s.hist }
  let s := setRfld s rEvtStatus 63 32 ((seq.toNat + 1) % 2 ^ 32)
  if ringOn s then sendRecord s seq ok
  else if evtEn s then { s with evResume := some (s.evResume.getD seq) }
  else s

/-! ## Drops (R488) -/

/-- Lists of at most seven. -/
def sevens (l : List (Nat × Nat)) : Nat → List (List (Nat × Nat))
  | 0 => []
  | n + 1 => if l.isEmpty then [] else l.take 7 :: sevens (l.drop 7) n

/-- The OVERFLOW records of the drop counts. -/
def overflowSeries (s : State) : List Event :=
  let parts := sevens s.evDrops s.evDrops.length
  let total := s.evDrops.foldl (fun a c => a + c.2) 0
  parts.zipIdx.map (fun pi =>
    let entries := pi.1.flatMap (fun c => [(2, c.1), (2, c.2)])
    { cause := 0x0001,
      data := [(4, min total (2 ^ 32 - 1)), (1, pi.2), (1, parts.length), (2, 0), (8, s.evLastDrop)] ++ entries.take 8,
      arg := entries.drop 8 })

/-- Some drop count is not zero. -/
def dropping (s : State) : Bool := !s.evDrops.isEmpty

/-- One record formed: WRAP where NEXT_SEQ has its last value, then OVERFLOW, then the FIFO head, each where the ring lets it
(R487 to R489). -/
def nextRecord (s : State) (ok : Bool) : State :=
  if ringFull s then s
  else if nextSeq s = 0xFFFFFFFF#32 then formRecord s { cause := 0x0002, time := s.timebase } ok
  else
    let s := if s.evSeries.isEmpty ∧ dropping s then { s with evSeries := overflowSeries s, evDrops := [] } else s
    match s.evSeries with
    | e :: es => formRecord { s with evSeries := es } { e with time := s.timebase } ok
    | [] =>
      match s.evFifo with
      | e :: es => formRecord { s with evFifo := es } e ok
      | [] => s

/-- A record formed under FAULT that the ring has not had, written from the history once writes resume, beginning with the
one that failed; one that the history no longer holds is passed over (R487, R489). -/
def resumeRecord (s : State) (seq : Word32) (ok : Bool) : State :=
  if ringFull s then s
  else
    let next := seq + 1
    let s := { s with evResume := if next = nextSeq s then none else some next }
    if fld (mget (0 : BitVec 512) s.hist (seq.toNat % 4096)) 31 0 = seq.toNat then
      let t := sendRecord s seq ok
      if evtFault t then { t with evResume := some seq } else t
    else s

/-- EVENT_RECORD_WRITE: the next record; `ok` is the host's answer to the write (R487). -/
def execEventRecordWrite (ok : Bool) (s : State) : Out :=
  .next (
    if !(running s) ∨ s.restarting then s
    else match ringOn s, s.evResume with
      | true, some q => if q = nextSeq s then nextRecord { s with evResume := none } ok else resumeRecord s q ok
      | _, _ => nextRecord s ok)

/-- EVENT_ARRIVAL: an event of some unit of the package (R488). -/
def execEventArrival (cause source : Nat) (data : List (Nat × Nat)) (s : State) : Out :=
  .next (if running s then
    emitEv s { cause := cause, source := source, time := s.timebase, data := data } else s)

/-! ## Registers of the log (R487) -/

/-- EVT_CTL_WRITE: setting EN zeroes EVT_TAIL and EVT_HEAD; while EN stays 1, PORT and LOG2SZ stay. -/
def evtCtlWrite (s : State) (v : Word) : State :=
  let old := reg s rEvtCtl
  let en := old.getLsbD 0
  let new := writeBits { base := rEvtCtl, rw := 0xFFFFF1F03 } old v (BitVec.allOnes 64)
  if en ∧ v.getLsbD 0 then noteThresh (atThresh s) (setReg s rEvtCtl (setFld (setFld new 12 8 (fld old 12 8)) 1 1 (fld old 1 1)))
  else
    let s := setReg s rEvtCtl new
    if v.getLsbD 0 then { setReg (setReg s rEvtTail 0) rEvtHead 0 with evResume := none } else { s with evResume := none }

def execEvtCtlWrite (tenant : Nat) (v : Word) (s : State) : Out :=
  adminCmd s tenant rEvtCtl (fun s => evtCtlWrite s v)

/-- EVT_HEAD_WRITE: a value out of range is discarded. -/
def evtHeadWrite (s : State) (v : Word) : State :=
  let new : BitVec 32 := v.setWidth 32
  let head := BitVec.ofNat 32 (rfld s rEvtHead 31 0)
  let tail := BitVec.ofNat 32 (rfld s rEvtTail 31 0)
  if (new - head).toNat > evtSize s ∨ (tail - new).toNat > evtSize s then s else setReg s rEvtHead (BitVec.ofNat 64 new.toNat)

def execEvtHeadWrite (tenant : Nat) (v : Word) (s : State) : Out :=
  adminCmd s tenant rEvtHead (fun s => evtHeadWrite s v)

/-- NOTIFY_CLEAR: word i of a tenant's NOTIFY bitmap written through its status page (R282, R484). -/
def execNotifyClear (tenant i : Nat) (v : Word) (s : State) : Out :=
  guardWf (tenant < 512 && i < 8) (.next (
    if !(running s) ∨ !((getPort s (tenant / 256)).up) ∨ rbit s (rTenState tenant) 10 then s
    else setReg s (rTenLeaf tenant 0 i) (reg s (rTenLeaf tenant 0 i) &&& ~~~ v)))

end Sys2Proof.Machine
end

