-- ==== Sys2Proof/Machine/FieldTests.lean ====
section
/-! DEFINITION. FIELD_TEST and the publication of idle counts (R130 to R132, R443 to R445, R502). -/
namespace Sys2Proof.Machine

/-! ## Field test (R443 to R445) -/

/-- The cluster of the test that runs is cut out once no launch is resident in it. -/
def drainCut (s : State) : State :=
  match s.tests with
  | [] => s
  | t :: ts =>
    if t.begun.isNone ∨ t.phys.isSome ∨ (clusterCores s t.cl).any (fun k => (getCore s k).launch.isSome) then s
    else
      let q := physOf s t.cl
      let (took, s) := cutCluster s t.cl false 1
      health (capSpares { s with tests := { t with phys := some (q, took) } :: ts } (t.cl / 40))

/-- FIELD_TEST: it waits for its turn, and the first begins (R443, R444). -/
def execFieldTest (p op : Nat) (s : State) : Out :=
  onChosen s p op 0x20 (fun o =>
    let die := 4 * p + dFld o.desc 2 1 0
    let c := dFld o.desc 2 13 8
    let cl := clKey die c
    if !(partUp s p) then finishOp s p op .linkLost 0 0
    else if c ≥ 40 ∨ mfind s.clusterOut cl = some 0 then finishOp s p op .badDesc 0 0
    else
      let s := setOp s p op { o with phase := .running }
      drainCut (beginTest { s with tests := s.tests ++ [{ part := p, op := op, cl := cl }] }))

/-- Operations with a launch resident in a cluster. -/
def clusterLaunches (s : State) (cl : Nat) : List (Nat × Nat) :=
  ((clusterCores s cl).filterMap (fun k => (getCore s k).launch.map (fun l => (l.part, l.op)))).eraseDups

/-- FIELD_TEST_DRAIN_TIMEOUT: after 10 ms the launches in the cluster are stopped: with REPLAY_REQ as members of a step, else
with ABORTED (R444). -/
def execFieldTestDrainTimeout (s : State) : Out :=
  .next (
    match s.tests with
    | [] => s
    | t :: _ =>
      match t.begun, t.phys with
      | some t0, none =>
        let s := { s with timebase := max s.timebase (t0 + 10000000) }
        let s := (clusterLaunches s t.cl).foldl (fun s e =>
          let st : Status := match (getOp s e.1 e.2).bind (·.step) with
            | some _ => .replayReq
            | none => .aborted
          completeKernel (stopOp s e.1 e.2 st) e.1 e.2) s
        drainCut s
      | _, _ => s)

/-- A failing core of the tested cluster soft-fused; a spare core takes its logical number where it holds one. -/
def softFuse (s : State) (die q x : Nat) : State :=
  let s := { s with coreGone := mput (pclKey die q * 128 + x) () s.coreGone }
  match (List.range 120).find? (fun k => physCoreOf s die q k == x) with
  | none => s
  | some k => match spareCore s die q with
    | none => s
    | some y => { s with physCore := mput (pclKey die q * 120 + k) y s.physCore }

/-- The test ended: the next one begins. -/
def endTest (s : State) : State := drainCut (beginTest { s with tests := s.tests.drop 1 })

/-- FIELD_TEST_RESULT: the results are applied, the record is written, the FIELD_TEST completes (R445). A core that was soft-fused before
has no spare to find again, so it does not count against CORE_SPARE (log entry 60). -/
def execFieldTestResult (r : TestResult) (s : State) : Out :=
  guardWf (r.failed.all (fun x => x < 128)) (.next (
    let s := drainCut s
    match s.tests with
    | [] => s
    | t :: _ =>
      match t.phys with
      | none => s
      | some (q, took) =>
        let die := t.cl / 40
        let bad := r.failed.eraseDups
        if !r.image then finishOp (endTest (health (returnCluster s t))) t.part t.op .faultMem 0 0
        else
          let fresh := bad.filter (fun x => (mfind s.coreGone (pclKey die q * 128 + x)).isNone)
          let retire := fresh.length > coreSpares s die q || !r.cache
          let s :=
            if retire then
              let s := { s with clGone := mput (pclKey die q) 0 s.clGone,
                                coreGone := bad.foldl (fun m x => mput (pclKey die q * 128 + x) () m) s.coreGone }
              if took then s else refuseWaiting { s with clusterOut := mput t.cl 0 s.clusterOut } t.cl
            else returnCluster (bad.foldl (fun s x => softFuse s die q x) s) t
          let s := { capSpares s die with calDirty := true }
          let done := bad.length + 256 * b2n retire + 512 * b2n took
          let ff := bad.foldl min 0xFFFFFFFF
          let s := emit s 0x0029 (srcDie die q) [(4, done), (4, ff)]
          finishOp (endTest (health s)) t.part t.op .ok done ff))

/-! ## Idle accounting (R131, R132) -/

/-- A count added to its cluster's counter, and to its tenant's total. -/
def addIdle (s : State) (p : Nat) (c : IdleCount) : State :=
  let r := rIdleCnt p (c.die % 4) c.cl c.cause
  let s := setReg s r (reg s r + BitVec.ofNat 64 c.cycles)
  match c.tenant with
  | none => s
  | some t => { s with idle := mput (16 * t + c.cause) (mget 0 s.idle (16 * t + c.cause) + c.cycles) s.idle }

/-- IDLE_PUBLICATION: at a multiple of 1 ms the hub adds the counts since the last boundary (R131, R132). -/
def execIdlePublication (p : Nat) (counts : List IdleCount) (s : State) : Out :=
  guardWf (p < 16 && counts.all (fun c => c.die / 4 == p && c.cl < 40 && c.cause < 11
      && (match c.tenant with | some t => t < 512 | none => true))) (.next (
    if !(running s) ∨ !(partUp s p) then s
    else counts.foldl (fun s c => addIdle s p c) { s with timebase := cdiv s.timebase 1000000 * 1000000 }))

end Sys2Proof.Machine
end

