-- ==== Sys2Proof/Machine/RingCmd.lean ====
section
/-! DEFINITION. RING_CMD: creating, closing and querying rings (R255 to R257, R372, R384). -/
namespace Sys2Proof.Machine

/-- RINGS of a tenant's TEN_STATE brought up to date (R251). -/
def countRings (s : State) (t : Nat) : State :=
  let n := sumOver (nParts s) (fun p =>
    ((getHub s p).rings.filter (fun c => c.2.state != .free && ringTenant c.2 == t)).length)
  setRfld s (rTenState t) 9 0 n

/-- RESULT written, BUSY clear (R255). -/
def ringResult (s : State) (p : Nat) (st : Status) : State :=
  setRbit (setRfld s (rRingCmd p) 31 24 (stCode st)) (rRingCmd p) 22 false

/-- The lowest number below n that a list does not hold. -/
def lowestFree (n : Nat) (used : List Nat) : Option Nat := (List.range n).find? (fun i => !(used.contains i))

/-- Contexts in use, ascending, searched without listing all 32,768: the lowest free one is at most the count of those in use. -/
def freeCtx (h : HubSt) : Option Nat :=
  let used := (h.rings.filter (fun c => c.2.state != .free)).map (·.1)
  (lowestFree (used.length + 1) used).bind (fun i => if i < 32768 then some i else none)

/-- Group contexts that COMM rings hold. -/
def freeGroup (h : HubSt) : Option Nat :=
  let used := (h.rings.filter (fun c => c.2.state != .free && c.2.comm)).map (·.2.group)
  (lowestFree (used.length + 1) used).bind (fun i => if i < 4096 then some i else none)

/-- A group context's words at reset, bound to a queue id (R372). -/
def newGroup (qid : Nat) : Grp :=
  { words := [BitVec.ofNat 64 (qid + 2 ^ 18), 0, BitVec.ofNat 64 (2 * 2 ^ 17 + 2 ^ 20), 0x0001000100010001#64, 0, 30, 0, 0] }

/-- The conditions of CREATE in their order (R256). -/
def createCheck (s : State) (p qid : Nat) : Status :=
  let a3 := reg s (rRingArg p 3)
  let lg := fld a3 4 0
  let t := qid / 512
  let h := getHub s p
  if lg < 4 ∨ lg > 16 ∨ fld a3 6 5 % 2 = 1 ∨ fld a3 8 7 % 2 = 1 ∨ rfld s (rRingArg p 0) 11 0 ≠ 0 ∨ rfld s (rRingArg p 1) 11 0 ≠ 0
      ∨ rfld s (rRingArg p 2) 2 0 ≠ 0 then .badDesc
  else if !(rbit s (rTenCfg t) 0) ∨ partDomain s p ≠ tenDomain s t then .access
  else if (ringOf s qid).isSome then .badDesc
  else if (freeCtx h).isNone ∨ (fld a3 9 9 = 1 ∧ (freeGroup h).isNone) then .noResource
  else .ok

/-- CREATE (R256). -/
def createRing (s : State) (p qid : Nat) : State :=
  match createCheck s p qid with
  | .ok =>
    let h := getHub s p
    let a3 := reg s (rRingArg p 3)
    let ctx := (freeCtx h).getD 0
    let comm := fld a3 9 9 == 1
    let g := if comm then (freeGroup h).getD 0 else 0
    let r : Ring :=
      { state := .active, qid := qid, sqBase := reg s (rRingArg p 0), cqBase := reg s (rRingArg p 1),
        headWb := reg s (rRingArg p 2), log2sz := fld a3 4 0, sqKind := fld a3 6 5, cqKind := fld a3 8 7, comm := comm,
        devDb := fld a3 10 10 == 1, intEn := fld a3 11 11 == 1, rprioMax := fld a3 19 16, group := g, jobTag := fld a3 47 32 }
    let s := setHub s p { h with rings := mput ctx r h.rings, grp := if comm then mput g (newGroup qid) h.grp else h.grp }
    let s := if comm then setRfld s (rRingArg p 3) 31 20 g else s
    ringResult (countRings (setRfld s (rRingCmd p) 46 32 ctx) (qid / 512)) p .ok
  | st => ringResult s p st

/-- QUERY (R255). -/
def queryRing (s : State) (p qid : Nat) : State :=
  match ringAt s p qid with
  | none => ringResult s p .badDesc
  | some (ctx, r) =>
    let st := match r.state with
      | .free => 0
      | .active => 1
      | .error => 2
      | .closing => 3
    let s := setRfld s (rRingCmd p) 46 32 ctx
    let s := setReg s (rRingArg p 4) (BitVec.ofNat 64 (r.sqHead.toNat + 2 ^ 32 * r.cqTail.toNat))
    let s := setReg s (rRingArg p 5) (BitVec.ofNat 64 (st + 4 * b2n r.step.isSome + 8 * (ringOps s p ctx).length))
    ringResult s p .ok

/-- A ring stops: nothing more is fetched or dispatched, its open step is aborted, its started descriptors are stopped with a
status (R257, R283, R384, R436). -/
def closeRing (s : State) (p ctx : Nat) (reset : Bool) (mute : Bool) (st : Status) : State :=
  let r := getRing s p ctx
  let s := setRing s p ctx { r with state := .closing, closing := some (reset, s.timebase), fetched := [], mute := r.mute || mute }
  let s := match r.step with
    | some key => abortStep s p key none
    | none => s
  let s := setRing s p ctx { getRing s p ctx with skipStep := false }
  stopOps (forgetSince s p ctx) p ((ringOps s p ctx).map (·.1)) st

/-- DESTROY and RESET begin (R257). -/
def beginClose (s : State) (p qid : Nat) (reset : Bool) : State :=
  match ringAt s p qid with
  | none => ringResult s p .badDesc
  | some (ctx, r) =>
    if r.state = .closing then ringResult s p .badDesc
    else closeRing (setRbit s (rRingCmd p) 22 true) p ctx reset false .aborted

/-- A ring's context freed, with its group context (R257, R283). -/
def freeRing (s : State) (p ctx : Nat) : State :=
  let r := getRing s p ctx
  let h := getHub s p
  let s := setHub s p { h with rings := mdel ctx h.rings, grp := if r.comm then mdel r.group h.grp else h.grp }
  countRings s (ringTenant r)

/-- DESTROY or RESET ends: records that found no space are dropped after 10 ms (R257). RESET changes SQ_HEAD and CQ_TAIL, so their
word is written back (R263). -/
def endClose (s : State) (p ctx : Nat) : State :=
  let r := getRing s p ctx
  match r.closing with
  | none => s
  | some (reset, t0) =>
    if r.state ≠ .closing ∨ r.mute ∨ !(ringOps s p ctx).isEmpty then s
    else
      let s := if r.waiting.isEmpty then s else { s with timebase := max s.timebase (t0 + 10000000) }
      let s :=
        if reset then
          let s := setRing s p ctx { r with state := .active, sqHead := 0, sqTail := 0, cqHead := 0, cqTail := 0, fetchPos := 0,
                                            fetched := [], waiting := [], step := none, skipStep := false, closing := none }
          if r.sqHead = 0 ∧ r.cqTail = 0 then s else headWb s p ctx
        else freeRing s p ctx
      ringResult s p .ok

/-- A write of RING_CMD: discarded while BUSY; GO starts OP, a reserved one gives BAD_DESC (R255). -/
def ringCmdWrite (s : State) (p : Nat) (v : Word) : State :=
  if rbit s (rRingCmd p) 22 then s
  else
    let s := setRfld s (rRingCmd p) 20 0 (fld v 20 0)
    let q := fld v 17 0
    if !(v.getLsbD 21) then s
    else match fld v 20 18 with
      | 1 => createRing s p q
      | 2 => beginClose s p q false
      | 3 => beginClose s p q true
      | 4 => queryRing s p q
      | _ => ringResult s p .badDesc

/-- A write of RING_CMD: OP and GO of the value say what it does, whichever row brings it (R255, R497). -/
def ringCmd (tenant p : Nat) (v : Word) (s : State) : Out := guardWf (p < 16) (adminCmd s tenant (rRingCmd p) (fun s => ringCmdWrite s p v))

/-- CREATE. -/
def execRingCreate (tenant p : Nat) (v : Word) (s : State) : Out := ringCmd tenant p v s

/-- DESTROY. -/
def execRingDestroy (tenant p : Nat) (v : Word) (s : State) : Out := ringCmd tenant p v s

/-- RESET. -/
def execRingReset (tenant p : Nat) (v : Word) (s : State) : Out := ringCmd tenant p v s

/-- QUERY. -/
def execRingQuery (tenant p : Nat) (v : Word) (s : State) : Out := ringCmd tenant p v s

/-- RING_CLOSING_DONE (R257). -/
def execRingClosingDone (p ctx : Nat) (s : State) : Out :=
  guardWf (p < 16 && ctx < 32768) (.next (endClose s p ctx))

end Sys2Proof.Machine
end

