-- ==== Sys2Proof/Machine/Ports.lean ====
section
/-! DEFINITION. The administrators' lock, function-level resets, the PCIe ports, the reference clocks (R37 to R39, R252, R283, R461, R469, R487, R521). -/
namespace Sys2Proof.Machine

/-! ## ADMIN_LOCK (R252) -/

/-- The lock handed to nobody. -/
def releaseLock (s : State) : State :=
  let s := setRbit (setRfld s rAdminLock 1 0 0) rAdminLock 5 false
  setRfld s rAdminLock 63 32 ((rfld s rAdminLock 63 32 + 1) % 2 ^ 32)

/-- The lock handed to a tenant. -/
def giveLock (s : State) (tenant : Nat) : State :=
  let s := setRfld s rAdminLock 1 0 (if tenant = 0 then 1 else 2)
  setRfld s rAdminLock 63 32 ((rfld s rAdminLock 63 32 + 1) % 2 ^ 32)

/-- What the owner's write does: LEASE_MS, RELEASE; the lease restarts. -/
def ownerLockWrite (s : State) (v en : Word) : State :=
  let s := setReg s rAdminLock (writeBits { base := rAdminLock, rw := 0xFFFF0000 } (reg s rAdminLock) v en)
  let s := renewLease s
  if (v &&& en).getLsbD 3 then releaseLock s else s

/-- A write to ADMIN_LOCK, of the bits of `en`. A write whose TAKE is refused, or of another than the owner, changes nothing. -/
def lockWrite (s : State) (tenant : Nat) (v en : Word) : State :=
  if !(bar0Open s) then s
  else if ownerTenant s = some tenant then ownerLockWrite s v en
  else if !((v &&& en).getLsbD 2) then s
  else if tenant = 256 ∧ rbit s rStrap 5 then s
  else if (ownerTenant s).isNone ∨ rbit s rAdminLock 5 then ownerLockWrite (giveLock s tenant) v en
  else s

/-- A command that writes ADMIN_LOCK: the bits of the value say what it does, whichever row brings it. -/
def lockCmd (tenant : Nat) (v : Word) (s : State) : Out := guardWf (tenant == 0 || tenant == 256) (.next (lockWrite s tenant v (BitVec.allOnes 64)))

/-- TAKE. -/
def execLockTake (tenant : Nat) (v : Word) (s : State) : Out := lockCmd tenant v s

/-- RELEASE. -/
def execLockRelease (tenant : Nat) (v : Word) (s : State) : Out := lockCmd tenant v s

/-- RENEW. -/
def execLockRenew (tenant : Nat) (v : Word) (s : State) : Out := lockCmd tenant v s

/-- LEASE_EXPIRY: the owner has written nothing for LEASE_MS. -/
def execLeaseExpiry (s : State) : Out :=
  .next (
    let ms := rfld s rAdminLock 31 16
    if (ownerTenant s).isNone ∨ ms = 0 then s
    else setRbit { s with timebase := max s.timebase (s.leaseAt + 1000000 * ms) } rAdminLock 5 true)

/-! ## Function-level reset (R283) -/

/-- A tenant exists: its port is enabled (R456). -/
def tenantPresent (s : State) (t : Nat) : Bool := t < 256 || !(rbit s rStrap 5)

/-- Rings of a tenant, by hub and context. -/
def tenantRings (s : State) (t : Nat) : List (Nat × Nat) :=
  (List.range (nParts s)).flatMap (fun p =>
    ((getHub s p).rings.filter (fun c => c.2.state != .free && ringTenant c.2 == t)).map (fun c => (p, c.1)))

/-- The reset begins: the function is busy, its rings stop without records. -/
def flrBegin (s : State) (t : Nat) : State :=
  if !(tenantPresent s t) then s
  else
    let s := setRbit s (rTenState t) 10 true
    (tenantRings s t).foldl (fun s r => closeRing s r.1 r.2 false true .aborted) s

/-- The lock released where its owner is a function of the port. -/
def portLock (s : State) (port : Nat) : State := if ownerTenant s = some (256 * port) then releaseLock s else s

/-- FLR: a physical function's reset resets every function of its port. -/
def execFlr (tenant : Nat) (s : State) : Out :=
  guardWf (tenant < 512) (.next (
    if !(running s) ∨ !((getPort s (tenant / 256)).up) then s
    else if tenant % 256 = 0 then
      portLock ((List.range 256).foldl (fun s f => flrBegin s (tenant + f)) s) (tenant / 256)
    else flrBegin s tenant))

/-- A ring of a reset function freed; a RING_CMD that was closing it ends. -/
def flrFree (s : State) (r : Nat × Nat) : State :=
  let qid := (getRing s r.1 r.2).qid
  let s := freeRing s r.1 r.2
  if rbit s (rRingCmd r.1) 22 ∧ rfld s (rRingCmd r.1) 17 0 = qid then ringResult s r.1 .ok else s

/-- The status page's own memory at its reset values. -/
def clearPage (s : State) (t : Nat) : State :=
  let s := (List.range 8).foldl (fun s i => setReg s (rTenLeaf t 0 i) 0) s
  { s with idle := s.idle.filter (fun c => c.1 / 16 != t) }

/-- FLR_DONE: nothing of the tenant runs any more; its rings are FREE, its record is written, it answers again. -/
def execFlrDone (tenant : Nat) (s : State) : Out :=
  guardWf (tenant < 512) (.next (
    let rs := tenantRings s tenant
    if !(rbit s (rTenState tenant) 10) ∨ rs.any (fun r => !(ringOps s r.1 r.2).isEmpty) then s
    else
      let s := clearPage (rs.foldl flrFree s) tenant
      let s := emit s 0x0034 (srcPcie (tenant / 256) (tenant % 256)) [(2, tenant)]
      setRbit (leaf s 31 (2 + tenant / 256)) (rTenState tenant) 10 false))

/-! ## Links (R37, R461, R469, R487) -/

/-- A port's PERST_N and REFCLK inputs. -/
def perstOf (s : State) (x : Nat) : Bool := if x = 0 then s.pins.perst0 else s.pins.perst1
def refPin (s : State) (i : Nat) : Bool := if i = 0 then s.pins.ref0 else s.pins.ref1

def setPerst (s : State) (x : Nat) (b : Bool) : State :=
  { s with pins := if x = 0 then { s.pins with perst0 := b } else { s.pins with perst1 := b } }

def setRefPin (s : State) (i : Nat) (b : Bool) : State :=
  { s with pins := if i = 0 then { s.pins with ref0 := b } else { s.pins with ref1 := b } }

/-- A port may train: its own REFCLK is good, its PERST_N deasserted, the port enabled, and Saley past step 3 of R457. -/
def portCanTrain (s : State) (x : Nat) : Bool :=
  refPin s x && !(perstOf s x) && (x == 0 || !(rbit s rStrap 5)) && (running s || s.stage == .halted)

/-- A port trains where it may. -/
def portTrain (s : State) (x : Nat) : State := if portCanTrain s x then setPort s x { getPort s x with up := true } else s

/-- A port's link goes down: its leaf; ring writes through it stop (R483, R487). -/
def portLinkDown (s : State) (x : Nat) : State :=
  let p := getPort s x
  if !p.up then s
  else
    let s := leaf (setPort s x { p with up := false, atc := [] }) 31 x
    if evtEn s ∧ rfld s rEvtCtl 1 1 = x ∧ !(evtFault s) then leaf (setRbit s rEvtStatus 12 true) 27 2 else s

/-- A port's link taken down with its 256 functions reset, and the lock released (R469). -/
def portReset (s : State) (x : Nat) : State :=
  let s := portLinkDown s x
  let s := setPort s x { getPort s x with ats := [], atc := [] }
  if running s then portLock ((List.range 256).foldl (fun s f => flrBegin s (256 * x + f)) s) x else s

/-- PERST_N_ASSERT (R469). -/
def execPerstNAssert (port : Nat) (s : State) : Out :=
  guardWf (port < 2) (.next (if perstOf s port || extestOn s then s else portReset (setPerst s port true) port))

/-- PERST_N_DEASSERT (R461, R469). -/
def execPerstNDeassert (port : Nat) (s : State) : Out :=
  guardWf (port < 2) (.next (if extestOn s then s else portTrain (setPerst s port false) port))

/-- PCIE_LINK_DOWN: for a reason other than PERST_N or REFCLK (R487). -/
def execPcieLinkDown (port : Nat) (s : State) : Out := guardWf (port < 2) (.next (portLinkDown s port))

/-- PCIE_CONFIG_REQUEST: Request Retry Status until the firmware runs, normally from then on or from HALTED; a request that
writes the function's ATS Enable bit names its value. That a request arrives shows the link to be up (log entry 22) (R461, R521). -/
def execPcieConfigRequest (port fn : Nat) (ats : Option Bool) (s : State) : Out :=
  guardWf (port < 2 && fn < 256) (.next (
    if s.stage = .waitReference then
      (if refPin s port && !(perstOf s port) then setPort s port { getPort s port with cfg := some true } else s)
    else if !(portCanTrain s port) then s
    else
      let p := getPort s port
      let on := match ats with
        | some true => fn :: p.ats.filter (fun f => f != fn)
        | some false => p.ats.filter (fun f => f != fn)
        | none => p.ats
      setPort s port { p with up := true, cfg := some false, ats := on, atc := p.atc.filter (fun e => ats != some false || e.1 != fn) }))

/-- PCIE_EARLY_BAR_ACCESS: before the firmware runs a read gives all ones and a write goes nowhere, without an error (R461). -/
def execPcieEarlyBarAccess (port : Nat) (write : Bool) (s : State) : Out :=
  guardWf (port < 2) (.next (
    if (s.stage = .waitReference ∨ s.stage = .halted) ∧ !write then
      setPort s port { getPort s port with bar := some (BitVec.allOnes 64) }
    else s))

/-- ATS_INVALIDATION: the port's translation cache lets the page go, then the invalidation is acknowledged (R521). -/
def execAtsInvalidation (port fn page : Nat) (s : State) : Out :=
  guardWf (port < 2 && fn < 256) (.next (
    let p := getPort s port
    setPort s port { p with atc := p.atc.filter (fun e => !(e.1 == fn && e.2.1 == page)) }))

/-! ## Reference clocks (R37 to R39) -/

/-- REFCLK_STATUS.REF0_OK and REF1_OK. -/
def refGood (s : State) (i : Nat) : Bool := rbit s rRefclk i

/-- The reference in use. -/
def refSel (s : State) : Nat := rfld s rRefclk 2 2

/-- The package reference switched to an input: SWITCHED, the record, the leaf; holdover ends. -/
def refSwitch (s : State) (i : Nat) : State :=
  let s := setRbit (setRbit (setRfld s rRefclk 2 2 i) rRefclk 8 true) rRefclk 4 false
  leaf (emit s 0x0010 0 [(1, i)]) 28 2

/-- REFCLK_LOSS: the input is judged bad; its own port's link goes down as under PERST_N, a package whose boot ROM has halted with its
port too; with both lost the package holds over, whichever was lost first. Between the loss of the reference in use and the switch
no reference is in use either (R37 to R39). -/
def execRefclkLoss (i : Nat) (s : State) : Out :=
  guardWf (i < 2) (.next (
    let s := setRefPin s i false
    if s.stage = .halted then portReset s i
    else if !(running s) ∨ !(refGood s i) then s
    else
      let s := setRbit s rRefclk i false
      let s := if (getPort s i).up then portReset s i else s
      let s := if refGood s (refSel s) then s else setRbit s rRefclk 4 true
      if refGood s (1 - i) then s else leaf (emit s 0x0011 0 []) 28 2))

/-- REFCLK_SWITCHOVER: the reference in use has failed and the other is good (R38). -/
def execRefclkSwitchover (s : State) : Out :=
  .next (
    let i := refSel s
    if !(running s) ∨ refGood s i ∨ !(refGood s (1 - i)) then s else refSwitch s (1 - i))

/-- REFCLK_GOOD: holdover ends with the input that is good again; the input's port trains; a TIMEBASE that has never had a
reference starts. Where the input taken into use is not the one that SEL names, this counts as a switch-over, the first selection of
REFCLK_1 after a cold start without a good reference among them (DESIGN CHOICE, log entry 57) (R37, R39, R43). -/
def execRefclkGood (i : Nat) (s : State) : Out :=
  guardWf (i < 2) (.next (
    let s := setRefPin s i true
    if s.stage = .halted then portTrain s i
    else if !(running s) then s
    else
      let s := portTrain (setRbit s rRefclk i true) i
      let s := { s with tbStarted := true }
      if !(rbit s rRefclk 4) then s
      else if refSel s = i then setRbit s rRefclk 4 false
      else refSwitch s i))

/-- REFCLK_STATUS with PREFER rewritten, so that Saley selects again: the one named if it is good, else the other (R38). Every write
that reaches PREFER counts as rewriting it, one that leaves its value as it was among them (DEDUCED, log entry 57). -/
def preferWrite (s : State) (v : Word) : State :=
  let s := writeReg s rRefclk v
  let want := rfld s rRefclk 3 3
  let pick := if refGood s want then want else 1 - want
  if refGood s pick ∧ (refSel s ≠ pick) then refSwitch s pick else s

/-- REFCLK_PREFER_WRITE. -/
def execRefclkPreferWrite (tenant : Nat) (v : Word) (s : State) : Out :=
  adminCmd s tenant rRefclk (fun s => preferWrite s v)

end Sys2Proof.Machine
end

