-- ==== Sys2Proof/Machine/PartLife.lean ====
section
/-! DEFINITION. A partition leaving service and returning: its identity check, training, shut-down and reset (R26, R28, R175, R211, R421, R458, R463, R466 to R468, R482, R514). -/
namespace Sys2Proof.Machine

/-! ## Saley's reach (R23, R488) -/

/-- Saley reaches the partitions again: what the hubs kept comes out, and a later loss of reach has its own record. -/
def saleyBack (s : State) : State :=
  if saleyReaches s ∧ !s.restarting then
    (List.range 16).foldl (fun s p => releaseEv s p) { s with unreach := s.unreach.filter (fun e => !(saleyPath s e.1)) }
  else s

/-! ## Die-to-die links (R21, R25, R26; their numbers: log entry 4) -/

/-- Modules of a link. -/
def linkModules (l : Nat) : Nat :=
  if l < 64 then 8 else if l < 128 then 4 else if l < 384 then 4 else if l < 512 then 2 else 1

/-- A link of the package exists. -/
def linkOk (s : State) (l : Nat) : Bool :=
  if l < 128 then l % 64 < 4 * nParts s
  else if l < 384 then
    let p := (l - 128) / 16
    let q := (l - 128) % 16
    p < q && q < nParts s && hubLinked p q
  else if l < 512 then
    let o := (l - 384) / 16
    optPresent s o && optAttached (small s) ((l - 384) % 16) o
  else l < 516

/-- A link has no trained module. -/
def linkDead (s : State) (l : Nat) : Bool := mget 0 s.ucieDown l % 2 ^ linkModules l == 2 ^ linkModules l - 1

/-- Numbers of the links between hubs, between an optical die and a hub, between Saley and a hub. -/
def hubLink (p q : Nat) : Nat := if p < q then 128 + 16 * p + q else 128 + 16 * q + p
def optLink (o p : Nat) : Nat := 384 + 16 * o + p
def saleyLink (p : Nat) : Nat := 512 + p

/-- Modules of a link that are trained. -/
def linkTrained (s : State) (l : Nat) : Nat :=
  ((List.range (linkModules l)).filter (fun m => !(nbit (mget 0 s.ucieDown l) m))).length

/-- The links of the die at a DIE_CAP index (R16, R17, R21, R22). -/
def dieLinks (s : State) (i : Nat) : List Nat :=
  if i < 64 then [i]
  else if i < 80 then
    let p := i - 64
    (List.range 4).flatMap (fun n => [4 * p + n, 64 + 4 * p + n]) ++ ((List.range (nParts s)).filter (hubLinked p)).map (hubLink p)
      ++ ((List.range 8).filter (fun o => optPresent s o && optAttached (small s) p o)).map (fun o => optLink o p)
      ++ (if p < 4 then [saleyLink p] else [])
  else if i < 144 then [64 + (i - 80)]
  else if i < 152 then ((List.range (nParts s)).filter (fun p => optAttached (small s) p (i - 144))).map (optLink (i - 144))
  else (List.range 4).map saleyLink

/-- MODULES of a capability record: modules trained on all the die's links together (R30). -/
def dieModules (s : State) (i : Nat) : Nat := sumOver (dieLinks s i).length (fun k => linkTrained s (lget 0 (dieLinks s i) k))

/-- Saley's link to a hub leaves or enters service. -/
def setSaleyLink (s : State) (p : Nat) (b : Bool) : State := setRbit s (rEgr p) 24 b

/-! ## Leaving service -/

/-- Operations of a partition that still stand in its hub. -/
def opsOf (s : State) (p : Nat) : List Nat := (getHub s p).ops.map (fun (e : Nat × Op) => e.1)

/-- The cores of a partition are still: nothing of their requests or their queues runs on. -/
def quietCores (s : State) (p : Nat) : State :=
  { s with cores := s.cores.map (fun e => if partOf e.1 = p then (e.1, { e.2 with reqs := [], mq := [] }) else e) }

/-- An operation that its threads or blocks kept from ending, ended with what they had reached. -/
def endRest (s : State) (p k : Nat) : State :=
  match getOp s p k with
  | none => s
  | some o =>
    let s := o.cores.foldl (fun s key => if ofLaunch (getCore s key) p k then gatherCore s key else s) s
    match getOp s p k with
    | none => s
    | some o =>
      let (st, done, ff) := stoppedEnd s o (o.stop.getD .aborted)
      finishRaw s p k st (if dOpc o.desc = 1 then o.done else done) ff

/-- Every started descriptor of a partition completes: as under R257 with ABORTED at a reset, with LINK_LOST where its islands
have stopped. Records that find no space are lost. -/
def endWork (s : State) (p : Nat) (st : Status) : State :=
  let s :=
    if st = .aborted then
      ((getHub s p).rings.filter (fun (c : Nat × Ring) => c.2.state != .free && c.2.state != .closing)).foldl
        (fun s c => closeRing s p c.1 false false .aborted) s
    else stopOps s p (opsOf s p) st
  let s := quietCores s p
  let s := if st = .aborted then (opsOf s p).foldl (fun s k => completeKernel s p k) s else s
  (opsOf s p).foldl (fun s k => endRest s p k) s

/-- Links of a hub out of service: other hubs fail their requests toward it and let its lines go (R213, R301). -/
def cutHub (s : State) (p : Nat) : State :=
  let others := (List.range (nParts s)).filter (fun q => q != p)
  let s := others.foldl (fun s q =>
    let s := discardRdc s q (fun l => l.line * 64 / 2 ^ 44 == pkgNum s * 16 + p)
    if rbit s (rEgr q) p then egressDown (setRbit s (rEgr q) p false) q p else s) s
  let keep (k : EngPkt) : Bool := k.hub != p
  { s with engs := s.engs.map (fun e => (e.1, { e.2 with queue := e.2.queue.filter keep })),
           gconns := s.gconns.map (fun e => (e.1, { e.2 with queue := e.2.queue.filter keep })) }

/-- Registers of a partition block that a reset of the partition keeps (R467). -/
def partKeeps (o : Nat) : Bool :=
  o == 0x100 || hubShadow o || o == 0x20000 || (0x61000 ≤ o && o < 0x64C00) || (0x78000 ≤ o && o < 0x78018) || o == 0x78040

/-- A partition's block back at its reset values but for what is kept; of its level-1 leaves DOWN and READY stay (R482). -/
def resetBlock (s : State) (p : Nat) : State :=
  let s := { s with bar0 := s.bar0.filter (fun (c : Nat × Word) =>
    !(pBase p ≤ c.1 && c.1 < pBase (p + 1)) || partKeeps (c.1 - pBase p)) }
  setReg s (rIntL1 p) (reg s (rIntL1 p) &&& 0x0018000000000000#64)

/-- Tenant leaves of the rings of a partition cleared (R482). -/
def clearLeaves (s : State) (p : Nat) : State :=
  ((getHub s p).rings.filter (fun (c : Nat × Ring) => c.2.state != .free)).foldl (fun s c =>
    let t := ringTenant c.2
    let r := ringNo c.2
    (List.range 3).foldl (fun s k => setRbit s (rTenLeaf t k (r / 64)) (r % 64) false) s) s

/-- The DIE_CAP indices of a partition's dies. -/
def partDies (p : Nat) : List Nat := (64 + p) :: (List.range 4).map (fun n => 4 * p + n) ++ (List.range 4).map (fun n => 80 + 4 * p + n)

/-- VALID of a DIE_CAP entry, changed under R34. -/
def setValid (s : State) (i : Nat) (b : Bool) : State :=
  if rbit s (rDieCap i 7) 32 = b then s else capChange (setRbit s (rDieCap i 7) 32 b) i []

/-- What a hub keeps through a reset: its tables, its numbers, the events it holds. -/
def freshHub (h : HubSt) : HubSt :=
  { routeAct := h.routeAct, qosAct := h.qosAct, opAct := h.opAct, routeOld := h.routeOld, events := h.events, eventDrops := h.eventDrops,
    nextOp := h.nextOp, nextStep := h.nextStep, nextColl := h.nextColl, nextReq := h.nextReq }

/-- Everything a partition holds is lost: its rings, cores, caches, contexts, memory (R175, R458, R467). -/
def wipePart (s : State) (p : Nat) : State :=
  let ts := (((getHub s p).rings.filter (fun (c : Nat × Ring) => c.2.state != .free)).map (fun c => ringTenant c.2)).eraseDups
  let s := clearLeaves s p
  let s := (List.range 4).foldl (fun s n => setStack (dropStack s (4 * p + n)) (4 * p + n) {}) s
  let s := setHub s p (freshHub (getHub s p))
  let s := ts.foldl countRings s
  let mine (k : Nat) : Bool := k / 2 ^ 44 == p
  resetBlock { s with
    cores := s.cores.filter (fun e => partOf e.1 != p),
    clusters := s.clusters.filter (fun e => e.1 / 160 != p),
    copies := s.copies.filter (fun e => e.2.who.part != p),
    brRings := s.brRings.filter (fun e => e.1 / 32 != p),
    brStops := s.brStops.filter (fun e => e.1 / 256 != p),
    mem := s.mem.filter (fun e => !(mine e.1)),
    ue := s.ue.filter (fun e => !(mine (8 * e.1))),
    segUndef := s.segUndef.filter (fun e => e.1 / 2 ^ 14 != p),
    segWritten := s.segWritten.filter (fun e => !(mine e.1)),
    chUe := s.chUe.filter (fun e => e.1 / 128 != p) } p

/-- A partition that is not in service yet is held out of it (R26, R211). -/
def holdPart (s : State) (p reason : Nat) : State :=
  if (mfind s.partOut p).isSome then s else leaf { s with partOut := mput p reason s.partOut } p 51

/-- A partition leaves service: reason 0 for an identity word or a link, 1 for training, 2 for heat, 3 for a reset (R26, R421, R466).
Its dies are held in reset, trees with their HOME there break (R391), it takes no part in epochs (R468, R514). -/
def partitionDown (s : State) (p reason : Nat) (st : Status) : State :=
  let s := endWork s p st
  let s := setRbit { s with partOut := mput p reason s.partOut } rDevStatus (16 + p) false
  let s := (List.range 256).foldl (fun s t => if rbit s (rCurTree t 0) 0 && treeHome s t == p then treeBreak s t else s) s
  let s := wipePart (cutHub s p) p
  let s := (partDies p).foldl (fun s i => setValid s i false) s
  let s := epochLeave s (64 + p)
  health (if reason = 3 then s else leaf s p 51)

/-! ## Identity (R27, R28) -/

/-- The identity word of the die at a DIE_CAP index: as blown, or the valid word of its place. -/
def identWord (s : State) (i : Nat) : Word :=
  match mfind s.fuses.bad i with
  | some w => w
  | none =>
    let (role, part, pos) :=
      if i < 64 then (0, i / 4, i % 4) else if i < 80 then (1, i - 64, 0) else if i < 144 then (2, (i - 80) / 4, (i - 80) % 4)
      else if i < 152 then (3, 0, i - 144) else (4, 0, 0)
    BitVec.ofNat 64 (s.fuses.serial * 2 ^ 16 + role * 2 ^ 12 + part * 2 ^ 8 + pos * 16 + mget 1 s.fuses.steps i % 16)

/-- An identity word is valid at its place. -/
def identOk (s : State) (i : Nat) : Bool :=
  let w := identWord s i
  let (role, part, pos) :=
    if i < 64 then (0, i / 4, i % 4) else if i < 80 then (1, i - 64, 0) else if i < 144 then (2, (i - 80) / 4, (i - 80) % 4)
    else if i < 152 then (3, 0, i - 144) else (4, 0, 0)
  fld w 63 16 != 0 && fld w 63 16 == fld (identWord s 152) 63 16 && fld w 15 12 == role && fld w 11 8 == part && fld w 7 4 == pos

/-- IDENT_INVALID for a die: the raw word, the place, which the model codes as the die's DIE_CAP index (DESIGN CHOICE, log entry 52: R28
and R486 name the place and give it no numbers). -/
def identEvent (s : State) (i : Nat) : State := emit s 0x0020 0 [(8, (identWord s i).toNat), (1, i)]

/-- The dies of a partition checked. -/
def partIdents (s : State) (p : Nat) : Bool × State :=
  let bad := (partDies p).filter (fun i => !(identOk s i))
  (bad.isEmpty, bad.foldl identEvent s)

/-- Every die of a partition is reached over its link to the hub (R26). -/
def partLinked (s : State) (p : Nat) : Bool :=
  (List.range 4).all (fun n => !(linkDead s (4 * p + n)) && !(linkDead s (64 + 4 * p + n)))

/-! ## Training (R211) -/

/-- A stack trained: channels that pass and that the calibration store does not fence; an event for each that is disabled. -/
def trainStack (s : State) (p n : Nat) (pass : BitVec 32) : State :=
  let d := 4 * p + n
  let on := (List.range 32).filter (fun c => pass.getLsbD c && (mfind s.chFence (d * 32 + c)).isNone)
  let m := on.foldl (fun a c => a + 2 ^ c) 0
  let s := ((List.range 32).filter (fun c => !(nbit m c))).foldl (fun s c => emit s 0x0022 (srcDie d 0x3F) [(1, c)]) s
  setReg { s with hbmMap := mput d (BitVec.ofNat 32 m) s.hbmMap } (rHbmStatus p n) (BitVec.ofNat 64 (m + on.length * 2 ^ 32))

/-- The stacks of a partition trained, HBM_SEG_LIMIT set; whether each is left with 16 channels or more. -/
def trainPart (s : State) (p : Nat) (hbm : List (BitVec 32)) : Bool × State :=
  let s := (List.range 4).foldl (fun s n => trainStack s p n (lget 0xFFFFFFFF#32 hbm n)) s
  let low := (List.range 4).foldl (fun a n => min a (rfld s (rHbmStatus p n) 39 32)) 32
  (16 ≤ low, setReg s (rSegLimit p) (BitVec.ofNat 64 (6 * low)))

/-! ## Returning -/

/-- READY, and with it BOOT_STAGE DONE, once its conditions hold (R463). -/
def checkReady (s : State) : State :=
  let ok := (List.range (nParts s)).all (fun p => rbit s rDevStatus (16 + p) || ((mfind s.partOut p).isSome && mfind s.partOut p != some 3))
    && (List.range 8).all (fun o => !(optPresent s o) || (getOpt s o).ready || (getOpt s o).out.isSome)
    && (List.range 4).any (fun p => rbit s rDevStatus (16 + p))
  if rbit s rDevStatus 0 ∨ !ok ∨ s.stage ≠ .up then s else setRfld (setRbit s rDevStatus 0 true) rDevStatus 7 4 4

/-- A partition enters service: its links, its PART_READY bit; its clusters run at DEFAULT (R26, R408, R463). -/
def partitionUp (s : State) (p : Nat) : State :=
  let s := setRbit { s with partOut := mdel p s.partOut } rDevStatus (16 + p) true
  let s := (List.range (nParts s)).foldl (fun s q =>
    if hubLinked p q && !(linkDead s (hubLink p q)) && rbit s rDevStatus (16 + q) then setRbit (setRbit s (rEgr p) q true) (rEgr q) p true
    else s) s
  let s := (List.range 8).foldl (fun s o =>
    if optAttached (small s) p o && !(linkDead s (optLink o p)) then setRbit s (rEgr p) (16 + o) true else s) s
  let s := if p < 4 ∧ !(linkDead s (saleyLink p)) then setSaleyLink s p true else s
  let s := if opDefault s p = 4 then s else (partClusters p).foldl (fun s c => moveOp s c (opDefault s p)) s
  checkReady (health (saleyBack s))

/-! ## Commands -/

/-- RESULT of RST_CMD. -/
def rstResult (s : State) (st : Status) : State := setRfld s rRstCmd 23 16 (stCode st)

/-- The fields of RST_CMD as written. -/
def rstFields (s : State) (v : Word) : State := setReg s rRstCmd (writeBits { base := rRstCmd, rw := 0xFF00007F } (reg s rRstCmd) v (BitVec.allOnes 64))

/-- A partition reset by RST_CMD, from its checks to the hold of its dies (R23, R466, R468). The fuses are read here. -/
def resetStart (s : State) (tenant p : Nat) : State :=
  if p ≥ nParts s then rstResult s .unsupported
  else if !((List.range 4).any (fun q => q != p && partUp s q)) then writeRefused (rstResult s .access) rRstCmd tenant
  else (partIdents (partitionDown (setRbit s rRstCmd 8 true) p 3 .aborted) p).2

/-- A command that RST_CMD has in progress on a partition ends. -/
def resetEnds (s : State) (p : Nat) (st : Status) : State :=
  if rbit s rRstCmd 8 ∧ rfld s rRstCmd 3 0 = p then setRbit (rstResult s st) rRstCmd 8 false else s

/-- A partition out of a reset: identity and links checked, memory trained, retained settings in force; READY, or held out again
with LINK_LOST for the command that reset it (R211, R466 to R468; the status is DEDUCED, log entry 25). -/
def resetDone (s : State) (p : Nat) (hbm : List (BitVec 32)) : State :=
  let ids := (partDies p).all (fun i => identOk s i)
  let out (s : State) (r : Nat) : State := health (resetEnds (leaf { s with partOut := mput p r s.partOut } p 51) p .linkLost)
  if !ids ∨ !(partLinked s p) then out s 0
  else
    let (ok, s) := trainPart s p hbm
    let s := (List.range 4).foldl (fun s n => capChange s (4 * p + n) [(3, (setFld (reg s (rDieCap (4 * p + n) 3)) 31 0
      (rfld s (rHbmStatus p n) 31 0)).toNat)]) s
    if !ok then out s 1
    else
      let s := (partDies p).foldl (fun s i => setValid s i true) s
      resetEnds (leaf (hubReturns (partitionUp s p) p) p 52) p .ok

/-- PARTITION_RESET_DONE: by 750 ms from its start; a management restart suspends it (R466, R468). -/
def execPartitionResetDone (p : Nat) (hbm : List (BitVec 32)) (s : State) : Out :=
  guardWf (p < 16) (.next (
    if p ≥ nParts s ∨ s.stage ≠ .up ∨ s.restarting ∨ mfind s.partOut p ≠ some 3 then s else resetDone s p hbm))

/-- PARTITION_READY: a partition whose dies are all reached and have sent their records sets its bit at cold start; after a thermal
shut-down it waits for a cool outlet (R26, R422, R457, R463). -/
def execPartitionReady (p : Nat) (s : State) : Out :=
  guardWf (p < 16) (.next (
    if p ≥ nParts s ∨ !(partLinked s p) ∨ s.stage ≠ .up ∨ s.heatWait ∨ s.restarting ∨ (mfind s.partOut p).isSome ∨ rbit s rDevStatus (16 + p)
      ∨ (partDies p).any (fun i => !(rbit s (rDieCap i 7) 32)) then s
    else partitionUp s p))

end Sys2Proof.Machine
end

