-- ==== Sys2Proof/Machine/Firmware.lean ====
section
/-! DEFINITION. Live firmware update and the calibration store in service (R450 to R453, R475 to R479, R514). -/
namespace Sys2Proof.Machine

/-! ## Slots (R450, R451, R475) -/

/-- The image of slot A (0) or B (1). -/
def fwImage (s : State) (i : Nat) : FwImage := if i = 0 then s.flashA.fw else s.flashB.fw

def setImage (s : State) (i : Nat) (x : FwImage) : State :=
  if i = 0 then { s with flashA := { s.flashA with fw := x } } else { s with flashB := { s.flashB with fw := x } }

/-- The slot that runs. -/
def fwActive (s : State) : Nat := rfld s rFwStatus 0 0

/-- STATE of FW_STATUS as TRIAL has it. -/
def fwShow (s : State) : State := setRfld s rFwStatus 5 4 (b2n s.fwSt.trial)

/-- A_VALID and B_VALID after a check of both slots. -/
def fwCheck (s : State) : State := setRbit (setRbit s rFwStatus 2 s.flashA.fw.ok) rFwStatus 3 s.flashB.fw.ok

def fwBusy (s : State) : Bool := rbit s rFwCmd 4

/-- An FW_CMD operation ended: RESULT, BUSY, its leaf (R483). -/
def fwEnd (s : State) (res : Nat) : State := leaf (setRbit (setRfld s rFwCmd 15 8 res) rFwCmd 4 false) 28 1

/-- STAGE: the other slot is erased and written (R451). -/
def stageGo (s : State) : State :=
  setRfld (setRbit (setImage s (1 - fwActive s) { ok := false, version := 0 }) rFwCmd 4 true) rFwStatus 5 4 2

/-- FW_STAGE_DONE (R451). -/
def execFwStageDone (r : StageEnd) (s : State) : Out :=
  .next (
    if s.stage ≠ .up ∨ s.restarting ∨ !(fwBusy s) ∨ rfld s rFwCmd 2 0 ≠ 1 then s
    else
      let s := setImage s (1 - fwActive s) { ok := r.readBack && r.check, version := r.version.toNat }
      let st : Status := if !r.readBack then .faultMem else if !r.check then .access else .ok
      health (fwEnd (fwShow (fwCheck s)) (stCode st)))

/-! ## Management restart (R425, R452, R453, R514) -/

/-- Saley's processors restart into a slot: the field test in progress is abandoned, an epoch not committed is aborted. -/
def restartBegin (s : State) (slot : Nat) (trial : Bool) : State :=
  let s := { s with restarting := true, fwSt := { s.fwSt with slot := slot, before := fwActive s, toTrial := trial, watchdog := false, since := s.timebase } }
  let s := match s.tests with
    | t :: _ => if t.begun.isSome then stopOps s t.part [t.op] .aborted else s
    | [] => s
  if epochState s = 1 ∨ epochState s = 2 then abortEpoch s ((silent s).head?.getD 0xFF) .timeout else s

/-- ACTIVATE: the other slot must pass its checks (R451, R452). -/
def activateGo (s : State) : State :=
  let slot := 1 - fwActive s
  if !(rbit s rFwStatus (2 + slot)) then fwEnd s (stCode .badDesc)
  else restartBegin (setRbit s rFwCmd 4 true) slot true

/-- COMMIT: in TRIAL only; the running slot becomes the preferred one (R451, R453, R478). -/
def commitGo (s : State) : State :=
  if !s.fwSt.trial then fwEnd s (stCode .badDesc)
  else
    let a := fwActive s
    let s := { s with calPref := some a, calDirty := true, fwSt := { s.fwSt with trial := false } }
    fwEnd (fwShow (setRfld s rFwStatus 1 1 a)) (stCode .ok)

/-- A write of FW_CMD: discarded while BUSY; GO starts OP, a reserved one gives BAD_DESC (R451). -/
def fwCmdWrite (s : State) (v : Word) : State :=
  if fwBusy s then s
  else
    let s := setRfld s rFwCmd 2 0 (fld v 2 0)
    if !(v.getLsbD 3) then s
    else match fld v 2 0 with
      | 1 => stageGo s
      | 2 => activateGo s
      | 3 => commitGo s
      | 4 => restartBegin (setRbit s rFwCmd 4 true) (1 - fwActive s) false
      | _ => fwEnd s (stCode .badDesc)

/-- A write of FW_CMD: OP and GO of the value say what it does, whichever row brings it. -/
def fwCmd (tenant : Nat) (v : Word) (s : State) : Out := adminCmd s tenant rFwCmd (fun s => fwCmdWrite s v)

/-- STAGE. -/
def execFwStage (tenant : Nat) (v : Word) (s : State) : Out := fwCmd tenant v s

/-- ACTIVATE. -/
def execFwActivate (tenant : Nat) (v : Word) (s : State) : Out := fwCmd tenant v s

/-- COMMIT. -/
def execFwCommit (tenant : Nat) (v : Word) (s : State) : Out := fwCmd tenant v s

/-- REVERT (R451). -/
def execFwRevert (tenant : Nat) (v : Word) (s : State) : Out := fwCmd tenant v s

/-- SALEY_REATTACH: an image that passes its checks takes over (R452, R453). RESULT of a command that the watchdog has undone is
free (log entry 29). -/
def execSaleyReattach (s : State) : Out :=
  .next (
    let f := s.fwSt
    if !(running s) ∨ !s.restarting ∨ !(fwImage s f.slot).ok then s
    else
      let v := (fwImage s f.slot).version
      let s := { s with restarting := false, fwSt := { f with trial := f.toTrial, trialAt := s.timebase } }
      let s := setRfld (setRfld (fwShow s) rFwStatus 0 0 f.slot) rFwStatus 63 32 v
      let s := if fwBusy s then fwEnd s (if f.watchdog then Config.code 0x453 0 % 256 else stCode .ok) else s
      let s := leaf (emit s 0x0007 0 [(1, f.slot), (4, v), (1, b2n f.watchdog)]) 28 0
      beginTest (saleyBack s))

/-- MGMT_WATCHDOG: 100 ms after the processors were reset the slot that ran before is started; what STATE was stays (R453). -/
def execMgmtWatchdog (s : State) : Out :=
  .next (
    if !(running s) ∨ !s.restarting then s
    else
      let f := s.fwSt
      let t := max s.timebase (f.since + 100000000)
      { s with timebase := t, fwSt := { f with slot := f.before, toTrial := if f.watchdog then f.toTrial else f.trial, watchdog := true, since := t } })

/-- TRIAL_TIMEOUT: no COMMIT within TRIAL_S, so that Saley reverts by itself (R453). -/
def execTrialTimeout (s : State) : Out :=
  .next (
    if s.stage ≠ .up ∨ s.restarting ∨ !s.fwSt.trial then s
    else
      let t := s.fwSt.trialAt + 1000000000 * max 10 (rfld s rFwStatus 15 8)
      restartBegin { s with timebase := max s.timebase t } (1 - fwActive s) false)

/-! ## The calibration store (R476 to R479) -/

/-- The four slots: FLASH_A 0 and 1, FLASH_B 0 and 1. -/
def calSlots (s : State) : List CalSlot := [s.flashA.cal0, s.flashA.cal1, s.flashB.cal0, s.flashB.cal1]

/-- A record is newer than another: the signed 32-bit difference of SEQ. -/
def calNewer (a b : CalRec) : Bool := 0 < (a.seq - b.seq).toInt

/-- Saley's own serial number, as its identity word has it (R27). -/
def ownSerial (s : State) : Nat := fld (identWord s 152) 63 16

/-- The valid record of a slot: one that this package wrote (R476). -/
def calRecord (s : State) : CalSlot → Option CalRec
  | .valid r => if r.serial = ownSerial s then some r else none
  | _ => none

/-- The newest valid record, with the number of its slot. -/
def calNewest (s : State) : Option (Nat × CalRec) :=
  (calSlots s).zipIdx.foldl (fun b e => match calRecord s e.1, b with
    | some r, none => some (e.2, r)
    | some r, some x => if calNewer r x.2 then some (e.2, r) else some x
    | none, b => b) none

/-- Bits of slots that hold a valid record, and of slots that are torn: neither valid nor erased. -/
def calValid (s : State) : Nat := bitsOver 4 (fun i => (calRecord s (lget .erased (calSlots s) i)).isSome)

def calTorn (s : State) : Nat := bitsOver 4 (fun i =>
  let c := lget CalSlot.erased (calSlots s) i
  (calRecord s c).isNone && c != .erased)

/-- BAR0 registers of a range that a calibration record keeps. -/
def regsIn (s : State) (ok : Nat → Bool) : AMap Word := s.bar0.filter (fun (c : Nat × Word) => ok c.1)

def isLaser (off : Nat) : Bool :=
  match blockOf off with
  | (.opt _, o) => 0x3000 ≤ o && o < 0x3140
  | _ => false

def isWeights (off : Nat) : Bool := 0x21000 ≤ off && off < 0x21000 + 0x40 * 153

def isMac (off : Nat) : Bool :=
  match blockOf off with
  | (.gp _, o) => o == 0x10
  | _ => false

/-- What a record of the present moment holds. Clusters out for a field test are not recorded as retired. -/
def calNow (s : State) (seq : Word32) : CalRec :=
  { seq := seq, serial := ownSerial s, other := s.calOther, preferred := s.calPref, coreGone := s.coreGone, clGone := s.clGone.filter (fun (c : Nat × Nat) => c.2 == 0),
    clusterOut := s.clusterOut.filter (fun (c : Nat × Nat) => c.2 == 0), physCl := s.physCl, physCore := s.physCore, chFence := s.chFence,
    ports := (List.range 96).filter (fun i => rbit s (rPortStatus (i / 12)) (i % 12)),
    lasers := regsIn s isLaser, weights := regsIn s isWeights, macs := regsIn s isMac }

/-- A slot of a device set; a record put into it. -/
def putSlotCal (f : Flash) (i : Nat) (c : CalSlot) : Flash := if i = 0 then { f with cal0 := c } else { f with cal1 := c }
def putCal (f : Flash) (i : Nat) (r : CalRec) : Flash := putSlotCal f i (.valid r)

/-- CAL_STATUS of the record in use. -/
def showCal (s : State) (seq : Word32) : State :=
  setRfld (setRfld s rCalStatus 31 0 seq.toNat) rCalStatus 37 34 (calValid s)

/-- The slot, 0 or 1, and the SEQ of the next record: the slot that does not hold the newest, one more than its SEQ (R478). -/
def calTarget (s : State) : Nat × Word32 :=
  match calNewest s with
  | some (k, r) => (1 - k % 2, r.seq + 1)
  | none => (0, 1)

/-- CAL_RECORD_WRITE: where the store has changed, a record one newer than the newest goes into the slot that does not hold it, first
of FLASH_A, then of FLASH_B (R478). What was chosen at boot is rewritten only after READY (R476, R479). -/
def execCalRecordWrite (s : State) : Out :=
  .next (
    if s.stage ≠ .up ∨ s.restarting then s
    else
      let old := calNewest s
      let same : Bool := match old with
        | some (_, r) => calNow s r.seq == r
        | none => false
      if same ∧ !s.calDirty then s
      else if (same ∨ old.isNone) ∧ !(rbit s rDevStatus 0) then s
      else
        let (i, seq) := calTarget s
        let r := calNow s seq
        showCal { s with flashA := putCal s.flashA i r, flashB := putCal s.flashB i r, calDirty := false } seq)

/-- The supply or the dies go while a record may be in writing: nothing of it is there yet, or the slot of FLASH_A is torn, or FLASH_A
holds it and the slot of FLASH_B is torn; which of them is free (R470, R476, R478, log entry 49). -/
def tearCal (s : State) : State :=
  if !s.calDirty ∨ s.restarting ∨ s.pf.halted then s
  else
    let (i, seq) := calTarget s
    let n := Config.freeNat s.free % 3
    let s := { s with free := s.free + 1 }
    if n = 0 then s
    else if n = 1 then { s with flashA := putSlotCal s.flashA i .torn }
    else { s with flashA := putCal s.flashA i (calNow s seq), flashB := putSlotCal s.flashB i .torn }

end Sys2Proof.Machine
end

