-- ==== Sys2Proof/Machine/Links.lean ====
section
/-! DEFINITION. Die-to-die links in operation, BAR0 accesses that reach no partition, and the pod's common TIMEBASE (R23, R25, R26, R44, R45, R347). -/
namespace Sys2Proof.Machine

/-! ## Die-to-die links (R21, R25, R26) -/

/-- A link has lost its last module (R26). -/
def linkLost (s : State) (l : Nat) : State :=
  if l < 128 then
    let p := l % 64 / 4
    if partUp s p then partitionDown s p 0 .linkLost else if rbit s rDevStatus (16 + p) then s else holdPart s p 0
  else if l < 384 then hubLinkDown s ((l - 128) / 16) ((l - 128) % 16)
  else if l < 512 then optLinkDown s ((l - 384) % 16) ((l - 384) / 16)
  else setSaleyLink s (l - 512) false

/-- UCIE_MODULE_RETRAIN: a module that fails to retrain is left untrained (R25). -/
def execUcieModuleRetrain (link module lanes : Nat) (ok : Bool) (s : State) : Out :=
  guardWf (link < 516 && module < linkModules link) (.next (
    let m := mget 0 s.ucieDown link
    if !(running s) ∨ !(linkOk s link) ∨ ok ∨ nbit m module then s
    else
      let s := { s with ucieDown := mput link (m + 2 ^ module) s.ucieDown }
      let s := emit s 0x0021 0 [(2, link), (1, module), (1, lanes)]
      health (if linkDead s link then linkLost s link else s)))

/-- PART_UNREACHABLE: an access to the block of a partition that Saley cannot reach (R23); a write must come from the lock owner (R497). -/
def execPartUnreachable (p off tenant : Nat) (write : Bool) (s : State) : Out :=
  guardWf ((tenant == 0 || tenant == 256) && p < 16 && (blockOf off).1 == .part p) (.next (
    if !(bar0Open s) then s
    else if write ∧ ownerTenant s ≠ some tenant then writeRefused s off tenant
    else if blockReach s (.part p) = .unreachable then noteUnreach s p off tenant write
    else s))

/-! ## The pod's TIMEBASE (R44, R45, R347) -/

/-- Something is armed on TIMEBASE: a steering point, a calibration swap, an epoch boundary, a hint (R45). -/
def timeArmed (s : State) : Bool :=
  let swap (d : DirSt) : Bool := match d.cal with
    | some c => (match c.phase with
      | .tuning => false
      | _ => true)
    | none => false
  s.opts.any (fun e => !e.2.points.isEmpty) || s.engs.any (fun e => swap e.2.tx || swap e.2.rx)
    || rfld s rEpochStatus 2 0 == 3 || s.hubs.any (fun e => !e.2.hints.isEmpty)

/-- LOCKED set or cleared, with its leaf where it clears. -/
def setLocked (s : State) (b : Bool) : State :=
  let was := rbit s rTbStatus 0
  let s := setRbit s rTbStatus 0 b
  let s := if b then setRbit s rTbStatus 1 true else s
  if was && !b then leaf s 28 3 else s

/-- TIMEBASE aligned by a measured offset, peer less own: one step before the first lock, slewing else; an offset beyond 1 ms
after the first lock is a fault (R45). -/
def align (s : State) (off : Int) : State :=
  let cut : Int := if off < -32768 then -32768 else if off > 32767 then 32767 else off
  let s := setRfld { s with syncAt := s.timebase } rTbStatus 31 16 (intBits 16 cut)
  let near : Bool := -25 ≤ off && off ≤ 25
  if !(rbit s rTbStatus 1) ∧ !near ∧ !(timeArmed s) then
    let s := { s with timebase := ((s.timebase : Int) + off).toNat, slew := 0 }
    let s := { s with syncAt := s.timebase, slewAt := s.timebase }
    setLocked (emit s 0x0012 0 [(8, intBits 64 off)]) true
  else
    let far : Bool := rbit s rTbStatus 1 && (off < -1000000 || off > 1000000)
    let s := if far && !(rbit s rTbStatus 2) then leaf (emit (setRbit s rTbStatus 2 true) 0x0013 0 [(8, intBits 64 off)]) 28 3 else s
    setLocked { s with slew := off } near

/-- A TS_SYNC message: delay and offset are computed where the peer answers the last message sent; the package aligns to the peer it
follows (R347). A second master is recorded with the message that makes it known beside another (R44, log entry 26). -/
def takeSync (s : State) (m : TsSync) : State :=
  if !(running s) ∨ !(engLive s m.eng) ∨ linkState s m.eng ≠ 4 then s
  else
    let x := getEng s m.eng
    let t4 : Int := s.timebase
    let t1 : Int := x.tsSent
    let t2 : Int := m.lastRx
    let t3 : Int := m.tTx
    let answers := m.lastRx ≠ 0 ∧ m.lastNum = x.tsNum
    let delay := ((t4 - t1) - (t3 - t2)) / 2
    let off := ((t2 - t1) + (t3 - t4)) / 2
    let fresh := m.locked && !((lockedPeers s).any (fun p => p.1 == m.master))
    let other := (lockedPeers s).find? (fun p => p.1 != m.master)
    let s := setEng s m.eng { x with tsLast := some (m.num, s.timebase), delay := if answers then delay else x.delay,
                                     peer := some (m.master, m.stratum, m.locked) }
    let s := setRfld s (rMlxState (m.eng / 8) (m.eng % 8)) 40 33 m.stratum
    let s := match fresh, other with
      | true, some p => emit s 0x0014 0 [(2, min p.1 m.master), (2, max p.1 m.master)]
      | _, _ => s
    if rbit s rTbCtl 0 ∨ !(rbit s rTbCtl 1) ∨ !s.tbStarted then s
    else match followed s with
      | some p => if p.2.2 = m.eng ∧ answers then align s off else s
      | none => s

/-- TS_SYNC (R44, R347). -/
def execTsSync (m : TsSync) (s : State) : Out :=
  guardWf (m.eng < 64 && m.num < 256 && m.lastNum < 256 && m.master < 65536 && m.stratum < 256) (.next (takeSync s m))

/-- TB_LOCK_LOSS: no time-sync message for 10 ms (R45); peers that have fallen silent are followed no more. -/
def execTbLockLoss (s : State) : Out :=
  .next (
    if !(running s) ∨ !(rbit s rTbStatus 0) then s
    else
      let s := { s with timebase := max s.timebase (s.syncAt + 10000000), slew := 0 }
      let late (x : EngSt) : Bool := match x.tsLast with
        | some (_, t) => t + 10000000 ≤ s.timebase
        | none => true
      setLocked { s with engs := s.engs.map (fun e => if late e.2 then (e.1, { e.2 with peer := none }) else e) } false)

end Sys2Proof.Machine
end

