-- ==== Sys2Proof/Machine/Flits.lean ====
section
/-! DEFINITION. Flits that arrive, by KIND: data, idle, and control with its ten messages (R338 to R348). -/
namespace Sys2Proof.Machine

/-- A control message acted on, as its own row is. -/
def takeMsg (eng : Nat) (s : State) (m : CtlMsg) : State :=
  match m with
  | .credit l => takeCredit s eng l
  | .rxPower l => if linkState s eng = 4 then takePower s eng l else s
  | .tsSync t l ln n ma st lk =>
    takeSync s { eng := eng, num := n, tTx := t, lastRx := l, lastNum := ln, master := ma, stratum := st, locked := lk }
  | .steerAnn t moves => if linkState s eng = 4 then takeAnn s eng t moves else s
  | .laneChg m => takeChg s eng m
  | .roleMap l g => takeMap s eng g l
  | .calReq w => takeCalReq s eng w
  | .linkId m _ => takeId s eng m

/-- A flit that arrives in UP: its codewords, then the flit (R335, R338, R339, R346). -/
def upFlit (s : State) (eng : Nat) (f : BitVec 2048) : State :=
  if !(flitSound f) then setNak (mlxCount s eng 2 1) eng
  else
    let h := headOf f
    let s := headerAck s eng h
    match h.kind with
    | 0 => s
    | 1 => acceptData s eng h (payloadOf f)
    | _ => (ctlMsgs (payloadOf f)).foldl (takeMsg eng) s

/-- A flit that arrives, with the codewords that ended with it. In PARAM and RELOCK only what control flits say counts (R348). -/
def rxFlit (s : State) (eng : Nat) (f : Flit) : State :=
  let st := linkState s eng
  if st = 4 then
    let s := f.cws.foldl (codeword eng) s
    if linkState s eng = 4 then upFlit s eng f.bits else s
  else if st = 3 ∨ st = 5 then
    (if !(flitSound f.bits) then mlxCount s eng 2 1
     else if (headOf f.bits).kind = 2 then (ctlMsgs (payloadOf f.bits)).foldl (takeMsg eng) s else s)
  else s

/-- DATA_FLIT: a flit arrives; a data flit is accepted in sequence or discarded (R346). -/
def execDataFlit (eng : Nat) (f : Flit) (s : State) : Out := onEng s eng true (rxFlit s eng f)

/-- IDLE_FLIT: a flit arrives; an idle flit's ACK and NAK are acted on (R338). -/
def execIdleFlit (eng : Nat) (f : Flit) (s : State) : Out := onEng s eng true (rxFlit s eng f)

end Sys2Proof.Machine
end

