-- ==== Sys2Proof/Machine/GeneralPorts.lean ====
section
/-! DEFINITION. The general ports: frames received, acknowledgments, timeouts, flow control, connections, the Ethernet link (R356 to R361). -/
namespace Sys2Proof.Machine

/-- A row of general port g: nothing happens while its die is absent or out. -/
def onGp (s : State) (g : Nat) (ok : Bool) (f : State) : Out := guardWf (g < 8 && ok) (.next (if running s && optUp s g then f else s))

/-- Why a frame is not accepted, as the GP_CNT that counts it; none where it is (R356, R359; the reasons of frames above the MTU, of a
form not taken, and of a TYPE that R358 does not name: log entry 59). -/
def frameBad (s : State) (g : Nat) (f : GpFrame) : Option Nat :=
  if !f.fcs then some 7
  else if !(gpOpen s g) ∨ !f.form ∨ f.bytes > gpMtu s g ∨ f.mac ≠ rfld s (gBase g + 0x10) 47 0 ∨ f.dstIp ≠ ownIp s g f.v6 ∨
      f.udp ≠ rfld s (gBase g + 8) 15 0 ∨ f.t.ver ≠ 1 ∨ f.t.typ > 3 then some 2
  else if f.t.conn ≥ 4096 ∨ !(connValid s g f.t.conn) ∨ peerIp s g f.t.conn ≠ f.srcIp ∨ (connFld s g f.t.conn 2 2 == 1) ≠ f.v6 then some 3
  else none

/-- ACK_PSN takes frames off the unacknowledged ones (R358). -/
def gpAcked (s : State) (g i ack : Nat) : State :=
  let c := getConn s g i
  let first := (rfld s (rGpConn g i 4) 31 0 + 2 ^ 32 - c.unack.length) % 2 ^ 32
  let n := (ack + 2 ^ 32 - first) % 2 ^ 32 + 1
  if n ≤ c.unack.length then gpSend (setConn s g i { c with unack := c.unack.drop n, since := s.timebase, tries := 0 }) g i else s

/-- Outstanding requests of a connection fail at their hubs (R358). -/
def failConn (s : State) (g i : Nat) (st : Status) : State :=
  s.hubs.foldl (fun s h =>
    (h.2.outst.filter (fun o => o.2.egress == some (0x80 + g) && o.2.conn == some i)).foldl (fun s o => failReq s h.1 o.1 st) s) s

/-- ACK sent (R358). -/
def gpAck (s : State) (g i : Nat) : State := gpSignal (setConn s g i { getConn s g i with accepted := 0 }) g i 1

/-- A packet of an accepted frame: one of another domain is discarded and counted, any other waits for a hub (R358, R359). -/
def gpTake (g : Nat) (f : GpFrame) (s : State) (k : RoutePacket) : State :=
  if k.domain ≠ connFld s g f.t.conn 7 4 then gpCount s g 4 1
  else
    let c := getConn s g f.t.conn
    let n := cdiv (32 + k.dlen) 8 * 8
    setConn { s with gbuf := mput (8 * g + f.prio) (mget 0 s.gbuf (8 * g + f.prio) + n) s.gbuf } g f.t.conn
      { c with inbox := c.inbox ++ [(f.prio, n, packetBytes k)] }

/-- A DATA frame: in PSN order it is accepted and its packets go on; a gap is answered with NAK, the sixteenth frame accepted with ACK
(R358 to R360). -/
def gpData (s : State) (g : Nat) (f : GpFrame) : State :=
  let i := f.t.conn
  if mget 0 s.gbuf (8 * g + f.prio) + f.body.length > gpShare then gpCount s g 5 1
  else
    let s := gpAcked s g i f.t.ackPsn
    let r := rGpConn g i 4
    if f.t.psn ≠ rfld s r 63 32 then gpSignal s g i 2
    else
      let s := setRfld (gpCount s g 1 1) r 63 32 ((f.t.psn + 1) % 2 ^ 32)
      let s := gpXoff ((framePackets (0x20 + g) f.t.npkt f.body).foldl (gpTake g f) s) g f.prio
      let c := getConn s g i
      let s := setConn s g i { c with accepted := c.accepted + 1, acceptAt := if c.accepted = 0 then s.timebase else c.acceptAt }
      if c.accepted ≥ 15 then gpAck s g i else s

/-- A frame that arrives, by its TYPE: 0 DATA, 1 ACK, 2 NAK, 3 SYNC (R358); one that is not accepted is counted by its reason. -/
def gpReceive (s : State) (g : Nat) (l : List Byte) : State :=
  let f := gpFrameOf l
  match frameBad s g f with
  | some i => gpCount s g i 1
  | none =>
    match f.t.typ with
    | 0 => gpData s g f
    | 1 => gpAcked (gpCount s g 1 1) g f.t.conn f.t.ackPsn
    | 2 =>
      let s := gpAcked (gpCount s g 1 1) g f.t.conn f.t.ackPsn
      gpResend (setConn s g f.t.conn { getConn s g f.t.conn with since := s.timebase }) g f.t.conn
    | _ => failConn (setRfld (gpCount s g 1 1) (rGpConn g f.t.conn 4) 63 32 0) g f.t.conn .peerLost

/-- GP_DATA: a frame arrives; one of TYPE DATA is accepted in PSN order and its packets go on (R358). -/
def execGpData (port : Nat) (f : List Byte) (s : State) : Out := onGp s port true (gpReceive s port f)

/-- GP_ACK: a frame arrives; one of TYPE ACK frees acknowledged frames (R358). -/
def execGpAck (port : Nat) (f : List Byte) (s : State) : Out := onGp s port true (gpReceive s port f)

/-- GP_NAK: a frame arrives; one of TYPE NAK has the sender resend from ACK_PSN + 1 (R358). -/
def execGpNak (port : Nat) (f : List Byte) (s : State) : Out := onGp s port true (gpReceive s port f)

/-- GP_SYNC: a frame arrives; one of TYPE SYNC starts the connection anew (R358). -/
def execGpSync (port : Nat) (f : List Byte) (s : State) : Out := onGp s port true (gpReceive s port f)

/-- GP_RTO: frames are resent, or the connection fails (R358). -/
def execGpRto (port conn : Nat) (s : State) : Out :=
  onGp s port (conn < 4096) (
    let c := getConn s port conn
    if c.unack.isEmpty then s
    else
      let s := { s with timebase := max s.timebase (c.since + 1000 * gpRtoUs s port) }
      if c.tries + 1 < gpRetries s port then
        gpResend (setConn s port conn { c with tries := c.tries + 1, since := s.timebase }) port conn
      else
        let s := setConn s port conn { inbox := c.inbox }
        let s := setRbit s (rGpConn port conn 0) 3 true
        let n := rfld s (rGpStatus port) 63 32
        let s := setRfld s (rGpStatus port) 63 32 (if n < 2 ^ 32 - 1 then n + 1 else n)
        let s := leaf (emit s 0x0048 (srcGp port) [(2, conn)]) (16 + port) 22
        failConn s port conn (if rbit s (rGpStatus port) 0 then .peerLost else .linkLost))

/-- Every connection of a port tried. -/
def gpSendAll (s : State) (g : Nat) : State :=
  (s.gconns.filter (fun c => c.1 / 4096 == g)).foldl (fun s c => gpSend s g (c.1 % 4096)) s

/-- PFC_FRAME (R360). -/
def execPfcFrame (port prio : Nat) (pause : Bool) (s : State) : Out :=
  onGp s port (prio < 8) (gpSendAll (setRbit s (rGpStatus port) (8 + prio) pause) port)

/-- A write of word 0 of a connection: VALID set starts it, cleared it ends what the port held for it; while VALID stays 1 the
write is discarded (R358, R361; what an end leaves: log entry 32). -/
def connWrite0 (s : State) (port conn : Nat) (v : Word) : State :=
  let kept : GpConn := { inbox := (getConn s port conn).inbox }
  if connValid s port conn then
    (if v.getLsbD 0 then s else setConn (writeReg s (rGpConn port conn 0) v) port conn kept)
  else if v.getLsbD 0 then
    let s := setConn (setReg (writeReg s (rGpConn port conn 0) v) (rGpConn port conn 4) 0) port conn kept
    if gpOpen s port then gpSignal s port conn 3 else s
  else writeReg s (rGpConn port conn 0) v

/-- GP_CONN_VALID_SET: a write of word 0 that sets VALID starts the connection (R358, R361). -/
def execGpConnValidSet (tenant port conn : Nat) (v : Word) (s : State) : Out :=
  guardWf (port < 8 && conn < 4096) (adminCmd s tenant (rGpConn port conn 0) (fun s => connWrite0 s port conn v))

/-- GP_LINK_DOWN (R356). -/
def execGpLinkDown (port : Nat) (s : State) : Out :=
  onGp s port true (if !(rbit s (rGpStatus port) 0) then s else health (gpFalls s port))

/-- GP_LINK_UP (R356, R361). -/
def execGpLinkUp (port : Nat) (s : State) : Out :=
  onGp s port true (
    if !(rbit s (rGpCtl port) 0) then s else gpSendAll (health (setRbit s (rGpStatus port) 0 true)) port)

/-- An ACK is due 5 µs after a frame accepted that no ACK has covered (R358). -/
def gpTick (s : State) : State :=
  s.gconns.foldl (fun s e =>
    if e.2.accepted ≠ 0 ∧ e.2.acceptAt + 5000 ≤ s.timebase + 10 ∧ gpOpen s (e.1 / 4096) ∧ connValid s (e.1 / 4096) (e.1 % 4096)
    then gpAck s (e.1 / 4096) (e.1 % 4096) else s) s

end Sys2Proof.Machine
end

