-- ==== Sys2Proof/Machine/Hub.lean ====
section
/-! DEFINITION. The hub as a target: lines, atomics, coalesced refusals, TLB invalidation, segment modes, the remote-data cache (R209, R212 to R214, R218, R225, R228, R232, R233). -/
namespace Sys2Proof.Machine

/-- The identity of a packet. -/
def reqWho (r : HubReq) : Who := { domain := r.domain, jobTag := r.tag, glob := r.glob, part := r.part, port := r.port }

/-- The answer a hub gave last. -/
def answer (s : State) (p : Nat) (r : Resp) : State := setHub s p { getHub s p with resp := r }

/-- What the ECC of the home's memory finds in the word of the address: a corrected error is counted at its stack, an
uncorrectable one stays in the word (R159, R206, R212). -/
def homeEcc (s : State) (ga : Nat) (e : HomeEcc) : State :=
  match e, homeOf s ga with
  | .ce, .mem p off => foundCe s p off
  | .ue, .mem p off => foundUe s p off
  | _, _ => s

/-- A packet of an issuing partition that is there, which its hub does not hold (R209). -/
def hubReq (r : HubReq) (s : State) (go : State) : Out :=
  guardWf (hubReqWf r) (.next (if !(running s) || r.part ≥ nParts s || segHeld s r.addr.toNat then s else go))

/-- HUB_LINE_READ: the line or a failure status (R218, R232). -/
def execHubLineRead (r : HubReq) (ecc : HomeEcc) (s : State) : Out :=
  hubReq r s (
    let ga := r.addr.toNat
    let w := reqWho r
    match homeOf s ga with
    | .bell p ctx off =>
      let (st, v, s) := windowLoad s w ga p ctx off 8
      answer s r.part { status := st, data := BitVec.ofNat 512 v }
    | .counter _ _ =>
      let (st, _, v, s) := counterLoad s w ga 4
      answer s r.part { status := st, data := BitVec.ofNat 512 v }
    | _ =>
      let s := if (lineStatus s w (ga / 64 * 64) false).1 = .ok then homeEcc s ga ecc else s
      let (st, _, v, s) := lineRead s w (ga / 64 * 64)
      answer s r.part { status := st, data := v })

/-- HUB_LINE_WRITE: the bytes of the mask are written at home, or nothing (R218, R232). A doorbell page takes the bytes the mask
names, where they stand together, as one write at their offset (R258, R262); a counter, four such bytes (R245). -/
def execHubLineWrite (r : HubReq) (mask : BitVec 64) (data : BitVec 512) (s : State) : Out :=
  hubReq r s (
    let ga := r.addr.toNat
    let w := reqWho r
    let b := maskSpan mask.toNat
    match homeOf s ga with
    | .bell p ctx off =>
      let (st, s) := windowStore s w ga p ctx (off / 64 * 64 + b.1) b.2 (BitVec.ofNat 64 (fld data (8 * b.1 + 63) (8 * b.1)))
      answer s r.part { status := st }
    | _ =>
      let (st, _, s) := lineWrite s w (ga / 64 * 64) mask.toNat data
      answer s r.part { status := st })

/-- HUB_ATOMIC: the old value (R218, R233); an operation the table does not list, or a misaligned word, names nothing. -/
def execHubAtomic (r : HubReq) (aop : Nat) (v cmp : Word) (s : State) : Out :=
  guardWf (hubReqWf r && aop < 12 && r.addr.toNat % (atomWidth aop / 8) == 0) (hubReq r s (
    let (st, _, old, s) := atomicAt s (reqWho r) r.addr.toNat aop v.toNat cmp.toNat
    answer s r.part { status := st, old := BitVec.ofNat 64 old }))

/-- ACCESS_DENIED_WINDOW_CLOSE: the window's millisecond has passed and its record enters the log (R228, R485). -/
def execAccessDeniedWindowClose (p i : Nat) (s : State) : Out :=
  guardWf (p < 16) (.next (
    let h := getHub s p
    match h.deny[i]? with
    | none => s
    | some d =>
      let s := { setHub s p { h with deny := h.deny.eraseIdx i } with timebase := max s.timebase (d.time + 1000000) }
      emitEv s { cause := 0x0031, source := srcHub p, time := d.time, count := d.count,
                 data := [(8, d.page), (2, d.tag), (1, d.domain)] }))

/-! ## TLB invalidation (R225) -/

/-- A write of TLB_INV: discarded while BUSY; GO takes the named entries out and sets BUSY. -/
def tlbInvWrite (s : State) (p : Nat) (v : Word) : State :=
  if rbit s (rTlbInv p) 11 then s
  else
    let s := writeReg s (rTlbInv p) v
    if !(v.getLsbD 10) then s
    else
      let all := v.getLsbD 9
      let s := invalidate s p (fld v 8 0) all (fld v 47 21)
      setHub (setRbit s (rTlbInv p) 11 true) p { getHub s p with tlbInv := some (fld v 8 0, all, fld v 47 21) }

/-- TLB_INV. -/
def execTlbInv (tenant p : Nat) (v : Word) (s : State) : Out :=
  guardWf (p < 16) (adminCmd s tenant (rTlbInv p) (fun s => tlbInvWrite s p v))

/-- TLB_INV_DONE: what was walked meanwhile under the old tables is gone too, and BUSY clears. -/
def execTlbInvDone (p : Nat) (s : State) : Out :=
  guardWf (p < 16) (.next (
    match (getHub s p).tlbInv with
    | none => s
    | some (t, all, page) =>
      let s := invalidate s p t all page
      setRbit (setHub s p { getHub s p with tlbInv := none }) (rTlbInv p) 11 false))

/-! ## Segment modes (R208, R209) -/

/-- A write of a mode word: it waits until issued accesses to the changed segments have completed. -/
def segModeWrite (s : State) (p i : Nat) (v : Word) : State :=
  setHub s p { getHub s p with segPend := mput i v (getHub s p).segPend }

/-- HBM_SEG_MODE_WRITE. -/
def execHbmSegModeWrite (tenant p i : Nat) (v : Word) (s : State) : Out :=
  guardWf (p < 16 && i < 3) (adminCmd s tenant (rSegMode p i) (fun s => segModeWrite s p i v))

/-- HBM_SEG_MODE_APPLY: the new modes hold, and the contents of the changed segments are undefined. -/
def execHbmSegModeApply (p i : Nat) (s : State) : Out :=
  guardWf (p < 16 && i < 3) (.next (segApply s p i))

/-! ## Remote-data cache (R214) -/

/-- A write of RDC_CTL; INV discards every line, at once, so that it reads 0 again (log entry 16). -/
def rdcCtlWrite (s : State) (p : Nat) (v : Word) : State :=
  let s := setRbit (writeReg s (rRdcCtl p) v) (rRdcCtl p) 1 false
  if v.getLsbD 1 then discardRdc s p (fun _ => true) else s

/-- RDC_INV. -/
def execRdcInv (tenant p : Nat) (v : Word) (s : State) : Out :=
  guardWf (p < 16) (adminCmd s tenant (rRdcCtl p) (fun s => rdcCtlWrite s p v))

/-- HBM_CHANNEL_TRAINING_LOSS: the channel is fenced (R212). -/
def execHbmChannelTrainingLoss (p n ch addr : Nat) (s : State) : Out :=
  guardWf (p < 16 && n < 4 && ch < 32) (.next (
    if rbit s (rHbmStatus p n) ch then fenceChannel s p n ch addr else s))

end Sys2Proof.Machine
end

