-- ==== Sys2Proof/Machine/PowerFail.lean ====
section
/-! DEFINITION. Supply, power failure, package reset and shut-down (R422, R455, R464, R465, R470 to R474). -/
namespace Sys2Proof.Machine

/-! ## PF0 and PF1 (R470, R471) -/

/-- Waiting events formed into records and sent to the host ring while it takes them. -/
def drainLog (s : State) : Nat → State
  | 0 => s
  | n + 1 => if ringOn s && !(ringFull s) && !s.evFifo.isEmpty then drainLog (nextRecord s true) n else s

/-- Open steps in the package. -/
def openSteps (s : State) : Nat := s.hubs.foldl (fun n e => n + e.2.steps.length) 0

/-- The 64 bytes of a power-fail record (R471). -/
def pfBytes (r : PfRecord) : List Byte :=
  let b := toBytes 4 0x50465231 ++ toBytes 4 r.seq.toNat ++ toBytes 8 r.tRec ++ toBytes 1 r.cause ++ toBytes 1 r.vinMin ++ toBytes 2 r.openSteps
    ++ toBytes 4 r.evtSeq.toNat ++ toBytes 4 r.evtLost ++ toBytes 32 0
  b ++ toBytes 4 (crc32c b).toNat

/-- A power-fail record added to a device's ring of 16,384. -/
def addPf (f : Flash) (r : PfRecord) : Flash :=
  let seq : Word32 := match f.pf with
    | [] => 1
    | x :: _ => x.seq + 1
  { f with pf := ({ r with seq := seq } :: f.pf).take 16384 }

/-- What PF1 writes: events to the host ring, up to 64 of them and then the power-fail record to both devices; nothing where the
firmware does not run. -/
def pf1Writes (s : State) : State :=
  if s.restarting ∨ s.pf.halted then s
  else
    let all := s.evFifo
    let dropped := s.evDrops.foldl (fun n c => n + c.2) 0
    let s := drainLog s (all.length + 16)
    let sent := all.length - s.evFifo.length
    let lost := all.length - max sent 64 + dropped
    let r : PfRecord := { tRec := s.pf.tRec, cause := s.pf.cause, vinMin := s.pf.vinMin, openSteps := openSteps s,
                          evtSeq := nextSeq s - 1, evtLost := lost }
    let store (f : Flash) : Flash := { addPf f r with events := all.take 64 }
    { s with flashA := store s.flashA, flashB := store s.flashB, pf := { s.pf with lost := lost } }

/-- A power failure, or the phases of a shut-down or a package reset, begins: nothing is fetched, dispatched or sent, every cluster
is gated (R470, R474). VIN_MIN is in 0.25 V. -/
def startPf (s : State) (cause vinMin : Nat) (final rails : Bool) : State :=
  if s.stage = .powerFail then { s with pf := { s.pf with final := s.pf.final || final } }
  else if s.stage = .up ∨ s.stage = .halted then
    let s := { s with stage := .powerFail, pf := { cause := cause, tRec := s.timebase, vinMin := vinMin, final := final, rails := rails,
                                                   halted := s.stage == .halted } }
    pf1Writes (markGated (gateAll s))
  else s

/-- POWER_FAIL_RECOGNITION: cause 1 PWR_FAIL_N, 2 VIN48 below 40 V; `vin` is the lowest VIN48 until PF1 has written its record. -/
def execPowerFailRecognition (cause vin : Nat) (s : State) : Out :=
  guardWf ((cause == 1 || cause == 2) && vin < 64000) (.next (
    startPf { s with pins := { s.pins with vin := vin, pwrFail := s.pins.pwrFail || cause == 1 } } cause (vin / 250) false false))

/-! ## The end of PF1 (R465, R472 to R474) -/

/-- What outlasts the dies' reset: the queue, the fuses, the pins, the flash devices, the hosts. -/
def keptOver (s : State) (st : Stage) : State :=
  { pending := s.pending, free := s.free, fuses := s.fuses, pins := s.pins, hostMem := s.hostMem, hostAns := s.hostAns, hostTr := s.hostTr,
    flashA := s.flashA, flashB := s.flashB, nextCause := s.nextCause, heatWait := s.heatWait, pf := s.pf, stage := st }

/-- Operation resumes (R473): what PF0 held goes on. -/
def resume (s : State) : State :=
  let s := { s with stage := if s.pf.halted then .halted else .up }
  if s.pf.halted then s
  else
    let s := leaf (emit s 0x0003 0 [(8, s.pf.tRec), (1, s.pf.vinMin % 256)]) 28 4
    let s := (s.engs.map (fun (e : Nat × EngSt) => e.1)).foldl engSend s
    let s := (s.gconns.map (fun (e : Nat × GpConn) => e.1)).foldl (fun s k => gpSend s (k / 4096) (k % 4096)) s
    (s.seStacks.map (fun (e : Nat × StackSt) => e.1)).foldl (fun s k => admitSe s k 16) s

/-- PF1_END: supply good before PF1 ends resumes a failure with a return path; else the rails go down, or the dies alone are held
in reset by a package reset (R465, R472, R474). Where a reset was asked for meanwhile and the supply is good, the reference
follows (R455, R531). `vinMin` is the lowest VIN48 since recognition, in mV. -/
def execPf1End (good : Bool) (vinMin : Nat) (s : State) : Out :=
  guardWf (vinMin < 64000) (.next (
    if s.stage ≠ .powerFail then s
    else
      let s := { s with pf := { s.pf with vinMin := min s.pf.vinMin (vinMin / 250) } }
      if good ∧ !s.pf.final then resume { s with pins := { s.pins with pwrFail := false } }
      else
        let s := tearCal s
        if s.pf.final ∧ (s.pf.rails ∨ (good ∧ (s.pins.coldRst ∨ s.pf.cause < 3))) then keptOver s .waitReference
        else if 3 ≤ s.pf.cause then keptOver s .off
        else keptOver { s with nextCause := 1 } .off))

/-! ## Package reset (R465) -/

/-- COLD_RST_N_ASSERT: asserted for 1 µs. THERMTRIP_N is released. A power failure in progress proceeds, with no return path (R531);
after a shut-down the reference follows the release, with the shut-down as its cause (DEDUCED, log entry 49). -/
def execColdRstNAssert (s : State) : Out :=
  .next (
    let s := { s with pins := { s.pins with coldRst := true, thermtrip := false } }
    match s.stage with
    | .up | .halted => startPf { s with nextCause := 2 } 5 (s.pins.vin / 250) true true
    | .powerFail => if s.pf.final then s else { s with nextCause := 2, pf := { s.pf with final := true } }
    | .off => if 4 ≤ s.nextCause then { s with stage := .waitReference } else s
    | _ => s)

/-- A write of RST_CMD: discarded while BUSY; GO starts OP: a partition's reset, the package's with its key, BAD_DESC for a
reserved one (R465, R466). -/
def rstCmdWrite (s : State) (tenant : Nat) (v : Word) : State :=
  if rbit s rRstCmd 8 then s
  else
    let s := rstFields s v
    if !(v.getLsbD 7) then s
    else match fld v 6 4 with
      | 1 => resetStart s tenant (fld v 3 0)
      | 2 =>
        if fld v 31 24 ≠ 0xC5 then rstResult s .badDesc
        else startPf { s with nextCause := 3 } 6 (s.pins.vin / 250) true true
      | _ => rstResult s .badDesc

/-- RST_CMD_PARTITION: a write of RST_CMD; OP and GO of the value say what it does. -/
def execRstCmdPartition (tenant : Nat) (v : Word) (s : State) : Out :=
  adminCmd s tenant rRstCmd (fun s => rstCmdWrite s tenant v)

/-- RST_CMD_PACKAGE: a write of RST_CMD; GO with OP PACKAGE but without its key gives BAD_DESC. -/
def execRstCmdPackage (tenant : Nat) (v : Word) (s : State) : Out :=
  adminCmd s tenant rRstCmd (fun s => rstCmdWrite s tenant v)

/-- A package shut-down: THERMTRIP_N, the record, the phases without a return path (R422, R474). Cause 3 heat, 4 coolant. -/
def packageShutdown (s : State) (cause : Nat) : State :=
  let s := { s with pins := { s.pins with thermtrip := true } }
  if s.stage ≠ .up ∧ s.stage ≠ .powerFail then s
  else
    let s := emit { s with nextCause := cause + 1, heatWait := s.heatWait || cause == 3 } 0x0056 0 [(1, cause)]
    if s.stage = .powerFail then { startPf s cause 0 true false with pf := { s.pf with final := true, rails := false, cause := cause } }
    else startPf s cause (s.pins.vin / 250) true false

/-! ## Supply (R455) -/

/-- SUPPLY_GOOD: the 50 ms before the cold start reference begin. THERMTRIP_N has gone with VIN48 (R422). -/
def execSupplyGood (s : State) : Out :=
  .next (
    match s.stage with
    | .waitSupply | .off =>
      { s with stage := .waitReference,
               pins := { s.pins with pwrFail := false, thermtrip := if s.stage = .off then false else s.pins.thermtrip } }
    | _ => s)

/-- SUPPLY_LOST_BEFORE_REFERENCE: the 50 ms start again once the supply is good. -/
def execSupplyLostBeforeReference (s : State) : Out :=
  .next (if s.stage = .waitReference then { s with stage := .waitSupply } else s)

end Sys2Proof.Machine
end

