-- ==== Sys2Proof/Machine/Thermal.lean ====
section
/-! DEFINITION. Sensors, thermal levels, throttling, shut-down for heat, the coolant inputs, a hub without readings (R215, R416 to R425). -/
namespace Sys2Proof.Machine

/-! ## Channels and levels (R416, R417, R419) -/

/-- The unit of a diode channel, in the numbering of `ThermalSt`. -/
def chUnit (ch : Nat) : Nat :=
  if ch < 256 then ch / 4 else if ch < 272 then 64 + (ch - 256) else if ch < 336 then 200 + (ch - 272)
  else if ch < 400 then 80 + (ch - 336) else 144 + (ch - 400) / 2

/-- Levels in sixteenths of a degree: warning, throttle, shut-down, hysteresis, restart below; by sensor class of R419. -/
def classLevels : Nat → List Int
  | 0 => [95 * 16, 100 * 16, 115 * 16, 5 * 16, 85 * 16]
  | 1 => [95 * 16, 100 * 16, 115 * 16, 5 * 16, 85 * 16]
  | 2 => [85 * 16, 90 * 16, 105 * 16, 3 * 16, 80 * 16]
  | 3 => [85 * 16, 90 * 16, 105 * 16, 3 * 16, 80 * 16]
  | 4 => [75 * 16, 80 * 16, 95 * 16, 3 * 16, 70 * 16]
  | _ => [55 * 16, 60 * 16, 70 * 16, 2 * 16, 50 * 16]

/-- The class of a unit: compute die, hub, HBM stack, state stack, optical die, coolant outlet. -/
def unitClass (u : Nat) : Nat :=
  if u < 64 then 0 else if u < 80 then 1 else if u < 144 then 3 else if u < 160 then 4 else if u < 200 then 5 else 2

def unitLevel (u i : Nat) : Int := lget 0 (classLevels (unitClass u)) i

/-- The partition of a unit, where it has one. -/
def unitPart (u : Nat) : Option Nat :=
  if u < 64 then some (u / 4) else if u < 80 then some (u - 64) else if u < 144 then some ((u - 80) / 4)
  else if 200 ≤ u then some ((u - 200) / 4) else none

/-- A unit is populated. -/
def unitPresent (s : State) (u : Nat) : Bool :=
  match unitPart u with
  | some p => p < nParts s
  | none => optPresent s (u - 144)

/-- A channel's valid reading. -/
def chReading (s : State) (ch : Nat) : Option Int :=
  let v := rfld s (rThmTemp (ch / 4)) (16 * (ch % 4) + 15) (16 * (ch % 4))
  if v = 0x8000 then none else some (sgn 16 v)

/-- A unit's temperature: the highest of its valid readings (R416, R418). -/
def unitTemp (s : State) (u : Nat) : Option Int :=
  ((unitChans u).filterMap (chReading s)).foldl (fun m t => match m with
    | none => some t
    | some x => some (if t > x then t else x)) none

/-- Every channel of a unit is faulty: it is taken to stand at its throttle level (R418). -/
def allFaulty (s : State) (u : Nat) : Bool := (unitChans u).all (fun c => (mfind s.thm.faulty c).isSome)

def stands (s : State) (u : Nat) : Nat := mget 0 s.thm.stand u

/-- A reading is possible: −20 to 150 °C and no open or short circuit (R418). -/
def validReading (r : Option Int) : Option Int :=
  match r with
  | some t => if -320 ≤ t ∧ t ≤ 2400 then some t else none
  | none => none

/-- THM_STATUS_0 and THM_STATUS_1 brought up to date. -/
def showThermal (s : State) : State :=
  let of (p b : Nat) : Bool := s.thm.stand.any (fun e => unitPart e.1 == some p && nbit e.2 b)
  let parts (f : Nat → Bool) : Nat := bitsOver 16 f
  let opt (b : Nat) : Nat := bitsOver 8 (fun o => nbit (stands s (144 + o)) b)
  let s := setReg s rThmStatus0 (BitVec.ofNat 64 (parts (fun p => of p 0) + parts (fun p => of p 1) * 2 ^ 16
    + parts (fun p => mfind s.partOut p == some 2) * 2 ^ 32 + b2n (nbit (stands s 160) 0 || nbit (stands s 161) 0) * 2 ^ 48
    + b2n (nbit (stands s 160) 1) * 2 ^ 49))
  setReg s rThmStatus1 (BitVec.ofNat 64 (opt 0 + opt 1 * 2 ^ 8
    + bitsOver 8 (fun o => (getOpt s o).out == some 2) * 2 ^ 16 + b2n (!s.thm.faulty.isEmpty) * 2 ^ 24))

/-- A channel noted as faulty, with its record when it becomes so, or as sound. -/
def noteFault (s : State) (ch : Nat) (bad : Bool) : State :=
  if !bad then { s with thm := { s.thm with faulty := mdel ch s.thm.faulty } }
  else if (mfind s.thm.faulty ch).isSome then s
  else leaf (emit { s with thm := { s.thm with faulty := mput ch () s.thm.faulty } } 0x0052 0 [(2, ch)]) 25 3

/-- The levels at which a unit stands: reached at or above, cleared below the level less the hysteresis (R419). -/
def newStand (s : State) (u : Nat) (t : Int) : Nat :=
  let old := stands s u
  let at_ (i : Nat) : Bool := t ≥ unitLevel u i || (nbit old i && t ≥ unitLevel u i - unitLevel u 3)
  if u = 161 then b2n (t ≥ 42 * 16 || (nbit old 0 && t ≥ 40 * 16)) else b2n (at_ 0) + 2 * b2n (at_ 1)

/-- A unit's levels set; each that is newly reached has its record, with its channel and reading, and its leaf (R420). -/
def setStand (s : State) (u ch : Nat) (t : Int) (new : Nat) : State :=
  let old := stands s u
  let s := { s with thm := { s.thm with stand := if new = 0 then mdel u s.thm.stand else mput u new s.thm.stand } }
  (List.range 2).foldl (fun s b =>
    if nbit new b && !(nbit old b) then
      leaf (emit s 0x0050 0 [(2, ch), (2, intBits 16 t), (1, Config.code 0x50 b % 256)]) 25 b
    else s) s

/-! ## Shut-down for heat (R421) -/

/-- An optical die shuts down: its lasers are off, its links and its general port down. -/
def opticalDown (s : State) (o : Nat) : State :=
  let s := setOpt s o { getOpt s o with out := some 2 }
  let s := (List.range 8).foldl (fun s e =>
    if linkState s (8 * o + e) = 0 ∨ linkState s (8 * o + e) = 6 then s else linkFalls s (8 * o + e)) s
  health (epochLeave (gpFalls s o) (144 + o))

/-- A unit's reading has reached its shut-down level. The number in the record is the partition's, or 16 more than the optical die's
(log entry 27). -/
def unitShutdown (s : State) (u : Nat) (t : Int) : State :=
  match unitPart u with
  | some p =>
    if !(partUp s p) then s
    else
      let s := leaf (emit s 0x0051 0 [(1, p), (2, intBits 16 t)]) 25 2
      partitionDown s p 2 .linkLost
  | none =>
    let o := u - 144
    if !(optUp s o) then s else opticalDown (leaf (emit s 0x0051 0 [(1, 16 + o), (2, intBits 16 t)]) 25 2) o

/-- The sensors of a partition or of an optical die (16 + o). -/
def sensorsOf (k : Nat) : List Nat :=
  if k < 16 then (64 + k) :: (List.range 4).flatMap (fun n => [4 * k + n, 80 + 4 * k + n, 200 + 4 * k + n]) else [144 + (k - 16)]

/-- Since when every sensor of a shut-down unit reads below its restart level. -/
def noteBelow (s : State) (k : Nat) : State :=
  let shut := if k < 16 then mfind s.partOut k == some 2 else (getOpt s (k - 16)).out == some 2
  let cool := (sensorsOf k).all (fun u => !(allFaulty s u) && (match unitTemp s u with
    | some t => decide (t < unitLevel u 4)
    | none => false))
  let b := s.thm.below
  { s with thm := { s.thm with below := if shut && cool then mput k ((mfind b k).getD s.timebase) b else mdel k b } }

/-- A unit judged by its temperature. -/
def judgeUnit (s : State) (u ch : Nat) : State :=
  let s :=
    if allFaulty s u then setStand s u ch (unitLevel u 1) 3
    else match unitTemp s u with
      | none => s
      | some t =>
        let s := setStand s u ch t (newStand s u t)
        if t ≥ unitLevel u 2 then unitShutdown s u t else s
  noteBelow s (match unitPart u with
    | some p => p
    | none => 16 + (u - 144))

/-! ## Compensation (R42, R426) -/

/-- The reading by which what stands nearest to a diode channel is corrected: the last valid one. -/
def compReading (s : State) (ch : Nat) : Int := mget 0 s.comp ch

/-- The offset on the heaters of the rings that stand by a laser array's diode; the same offset goes on the stored path state of a
port (R328) that those rings serve. -/
def heaterOffset (s : State) (o a : Nat) : Int := Config.tempCorrection 0 (400 + 2 * o + a) (compReading s (400 + 2 * o + a))

/-- The current a laser is driven with: its BIAS and a current for the temperature of its array, which no register shows and which
does not count toward the limit of 1.6 × BIAS_INIT. -/
def laserDrive (s : State) (o a w : Nat) : Int :=
  rfld s (rLaser o a w) 31 16 + Config.tempCorrection 1 (400 + 2 * o + a) (compReading s (400 + 2 * o + a))

/-- TEMP_C, HOT_REFRESH and THROTTLE of an HBM stack (R215). -/
def hbmShow (s : State) (d : Nat) (t : Int) : State :=
  let r := rHbmStatus (d / 4) (d % 4)
  let hot := decide (t > 85 * 16) || (rbit s r 40 && decide (t ≥ 82 * 16))
  setRbit (setRbit (setRfld s r 55 48 (max 0 (t / 16)).toNat) r 40 hot) r 41 (nbit (stands s (200 + d)) 1)

/-- DIODE_READING: a conversion in sixteenths of a degree, or an open or short circuit (R416, R418 to R421). The oscillators and bandgap
references nearest to the diode, and the rings and lasers by it, are corrected by it (R42, R426; log entry 28). -/
def execDiodeReading (ch : Nat) (r : Option Int) (s : State) : Out :=
  guardWf (ch < 416) (.next (
    if !(unitPresent s (chUnit ch)) ∨ !(running s) ∨ s.restarting then s
    else
      let v := validReading r
      let raw := match v with
        | some t => intBits 16 t
        | none => 0x8000
      let s := setRfld s (rThmTemp (ch / 4)) (16 * (ch % 4) + 15) (16 * (ch % 4)) raw
      let s := match v with
        | some t => { s with comp := mput ch t s.comp }
        | none => s
      let u := chUnit ch
      let s := judgeUnit (noteFault s ch v.isNone) u ch
      showThermal (match v with
        | some t => if 200 ≤ u ∧ rbit s rDevStatus (16 + (u - 200) / 4) then hbmShow s (u - 200) t else s
        | none => if 200 ≤ u ∧ rbit s rDevStatus (16 + (u - 200) / 4) then
            setRbit s (rHbmStatus ((u - 200) / 4) ((u - 200) % 4)) 41 (nbit (stands s u) 1) else s)))

/-- UNIT_RESTART: with AUTO_RESTART, a unit shut down for heat restarts after 1 s below its restart levels: a partition with a
partition reset, an optical die retrains its links (R421, R468, R514). -/
def execUnitRestart (unit : Nat) (s : State) : Out :=
  guardWf (unit < 24) (.next (
    match mfind s.thm.below unit with
    | none => s
    | some t =>
      if !(rbit s rThmCtl 0) ∨ s.stage ≠ .up ∨ s.restarting then s
      else
        let s := { s with timebase := max s.timebase (t + 1000000000), thm := { s.thm with below := mdel unit s.thm.below } }
        if unit < 16 then
          (if mfind s.partOut unit = some 2 then showThermal (health { s with partOut := mput unit 3 s.partOut }) else s)
        else
          let o := unit - 16
          if (getOpt s o).out ≠ some 2 then s
          else showThermal (health (optReturns (setOpt s o { getOpt s o with out := none }) o))))

/-! ## Throttling (R136, R215, R420) -/

/-- A cause of throttling stands; the most sixteenths it adds. -/
def throttleOn (s : State) (c : Nat) : Bool :=
  if 300 ≤ c then nbit (stands s (200 + (c - 300))) 1 || nbit (stands s (80 + (c - 300))) 1 else nbit (stands s c) 1

def throttleCap (c : Nat) : Nat := if c < 64 then 16 else 12

/-- Causes: compute dies, hubs, optical dies, the coolant outlet, the stacks coupled to compute dies. -/
def throttleCauses (s : State) : List Nat :=
  let live := s.thm.stand.flatMap (fun e =>
    if 80 ≤ e.1 ∧ e.1 < 144 then [300 + (e.1 - 80)] else if 200 ≤ e.1 then [300 + (e.1 - 200)] else [e.1])
  (live ++ s.thm.cont.map (fun (e : Nat × Nat) => e.1)).eraseDups

/-- THROTTLE_STEP: 1 ms has passed: a sixteenth more for each cause that stands, one less for each that has cleared. A State
Engine's page reads are gated in the same steps (R136). -/
def execThrottleStep (s : State) : Out :=
  .next (
    if !(running s) then s
    else
      let step (on : Bool) (cap n : Nat) : Nat := if on then min cap (n + 1) else n - 1
      let cont := (throttleCauses s).foldl (fun m c =>
        let n := step (throttleOn s c) (throttleCap c) (mget 0 s.thm.cont c)
        if n = 0 then mdel c m else mput c n m) s.thm.cont
      let gates := (List.range (4 * nParts s)).filter (fun k => nbit (stands s (80 + k)) 1 || (getStack s k).gate != 0)
      let s := gates.foldl (fun s k => setStack s k { getStack s k with gate := step (nbit (stands s (80 + k)) 1) 15 (getStack s k).gate }) s
      markGated { s with thm := { s.thm with cont := cont } })

/-! ## Floor power and the coolant inputs (R401, R418, R423, R424) -/

/-- Floor power begins to be held for the coolant: every cluster gated at once, FLOOR and IN_DOUBT, their leaves. -/
def floorOn (s : State) : State :=
  let s := if rbit s rPwrStatus 48 then s else leaf (setRbit s rPwrStatus 48 true) 24 1
  let s := if rbit s rCoolStatus 2 then s else leaf (setRbit s rCoolStatus 2 true) 32 0
  markGated (gateAll s)

/-- Floor power ends once nothing holds it: hints' ramps restart from the power at release (R411). -/
def floorOff (s : State) : State :=
  if floorHeld s then s
  else
    let s := setRbit (setRbit s rPwrStatus 48 false) rCoolStatus 2 false
    { s with hubs := s.hubs.map (fun e => (e.1, { e.2 with hints := e.2.hints.map (fun x =>
        if x.ramp.isSome || x.tStart ≤ s.timebase then { x with ramp := some (s.timebase, e.2.pow.est) } else x) })) }

/-- T_D in ns. -/
def discTime (s : State) : Nat := 1000000 * max 1 (min 20 (rfld s rCoolCtl 4 0))

/-- A and B of COOL_STATUS follow the inputs. -/
def showCool (s : State) : State := setRbit (setRbit s rCoolStatus 0 s.pins.coolA) rCoolStatus 1 s.pins.coolB

/-- A COOLANT record: A, B, case (0 at the first assertion). -/
def coolEvent (s : State) (case : Nat) : State :=
  emit s 0x0054 0 [(1, b2n s.pins.coolA), (1, b2n s.pins.coolB), (1, case)]

/-- T_D has passed with one channel asserted (case 2). -/
def discrepancy (s : State) : State :=
  let s := { s with thm := { s.thm with coolRef := none } }
  health (coolEvent (leaf (setRbit s rCoolStatus 3 true) 32 1) 2)

/-- A coolant input's level. -/
def coolPin (s : State) (ch : Nat) : Bool := if ch = 0 then s.pins.coolA else s.pins.coolB

def setCoolPin (s : State) (ch : Nat) (b : Bool) : State :=
  showCool { s with pins := if ch = 0 then { s.pins with coolA := b } else { s.pins with coolB := b } }

/-- A case whose T_D has passed is a discrepancy. -/
def coolLate (s : State) : State :=
  match s.thm.coolRef with
  | some t => if t + discTime s < s.timebase then discrepancy s else s
  | none => s

/-- A coolant channel asserts, the block running (R423). -/
def coolAssert (s : State) (ch : Nat) : State :=
  let s := coolLate s
  let other := coolPin s (1 - ch)
  let s := setCoolPin { s with thm := { s.thm with coolClear := none } } ch true
  if !s.thm.coolHeld ∧ !other then
    coolEvent (floorOn { s with thm := { s.thm with coolHeld := true, coolRef := some s.timebase } }) 0
  else if s.thm.coolRef.isSome ∧ other then
    packageShutdown (coolEvent { s with thm := { s.thm with coolRef := none } } 1) 4
  else s

/-- COOL_FAIL_ASSERT: channel A (0) or B (1), for at least 10 µs. It is watched while Saley restarts (R425). -/
def execCoolFailAssert (ch : Nat) (s : State) : Out :=
  guardWf (ch < 2) (.next (
    if coolPin s ch then s
    else if running s then coolAssert s ch
    else { s with pins := if ch = 0 then { s.pins with coolA := true } else { s.pins with coolB := true } }))

/-- COOLANT_DISCREPANCY: T_D passes with only one channel asserted. -/
def execCoolantDiscrepancy (s : State) : Out :=
  .next (
    match s.thm.coolRef with
    | none => s
    | some t => if running s then discrepancy { s with timebase := max s.timebase (t + discTime s) } else s)

/-- COOL_FAIL_DEASSERT: before T_D it makes case 3; with both inputs deasserted the return begins (R423, R424). -/
def execCoolFailDeassert (ch : Nat) (s : State) : Out :=
  guardWf (ch < 2) (.next (
    if !(coolPin s ch) then s
    else if !(running s) then { s with pins := if ch = 0 then { s.pins with coolA := false } else { s.pins with coolB := false } }
    else
      let s := setCoolPin (coolLate s) ch false
      let s := if s.thm.coolRef.isSome then leaf (emit { s with thm := { s.thm with coolRef := none } } 0x0055 0 []) 32 2 else s
      if s.thm.coolHeld ∧ !s.pins.coolA ∧ !s.pins.coolB then { s with thm := { s.thm with coolClear := some s.timebase } } else s))

/-- COOLANT_RETURN: both inputs deasserted for 100 ms (R424). -/
def execCoolantReturn (s : State) : Out :=
  .next (
    match s.thm.coolHeld, s.thm.coolClear with
    | true, some t =>
      if !(running s) then s
      else
        let s := { s with timebase := max s.timebase (t + 100000000), thm := { s.thm with coolHeld := false, coolClear := none } }
        health (floorOff (setRbit s rCoolStatus 3 false))
    | _, _ => s)

/-! ## Thermistors (R417, R418, R422) -/

/-- The coolant outlet's reading is in doubt, or has been valid for 100 ms again (R418). -/
def outletDoubt (s : State) (bad : Bool) : State :=
  if bad then floorOn { s with thm := { s.thm with in1Bad := true, in1Ok := none } }
  else if !s.thm.in1Bad then s
  else
    let t := s.thm.in1Ok.getD s.timebase
    if t + 100000000 ≤ s.timebase then floorOff { s with thm := { s.thm with in1Bad := false, in1Ok := none } }
    else { s with thm := { s.thm with in1Ok := some t } }

/-- The coolant outlet judged: 70 °C shuts the package down; below 50 °C the wait after such a shut-down ends. -/
def judgeOutlet (s : State) (t : Int) : State :=
  let s := setStand s 160 417 t (newStand s 160 t)
  let s := if t < unitLevel 160 4 then { s with heatWait := false } else s
  if t ≥ unitLevel 160 2 then packageShutdown s 3 else s

/-- THERMISTOR_READING: input i in sixteenths of a degree, or none where its wire is open or short. -/
def execThermistorReading (i : Nat) (r : Option Int) (s : State) : Out :=
  guardWf (i < 4) (.next (
    if !(running s) ∨ s.restarting then s
    else
      let v := validReading r
      let s := noteFault s (416 + i) v.isNone
      let s := match v with
        | some t => setReg s (rThmIn i) (BitVec.ofNat 64 (intBits 16 t))
        | none => setRbit s (rThmIn i) 16 true
      let s := if i = 1 then outletDoubt s v.isNone else s
      showThermal (match i, v with
        | 0, some t => setStand s 161 416 t (newStand s 161 t)
        | 1, some t => judgeOutlet s t
        | _, _ => s)))

/-! ## A hub without readings (R425) -/

/-- HUB_READINGS_TIMEOUT: 60 ms into a restart the hub lowers its partition to its share of floor power. -/
def execHubReadingsTimeout (p : Nat) (s : State) : Out :=
  guardWf (p < 16) (.next (
    let h := getHub s p
    if !(running s) ∨ !s.restarting ∨ !(partUp s p) ∨ h.pow.floor then s
    else
      let s := { s with timebase := max s.timebase (s.fwSt.since + 60000000) }
      let a := min h.pow.allow (shareCut s (partsUp s) p (pFloor s))
      let s := setHub s p { h with pow := { h.pow with floor := true, allow := a } }
      setRfld s (rPwrPart p) 47 32 (min 65535 (a.toNat / 10000))))

end Sys2Proof.Machine
end

