-- ==== Sys2Proof/Machine/Lifecycle.lean ====
section
/-! DEFINITION. Cold start: straps, calibration record, firmware slot, identity, links, training; capability records; optical dies (R25 to R34, R37, R43, R211, R456 to R463, R471, R476, R479, R500, R503). -/
namespace Sys2Proof.Machine

/-! ## Step 1 (R37, R38, R43, R456, R503) -/

/-- STRAP_STATUS. -/
def strapWord (b : BootInputs) : Nat := b2n b.bootSel + 2 * b2n b.dbgEn + 4 * (b.smbAddr % 8) + 32 * b2n b.pcieMode

/-- VARIANT of DEV_ID. -/
def variantCode (s : State) : Nat :=
  match s.fuses.variant with
  | .lcr1600A => 0
  | .lcr1600N => 1
  | .lcr0800A => 2

/-- What Saley's die shows from the first step on: DEV_ID, DEV_STEP.MGMT, SALEY_IDENT, IDENT_STATUS.SALEY_OK. -/
def bootIdentity (s : State) : State :=
  let s := setReg s rDevId (BitVec.ofNat 64 (s.fuses.mfr % 2048 + 0x4C52 * 2 ^ 16 + variantCode s * 2 ^ 32))
  let s := setReg s 0x8 (BitVec.ofNat 64 (fld (identWord s 152) 3 0))
  setRbit (setReg s 0x48 (identWord s 152)) rIdentStatus 0 (identOk s 152)

/-- The reference clocks judged for the first time. TIMEBASE starts with the first good one. -/
def bootClocks (s : State) : State :=
  let sel := if s.pins.ref0 then 0 else if s.pins.ref1 then 1 else 0
  let none_ := !s.pins.ref0 && !s.pins.ref1
  { setReg s rRefclk (BitVec.ofNat 64 (b2n s.pins.ref0 + 2 * b2n s.pins.ref1 + 4 * sel + 16 * b2n none_)) with tbStarted := !none_ }

/-! ## Step 2: the calibration record and the slot (R458, R460, R471, R476, R477, R479) -/

/-- What a record restores before the units concerned leave reset. -/
def applyCal (s : State) (r : CalRec) : State :=
  let load (s : State) (m : AMap Word) : State := m.foldl (fun s e => setReg s e.1 e.2) s
  let s := { s with coreGone := r.coreGone, clGone := r.clGone, clusterOut := r.clusterOut, physCl := r.physCl, physCore := r.physCore,
                    chFence := r.chFence, calPref := r.preferred, calOther := r.other }
  let s := r.ports.foldl (fun s i => setRbit s (rPortStatus (i / 12)) (i % 12) true) s
  load (load (load s r.lasers) r.weights) r.macs

/-- The record chosen, CAL_STATUS, and the records that tell of an older one or of none, in which case the factory record serves
(R476, R479). -/
def bootCal (s : State) : State :=
  match calNewest s with
  | none =>
    let s := setRbit (showCal { applyCal s s.fuses.factory with calDirty := true } 0) rCalStatus 33 true
    leaf (emit s 0x0006 0 []) 28 5
  | some (_, r) =>
    let s := showCal (applyCal s r) r.seq
    if calTorn s % 4 = 0 then s
    else
      let states := Config.code 0x476 (calValid s + 16 * calTorn s) % 65536
      leaf (emit (setRbit { s with calDirty := true } rCalStatus 32 true) 0x0005 0 [(4, r.seq.toNat), (2, states)]) 28 5

/-- The slot booted: the preferred one or the one BOOT_SEL names, else the other; none where both fail. -/
def bootSlot (s : State) (b : BootInputs) : Option Nat :=
  let first := s.calPref.getD (b2n b.bootSel)
  if (fwImage s first).ok then some first else if (fwImage s (1 - first)).ok then some (1 - first) else none

/-- FW_STATUS once an image runs. -/
def bootFw (s : State) (a : Nat) : State :=
  let s := setRfld (setRfld (fwCheck s) rFwStatus 0 0 a) rFwStatus 1 1 (s.calPref.getD 0)
  setRfld s rFwStatus 63 32 (fwImage s a).version

/-- The newest power-fail record: its content as an event, its SEQ in RST_CAUSE. -/
def bootPf (s : State) : State :=
  let newest : Option PfRecord := match s.flashA.pf, s.flashB.pf with
    | a :: _, b :: _ => some (if 0 < (b.seq - a.seq).toInt then b else a)
    | a :: _, [] => some a
    | [], b :: _ => some b
    | [], [] => none
  let s := setReg s rRstCause (BitVec.ofNat 64 (s.nextCause + ((newest.map (fun r => r.seq.toNat)).getD 0) * 2 ^ 32))
  match newest with
  | none => s
  | some r => emit s 0x0004 0 ((List.range 4).map (fun i => (8, bytesAt (pfBytes r) (8 * i) 8)))

/-! ## Steps 5 to 7 (R25 to R28, R211, R459) -/

/-- The dies of the package, by DIE_CAP index. -/
def diePresent (s : State) (i : Nat) : Bool :=
  if i < 64 then i < 4 * nParts s else if i < 80 then i - 64 < nParts s else if i < 144 then i - 80 < 4 * nParts s
  else if i < 152 then optPresent s (i - 144) else i == 152

/-- The identity of every die but Saley (R28). -/
def bootIdents (s : State) : State :=
  ((List.range 152).filter (fun i => diePresent s i && !(identOk s i))).foldl (fun s i =>
    let s := setRbit (identEvent s i) rIdentStatus 1 true
    if 144 ≤ i then setOpt s (i - 144) { getOpt s (i - 144) with out := some 0 }
    else holdPart s (if i < 64 then i / 4 else if i < 80 then i - 64 else (i - 80) / 4) 0) s

/-- Modules that do not train, and partitions that lose a die to them (R25, R26). -/
def bootLinks (s : State) (l : List (Nat × Nat × Nat)) : State :=
  let s := l.foldl (fun s m =>
    let old := mget 0 s.ucieDown m.1
    if !(linkOk s m.1) ∨ nbit old m.2.1 then s
    else emit { s with ucieDown := mput m.1 (old + 2 ^ m.2.1) s.ucieDown } 0x0021 0 [(2, m.1), (1, m.2.1), (1, m.2.2)]) s
  (List.range (nParts s)).foldl (fun s p => if partLinked s p then s else holdPart s p 0) s

/-- The memory of every partition in service trained (R211). -/
def bootMemory (s : State) (hbm : List (BitVec 32)) : State :=
  (List.range (nParts s)).foldl (fun s p =>
    if (mfind s.partOut p).isSome then s
    else
      let maps := (List.range 4).map (fun n => lget 0xFFFFFFFF#32 hbm (4 * p + n))
      let (ok, s) := trainPart s p maps
      if ok then s else holdPart s p 1) s

/-- Coolant inputs that are asserted when Saley leaves reset are seen at once (R423). -/
def bootCoolant (s : State) : State :=
  let a := s.pins.coolA
  let b := s.pins.coolB
  let s := { s with pins := { s.pins with coolA := false, coolB := false } }
  let s := if a then coolAssert s 0 else s
  if b then coolAssert s 1 else s

/-- The operands of a cold start name links and controllers that can exist. -/
def bootOk (b : BootInputs) : Bool :=
  b.smbAddr < 8 && b.hbm.length ≤ 64 && b.pmbus.all (fun a => 0x40 ≤ a && a < 0x48)
    && b.untrained.all (fun m => m.1 < 516 && m.2.1 < linkModules m.1 && m.2.2 < 256)

/-- The package without valid firmware, or with an invalid identity word of its own: the boot ROM stays (R28, R460, R500). -/
def halt (s : State) : State :=
  let s := setRfld { s with stage := .halted } rDevStatus 7 4 0xF
  portTrain (portTrain s 0) 1

/-- The cold start of a package with an image to run. -/
def bootUp (s : State) (b : BootInputs) (slot : Nat) : State :=
  let s := { s with stage := .up, pow := { s.pow with pmbus := b.pmbus } }
  let s := bootPf (bootFw s slot)
  let s := bootMemory (bootLinks (bootIdents s) b.untrained) b.hbm
  let s := setRfld s rDevStatus 7 4 2
  let s := setRbit s rDbgCtl 1 b.dbgEn
  let s := portTrain (portTrain s 0) 1
  health (bootCoolant s)

/-- COLD_START_REFERENCE: steps 1 to 6 of R457 and the training of step 7, up to the arrival of capability records. -/
def execColdStartReference (b : BootInputs) (s : State) : Out :=
  guardWf (bootOk b) (.next (
    if s.stage ≠ .waitReference then s
    else
      let s := keptOver { s with pins := { s.pins with coldRst := false } } .waitReference
      let s := setReg s rStrap (BitVec.ofNat 64 (strapWord b))
      let s := bootClocks (bootIdentity s)
      if !(identOk s 152) then halt s
      else
        let s := bootCal s
        match bootSlot s b with
        | none => halt s
        | some a => bootUp s b a))

/-! ## Capability records (R29 to R34, R503) -/

/-- The dies that a whole table holds: populated, and not held by their own fuses or a link. -/
def dieExpected (s : State) (i : Nat) : Bool :=
  diePresent s i && identOk s i && !(i < 64 && linkDead s i) && !(80 ≤ i && i < 144 && linkDead s (64 + (i - 80)))

def dieValid (s : State) (i : Nat) : Bool := rbit s (rDieCap i 7) 32

/-- Compute dies with VALID = 1. -/
def liveDies (s : State) : List Nat := (List.range 64).filter (dieValid s)

/-- The capability registers (R503). -/
def showCaps (s : State) : State :=
  let dies := liveDies s
  let w4 (i : Nat) : Bool := rbit s (rDieCap i 1) 22
  let steps := dies.map (fun i => rfld s (rDieCap i 0) 3 0)
  let s := setRfld (setRfld s 0x8 7 4 (steps.foldl min 15)) 0x8 11 8 (steps.foldl max 0)
  let s := if dies.isEmpty then setRfld s 0x8 11 4 0 else s
  let sm := small s
  let se := (List.range (4 * nParts s)).all (fun k => !(dieValid s (80 + k)) || rbit s (rDieCap (80 + k) 1) 32)
  let coll := (List.range (nParts s)).all (fun p => !(dieValid s (64 + p)) || rbit s (rDieCap (64 + p) 1) 33)
  let s := setReg s 0x10 (BitVec.ofNat 64 (b2n se + 2 * b2n (!sm) + 4 + 8 * b2n coll + 16 * b2n (dies.any w4) + 32 * b2n (dies.all w4)
    + 64 * b2n (dies.all (fun i => rbit s (rDieCap i 1) 32)) + 128 * b2n (!(rbit s rStrap 5))))
  let half (a b : Nat) : Nat := if sm then b else a
  let s := setReg s 0x18 (BitVec.ofNat 64 (half 16 8 + half 8 4 * 2 ^ 8 + half 8 4 * 2 ^ 16 + half 64 32 * 2 ^ 24 + half 96 48 * 2 ^ 32
    + half 32 0 * 2 ^ 40 + 16 * 2 ^ 48))
  let s := setReg s 0x20 (BitVec.ofNat 64 (half 0xFF 0x87 + half 0xFF 0x87 * 2 ^ 8))
  let s := setReg s 0x28 (BitVec.ofNat 64 (32768 + 4096 * 2 ^ 16 + 1023 * 2 ^ 32 + (if hasSe s then 16 else 0) * 2 ^ 48 + 255 * 2 ^ 56))
  setReg s 0x30 (BitVec.ofNat 64 (half 0xFFFF 0x00FF + (if hasSe s then half 0xFFFF 0x00FF else 0) * 2 ^ 16))

/-- Step 6 is done once the table is complete: the capability registers are valid, and BOOT_STAGE goes on (R457, R503). -/
def tableDone (s : State) : State :=
  if rfld s rDevStatus 7 4 = 2 then
    (if (List.range 153).all (fun i => !(dieExpected s i) || dieValid s i) then showCaps (setRfld s rDevStatus 7 4 3) else s)
  else if 3 ≤ rfld s rDevStatus 7 4 then showCaps s
  else s

/-- FORMATS and FEATURES of a die in their places in word 1, by its role: a compute die's W4A8 bit by the stepping in its fuses (R8,
R30). -/
def recUnits (s : State) (i : Nat) : Nat :=
  if i < 64 then 0x3F * 2 ^ 16 + (if 1 ≤ fld (identWord s i) 3 0 then 2 ^ 22 else 0) + 0x3F * 2 ^ 23 + 2 ^ 32
  else if i < 80 then 2 ^ 33
  else if i < 144 then (if hasSe s then 0x3F * 2 ^ 23 + 2 ^ 32 else 0)
  else if i < 152 then (if small s then 0 else 2 ^ 33) + 2 ^ 34
  else 0

/-- Words 0 to 6 of a die's record: IDENT is its fused word, the rest what R30 and R31 fix and what its fuses, its training and the
calibration store make of it. Of the words sent only the makers' codes and the DRAM's refresh timing are the die's own. -/
def recWords (s : State) (i : Nat) (words : List Word) : List (Nat × Nat) :=
  let own (k hi lo : Nat) : Nat := fld (lget 0 words k) hi lo * 2 ^ lo
  (0, (identWord s i).toNat) :: (1, 0x01 + dieModules s i * 2 ^ 8 + recUnits s i) ::
  (if i < 64 then (3, rfld s (rHbmStatus (i / 4) (i % 4)) 31 0 + own 3 47 32) :: (4, (mget 0 s.fuses.opVolt i).toNat) :: spareWords s i
   else if 80 ≤ i ∧ i < 144 then
     [(2, own 2 15 0 + 16 * 2 ^ 16 + 64 * 2 ^ 24), (3, own 3 15 0 + own 3 31 16 + 85 * 2 ^ 32), (4, 0), (5, 0), (6, 0)]
   else if 144 ≤ i ∧ i < 152 then [(2, 8 + 12 * 2 ^ 8 + 20 * 2 ^ 16), (3, 0), (4, 0), (5, 0), (6, 0)]
   else [(2, 0), (3, 0), (4, 0), (5, 0), (6, 0)])

/-- CAPABILITY_RECORD: a die that is out of reset sends its record, and its entry becomes valid (R30, R31, R34). -/
def execCapabilityRecord (i : Nat) (words : List Word) (s : State) : Out :=
  guardWf (i < 153 && words.length == 8) (.next (
    let part := if i < 64 then some (i / 4) else if i < 80 then some (i - 64) else if i < 144 then some ((i - 80) / 4) else none
    let shut : Bool := match part with
      | some p => mfind s.partOut p == some 2
      | none => false
    if s.stage ≠ .up ∨ s.restarting ∨ shut ∨ !(dieExpected s i) ∨ dieValid s i then s
    else tableDone (setValid (capChange s i (recWords s i words)) i true)))

/-! ## Optical dies (R309, R328, R457, R463, R477) -/

/-- OPTICAL_DIE_READY: step 8 is done: every engine stands on its default port, or on a substitute for one that is not eligible; on
LCR-0800A always on its default port (R7, R310, R329). -/
def execOpticalDieReady (o : Nat) (s : State) : Out :=
  guardWf (o < 8) (.next (
    let x := getOpt s o
    if !(optPresent s o) ∨ s.stage ≠ .up ∨ s.restarting ∨ x.ready ∨ x.out.isSome ∨ !(dieValid s (144 + o)) then s
    else
      let want := (List.range 8).map (fun e => e / 2 * 3 + e % 2)
      let (m, bad) := if small s then (want, []) else applyMap s o want
      let s := setOpt s o { x with ready := true, want := want }
      let s := m.zipIdx.foldl (fun s e => setPort' s (8 * o + e.2) e.1) s
      checkReady (health (markPlanes s o bad))))

end Sys2Proof.Machine
end

