-- ==== Sys2Proof/Machine/Matrix.lean ====
section
/-! DEFINITION. The matrix arrays: claims, the matrix queue, runs and accumulator banks (R47 to R77). -/
namespace Sys2Proof.Machine

/-! ## Claims (R50, R51, R53) -/

/-- Arrays of a thread's own releases that still wait in the queue. -/
def relPending (c : CoreSt) (th : Nat) : BitVec 4 :=
  c.mq.foldl (fun m e => match e.2 with
    | .rel r => if e.1 = th then m ||| r else m
    | .renew r again => if e.1 = th then m ||| (r &&& ~~~ again) else m
    | _ => m) 0

/-- The queue once its thread has been granted arrays again that it has asked to release: each such release lets them stay (log entry
14). -/
def renewQueue (mq : List (Nat × MatOp)) (th : Nat) (m : BitVec 4) : List (Nat × MatOp) :=
  mq.map (fun e => match e.2 with
    | .rel r => if e.1 = th ∧ r &&& m ≠ 0 then (th, .renew r (r &&& m)) else e
    | .renew r again => if e.1 = th then (th, .renew r (again ||| (r &&& m))) else e
    | _ => e)

/-- A thread's claim as its next instruction sees it: what it holds less what it has asked to release (log entry 14). -/
def claimView (c : CoreSt) (th : Nat) : BitVec 4 := (getThread c th).claim &&& ~~~ (relPending c th)

/-- The arrays a mask names; 0 names the whole claim (R51). -/
def namedMask (view : BitVec 4) (m : Nat) : BitVec 4 := if m = 0 then view else BitVec.ofNat 4 m

/-- The named arrays lie in a claim that is not empty (R51). -/
def claimOk (view named : BitVec 4) : Bool := view != 0 && named &&& view == named

/-- Arrays as a grant leaves them: banks 0, bank 0 the fill bank, streams at base 0 and step 0 (R50); the flags stay until MSTAT clears
them (R66). -/
def grantArrays (c : CoreSt) (new : BitVec 4) : CoreSt :=
  { c with arrs := c.arrs.mapIdx (fun i a => if new.getLsbD i then { nan := a.nan, inf := a.inf, sat := a.sat, ovf := a.ovf } else a) }

/-- MCLAIM: in full or not at all, never waiting (R50). -/
def execMclaim (t : ThreadRef) (w : Word) (s : State) : Out :=
  issue .mclaim t w s (fun s x =>
    let k := tKey t
    let c := getCore s k
    let m := BitVec.ofNat 4 (imm w 3 0)
    let others := (List.range 16).foldl (fun a i => if i = t.th then a else a ||| (getThread c i).claim) 0#4
    if others &&& m ≠ 0 then fin s t (wrP x (wDst w) false)
    else
      let s := setCore s k (grantArrays { c with mq := renewQueue c.mq t.th m } (m &&& ~~~ x.claim))
      fin s t (wrP { x with claim := x.claim ||| m, mcfg := {} } (wDst w) true))

/-- An entry placed in the matrix queue, the thread past its instruction; a full queue of 16 holds the thread (R52). -/
def enqueue (s : State) (t : ThreadRef) (x : ThreadSt) (e : MatOp) : State :=
  let k := tKey t
  let c := getCore s k
  if c.mq.length ≥ 16 then s else fin (setCore s k { c with mq := c.mq ++ [(t.th, e)] }) t x

/-- A matrix instruction that names arrays: MATRIX_CLAIM outside the claim, else `k` on the arrays named (R51). -/
def withClaim (s : State) (t : ThreadRef) (m : Nat) (k : BitVec 4 → State) : State :=
  let v := claimView (getCore s (tKey t)) t.th
  if claimOk v (namedMask v m) then k (namedMask v m) else takeTrap s t .matrixClaim []

/-- MREL (R51, R53). -/
def execMrel (t : ThreadRef) (w : Word) (s : State) : Out :=
  issue .mrel t w s (fun s x => withClaim s t (imm w 3 0) (fun m => enqueue s t x (.rel m)))

/-! ## Configuration (R54, R56, R74) -/

/-- FP8 codes. -/
def isFp8 (f : Nat) : Bool := f == 0 || f == 1

/-- The operand pair of formats, accumulator and scales, if it is permitted (R56, R74). -/
def pairOf (a b : Nat) (int asc bsc : Bool) : Option Nat :=
  if isFp8 a && isFp8 b && !int && !asc && !bsc then some 1
  else if a == 2 && b == 2 && int && !asc && !bsc then some 2
  else if a == 3 && b == 3 && !int && asc && bsc then some 3
  else if a == 4 && b == 4 && int && !asc && !bsc then some 4
  else if a == 4 && b == 4 && !int && asc && bsc then some 5
  else if a == 5 && b == 5 && !int && !asc && !bsc then some 6
  else if isFp8 a && b == 3 && !int && !asc && bsc then some 7
  else if isFp8 a && b == 4 && !int && !asc && bsc then some 8
  else if isFp8 a && b == 7 && !int && !asc && !bsc then some 9
  else if isFp8 a && b == 6 && !int && !asc && !bsc then some 10
  else if a == 3 && b == 6 && !int && asc && !bsc then some 11
  else if a == 5 && (b == 6 || b == 7) && !int && !asc && !bsc then some 12
  else none

/-- Pairs that take two positions a step (R56). -/
def pairSteps (p : Nat) : Bool := p == 3 || p == 4 || p == 5 || p == 7 || p == 8 || p == 10 || p == 11

/-- The configuration MCFG asks for. -/
def cfgOf (w : Word) (cols : Word) : MatCfg :=
  { afmt := imm w 3 0, bfmt := imm w 7 4, int := imm w 8 8 == 1, ascale := imm w 9 9 == 1, bscale := imm w 10 10 == 1,
    rows := BitVec.ofNat 16 (imm w 31 16), cols := cols.setWidth 32 }

/-- The trap a configuration raises on a die (R4, R8, R56, R74). -/
def cfgTrap (s : State) (die : Nat) (c : MatCfg) : Option Trap :=
  match pairOf c.afmt c.bfmt c.int c.ascale c.bscale with
  | none => some .matrixFormat
  | some p =>
    if (p = 7 ∨ p = 8) ∧ !(dieW4a8 s die) then some .unsupported
    else if 9 ≤ p ∧ !(dieMedlar s die) then some .unsupported
    else none

/-- MCFG: the whole configuration is replaced, for the runs that follow (R52, R56, R74). -/
def execMcfg (t : ThreadRef) (w : Word) (s : State) : Out :=
  issue .mcfg t w s (fun s x => withClaim s t 0 (fun _ =>
    let c := cfgOf w (rd x (wA w))
    match cfgTrap s t.die c with
    | some q => takeTrap s t q []
    | none => enqueue s t { x with mcfg := c } .cfg))

/-- MSTREAM: base, step and position 0 for one stream of an array of the claim (R75). -/
def execMstream (t : ThreadRef) (w : Word) (s : State) : Out :=
  issue .mstream t w s (fun s x => withClaim s t (2 ^ imm w 1 0) (fun _ =>
    enqueue s t x (.stream (wMinor w) (imm w 1 0) ((rd x (wA w)).setWidth 16) ((rd x (wB w)).setWidth 16))))

/-- MRUN (R58, R72, R76). -/
def execMrun (t : ThreadRef) (w : Word) (s : State) : Out :=
  issue .mrun t w s (fun s x => withClaim s t 0 (fun m =>
    enqueue s t x (.run m x.mcfg (fld (rd x (wA w)) 31 0) (imm w 0 0 == 1))))

/-- MSWAP (R69). -/
def execMswap (t : ThreadRef) (w : Word) (s : State) : Out :=
  issue .mswap t w s (fun s x => withClaim s t (imm w 3 0) (fun m => enqueue s t x (.swap m)))

/-- MZERO (R69). -/
def execMzero (t : ThreadRef) (w : Word) (s : State) : Out :=
  issue .mzero t w s (fun s x => withClaim s t (imm w 3 0) (fun m => enqueue s t x (.zero (wMinor w == 1) m)))

/-- MSTAT: it joins the queue; its register is written when it retires (R77, R90). -/
def execMstat (t : ThreadRef) (w : Word) (s : State) : Out :=
  issue .mstat t w s (fun s x => withClaim s t 0 (fun m =>
    enqueue s t x (.stat m (wMinor w == 0) (BitVec.ofNat 5 (wDst w)))))

/-! ## Runs (R58, R59, R62 to R65, R71, R72, R76) -/

/-- Where a stream's group or block stands: BASE + n · STEP, signed step, modulo 65,536 (R58, R59). -/
def streamAddr (m : MStream) (n : Nat) : Nat := (((m.base.toNat : Int) + n * m.step.toInt) % 65536).toNat

/-- Element i, of w bits, of a little-endian group at a local-store address (R59). -/
def groupElem (c : CoreSt) (addr w i : Nat) : Nat :=
  let bit := w * i
  let v := lsRead c (addr + bit / 8) (if w = 16 then 2 else 1)
  v / 2 ^ (bit % 8) % 2 ^ w

/-- Element i of the k-slice at a position of an A or B stream that is not Medlar. -/
def sliceElem (c : CoreSt) (m : MStream) (fmt pos i : Nat) : FVal :=
  decElem fmt (groupElem c (streamAddr m pos) (elemWidth fmt) i)

/-- The scale byte i of the block that covers a position. -/
def scaleAt (c : CoreSt) (m : MStream) (pos i : Nat) : FVal := decE8M0 (lsGet c (streamAddr m (pos / 32) + i)).toNat

/-- Row i of the activation at a position of array a, with its scale. -/
def aVal (c : CoreSt) (g : MatCfg) (arr : ArraySt) (pos i : Nat) : FVal :=
  let v := sliceElem c arr.sA g.afmt pos i
  if g.ascale then fvMul v (scaleAt c arr.sAS pos i) else v

/-- Column j of the weights at a position, with its scale; a Medlar block decodes exactly (R55, R59). -/
def bVal (c : CoreSt) (g : MatCfg) (lead : ArraySt) (pos j : Nat) : FVal :=
  if g.bfmt = 6 ∨ g.bfmt = 7 then
    let f := if g.bfmt = 6 then 3 else 1
    let a := streamAddr lead.sB (pos / 32) + j * blkBytes f
    lget (.fin false 0 0) (decodeBlock f ((List.range (blkBytes f)).map (fun i => lsGet c (a + i)))) (pos % 32)
  else
    let v := sliceElem c lead.sB g.bfmt pos j
    if g.bscale then fvMul v (scaleAt c lead.sBS pos j) else v

/-- The exact sum of two values. -/
def fvAdd (x y : FVal) : FVal :=
  match x, y with
  | .nan _, _ => .nan false
  | _, .nan _ => .nan false
  | .inf a, .inf b => if a = b then .inf a else .nan false
  | .inf a, .fin _ _ _ => .inf a
  | .fin _ _ _, .inf b => .inf b
  | .fin a m e, .fin b n f =>
    let r := addExact a m e b n f
    .fin r.1 r.2.1 r.2.2

/-- An FP32 accumulator written once: its word is read as it stands, subnormals with it (R68); an exact zero is +0 (R63, R64). -/
def accFp (acc : Word32) (x : FVal) : Word32 × Cond :=
  match fvAdd (raw32 acc) x with
  | .fin a m e => if m = 0 then (0, {}) else round32 a m e
  | v => enc32 v

/-- An INT32 accumulator: exact, then clamped (R65). -/
def accInt (acc : Word32) (x : FVal) : Word32 × Cond :=
  match x with
  | .fin a m e =>
    let r := clampS 32 (acc.toInt + rneInt a m e)
    (BitVec.ofInt 32 r.1, r.2)
  | _ => (acc, {})

/-- One cell's step over the positions it takes: offsets from the run's first position (R62). -/
def cellStep (c : CoreSt) (g : MatCfg) (lead arr : ArraySt) (offs : List Nat) (i j : Nat) (acc : Word32) : Word32 × Cond :=
  let prods := offs.map (fun q => fvMul (aVal c g arr (arr.sA.pos + q) i) (bVal c g lead (lead.sB.pos + q) j))
  let sum := prods.foldl fvAdd (.fin false 0 0)
  if g.int then accInt acc sum else accFp acc sum

/-- A row's step: masked columns are neither read into nor written (R71). -/
def rowStep (c : CoreSt) (g : MatCfg) (lead arr : ArraySt) (offs : List Nat) (first : Bool) (i : Nat) (row : VReg) : VReg × Cond :=
  let r := (List.range 32).map (fun j =>
    if g.cols.getLsbD j then cellStep c g lead arr offs i j (if first then 0 else lane row j) else (lane row j, {}))
  (ofLanes (r.map (·.1)), r.foldl (fun k e => condOr k e.2) {})

/-- An array's step on its fill bank. -/
def bankStep (c : CoreSt) (g : MatCfg) (lead arr : ArraySt) (a : Nat) (offs : List Nat) (first : Bool) (b : Bank) : Bank × Cond :=
  (List.range 4).foldl (fun r i =>
    if g.rows.getLsbD (4 * a + i) then
      let q := rowStep c g lead arr offs first i (vget 0 r.1 i)
      (vset r.1 i q.1, condOr r.2 q.2)
    else r) (b, {})

/-- The positions of the next step: two in a pair mode from an even position, if the run holds both (R62). -/
def stepWidth (pair : Bool) (pos left : Nat) : Nat := if pair && pos % 2 == 0 && left ≥ 2 then 2 else 1

/-- The steps of a run on one array: `left` positions from offset `q`. -/
def runSteps (c : CoreSt) (g : MatCfg) (pair init : Bool) (lead arr : ArraySt) (a : Nat) :
    Nat → Nat → Nat → Bank → Cond → Bank × Cond
  | 0, _, _, b, k => (b, k)
  | fuel + 1, q, left, b, k =>
    if left = 0 then (b, k)
    else
      let n := stepWidth pair (lead.sB.pos + q) left
      let r := bankStep c g lead arr a (if n = 2 then [q, q + 1] else [q]) (init && q == 0) b
      runSteps c g pair init lead arr a fuel (q + n) (left - n) r.1 (condOr k r.2)

/-- An array after a run that raised conditions: sticky flags, positions advanced by K (R58, R66). -/
def runArray (c : CoreSt) (g : MatCfg) (init : Bool) (lead arr : ArraySt) (a n : Nat) : ArraySt × Cond :=
  let pair := match pairOf g.afmt g.bfmt g.int g.ascale g.bscale with
    | some p => pairSteps p
    | none => false
  let r := runSteps c g pair init lead arr a n 0 n (fillBank arr) {}
  let arr' := withFill arr r.1
  ({ arr' with nan := arr.nan || r.2.nan, inf := arr.inf || r.2.inf, sat := arr.sat || r.2.sat, ovf := arr.ovf || r.2.ovf,
               sA := { arr.sA with pos := arr.sA.pos + n } }, r.2)

/-- The lowest-numbered array of a mask. -/
def leadOf (m : BitVec 4) : Nat := ((List.range 4).find? (fun i => m.getLsbD i)).getD 0

/-- An MRUN's effect on its core: every array of the claim, each one's conditions counted, the lead array's B position
(R58, R66, R128). -/
def runCore (c : CoreSt) (m : BitVec 4) (g : MatCfg) (n : Nat) (init : Bool) : CoreSt × Cond :=
  if n = 0 then (c, {})
  else
    let l := leadOf m
    let lead : ArraySt := vget {} c.arrs l
    let r := (List.range 4).foldl (fun (r : CoreSt × Cond) a =>
      if m.getLsbD a then
        let q := runArray c g init lead (vget {} c.arrs a) a n
        (watch { r.1 with arrs := vset r.1.arrs a q.1 } q.2, condOr r.2 q.2)
      else r) (c, {})
    let la : ArraySt := vget {} r.1.arrs l
    ({ r.1 with arrs := vset r.1.arrs l { la with sB := { la.sB with pos := lead.sB.pos + n } } }, r.2)

/-! ## The queue -/

/-- MSTREAM's effect on an array (R75). -/
def setStream (a : ArraySt) (kind : Nat) (m : MStream) : ArraySt :=
  match kind with
  | 0 => { a with sA := m }
  | 1 => { a with sAS := m }
  | 2 => { a with sB := m }
  | _ => { a with sBS := m }

/-- A function applied to the arrays of a mask. -/
def onArrays (c : CoreSt) (m : BitVec 4) (f : ArraySt → ArraySt) : CoreSt :=
  { c with arrs := c.arrs.mapIdx (fun i a => if m.getLsbD i then f a else a) }

/-- Flags NAN, INF, SAT, OVF of an array as four bits. -/
def flagBits (a : ArraySt) : Nat := b2n a.nan + 2 * b2n a.inf + 4 * b2n a.sat + 8 * b2n a.ovf

/-- MSTAT's word (R77). -/
def statWord (c : CoreSt) (m : BitVec 4) : Word :=
  BitVec.ofNat 64 ((List.range 4).foldl (fun n a =>
    let x : ArraySt := vget {} c.arrs a
    n + (if m.getLsbD a then flagBits x * 2 ^ (4 * a) else 0) + b2n x.fill1 * 2 ^ (16 + a)) 0)

/-- What a queue entry does when it retires (R52, R53, R69, R77). -/
def retireEntry (c : CoreSt) (th : Nat) (e : MatOp) : CoreSt :=
  match e with
  | .rel m =>
    let x := getThread c th
    setThread c th { x with claim := x.claim &&& ~~~ m }
  | .renew m again =>
    let x := getThread c th
    setThread (grantArrays c again) th { x with claim := x.claim &&& ~~~ (m &&& ~~~ again) }
  | .cfg => c
  | .stream kind a b st => onArrays c (BitVec.ofNat 4 (2 ^ a)) (fun x => setStream x kind { base := b, step := st })
  | .run m g n init =>
    let r := runCore c m g n init
    setThread r.1 th (stick (getThread r.1 th) r.2)
  | .swap m => onArrays c m (fun x => { x with fill1 := !x.fill1 })
  | .zero drain m => onArrays c m (fun x => if drain then withDrain x (Vector.replicate 4 0) else withFill x (Vector.replicate 4 0))
  | .stat m clear d =>
    let c' := setThread c th (wr (getThread c th) d.toNat (statWord c m))
    if clear then onArrays c' m (fun x => { x with nan := false, inf := false, sat := false, ovf := false }) else c'

/-- A run of one position or more takes no step while every cycle of its cluster is gated (R72, R84, R406). -/
def isRun (e : MatOp) : Bool := match e with
  | .run _ _ n _ => n != 0
  | _ => false

/-- MATRIX_QUEUE_RETIRE: the oldest entry takes effect and leaves (R52, R53). -/
def execMatrixQueueRetire (c : CoreRef) (s : State) : Out :=
  guardWf (coreWf c) (.next (
    let k := coreKey c.die c.cl c.core
    let x := getCore s k
    match x.mq with
    | [] => s
    | (th, e) :: q =>
      if isRun e && pauseOf s (clKey c.die c.cl) == 16 then s
      else setCore s k (releaseDead (retireEntry { x with mq := q } th e))))

end Sys2Proof.Machine
end

