-- ==== Sys2Proof/Machine/Phases.lean ====
section
/-! DEFINITION. Group contexts armed and disarmed, and steered phase boundaries (R372, R373, R376 to R378). -/
namespace Sys2Proof.Machine

/-! ## Group contexts (R372, R373) -/

/-- A context's word set. -/
def setGrpWord (s : State) (p g i : Nat) (v : Word) : State :=
  let h := getHub s p
  let x : Grp := mget {} h.grp g
  setHub s p { h with grp := mput g { x with words := lset x.words i v } h.grp }

/-- READY = 1 refused: ERR with its code. -/
def grpRefuse (s : State) (p g : Nat) (st : Status) : State :=
  setGrpWord s p g 0 (setBit (setBit (setFld (grpWord s p g 0) 31 24 (stCode st)) 20 true) 19 false)

/-- The presets that ask for steering, in the order of their phases. -/
def presetsOn (s : State) (p g : Nat) : List (Nat × Nat) :=
  (List.range 7).filterMap (fun k => (presetOf s p g k).map (fun q => (k, q)))

/-- A change between two consecutive presets moves a tensor engine coded as in R298. -/
def uplinkMoves (s : State) (egr : Nat) (ps : List (Nat × Nat)) : Bool :=
  if 0x40 ≤ egr ∧ egr < 0x80 then
    let o := (egr - 0x40) / 8
    let at_ (q : Nat) : Nat := lget 15 (presetMap s o q) (egr % 8)
    (ps.zip (ps.drop 1)).any (fun ab => at_ ab.1.2 != at_ ab.2.2)
  else false

/-- The third check of R373, on a context's words and the entries of its table; its fields must lie in their ranges (R372). -/
def grpSound (s : State) (p g : Nat) (es : List Nat) : Bool :=
  let n := es.length
  let nd := grpFld s p g 2 23 20
  let ext := (List.range nd).map (fun (d : Nat) => grpFld s p g 3 (16 * d + 15) (16 * d))
  let me := lget 0 es (grpFld s p g 2 16 0)
  let pkgs := (es.map memPkg).eraseDups
  let prod := ext.foldl (· * ·) 1
  let ps := presetsOn s p g
  let t := grpFld s p g 2 31 24
  1 ≤ n && n ≤ 65536 && 1 ≤ nd && nd ≤ 4 && ext.all (fun e => 1 ≤ e && e ≤ 4096) && grpFld s p g 2 19 17 ≤ 6 && grpFld s p g 2 16 0 < n
    && membersOk es && memPkg me == pkgNum s && memPart me == p
    && pkgs.all (fun q => (pkgs.filter (fun x => x / 4096 == q / 4096)).length == prod)
    && ps.all (fun e => e.1 < 2 * nd - 1)
    && (List.range 8).all (fun o => grpFld s p g 5 (16 + o) (16 + o) == 0 || optPresent s o)
    && (grpFld s p g 2 32 32 == 0 || (treeValid s t && (treeRoot s t || !(uplinkMoves s (treeFld s t 1 7 0) ps))))

/-- READY = 1 written: the table is read and checked (R373). -/
def armGroup (s : State) (p g : Nat) : State :=
  let base := (grpWord s p g 1).toNat
  let n := grpFld s p g 0 48 32
  if small s ∧ !(presetsOn s p g).isEmpty then grpRefuse s p g .unsupported
  else match (getHub s p).rings.find? (fun r => r.2.comm && r.2.group == g && r.2.state != .free) with
    | none => s
    | some (_, r) =>
      match tvaReadList s { ringWho s p r with port := 0x42 } (n / 8 + 2) base (8 * n) with
        | (.ok, l, s) =>
          let es := (List.range n).map (fun i => bytesAt l (8 * i) 8)
          if base % 64 ≠ 0 ∨ !(grpSound s p g es) then grpRefuse s p g .badDesc
          else
            let s := setGrpWord s p g 0 (setBit (setFld (setBit (grpWord s p g 0) 20 false) 31 24 0) 19 true)
            let h := getHub s p
            setHub s p { h with grp := mput g { (mget ({} : Grp) h.grp g) with members := es, disarm := false } h.grp }
        | (st, _, s) => grpRefuse s p g st

/-- READY = 0 written: at once, or when the ring's collectives have completed (R373). -/
def disarmGroup (s : State) (p g : Nat) : State :=
  let h := getHub s p
  let x : Grp := mget {} h.grp g
  if (lget 0 x.words 0).getLsbD 19 then settleGroup (setHub s p { h with grp := mput g { x with disarm := true } h.grp }) p g else s

/-- A write of word i of the selected context (R372): discarded while nothing holds the context, and words 1 to 6 while it is armed. -/
def grpWrite (s : State) (p i : Nat) (v : Word) : State :=
  let g := rfld s (rGrpSel p) 11 0
  let masks : List Word := [0, BitVec.allOnes 64, 0x7FFFFFFFFF#64, BitVec.allOnes 64, 0x008F8F8F8F8F8F8F#64, 0xFFFFFF#64, 0xFFFFFFFF#64, 0]
  if grpFld s p g 0 18 18 = 0 then s
  else if i = 0 then
    let s := setGrpWord s p g 0 (setFld (grpWord s p g 0) 48 32 (fld v 48 32))
    if v.getLsbD 19 then armGroup s p g else disarmGroup s p g
  else if grpFld s p g 0 19 19 = 1 then s
  else
    let m := lget 0 masks i
    setGrpWord s p g i ((grpWord s p g i &&& ~~~ m) ||| (v &&& m))

/-- GROUP_READY: a write of GRP_CTX_0, which arms the context with READY = 1 (R373). -/
def execGroupReady (tenant p : Nat) (v : Word) (s : State) : Out :=
  guardWf (p < 16) (adminCmd s tenant (rGrpSel p + 0x40) (fun s => grpWrite s p 0 v))

/-- GROUP_DISARM: a write of GRP_CTX_0, which disarms the context with READY = 0 (R373). -/
def execGroupDisarm (tenant p : Nat) (v : Word) (s : State) : Out :=
  guardWf (p < 16) (adminCmd s tenant (rGrpSel p + 0x40) (fun s => grpWrite s p 0 v))

/-! ## Steered boundaries (R376 to R378) -/

/-- An instance's member has finished every chunk of the phase before boundary k. -/
def phaseDone (s : State) (p : Nat) (c : Coll) (k : Nat) : Bool :=
  nearJoined c && (k = 0 ||
    (let lvl := min (3 + (k - 1)) (topLevel c)
     (List.range (chunks c)).all (fun ch =>
       if reduces c.opc then collHas s p c ch lvl c.rank
       else (grpRanks c lvl c.rank).all (fun j =>
         (movePart c c.rank j ch).2.1 == 0 || (heldAt c 0 j ch).isSome || (findColl s p c.key j).isSome))))

/-- A request made at a die that is up, up to four times, T 10 µs later each time it is refused with BAD_DESC or NO_RESOURCE (R378): the
last answer and its T. -/
def steerTries (s : State) (o dom preset : Nat) : Nat → Nat → Status × Nat × State
  | 0, t => (.badDesc, t, s)
  | n + 1, t =>
    if !(optUp s o) then (.linkLost, t, s)
    else match steerRequest s o (some dom) preset t with
    | (.ok, s) => (.ok, t, s)
    | (st, s) => if (st = .badDesc ∨ st = .noResource) ∧ n ≠ 0 then steerTries s o dom preset n (t + 10000) else (st, t, s)

/-- PHASE_BOUNDARY: the steering member requests the next preset on its dies; the package's members go on 5 µs after T, or on
the map in force where a die refused (R377, R378). -/
def execPhaseBoundary (p inst : Nat) (s : State) : Out :=
  guardWf (p < 16) (.next (
    match getColl s p inst with
    | none => s
    | some c =>
      match c.grp, nextSteered s p c, steeringMember s c.key.ident with
      | some g, some (k, q), some (sp, sg, _) =>
        let all := keyColls s c.key
        if c.onTree ∨ c.resume.isSome ∨ c.barrier ∨ sp ≠ p ∨ sg ≠ g ∨ !(all.all (fun x => phaseDone s x.1 x.2.2 k)) then s
        else
          let t := s.timebase + 1000 * max 30 (grpFld s p g 5 15 0)
          let dies := (List.range 8).filter (fun o => grpFld s p g 5 (16 + o) (16 + o) == 1)
          let r := dies.foldl (fun (a : Nat × Option Status × State) o =>
            match steerTries a.2.2 o c.key.domain q 4 t with
            | (.ok, t, s) => (max a.1 (t + 5000), a.2.1, s)
            | (st, _, s) => (a.1, some st, s)) (s.timebase, none, s)
          let s := match r.2.1 with
            | some st => emit r.2.2 0x0047 (srcHub p) [(1, q), (1, stCode st)]
            | none => r.2.2
          all.foldl (fun s x =>
            let s := if r.2.1.isSome then collFlags s x.1 x.2.2.op 64 else s
            setColl s x.1 x.2.1 { x.2.2 with
              phase := k + 1, preset := if r.2.1.isSome then x.2.2.preset else some q, resume := some r.1,
              barrier := (x.2.2.grp.map (fun g => grpFld s x.1 g 2 32 32 == 1)).getD false }) s
      | _, _, _ => s))

end Sys2Proof.Machine
end

