-- ==== Sys2Proof/Machine/StepRows.lean ====
section
/-! DEFINITION. Steps: opening and protecting, committing and the signature, aborting, replaying (R271 to R273, R429 to R439). -/
namespace Sys2Proof.Machine

/-! ## Range tables (R271) -/

/-- A range of a table: base TVA and length. -/
structure Range where
  base : Nat
  len : Nat
  deriving DecidableEq, Repr

/-- The ranges that a table's bytes spell. -/
def rangesOf (n : Nat) (bytes : List (BitVec 8)) : List Range :=
  (List.range n).map (fun i => ⟨bytesAt bytes (16 * i) 8, bytesAt bytes (16 * i + 8) 8⟩)

/-- A range table read: BAD_DESC where its place, its count or a length breaks the layout; the read's status where it fails. -/
def readRanges (s : State) (w : Who) (addr n : Nat) : Status × List Range × State :=
  if addr % 16 ≠ 0 ∨ n > 64 ∨ (n = 0 ∧ addr ≠ 0) then (.badDesc, [], s)
  else match tvaReadList s w 32 addr (16 * n) with
    | (.ok, bs, s) =>
      let rs := rangesOf n bs
      if rs.any (fun r => r.len == 0) then (.badDesc, [], s) else (.ok, rs, s)
    | (st, _, s) => (st, [], s)

/-! ## STEP_BEGIN (R429, R430) -/

/-- A piece of a range on one page: its global address and length, or nothing where it may not be read. -/
def pageMayRead (s : State) (w : Who) (ga : Nat) : Bool :=
  match homeOf s ga with
  | .remote => true
  | .mem p off => ownPass s w p off false
  | .counter p _ => ownPass s w p winBase false
  | _ => false

/-- The global pieces of a range, page by page of 2 MiB; ACCESS where a page fails translation or its read check. -/
def rangePieces (s : State) (w : Who) : Nat → Nat → Nat → Status × List (Nat × Nat) × State
  | 0, _, _ => (.ok, [], s)
  | fuel + 1, tva, n =>
    if n = 0 then (.ok, [], s)
    else
      let m := min n (2 ^ 21 - tva % 2 ^ 21)
      match hubTranslate s w tva .read with
      | (.ok, ga, _, s) =>
        if !(pageMayRead s w ga) then (.access, [], s)
        else
          let (st, l, s) := rangePieces s w fuel (tva + m) (n - m)
          (st, (ga, m) :: l, s)
      | (_, _, _, s) => (.access, [], s)

/-- Maximal runs of contiguous global addresses in one partition. -/
def mergeRuns : List (Nat × Nat) → List (Nat × Nat)
  | [] => []
  | (g, n) :: rest =>
    match mergeRuns rest with
    | (h, m) :: more => if g + n = h ∧ g / 2 ^ 44 = h / 2 ^ 44 then (g, n + m) :: more else (g, n) :: (h, m) :: more
    | [] => [(g, n)]

/-- The runs of every range, in table order. -/
def allRuns (s : State) (w : Who) : List Range → Status × List (Nat × Nat) × State
  | [] => (.ok, [], s)
  | r :: rs =>
    match rangePieces s w (r.len / 2 ^ 21 + 2) r.base r.len with
    | (.ok, l, s) =>
      let (st, more, s) := allRuns s w rs
      (st, mergeRuns l ++ more, s)
    | (st, _, s) => (st, [], s)

/-- Protection entries in use in hub q (R430, STEP_STAT.PROT_USED). -/
def protUsed (s : State) (q : Nat) : Nat :=
  s.hubs.foldl (fun a h => h.2.steps.foldl (fun a st => a + (st.2.prot.filter (fun r => r.1 == q)).length) a) 0

/-- STEP_BEGIN: the first of R430's conditions that holds. -/
def beginStep (s : State) (p k : Nat) (o : Op) : State :=
  let d := o.desc
  let r := getRing s p o.ring
  let fail (s : State) (st : Status) : State :=
    finishUnit (setRing s p o.ring { getRing s p o.ring with skipStep := true }) p k st
  if (getHub s p).steps.any (fun e => e.2.tenant == o.tenant && e.2.stepId == dStep d) then fail s .badDesc
  else match readRanges s (opWho s p k o) (dWord d 2).toNat (dFld d 3 6 0) with
    | (.ok, rs, s) =>
      (match allRuns s (opWho s p k o) rs with
       | (.ok, runs, s) =>
         let prot := runs.map (fun g => (g.1 / 2 ^ 44 % 16, g.1 % 2 ^ 44, g.2))
         if runs.any (fun g => g.1 / 2 ^ 48 != pkgNum s) then fail s .badDesc
         else if (getHub s p).steps.length ≥ 1024 ∨
             (List.range 16).any (fun q => protUsed s q + (prot.filter (fun e => e.1 == q)).length > 16384) then fail s .noResource
         else
           let h := getHub s p
           let x : StepSt :=
             { tenant := o.tenant, stepId := dStep d, ring := o.ring, first := d.n, prot := prot,
               commit := (r.fetched.find? (fun e => dOpc e == 0x11)).map (·.n),
               exempt := (ringOps s p o.ring).filterMap (fun e => if e.1 = k then none else some e.1) }
           let s := setHub s p { h with steps := mput h.nextStep x h.steps, nextStep := h.nextStep + 1 }
           finishUnit (setRing s p o.ring { getRing s p o.ring with step := some h.nextStep }) p k .ok
       | (st, _, s) => fail s st)
    | (st, _, s) => fail s st

/-- STEP_BEGIN. -/
def execStepBegin (p op : Nat) (s : State) : Out := onChosen s p op 0x10 (fun o => beginStep s p op o)

/-! ## STEP_COMMIT (R431, R439) -/

/-- The bytes of the output ranges in table order. -/
def rangeBytes (s : State) (w : Who) : List Range → Status × List (BitVec 8) × State
  | [] => (.ok, [], s)
  | r :: rs =>
    match tvaReadList s w (r.len / 64 + 2) r.base r.len with
    | (.ok, l, s) =>
      let (st, more, s) := rangeBytes s w rs
      (st, l ++ more, s)
    | (st, _, s) => (st, [], s)

/-- What a STEP_COMMIT of an open step finds: its status, DONE_UNITS and FIRST_FAIL (R277, R439). -/
def commitEnd (s : State) (w : Who) (d : Desc) : Status × Nat × Nat × State :=
  match readRanges s w (dWord d 2).toNat (dFld d 3 6 0) with
  | (.ok, rs, s) =>
    if dFld d 3 7 7 = 0 then (.ok, 1, 0, s)
    else match rangeBytes s w rs with
      | (.ok, l, s) => (.ok, dFld d 3 6 0, (crc32c l).toNat, s)
      | (st, _, s) => (st, 0, 0, s)
  | (st, _, s) => (st, 0, 0, s)

/-- STEP_COMMIT: REPLAY_REQ in a failed step; else the step commits and closes, or becomes FAILED (R431, R437). -/
def commitStep (s : State) (p k : Nat) (o : Op) : State :=
  match o.step with
  | none => finishUnit s p k .badDesc
  | some key =>
    match getStep s p key with
    | none => finishUnit s p k .aborted
    | some x =>
      if x.state ≠ .open_ then finishUnit s p k .replayReq
      else
        match commitEnd (setStep s p key { x with state := .committing }) (opWho s p k o) o.desc with
        | (.ok, done, ff, s) => closeStep (finishRaw s p k .ok done ff) p key
        | (st, _, _, s) => setFailed (finishRaw s p k st 0 0) p key
where
  /-- The step stands as FAILED. -/
  setFailed (s : State) (p key : Nat) : State :=
    match getStep s p key with
    | some y => setStep s p key { y with state := .failed }
    | none => s

/-- STEP_COMMIT. -/
def execStepCommit (p op : Nat) (s : State) : Out := onChosen s p op 0x11 (fun o => commitStep s p op o)

/-! ## STEP_ABORT and STEP_REPLAY (R434 to R437) -/

/-- The step that a STEP_ABORT or STEP_REPLAY names, or the status with which it is refused. -/
def namedStep (s : State) (p : Nat) (o : Op) : Status × Nat × Nat :=
  let qid := o.tenant * 512 + dFld o.desc 2 8 0
  if (getRing s p o.ring).qid = qid then (.badDesc, 0, 0)
  else match ringOf s qid with
    | none => (.badDesc, 0, 0)
    | some (q, _, r) =>
      if !(partUp s q) then (.linkLost, 0, 0)
      else match r.step with
        | none => (.badDesc, 0, 0)
        | some key =>
          match getStep s q key with
          | some x => if x.stepId = dStep o.desc then (.ok, q, key) else (.badDesc, 0, 0)
          | none => (.badDesc, 0, 0)

/-- STEP_ABORT (R436). -/
def execStepAbort (p op : Nat) (s : State) : Out :=
  onChosen s p op 0x12 (fun o =>
    match namedStep s p o with
    | (.ok, q, key) => abortStep (setOp s p op { o with phase := .running }) q key (some (p, op))
    | (st, _, _) => finishUnit s p op st)

/-- STEP_REPLAY: accepted in FAILED, its STEP_COMMIT fetched, replayed fewer than 15 times (R434). -/
def execStepReplay (p op : Nat) (s : State) : Out :=
  onChosen s p op 0x13 (fun o =>
    match namedStep s p o with
    | (.ok, q, key) =>
      (match getStep s q key with
       | none => finishUnit s p op .badDesc
       | some x =>
         if x.state ≠ .failed ∨ x.commit.isNone then finishUnit s p op .badDesc
         else if x.attempt ≥ 15 then finishUnit (emit s 0x0061 (srcHub q) [(4, x.stepId)]) p op .noResource
         else
           let s := setStep s q key { x with state := .open_, attempt := x.attempt + 1, committed := false, replayPending := true }
           let h := getHub s q
           finishUnit (setHub s q { h with replays := min (h.replays + 1) (2 ^ 32 - 1) }) p op .ok)
    | (st, _, _) => finishUnit s p op st)

/-- Members read again from their slots, in ring order (R435). -/
def rereadSlots (s : State) (p ctx : Nat) : Nat → Nat → Status × List Desc × State
  | 0, _ => (.ok, [], s)
  | k + 1, n =>
    match readSlot s p ctx n with
    | (.ok, ws, s) =>
      let (st, ds, s) := rereadSlots s p ctx k ((n + 1) % 2 ^ 32)
      (st, { n := n, words := ws, replay := true } :: ds, s)
    | (st, _, s) => (st, [], s)

/-- STEP_REEXECUTION: a replayed step's members, and its STEP_COMMIT, stand again before what its ring has fetched (R434, R435). -/
def execStepReexecution (p key : Nat) (s : State) : Out :=
  guardWf (p < 16) (.next (
    match getStep s p key with
    | none => s
    | some x =>
      if !x.replayPending then s
      else
        let n0 := (x.first + 1) % 2 ^ 32
        let count := ((x.commit.getD x.first) + 2 ^ 32 - n0) % 2 ^ 32 + 1
        match rereadSlots s p x.ring count n0 with
        | (.ok, ds, s) =>
          let r := getRing s p x.ring
          setRing (setStep (forgetSince s p x.ring) p key { x with replayPending := false }) p x.ring { r with fetched := ds ++ r.fetched }
        | (_, _, s) => ringError s p x.ring 1))

end Sys2Proof.Machine
end

