-- ==== Sys2Proof/Machine/Bar0.lean ====
section
/-! DEFINITION. What software reads: the cause tree and INT_N, BAR0, the tenant status pages (R5, R280, R282, R452, R462, R480 to R484, R496, R499, R500). -/
namespace Sys2Proof.Machine

/-! ## The cause tree (R480 to R484) -/

/-- Rings bound to a partition. -/
def boundRings (s : State) (p : Nat) : List Ring := ((getHub s p).rings.filter (fun (c : Nat × Ring) => c.2.state != .free)).map (fun c => c.2)

/-- A ring's leaf of kind k as its parents see it: behind INT_EN for NOTIFY, behind its mask for the others. -/
def ringLeaf (s : State) (k : Nat) (r : Ring) : Bool :=
  let t := ringTenant r
  let n := ringNo r
  rbit s (rTenLeaf t k (n / 64)) (n % 64) &&
  (if k = 0 then r.intEn else !(rbit s (tBase t + 0xC0 + 0x40 * k + 8 * (n / 64)) (n % 64)))

/-- INT_TG_k_g of a partition. -/
def groupReg (s : State) (p k g : Nat) : Nat :=
  bitsOver 32 (fun j => (boundRings s p).any (fun r => ringTenant r == 32 * g + j && ringLeaf s k r))

/-- INT_L1_s: leaves as they stand, group bits from level 2. -/
def intL1 (s : State) (src : Nat) : Nat :=
  (reg s (rIntL1 src)).toNat +
  (if src < 16 then
    bitsOver 48 (fun b =>
      groupReg s src (b / 16) (b % 16) &&& (reg s (pBase src + 0x2008 + 0x100 * (b / 16) + 16 * (b % 16)) ^^^ 0xFFFFFFFF#64).toNat != 0)
   else 0)

/-- INT_SUM. -/
def intSum (s : State) : Nat :=
  bitsOver 33 (fun src => (BitVec.ofNat 64 (intL1 s src) &&& ~~~ (reg s (rIntL1Mask src))) != 0)

/-- INT_N is asserted. -/
def intN (s : State) : Bool := (BitVec.ofNat 64 (intSum s) &&& ~~~ (reg s rIntMask)) != 0

/-- A tensor link is DOWN and its port receives light. -/
def downLit (s : State) (eng : Nat) : Bool :=
  linkState s eng == 6 && engPort s eng < 12 && rbit s (rPortStatus (eng / 8)) (16 + engPort s eng)

/-- GPIO_0 to GPIO_3 (R530). GPIO_1 follows the seconds of TIMEBASE while the firmware runs; its phase is the model's choice (log
entry 60). -/
def gpioOut (s : State) : Nat :=
  b2n (rbit s rDevStatus 0) + 2 * ((if s.restarting then s.fwSt.since else s.timebase) / 1000000000 % 2) + 4 * b2n (rbit s rPwrStatus 48) + 8 * b2n ((List.range 64).any (fun e => downLit s e))

/-! ## BAR0 -/

/-- Word i of a record of the history that EVT_HIST_SEL selects (R487). -/
def histWord (s : State) (i : Nat) : Word :=
  BitVec.ofNat 64 (fld (mget (0 : BitVec 512) s.hist (256 * rfld s 0x60028 3 0 + i / 8)) (64 * (i % 8) + 63) (64 * (i % 8)))

/-- A word of the DIE_CAP table: page 1 of the compute dies where DIE_CAP_PAGE selects it (R30, R503). -/
def capWord (s : State) (i w : Nat) : Word :=
  if rbit s rDieCapPage 0 && i < 64 && w != 0 && w != 7 then
    (if w = 2 then
      BitVec.ofNat 64 ((List.range 8).foldl (fun m c => m + min 15 (coreSpares s i (physCluster s i (32 + c))) * 16 ^ c) 0)
     else 0)
  else reg s (rDieCap i w)

/-- STEP_STAT of a partition (R437). -/
def stepStat (s : State) (p : Nat) : Nat :=
  let h := getHub s p
  h.steps.length + protUsed s p * 2 ^ 11 + min (2 ^ 32 - 1) h.replays * 2 ^ 32

/-- A register of a partition block that is not held as it reads. -/
def partRegRead (s : State) (p o : Nat) : Option Word :=
  if 0x2000 ≤ o ∧ o < 0x2300 ∧ o % 16 = 0 then some (BitVec.ofNat 64 (groupReg s p ((o - 0x2000) / 0x100) (o % 0x100 / 16)))
  else if 0x20010 ≤ o ∧ o < 0x20030 then
    let d := 4 * p + (o - 0x20010) / 8
    some (BitVec.ofNat 64 (bitsOver 42 (fun c => !((servingClusters s d).contains c))))
  else if 0x40040 ≤ o ∧ o < 0x40080 then some (grpWord s p (rfld s (rGrpSel p) 11 0) ((o - 0x40040) / 8))
  else if o = 0x60000 then some (BitVec.ofNat 64 (stepStat s p))
  else if 0x74000 ≤ o ∧ o < 0x78000 then
    let i := 4096 * rfld s (rOwnSel p) 6 0 + (o - 0x74000) / 4
    let e (j : Nat) : Nat := if j ≤ 360448 then (ownEntry s p j).toNat else 0
    some (BitVec.ofNat 64 (e i + e (i + 1) * 2 ^ 32))
  else none

/-- A register as it reads, by its offset, a multiple of 8; 0 where no table defines one (R499). -/
def regRead (s : State) (off : Nat) : Word :=
  match blockOf off with
  | (.part p, o) => (partRegRead s p o).getD (reg s off)
  | (.pkg, _) =>
    if off = 0x10000 then BitVec.ofNat 64 (intSum s)
    else if 0x10100 ≤ off ∧ off < 0x10310 ∧ off % 16 = 0 then BitVec.ofNat 64 (intL1 s ((off - 0x10100) / 16))
    else if off = rTimebase then BitVec.ofNat 64 s.timebase
    else if off = rEpochDrain then BitVec.ofNat 64 (min (2 ^ 32 - 1) (oldPackets s))
    else if off = rEvtStatus then
      setBit (setFld (reg s off) 10 0 s.evFifo.length) 11 (!s.evDrops.isEmpty)
    else if 0x64000 ≤ off ∧ off < 0x68000 then histWord s ((off - 0x64000) / 8)
    else if 0x4000 ≤ off ∧ off < 0x6640 then capWord s ((off - 0x4000) / 64) (off % 64 / 8)
    else if off = rDbgCtl then setBit (reg s off) 8 (anyHalted s)
    else reg s off
  | _ => reg s off

/-- Bytes of an access that stand in a 64-bit register. -/
def half (off size : Nat) (v : Word) : Word :=
  if size = 8 then v else BitVec.ofNat 64 (if off % 8 = 0 then fld v 31 0 else fld v 63 32)

/-- All ones of an access. -/
def allOnesOf (size : Nat) : Word := BitVec.ofNat 64 (2 ^ (8 * size) - 1)

/-- A BAR0 read of `size` bytes. -/
def readBar0 (s : State) (off size : Nat) : Word :=
  if s.stage = .halted then
    (if (size = 4 ∨ size = 8) ∧ off % size = 0 ∧ (off / 8 * 8 = rDevId ∨ off / 8 * 8 = 0x8 ∨ off / 8 * 8 = rIdentStatus ∨ off / 8 * 8 = 0x48
        ∨ off / 8 * 8 = rDevStatus) then half off size (reg s (off / 8 * 8))
     else allOnesOf size)
  else if !(bar0Open s) then allOnesOf size
  else if !((size == 4 || size == 8) && off % size == 0) then 0
  else match blockReach s (blockOf off).1 with
    | .absent => 0
    | .open_ => half off size (regRead s (off / 8 * 8))
    | _ => allOnesOf size

/-! ## Tenant status pages (R282) -/

/-- Rings of a tenant in ERROR. -/
def errRing (s : State) (t n : Nat) : Bool :=
  match ringOf s (512 * t + n) with
  | some (_, _, r) => r.state == .error
  | none => false

/-- R280 reduces a tenant's guarantee in a partition. -/
def guarReduced (s : State) (p t : Nat) : Bool :=
  let g := fld (qosOf s p t) 15 8
  0 < g && effGuar s p t (coresInService s p) < 75 * g

/-- Word at an offset of a tenant's status page. -/
def statusPage (s : State) (t off : Nat) : Word :=
  if off = 0 then
    let red := bitsOver (nParts s) (fun p => guarReduced s p t)
    BitVec.ofNat 64 (b2n (red != 0) + 2 * b2n ((List.range 512).any (errRing s t)) + red * 2 ^ 16)
  else if 0x40 ≤ off ∧ off < 0x80 then reg s (rTenLeaf t 0 ((off - 0x40) / 8))
  else if 0x80 ≤ off ∧ off < 0xC0 then BitVec.ofNat 64 (bitsOver 64 (fun b => errRing s t ((off - 0x80) * 8 + b)))
  else if 0x100 ≤ off ∧ off < 0x158 then BitVec.ofNat 64 (mget 0 s.idle (16 * t + (off - 0x100) / 8))
  else 0

end Sys2Proof.Machine
end

