-- ==== Sys2Proof/Machine/RegWrite.lean ====
section
/-! DEFINITION. BAR0 writes of any size to any register, each by its own rule (R5, R7, R251 to R253, R255, R372, R387, R487, R496 to R499, R504). -/
namespace Sys2Proof.Machine

/-- What an 8-byte write of the whole register would carry: rw bits that the access does not reach keep their value, and no w1c, w1s
or wo bit acts there (R496). -/
def carried (d : RegDesc) (old v en : Word) : Word := (old &&& BitVec.ofNat 64 d.rw &&& ~~~ en) ||| (v &&& en)

/-- A write of PKG_NUM: the first one counts (R504). -/
def pkgNumSet (s : State) (v en : Word) : State :=
  if rbit s rPkgNum 16 ∨ en &&& 0xFFFF#64 = 0 then s
  else setRbit (setReg s rPkgNum (writeBits { base := rPkgNum, rw := 0xFFFF } (reg s rPkgNum) v en)) rPkgNum 16 true

/-- A write of TEN_CFG: refused where it changes the entry of a tenant with rings (R251). -/
def tenCfgWrite (s : State) (tenant t : Nat) (v : Word) : State :=
  let new := writeBits { base := 0, rw := 0xF1 } (reg s (rTenCfg t)) v (BitVec.allOnes 64)
  if new ≠ reg s (rTenCfg t) ∧ rfld s (rTenState t) 9 0 ≠ 0 then writeRefused s (rTenCfg t) tenant
  else setReg s (rTenCfg t) new

/-- A write of PART_CFG: refused where it changes the domain of a partition with rings (R253). -/
def partCfgWrite (s : State) (tenant p : Nat) (v : Word) : State :=
  if fld v 3 0 ≠ partDomain s p ∧ !(boundRings s p).isEmpty then writeRefused s (rPartCfg p) tenant
  else writeReg s (rPartCfg p) v

/-- A write of the ownership window: entries 2j and 2j + 1 of the window, as far as the access reaches; a position beyond the table is
discarded (R231). -/
def ownWrite (s : State) (p j : Nat) (v en : Word) : State :=
  let i := 4096 * rfld s (rOwnSel p) 6 0 + 2 * j
  let put (s : State) (i lo : Nat) : State :=
    if i > 360448 ∨ !(en.getLsbD lo) then s
    else
      let h := getHub s p
      setHub s p { h with own := mput i (BitVec.ofNat 32 (fld v (lo + 21) lo)) h.own }
  put (put s i 0) (i + 1) 32

/-- A write of a word of a CUR_TREE entry: words 1 and 2 only while VALID is 0 (R387). -/
def treeWrite (s : State) (t w : Nat) (v : Word) : State :=
  if w = 0 then treeWrite0 s t v
  else if treeValid s t then s
  else writeReg s (rCurTree t w) v

/-- A write of a word of a connection: words 1 to 3 only while VALID is 0 (R361). -/
def connWrite (s : State) (g i w : Nat) (v : Word) : State :=
  if w = 0 then connWrite0 s g i v
  else if connValid s g i then s
  else writeReg s (rGpConn g i w) v

/-- A package register written, the bits of `en`: `v` is what `carried` gives. -/
def pkgWrite (s : State) (tenant off : Nat) (v en : Word) : State :=
  if off = rPkgNum then pkgNumSet s v en
  else if off = rRefclk then (if en.getLsbD 3 then preferWrite s v else s)
  else if off = rRstCmd then rstCmdWrite s tenant v
  else if off = rEpochPrepare then (if en.getLsbD 0 then prepareWrite s (fld v 31 0) else s)
  else if off = rEpochCommit then commitWrite s (v.getLsbD 0)
  else if off = rEvtBase then (if rbit s rEvtCtl 0 then s else writeReg s off v)
  else if off = rEvtCtl then evtCtlWrite s v
  else if off = rEvtHead then (if en.getLsbD 0 then evtHeadWrite s v else s)
  else if off = rFwCmd then fwCmdWrite s v
  else if off = rDbgCtl then dbgCtlSet s v
  else if off = rPwrCtl then pwrCtlWrite s v
  else if 0x84000 ≤ off ∧ off < 0x86000 then treeWrite s ((off - 0x84000) / 32) (off % 32 / 8) v
  else writeReg s off v

/-- A register of a partition block written. -/
def partRegWrite (s : State) (tenant p o : Nat) (v en : Word) : State :=
  if o = 0 then ringCmdWrite s p v
  else if 8 ≤ o ∧ o ≤ 0x30 then (if rbit s (rRingCmd p) 22 then s else writeReg s (pBase p + o) v)
  else if o = 0x100 then partCfgWrite s tenant p v
  else if o = 0x70008 then tlbInvWrite s p v
  else if 0x78000 ≤ o ∧ o < 0x78018 then
    let i := (o - 0x78000) / 8
    let old := (mfind (getHub s p).segPend i).getD (reg s (rSegMode p i))
    segModeWrite s p i ((old &&& ~~~ en) ||| (v &&& en))
  else if o = 0x78040 then rdcCtlWrite s p v
  else if 0x40040 ≤ o ∧ o < 0x40080 then
    let i := (o - 0x40040) / 8
    let old := grpWord s p (rfld s (rGrpSel p) 11 0) i
    let v := (old &&& ~~~ en) ||| (v &&& en)
    if i = 0 ∧ !(en.getLsbD 19) then
      (if grpFld s p (rfld s (rGrpSel p) 11 0) 0 18 18 = 0 then s
       else setGrpWord s p (rfld s (rGrpSel p) 11 0) 0 (setFld old 48 32 (fld v 48 32)))
    else grpWrite s p i v
  else if 0x74000 ≤ o ∧ o < 0x78000 then ownWrite s p ((o - 0x74000) / 8) v en
  else writeReg s (pBase p + o) v

/-- A register of an optical die's block written: QCFG belongs to no LCR-0800A (R5, R7). A mark of PORT_STATUS cleared changes the
ports' record and the conditions of R447 (R330, R477). -/
def optWrite (s : State) (tenant o a : Nat) (v : Word) : State :=
  if a = 8 then steerCmdWrite s o v
  else if 0x100 ≤ a ∧ a < 0x180 ∧ small s then writeRefused s (oBase o + a) tenant
  else if a = 0x30 then
    let t := writeReg s (oBase o + a) v
    if reg t (oBase o + a) = reg s (oBase o + a) then t else health (freePlanes { t with calDirty := true } o)
  else if a = 0x28 then health (freePlanes (writeReg s (oBase o + a) v) o)
  else writeReg s (oBase o + a) v

/-- The register at an offset, a multiple of 8, written, of the bits of `en` (R13, R496, R499). -/
def regWrite (s : State) (tenant off : Nat) (v en : Word) : State :=
  match regDesc off with
  | none => s
  | some d =>
    let c := carried d (reg s off) v en
    match blockOf off with
    | (.pkg, _) => pkgWrite s tenant off c en
    | (.part p, o) => partRegWrite s tenant p o (if 0x40040 ≤ o ∧ o < 0x40080 ∨ (0x74000 ≤ o ∧ o < 0x78018) then v else c) en
    | (.opt o, a) => optWrite s tenant o a c
    | (.gp g, a) => if 0x40000 ≤ a then connWrite s g ((a - 0x40000) / 64) (a % 64 / 8) c else writeReg s off c
    | (.ten t, a) => if a = 0 then tenCfgWrite s tenant t c else writeReg s off c

/-- The bits that an access of `size` bytes at an offset reaches, and its value in their place. -/
def accessBits (off size : Nat) (v : Word) : Word × Word :=
  if size = 8 then (v, BitVec.allOnes 64)
  else if off % 8 = 0 then (v &&& 0xFFFFFFFF#64, 0xFFFFFFFF#64)
  else (v <<< 32, 0xFFFFFFFF00000000#64)

/-- A BAR0 write of up to 8 bytes: of 4 or 8, aligned, it goes to its register; any other size or alignment is refused (R496, R497). -/
def barWrite (s : State) (tenant off size : Nat) (v : Word) : State :=
  let a := off / 8 * 8
  let x := accessBits off size v
  if !((size == 4 || size == 8) && off % size == 0) then
    (if !(bar0Open s) then s
     else writeRefused (if ownerTenant s = some tenant then renewLease s else s) off tenant)
  else if a = rAdminLock then lockWrite s tenant x.1 x.2
  else adminWrite s tenant off (fun s => regWrite s tenant a x.1 x.2)

/-- n consecutive 8-byte writes, in ascending order (R496). -/
def barWrites (tenant : Nat) : Nat → Nat → Nat → State → State
  | 0, _, _, s => s
  | n + 1, off, v, s => barWrites tenant n (off + 8) (v / 2 ^ 64) (barWrite s tenant off 8 (BitVec.ofNat 64 v))

/-- REGISTER_WRITE: a write of any size to BAR0; one of more than 8 bytes is carried out as consecutive 8-byte writes (R496, R497). -/
def execRegisterWrite (tenant off size v : Nat) (s : State) : Out :=
  guardWf ((tenant == 0 || tenant == 256) && off < 0x4000000) (.next (
    if size = 0 then s
    else if size > 8 ∧ size % 8 = 0 then barWrites tenant (size / 8) off v s
    else barWrite s tenant off size (BitVec.ofNat 64 v)))

/-- PKG_NUM_WRITE (R504). -/
def execPkgNumWrite (tenant : Nat) (v : Word) (s : State) : Out :=
  adminCmd s tenant rPkgNum (fun s => pkgNumSet s v (BitVec.allOnes 64))

end Sys2Proof.Machine
end

