-- ==== Sys2Proof/Machine/Sideband.lean ====
section
/-! DEFINITION. The SMBus target: MCTP control messages and PLDM (R523). -/
namespace Sys2Proof.Machine

/-- SERVICE_N is asserted: a replace-request condition stands (R331, R447). -/
def serviceN (s : State) : Bool := reg s rSvcStatus != 0

/-- The hottest valid reading of a sensor class of R419, in sixteenths of a degree; −2,048 °C, as in THM_TEMP, where the class has
none. The coolant outlet's is THM_IN_1. -/
def hottest (s : State) (k : Nat) : Int :=
  if k = 5 then sgn 16 (rfld s (rThmIn 1) 15 0)
  else (((List.range 264).filter (fun u => unitClass u == k)).filterMap (unitTemp s)).foldl (fun a t => if t > a then t else a) (-32768)

/-- What a sensor reports: VIN48 in mV, power as PWR_STATUS.EST has it, temperatures in sixteenths of a degree, 1 for a pin that is
asserted or a flag that is set. -/
def sensorValue (s : State) (x : Sensor) : Int :=
  match x with
  | .vin => s.pins.vin
  | .power => rfld s rPwrStatus 15 0
  | .thmIn k => sgn 16 (rfld s (rThmIn (k % 4)) 15 0)
  | .hottest k => hottest s k
  | .ready => b2n (rbit s rDevStatus 0)
  | .service => b2n (serviceN s)
  | .thermtrip => b2n s.pins.thermtrip
  | .cool b => b2n (if b then s.pins.coolB else s.pins.coolA)
  | .gpio k => b2n (s.pins.gpioIn.getLsbD k)

/-- A sensor that R523 lists: THM_IN_0 to THM_IN_3, the six classes of R419, GPIO_4 to GPIO_7. -/
def sensorOk (x : Sensor) : Bool :=
  match x with
  | .thmIn k => k < 4
  | .hottest k => k < 6
  | .gpio k => k < 4
  | _ => true

/-- MCTP_MESSAGE: PLDM requests find the responder busy while Saley is halted or restarts; a request that reads no sensor is
answered as DSP0248 has it, which the spec does not give (log entry 1). -/
def execMctpMessage (m : MctpMsg) (s : State) : Out :=
  guardWf (match m with | .read x => sensorOk x | _ => true) (.next (
    if !(running s || s.stage == .halted) || extestOn s then s
    else { s with smb := some (match m with
      | .control => .control
      | .read x => if s.stage = .halted ∨ s.restarting then .busy else .value (sensorValue s x)
      | .pldm code => if s.stage = .halted ∨ s.restarting then .busy else .pldm (Config.code 0x523 code)) }))

end Sys2Proof.Machine
end

