-- ==== Sys2Proof/Machine/Vector.lean ====
section
/-! DEFINITION. The vector instructions (R106 to R121). -/
namespace Sys2Proof.Machine

/-! ## Sources (R106) -/

/-- Source A: a vector register, or a row of a drain bank. -/
def srcA (c : CoreSt) (x : ThreadSt) (w : Word) : VReg :=
  if imm w 1 0 = 0 then rdV c x (wA w)
  else vget 0 (drainBank (vget {} c.arrs (wA w / 4 % 4))) (wA w % 4)

/-- Source B's 32 lanes; the immediate's lane is given. -/
def srcB (c : CoreSt) (x : ThreadSt) (w : Word) (immLane : Word32) : List Word32 :=
  match imm w 3 2 with
  | 0 => lanes (rdV c x (wB w))
  | 1 => List.replicate 32 (lane (rdV c x (wB w)) (wA w % 16))
  | 2 => List.replicate 32 ((rd x (wB w)).setWidth 32)
  | _ => List.replicate 32 immLane

/-- The element width of WIDTH. -/
def elemW (w : Word) : Nat := 8 * 2 ^ imm w 5 4

/-- A value repeated in every element of a lane. -/
def spread (ew v : Nat) : Word32 :=
  BitVec.ofNat 32 ((List.range (32 / ew)).foldl (fun a i => a + v % 2 ^ ew * 2 ^ (ew * i)) 0)

/-- IMM16 of an integer instruction, sign-extended to the element width (R106); an element narrower than it takes its low bits (DEDUCED,
log entry 35). -/
def intImm (w : Word) (ew : Nat) : Word32 := spread ew (intBits ew (sgn 16 (imm w 31 16)))

/-- IMM16 of an FP32 instruction (R106). -/
def fpImm (w : Word) : Word32 := BitVec.ofNat 32 (imm w 31 16 * 2 ^ 16)

/-- Elements of two lanes combined, with the conditions raised. -/
def mapElems (ew : Nat) (f : Nat → Nat → Nat × Cond) (a b : Word32) : Word32 × Cond :=
  (List.range (32 / ew)).foldl (fun r i =>
    let v := f (fld a (ew * i + ew - 1) (ew * i)) (fld b (ew * i + ew - 1) (ew * i))
    (r.1 + BitVec.ofNat 32 (v.1 % 2 ^ ew * 2 ^ (ew * i)), condOr r.2 v.2)) (0, {})

/-- Lane-wise results with their conditions together. -/
def zipLanes (f : Word32 → Word32 → Word32 × Cond) (a b : List Word32) : List Word32 × Cond :=
  let r := List.zipWith f a b
  (r.map (·.1), r.foldl (fun k e => condOr k e.2) {})

def mapLanes (f : Word32 → Word32 × Cond) (a : List Word32) : List Word32 × Cond :=
  let r := a.map f
  (r.map (·.1), r.foldl (fun k e => condOr k e.2) {})

/-- A vector result written, its conditions counted, the thread past the instruction (R112, R128). -/
def vDone (s : State) (t : ThreadRef) (x : ThreadSt) (w : Word) (v : VReg) (k : Cond) : State :=
  let key := tKey t
  fin (setCore s key (watch (wrV (getCore s key) x (wDst w) v) k)) t (stick x k)

/-- A scalar result of a vector instruction. -/
def vScalar (s : State) (t : ThreadRef) (x : ThreadSt) (w : Word) (v : Word) (k : Cond) : State :=
  let key := tKey t
  fin (setCore s key (watch (getCore s key) k)) t (wr (stick x k) (wDst w) v)

/-! ## Integer, logic, shifts (R108, R109) -/

/-- An element read as signed or unsigned. -/
def elemInt (signed : Bool) (ew n : Nat) : Int := if signed then sgn ew n else (n : Int)

/-- An exact result wrapped or clamped to the element (R108). -/
def fitElem (signed sat : Bool) (ew : Nat) (v : Int) : Nat × Cond :=
  if !sat then (intBits ew v, {})
  else
    let lo : Int := if signed then -(2 ^ (ew - 1)) else 0
    let hi : Int := if signed then 2 ^ (ew - 1) - 1 else 2 ^ ew - 1
    if v > hi then (intBits ew hi, { sat := true })
    else if v < lo then (intBits ew lo, { sat := true })
    else (intBits ew v, {})

/-- ADD, SUB, MUL, MIN, MAX on elements (R108). -/
def vintOp (op : Nat) (signed sat : Bool) (ew a b : Nat) : Nat × Cond :=
  let x := elemInt signed ew a
  let y := elemInt signed ew b
  match op with
  | 0 => fitElem signed sat ew (x + y)
  | 1 => fitElem signed sat ew (x - y)
  | 2 => fitElem signed sat ew (x * y)
  | 3 => (if x ≤ y then a else b, {})
  | _ => (if x ≥ y then a else b, {})

/-- VINT (R108). -/
def execVint (t : ThreadRef) (w : Word) (s : State) : Out :=
  issue .vint t w s (fun s x =>
    let c := getCore s (tKey t)
    let ew := elemW w
    let r := zipLanes (mapElems ew (vintOp (wMinor w) (imm w 7 7 == 1) (imm w 6 6 == 1) ew))
      (lanes (srcA c x w)) (srcB c x w (intImm w ew))
    vDone s t x w (ofLanes r.1) r.2)

/-- AND, OR, XOR, ANDN (R108). -/
def vlogOp (op : Nat) (a b : Word32) : Word32 :=
  match op with
  | 0 => a &&& b
  | 1 => a ||| b
  | 2 => a ^^^ b
  | _ => a &&& ~~~ b

/-- VLOG acts on all 32 bits and ignores WIDTH (R108). -/
def execVlog (t : ThreadRef) (w : Word) (s : State) : Out :=
  issue .vlog t w s (fun s x =>
    let c := getCore s (tKey t)
    let r := List.zipWith (vlogOp (wMinor w)) (lanes (srcA c x w)) (srcB c x w (intImm w 32))
    vDone s t x w (ofLanes r) {})

/-- SHL, SHR, SRA, SRRN of an element by an unsigned amount (R109). -/
def vshfOp (op : Nat) (signed : Bool) (ew a n : Nat) : Nat :=
  match op with
  | 0 => if n ≥ ew then 0 else a * 2 ^ n % 2 ^ ew
  | 1 => if n ≥ ew then 0 else a / 2 ^ n
  | 2 => intBits ew (sgn ew a / 2 ^ (min n ew))
  | _ =>
    if n ≥ ew then 0
    else
      let x := elemInt signed ew a
      let q := rneShift x.natAbs n
      intBits ew (if x < 0 then -(q : Int) else (q : Int))

/-- VSHF (R109): the immediate amount is IMM16 as it stands; with BMODE 1 (COLB), which R106 gives every B source and R109 does not name,
the amount is COLB's lane (DEDUCED, log entry 35). -/
def execVshf (t : ThreadRef) (w : Word) (s : State) : Out :=
  issue .vshf t w s (fun s x =>
    let c := getCore s (tKey t)
    let ew := elemW w
    let signed := imm w 7 7 == 1
    let op := wMinor w
    let r :=
      if imm w 3 2 = 3 then
        (lanes (srcA c x w)).map (fun a => (mapElems ew (fun e _ => (vshfOp op signed ew e (imm w 31 16), {})) a 0).1)
      else
        List.zipWith (fun a b => (mapElems ew (fun e n => (vshfOp op signed ew e n, {})) a b).1)
          (lanes (srcA c x w)) (srcB c x w 0)
    vDone s t x w (ofLanes r) {})

/-! ## FP32 (R110, R111) -/

/-- ADD, SUB, MUL, MIN, MAX. -/
def vfpOp (op : Nat) (a b : Word32) : Word32 × Cond :=
  let x := dec32 a
  let y := dec32 b
  match op with
  | 0 => fpAdd x y
  | 1 => fpAdd x (fvNeg y)
  | 2 => fpMul x y
  | 3 => fpMin x y
  | _ => fpMax x y

/-- VFP (R110, R111). -/
def execVfp (t : ThreadRef) (w : Word) (s : State) : Out :=
  issue .vfp t w s (fun s x =>
    let c := getCore s (tKey t)
    let r := zipLanes (vfpOp (wMinor w)) (lanes (srcA c x w)) (srcB c x w (fpImm w))
    vDone s t x w (ofLanes r.1) r.2)

/-- A·B + C, A·B − C, −A·B + C, each rounded once. -/
def vfmaOp (op : Nat) (a b c : Word32) : Word32 × Cond :=
  let x := dec32 a
  let y := dec32 b
  let z := dec32 c
  match op with
  | 0 => fpFma x y z
  | 1 => fpFma x y (fvNeg z)
  | _ => fpFma (fvNeg x) y z

/-- VFMA (R110). -/
def execVfma (t : ThreadRef) (w : Word) (s : State) : Out :=
  issue .vfma t w s (fun s x =>
    let c := getCore s (tKey t)
    let ab := List.zip (lanes (srcA c x w)) (srcB c x w (fpImm w))
    let r := List.zipWith (fun (p : Word32 × Word32) z => vfmaOp (wMinor w) p.1 p.2 z) ab (lanes (rdV c x (wC w)))
    vDone s t x w (ofLanes (r.map (·.1))) (r.foldl (fun k e => condOr k e.2) {}))

/-- Integer EQ, NE, LT, LE on 32-bit lanes, then the FP32 ones (R93, R111). -/
def vcmpOp (op : Nat) (signed : Bool) (a b : Word32) : Bool :=
  if op ≥ 4 then fpCmp (op - 4) (dec32 a) (dec32 b)
  else
    let x := elemInt signed 32 a.toNat
    let y := elemInt signed 32 b.toNat
    match op with
    | 0 => x == y
    | 1 => x != y
    | 2 => x < y
    | _ => x ≤ y

/-- A lane mask as a number. -/
def maskOf (l : List Bool) : Nat := l.foldr (fun b a => b2n b + 2 * a) 0

/-- VCMP (R93, R111). -/
def execVcmp (t : ThreadRef) (w : Word) (s : State) : Out :=
  issue .vcmp t w s (fun s x =>
    let c := getCore s (tKey t)
    let op := wMinor w
    let b := srcB c x w (if op ≥ 4 then fpImm w else intImm w 32)
    let m := List.zipWith (vcmpOp op (imm w 7 7 == 1)) (lanes (srcA c x w)) b
    vScalar s t x w (BitVec.ofNat 64 (maskOf m)) {})

/-! ## Moves (R93) -/

/-- The conditions of lanes that are written as they stand: NaN and Inf that pass through count (R112). -/
def moveCond (l : List Word32) : Cond := l.foldl (fun k v => condOr k (condOf v)) {}

/-- VSEL: lane j from A where bit j of SRC_C is 1. -/
def execVsel (t : ThreadRef) (w : Word) (s : State) : Out :=
  issue .vsel t w s (fun s x =>
    let c := getCore s (tKey t)
    let m := rd x (wC w)
    let ab := List.zip (lanes (srcA c x w)) (srcB c x w (intImm w 32))
    let r := ab.zipIdx.map (fun e => if m.getLsbD e.2 then e.1.1 else e.1.2)
    vDone s t x w (ofLanes r) (moveCond r))

/-- VMOV. -/
def execVmov (t : ThreadRef) (w : Word) (s : State) : Out :=
  issue .vmov t w s (fun s x =>
    let v := srcA (getCore s (tKey t)) x w
    vDone s t x w v (moveCond (lanes v)))

/-- VEXT: a lane, zero-extended. -/
def execVext (t : ThreadRef) (w : Word) (s : State) : Out :=
  issue .vext t w s (fun s x =>
    let v := lane (srcA (getCore s (tKey t)) x w) (imm w 12 8)
    vScalar s t x w (v.setWidth 64) (condOf v))

/-- VINS: one lane of vd written, the others kept. -/
def execVins (t : ThreadRef) (w : Word) (s : State) : Out :=
  issue .vins t w s (fun s x =>
    let v := rdV (getCore s (tKey t)) x (wDst w)
    vDone s t x w (setFld v (32 * imm w 12 8 + 31) (32 * imm w 12 8) (fld (rd x (wA w)) 31 0)) (condOf ((rd x (wA w)).setWidth 32)))

/-! ## Functions and conversions -/

/-- VAPX (R113, R112). -/
def execVapx (t : ThreadRef) (w : Word) (s : State) : Out :=
  issue .vapx t w s (fun s x =>
    let r := mapLanes (fun a => (approxFn (wMinor w) a, approxCond (wMinor w) a)) (lanes (srcA (getCore s (tKey t)) x w))
    vDone s t x w (ofLanes r.1) r.2)

/-- FP32 to INT32, to nearest even; out of range and NaN saturate with SAT (R93). -/
def f2i (a : Word32) : Word32 × Cond :=
  match dec32 a with
  | .nan s => (if s then 0x80000000#32 else 0x7FFFFFFF#32, { sat := true })
  | .inf s => (if s then 0x80000000#32 else 0x7FFFFFFF#32, { sat := true })
  | .fin s m e =>
    let r := clampS 32 (rneInt s m e)
    (BitVec.ofInt 32 r.1, r.2)

/-- VF2I. -/
def execVf2i (t : ThreadRef) (w : Word) (s : State) : Out :=
  issue .vf2i t w s (fun s x =>
    let r := mapLanes f2i (lanes (srcA (getCore s (tKey t)) x w))
    vDone s t x w (ofLanes r.1) r.2)

/-- INT32 to FP32 (R93). -/
def i2f (a : Word32) : Word32 × Cond := round32 (decide (a.toInt < 0)) a.toInt.natAbs 0

/-- VI2F. -/
def execVi2f (t : ThreadRef) (w : Word) (s : State) : Out :=
  issue .vi2f t w s (fun s x =>
    let r := mapLanes i2f (lanes (srcA (getCore s (tKey t)) x w))
    vDone s t x w (ofLanes r.1) r.2)

/-- A value scaled by a power of two. -/
def fvScale (x : FVal) (k : Int) : FVal :=
  match x with
  | .fin s m e => .fin s m (e + k)
  | v => v

/-- One lane packed: the element's bits (R115). `sc` is the scale byte with SC set. -/
def packElem (fmt : Nat) (sc : Option Nat) (a : Word32) : Nat × Cond :=
  if fmt = 2 ∨ fmt = 4 then
    let ew := elemWidth fmt
    let v := a.toInt
    match sc with
    | some 255 => (intBits ew (if v < 0 then -(2 ^ (ew - 1)) else 2 ^ (ew - 1) - 1), { sat := true })
    | _ =>
      let r := clampS ew (rneInt (decide (v < 0)) v.natAbs (match sc with | some k => 127 - (k : Int) | none => 0))
      (intBits ew r.1, r.2)
  else
    match sc with
    | some 255 => packFp fmt (.nan (a.getLsbD 31))
    | some k => packFp fmt (fvScale (dec32 a) (127 - (k : Int)))
    | none => packFp fmt (dec32 a)

/-- The bit where element j of a packed register stands (R116). -/
def packBit (w : Word) (ew j : Nat) : Nat :=
  let seg := imm w 14 12
  if imm w 15 15 = 0 then 32 * ew * seg + ew * j else 128 * ew * (seg / 4) + ew * (4 * j + seg % 4)

/-- The scale byte of VPACK and VUNPK, with SC set (R115, R117). -/
def packScale (x : ThreadSt) (w : Word) : Option Nat := if imm w 7 7 = 1 then some (fld (rd x (wB w)) 7 0) else none

/-- VPACK (R115, R116). -/
def execVpack (t : ThreadRef) (w : Word) (s : State) : Out :=
  issue .vpack t w s (fun s x =>
    let c := getCore s (tKey t)
    let fmt := imm w 11 8
    let ew := elemWidth fmt
    let r := (lanes (srcA c x w)).map (packElem fmt (packScale x w))
    let v := r.zipIdx.foldl (fun v e => setFld v (packBit w ew e.2 + ew - 1) (packBit w ew e.2) e.1.1) (rdV c x (wDst w))
    vDone s t x w v (r.foldl (fun k e => condOr k e.2) {}))

/-- One element widened (R117). -/
def unpackElem (fmt : Nat) (sc : Option Nat) (n : Nat) : Word32 × Cond :=
  if fmt = 2 ∨ fmt = 4 then
    let v := sgn (elemWidth fmt) n
    match sc with
    | some 255 => (if v < 0 then 0x80000000#32 else 0x7FFFFFFF#32, { sat := true })
    | some k =>
      let r := clampS 32 (rneInt (decide (v < 0)) v.natAbs ((k : Int) - 127))
      (BitVec.ofInt 32 r.1, r.2)
    | none => (BitVec.ofInt 32 v, {})
  else
    match sc with
    | some 255 => (canonNan, { nan := true })
    | some k => enc32 (fvScale (decElem fmt n) ((k : Int) - 127))
    | none => enc32 (decElem fmt n)

/-- VUNPK (R117). -/
def execVunpk (t : ThreadRef) (w : Word) (s : State) : Out :=
  issue .vunpk t w s (fun s x =>
    let v := srcA (getCore s (tKey t)) x w
    let fmt := imm w 11 8
    let ew := elemWidth fmt
    let r := (List.range 32).map (fun j => unpackElem fmt (packScale x w) (fld v (packBit w ew j + ew - 1) (packBit w ew j)))
    vDone s t x w (ofLanes (r.map (·.1))) (r.foldl (fun k e => condOr k e.2) {}))

/-- VMDE: 32 lanes into one block, the rest of vd 0 (R119). -/
def execVmde (t : ThreadRef) (w : Word) (s : State) : Out :=
  issue .vmde t w s (fun s x =>
    let r := encodeBlock (imm w 10 8) ((lanes (srcA (getCore s (tKey t)) x w)).map dec32)
    vDone s t x w (BitVec.ofNat 1024 (ofBytes r.1)) r.2)

/-- VMDD: a block into 32 lanes, exactly, no condition raised (R119, R182). -/
def execVmdd (t : ThreadRef) (w : Word) (s : State) : Out :=
  issue .vmdd t w s (fun s x =>
    let f := imm w 10 8
    let r := decodeBlock f (toBytes (blkBytes f) (srcA (getCore s (tKey t)) x w).toNat)
    vDone s t x w (ofLanes (r.map (fun v => (enc32 v).1))) {})

/-- The largest finite value of a format code, as an exact number (R118; 3.39 × 10^38 is BF16's own, R55). -/
def fmtMax (fmt : Nat) : Nat × Int :=
  match fmt with
  | 0 => (448, 0)
  | 1 => (57344, 0)
  | 2 => (127, 0)
  | 3 => (6, 0)
  | 4 => (7, 0)
  | _ => (255, 120)

/-- The E8M0 scale of 32 lanes (R118). -/
def blockScaleE8 (fmt : Nat) (l : List Word32) : Nat :=
  let amax := l.foldl (fun a x => magMax a (fvMag (dec32 x))) (0, 0)
  if amax.1 = 0 then 0
  else
    let mx := fmtMax fmt
    let e := scaleExp mx.1 amax.1 (amax.2 - mx.2)
    let e := if e < -127 then -127 else if e > 127 then 127 else e
    (e + 127).toNat

/-- VSCALE (R118). -/
def execVscale (t : ThreadRef) (w : Word) (s : State) : Out :=
  issue .vscale t w s (fun s x =>
    vScalar s t x w (BitVec.ofNat 64 (blockScaleE8 (imm w 11 8) (lanes (srcA (getCore s (tKey t)) x w)))) {})

/-- One level of the tree of R120. -/
def redLevel (op : Word32 → Word32 → Word32 × Cond) (w : Nat) (r : List Word32 × Cond) : List Word32 × Cond :=
  let v := List.zipWith op (r.1.take w) (r.1.drop w)
  (v.map (·.1), v.foldl (fun k e => condOr k e.2) r.2)

/-- The tree over 32 lanes (R120). -/
def redTree (op : Word32 → Word32 → Word32 × Cond) (l : List Word32) : Word32 × Cond :=
  let r := [16, 8, 4, 2, 1].foldl (fun r w => redLevel op w r) (l, {})
  ((r.1[0]?).getD 0, r.2)

/-- FSUM, FMAX, ISUM, IMAX. -/
def redOp (op : Nat) (sat : Bool) (a b : Word32) : Word32 × Cond :=
  match op with
  | 0 => fpAdd (dec32 a) (dec32 b)
  | 1 => fpMax (dec32 a) (dec32 b)
  | 2 => let r := fitElem true sat 32 (a.toInt + b.toInt); (BitVec.ofNat 32 r.1, r.2)
  | _ => (if a.toInt ≥ b.toInt then a else b, {})

/-- VRED (R120). -/
def execVred (t : ThreadRef) (w : Word) (s : State) : Out :=
  issue .vred t w s (fun s x =>
    let r := redTree (redOp (wMinor w) (imm w 6 6 == 1)) (lanes (srcA (getCore s (tKey t)) x w))
    vScalar s t x w (r.1.setWidth 64) r.2)

end Sys2Proof.Machine
end

