-- ==== Sys2Proof/Machine/Dispatch.lean ====
section
/-! DEFINITION. One arm per command, each one call of its meaning. -/
namespace Sys2Proof.Machine

/-- The effect of a command on everything but the queue. -/
def exec (i : Instr) (s : State) : Host.Outcome State Fault Refusal :=
  match i with
  | .coldStartReference b => Sys2Proof.Machine.execColdStartReference b s
  | .capabilityRecord j words => Sys2Proof.Machine.execCapabilityRecord j words s
  | .partitionReady p => Sys2Proof.Machine.execPartitionReady p s
  | .pcieConfigRequest port fn ats => Sys2Proof.Machine.execPcieConfigRequest port fn ats s
  | .pcieEarlyBarAccess port write => Sys2Proof.Machine.execPcieEarlyBarAccess port write s
  | .ucieModuleRetrain link module lanes ok => Sys2Proof.Machine.execUcieModuleRetrain link module lanes ok s
  | .partUnreachable p off tenant write => Sys2Proof.Machine.execPartUnreachable p off tenant write s
  | .refclkLoss j => Sys2Proof.Machine.execRefclkLoss j s
  | .refclkSwitchover => Sys2Proof.Machine.execRefclkSwitchover s
  | .refclkGood j => Sys2Proof.Machine.execRefclkGood j s
  | .refclkPreferWrite tenant v => Sys2Proof.Machine.execRefclkPreferWrite tenant v s
  | .tsSync m => Sys2Proof.Machine.execTsSync m s
  | .tbLockLoss => Sys2Proof.Machine.execTbLockLoss s
  | .operatingPointChange c op => Sys2Proof.Machine.execOperatingPointChange c op s
  | .oscillatorCheck c ppm => Sys2Proof.Machine.execOscillatorCheck c ppm s
  | .mclaim t w => Sys2Proof.Machine.execMclaim t w s
  | .mrel t w => Sys2Proof.Machine.execMrel t w s
  | .mcfg t w => Sys2Proof.Machine.execMcfg t w s
  | .mstream t w => Sys2Proof.Machine.execMstream t w s
  | .mrun t w => Sys2Proof.Machine.execMrun t w s
  | .mswap t w => Sys2Proof.Machine.execMswap t w s
  | .mzero t w => Sys2Proof.Machine.execMzero t w s
  | .mstat t w => Sys2Proof.Machine.execMstat t w s
  | .alu t w => Sys2Proof.Machine.execAlu t w s
  | .alui t w => Sys2Proof.Machine.execAlui t w s
  | .cmp t w => Sys2Proof.Machine.execCmp t w s
  | .cmpi t w => Sys2Proof.Machine.execCmpi t w s
  | .movi t w => Sys2Proof.Machine.execMovi t w s
  | .movhi t w => Sys2Proof.Machine.execMovhi t w s
  | .sel t w => Sys2Proof.Machine.execSel t w s
  | .plog t w => Sys2Proof.Machine.execPlog t w s
  | .rdsr t w cycles => Sys2Proof.Machine.execRdsr t w cycles s
  | .br t w => Sys2Proof.Machine.execBr t w s
  | .jal t w => Sys2Proof.Machine.execJal t w s
  | .jr t w => Sys2Proof.Machine.execJr t w s
  | .endThread t w => Sys2Proof.Machine.execEndThread t w s
  | .yield t w => Sys2Proof.Machine.execYield t w s
  | .yieldExpiry t => Sys2Proof.Machine.execYieldExpiry t s
  | .ldl t w => Sys2Proof.Machine.execLdl t w s
  | .stl t w => Sys2Proof.Machine.execStl t w s
  | .ldr t w => Sys2Proof.Machine.execLdr t w s
  | .str t w => Sys2Proof.Machine.execStr t w s
  | .ldg t w ecc => Sys2Proof.Machine.execLdg t w ecc s
  | .stg t w ecc => Sys2Proof.Machine.execStg t w ecc s
  | .atom t w => Sys2Proof.Machine.execAtom t w s
  | .storeFault t addr mem => Sys2Proof.Machine.execStoreFault t addr mem s
  | .fenceRel t w => Sys2Proof.Machine.execFenceRel t w s
  | .fenceAcq t w => Sys2Proof.Machine.execFenceAcq t w s
  | .fenceFull t w => Sys2Proof.Machine.execFenceFull t w s
  | .waitl t w => Sys2Proof.Machine.execWaitl t w s
  | .waitc t w => Sys2Proof.Machine.execWaitc t w s
  | .waitInstrTimeout t => Sys2Proof.Machine.execWaitInstrTimeout t s
  | .barc t w => Sys2Proof.Machine.execBarc t w s
  | .barl t w => Sys2Proof.Machine.execBarl t w s
  | .lcset t w => Sys2Proof.Machine.execLcset t w s
  | .lcadd t w => Sys2Proof.Machine.execLcadd t w s
  | .pref t w => Sys2Proof.Machine.execPref t w s
  | .spset t w => Sys2Proof.Machine.execSpset t w s
  | .spstop t w => Sys2Proof.Machine.execSpstop t w s
  | .cpreq t w => Sys2Proof.Machine.execCpreq t w s
  | .nop t w => Sys2Proof.Machine.execNop t w s
  | .trap t w => Sys2Proof.Machine.execTrap t w s
  | .nwread t w => Sys2Proof.Machine.execNwread t w s
  | .phint t w => Sys2Proof.Machine.execPhint t w s
  | .vint t w => Sys2Proof.Machine.execVint t w s
  | .vlog t w => Sys2Proof.Machine.execVlog t w s
  | .vshf t w => Sys2Proof.Machine.execVshf t w s
  | .vfp t w => Sys2Proof.Machine.execVfp t w s
  | .vfma t w => Sys2Proof.Machine.execVfma t w s
  | .vcmp t w => Sys2Proof.Machine.execVcmp t w s
  | .vsel t w => Sys2Proof.Machine.execVsel t w s
  | .vmov t w => Sys2Proof.Machine.execVmov t w s
  | .vext t w => Sys2Proof.Machine.execVext t w s
  | .vins t w => Sys2Proof.Machine.execVins t w s
  | .vapx t w => Sys2Proof.Machine.execVapx t w s
  | .vf2i t w => Sys2Proof.Machine.execVf2i t w s
  | .vi2f t w => Sys2Proof.Machine.execVi2f t w s
  | .vpack t w => Sys2Proof.Machine.execVpack t w s
  | .vunpk t w => Sys2Proof.Machine.execVunpk t w s
  | .vmde t w => Sys2Proof.Machine.execVmde t w s
  | .vmdd t w => Sys2Proof.Machine.execVmdd t w s
  | .vscale t w => Sys2Proof.Machine.execVscale t w s
  | .vred t w => Sys2Proof.Machine.execVred t w s
  | .idlePublication p counts => Sys2Proof.Machine.execIdlePublication p counts s
  | .seOpen q => Sys2Proof.Machine.execSeOpen q s
  | .seClose q => Sys2Proof.Machine.execSeClose q s
  | .seAttend q => Sys2Proof.Machine.execSeAttend q s
  | .seSelect q => Sys2Proof.Machine.execSeSelect q s
  | .seAttendSel q => Sys2Proof.Machine.execSeAttendSel q s
  | .seAppend q => Sys2Proof.Machine.execSeAppend q s
  | .seMoveKeepRange q => Sys2Proof.Machine.execSeMoveKeepRange q s
  | .seMoveKeepList q => Sys2Proof.Machine.execSeMoveKeepList q s
  | .seMoveOut q => Sys2Proof.Machine.execSeMoveOut q s
  | .seMoveIn q => Sys2Proof.Machine.execSeMoveIn q s
  | .seStatsContext q => Sys2Proof.Machine.execSeStatsContext q s
  | .seStatsStack q => Sys2Proof.Machine.execSeStatsStack q s
  | .hubLineRead r ue => Sys2Proof.Machine.execHubLineRead r ue s
  | .hubLineWrite r mask data => Sys2Proof.Machine.execHubLineWrite r mask data s
  | .hubAtomic r aop v cmp => Sys2Proof.Machine.execHubAtomic r aop v cmp s
  | .accessDeniedWindowClose p j => Sys2Proof.Machine.execAccessDeniedWindowClose p j s
  | .tlbInv tenant p v => Sys2Proof.Machine.execTlbInv tenant p v s
  | .tlbInvDone p => Sys2Proof.Machine.execTlbInvDone p s
  | .hbmSegModeWrite tenant p j v => Sys2Proof.Machine.execHbmSegModeWrite tenant p j v s
  | .hbmSegModeApply p j => Sys2Proof.Machine.execHbmSegModeApply p j s
  | .rdcInv tenant p v => Sys2Proof.Machine.execRdcInv tenant p v s
  | .copy p op => Sys2Proof.Machine.execCopy p op s
  | .copyUnitAck job unit ecc => Sys2Proof.Machine.execCopyUnitAck job unit ecc s
  | .launchStart c => Sys2Proof.Machine.execLaunchStart c s
  | .kernelComplete p op => Sys2Proof.Machine.execKernelComplete p op s
  | .kernelTimeout p op => Sys2Proof.Machine.execKernelTimeout p op s
  | .coreFault c => Sys2Proof.Machine.execCoreFault c s
  | .clusterCutout c abrupt => Sys2Proof.Machine.execClusterCutout c abrupt s
  | .brambleToken a k => Sys2Proof.Machine.execBrambleToken a k s
  | .brambleArrival a slot e => Sys2Proof.Machine.execBrambleArrival a slot e s
  | .hubRoute p k => Sys2Proof.Machine.execHubRoute p k s
  | .routeFailover p off => Sys2Proof.Machine.execRouteFailover p off s
  | .linkTimeout p req => Sys2Proof.Machine.execLinkTimeout p req s
  | .descriptorFetch p ctx n => Sys2Proof.Machine.execDescriptorFetch p ctx n s
  | .dispatch p => Sys2Proof.Machine.execDispatch p s
  | .energyGateStarvation p ctx => Sys2Proof.Machine.execEnergyGateStarvation p ctx s
  | .sqDb d v => Sys2Proof.Machine.execSqDb d v s
  | .cqDb d v => Sys2Proof.Machine.execCqDb d v s
  | .sqAdd d v => Sys2Proof.Machine.execSqAdd d v s
  | .ringCreate tenant p v => Sys2Proof.Machine.execRingCreate tenant p v s
  | .ringDestroy tenant p v => Sys2Proof.Machine.execRingDestroy tenant p v s
  | .ringReset tenant p v => Sys2Proof.Machine.execRingReset tenant p v s
  | .ringQuery tenant p v => Sys2Proof.Machine.execRingQuery tenant p v s
  | .ringClosingDone p ctx => Sys2Proof.Machine.execRingClosingDone p ctx s
  | .kernel p op => Sys2Proof.Machine.execKernel p op s
  | .seCmd p op => Sys2Proof.Machine.execSeCmd p op s
  | .waitCounter p op => Sys2Proof.Machine.execWaitCounter p op s
  | .waitWord p op => Sys2Proof.Machine.execWaitWord p op s
  | .waitWordPoll p op => Sys2Proof.Machine.execWaitWordPoll p op s
  | .waitTimeout p op => Sys2Proof.Machine.execWaitTimeout p op s
  | .counterAdd p op => Sys2Proof.Machine.execCounterAdd p op s
  | .counterSet p op => Sys2Proof.Machine.execCounterSet p op s
  | .write64 p op => Sys2Proof.Machine.execWrite64 p op s
  | .signalSqAdd p op => Sys2Proof.Machine.execSignalSqAdd p op s
  | .fenceDescRel p op => Sys2Proof.Machine.execFenceDescRel p op s
  | .fenceDescAcq p op => Sys2Proof.Machine.execFenceDescAcq p op s
  | .fenceDescFull p op => Sys2Proof.Machine.execFenceDescFull p op s
  | .stepBegin p op => Sys2Proof.Machine.execStepBegin p op s
  | .stepCommit p op => Sys2Proof.Machine.execStepCommit p op s
  | .stepAbort p op => Sys2Proof.Machine.execStepAbort p op s
  | .stepReplay p op => Sys2Proof.Machine.execStepReplay p op s
  | .stepReexecution p key => Sys2Proof.Machine.execStepReexecution p key s
  | .hint p op => Sys2Proof.Machine.execHint p op s
  | .hintRampStart p j => Sys2Proof.Machine.execHintRampStart p j s
  | .hintEnd p j => Sys2Proof.Machine.execHintEnd p j s
  | .fieldTest p op => Sys2Proof.Machine.execFieldTest p op s
  | .fieldTestDrainTimeout => Sys2Proof.Machine.execFieldTestDrainTimeout s
  | .fieldTestResult r => Sys2Proof.Machine.execFieldTestResult r s
  | .nopDescriptor p op => Sys2Proof.Machine.execNopDescriptor p op s
  | .allReduce p op => Sys2Proof.Machine.execAllReduce p op s
  | .reduceScatter p op => Sys2Proof.Machine.execReduceScatter p op s
  | .allGather p op => Sys2Proof.Machine.execAllGather p op s
  | .broadcast p op => Sys2Proof.Machine.execBroadcast p op s
  | .allToAll p op => Sys2Proof.Machine.execAllToAll p op s
  | .reduce p op => Sys2Proof.Machine.execReduce p op s
  | .barrier p op => Sys2Proof.Machine.execBarrier p op s
  | .collectiveJoin p j => Sys2Proof.Machine.execCollectiveJoin p j s
  | .collectivePacket p k => Sys2Proof.Machine.execCollectivePacket p k s
  | .collectiveAbort p a => Sys2Proof.Machine.execCollectiveAbort p a s
  | .collectiveTimeout p inst => Sys2Proof.Machine.execCollectiveTimeout p inst s
  | .phaseBoundary p inst => Sys2Proof.Machine.execPhaseBoundary p inst s
  | .groupReady tenant p v => Sys2Proof.Machine.execGroupReady tenant p v s
  | .groupDisarm tenant p v => Sys2Proof.Machine.execGroupDisarm tenant p v s
  | .currantBarrier t w => Sys2Proof.Machine.execCurrantBarrier t w s
  | .smallAllReduce t w => Sys2Proof.Machine.execSmallAllReduce t w s
  | .smallBcast t w => Sys2Proof.Machine.execSmallBcast t w s
  | .up f => Sys2Proof.Machine.execUp f s
  | .down f => Sys2Proof.Machine.execDown f s
  | .treeAbort f => Sys2Proof.Machine.execTreeAbort f s
  | .currantAck eng f => Sys2Proof.Machine.execCurrantAck eng f s
  | .currantResend eng => Sys2Proof.Machine.execCurrantResend eng s
  | .currantTreeTimeout tree opseq => Sys2Proof.Machine.execCurrantTreeTimeout tree opseq s
  | .curTreeValidSet tenant tree v => Sys2Proof.Machine.execCurTreeValidSet tenant tree v s
  | .curTreeValidClear tenant tree v => Sys2Proof.Machine.execCurTreeValidClear tenant tree v s
  | .steeringRequest q => Sys2Proof.Machine.execSteeringRequest q s
  | .steeringPoint die => Sys2Proof.Machine.execSteeringPoint die s
  | .relockDone eng fails => Sys2Proof.Machine.execRelockDone eng fails s
  | .calibrationPeriod eng tx => Sys2Proof.Machine.execCalibrationPeriod eng tx s
  | .swapOut eng tx => Sys2Proof.Machine.execSwapOut eng tx s
  | .retuneEnd eng tx ok => Sys2Proof.Machine.execRetuneEnd eng tx ok s
  | .swapBack eng tx => Sys2Proof.Machine.execSwapBack eng tx s
  | .sparelessOut eng tx => Sys2Proof.Machine.execSparelessOut eng tx s
  | .sparelessReturn eng tx ok => Sys2Proof.Machine.execSparelessReturn eng tx ok s
  | .laserBiasControl die arr wl => Sys2Proof.Machine.execLaserBiasControl die arr wl s
  | .laserFailure die arr wl => Sys2Proof.Machine.execLaserFailure die arr wl s
  | .omaMeasurement eng wl oma => Sys2Proof.Machine.execOmaMeasurement eng wl oma s
  | .rxOmaPublish eng => Sys2Proof.Machine.execRxOmaPublish eng s
  | .portSpareTimeout eng => Sys2Proof.Machine.execPortSpareTimeout eng s
  | .dataFlit eng f => Sys2Proof.Machine.execDataFlit eng f s
  | .idleFlit eng f => Sys2Proof.Machine.execIdleFlit eng f s
  | .replayTimeout eng => Sys2Proof.Machine.execReplayTimeout eng s
  | .nakRepeat eng => Sys2Proof.Machine.execNakRepeat eng s
  | .credit eng freed => Sys2Proof.Machine.execCredit eng freed s
  | .rxPower eng omas => Sys2Proof.Machine.execRxPower eng omas s
  | .steerAnn eng t moves => Sys2Proof.Machine.execSteerAnn eng t moves s
  | .laneChg eng m => Sys2Proof.Machine.execLaneChg eng m s
  | .laneChangeBoundary eng tx => Sys2Proof.Machine.execLaneChangeBoundary eng tx s
  | .roleMap eng gen roles => Sys2Proof.Machine.execRoleMap eng gen roles s
  | .calReq eng wl => Sys2Proof.Machine.execCalReq eng wl s
  | .linkId eng m => Sys2Proof.Machine.execLinkId eng m s
  | .controlMessageSend eng kind => Sys2Proof.Machine.execControlMessageSend eng kind s
  | .alignmentMarker eng wl low high => Sys2Proof.Machine.execAlignmentMarker eng wl low high s
  | .wavelengthLoss eng wl => Sys2Proof.Machine.execWavelengthLoss eng wl s
  | .codewordLockRegained eng => Sys2Proof.Machine.execCodewordLockRegained eng s
  | .linkTraining eng stage fails => Sys2Proof.Machine.execLinkTraining eng stage fails s
  | .linkDown eng => Sys2Proof.Machine.execLinkDown eng s
  | .retrain eng => Sys2Proof.Machine.execRetrain eng s
  | .gpData port f => Sys2Proof.Machine.execGpData port f s
  | .gpAck port f => Sys2Proof.Machine.execGpAck port f s
  | .gpNak port f => Sys2Proof.Machine.execGpNak port f s
  | .gpSync port f => Sys2Proof.Machine.execGpSync port f s
  | .gpRto port conn => Sys2Proof.Machine.execGpRto port conn s
  | .pfcFrame port prio pause => Sys2Proof.Machine.execPfcFrame port prio pause s
  | .gpConnValidSet tenant port conn v => Sys2Proof.Machine.execGpConnValidSet tenant port conn v s
  | .powerEstimate acts => Sys2Proof.Machine.execPowerEstimate acts s
  | .allowance => Sys2Proof.Machine.execAllowance s
  | .pauseLevelUpdate p => Sys2Proof.Machine.execPauseLevelUpdate p s
  | .kUpdate pin => Sys2Proof.Machine.execKUpdate pin s
  | .pmbusLost => Sys2Proof.Machine.execPmbusLost s
  | .pmbAlert j status => Sys2Proof.Machine.execPmbAlert j status s
  | .opAutoMove c => Sys2Proof.Machine.execOpAutoMove c s
  | .vin48Sample mv => Sys2Proof.Machine.execVin48Sample mv s
  | .diodeReading ch r => Sys2Proof.Machine.execDiodeReading ch r s
  | .thermistorReading j r => Sys2Proof.Machine.execThermistorReading j r s
  | .throttleStep => Sys2Proof.Machine.execThrottleStep s
  | .unitRestart unit => Sys2Proof.Machine.execUnitRestart unit s
  | .coolFailAssert ch => Sys2Proof.Machine.execCoolFailAssert ch s
  | .coolantDiscrepancy => Sys2Proof.Machine.execCoolantDiscrepancy s
  | .coolFailDeassert ch => Sys2Proof.Machine.execCoolFailDeassert ch s
  | .coolantReturn => Sys2Proof.Machine.execCoolantReturn s
  | .hubReadingsTimeout p => Sys2Proof.Machine.execHubReadingsTimeout p s
  | .powerFailRecognition cause vin => Sys2Proof.Machine.execPowerFailRecognition cause vin s
  | .pf1End good vinMin => Sys2Proof.Machine.execPf1End good vinMin s
  | .coldRstNAssert => Sys2Proof.Machine.execColdRstNAssert s
  | .rstCmdPackage tenant v => Sys2Proof.Machine.execRstCmdPackage tenant v s
  | .rstCmdPartition tenant v => Sys2Proof.Machine.execRstCmdPartition tenant v s
  | .partitionResetDone p hbm => Sys2Proof.Machine.execPartitionResetDone p hbm s
  | .perstNAssert port => Sys2Proof.Machine.execPerstNAssert port s
  | .perstNDeassert port => Sys2Proof.Machine.execPerstNDeassert port s
  | .flr tenant => Sys2Proof.Machine.execFlr tenant s
  | .flrDone tenant => Sys2Proof.Machine.execFlrDone tenant s
  | .lockTake tenant v => Sys2Proof.Machine.execLockTake tenant v s
  | .lockRelease tenant v => Sys2Proof.Machine.execLockRelease tenant v s
  | .lockRenew tenant v => Sys2Proof.Machine.execLockRenew tenant v s
  | .leaseExpiry => Sys2Proof.Machine.execLeaseExpiry s
  | .registerWrite tenant off size v => Sys2Proof.Machine.execRegisterWrite tenant off size v s
  | .pkgNumWrite tenant v => Sys2Proof.Machine.execPkgNumWrite tenant v s
  | .fwStage tenant v => Sys2Proof.Machine.execFwStage tenant v s
  | .fwStageDone r => Sys2Proof.Machine.execFwStageDone r s
  | .fwActivate tenant v => Sys2Proof.Machine.execFwActivate tenant v s
  | .fwCommit tenant v => Sys2Proof.Machine.execFwCommit tenant v s
  | .fwRevert tenant v => Sys2Proof.Machine.execFwRevert tenant v s
  | .saleyReattach => Sys2Proof.Machine.execSaleyReattach s
  | .mgmtWatchdog => Sys2Proof.Machine.execMgmtWatchdog s
  | .trialTimeout => Sys2Proof.Machine.execTrialTimeout s
  | .calRecordWrite => Sys2Proof.Machine.execCalRecordWrite s
  | .eventArrival cause source data => Sys2Proof.Machine.execEventArrival cause source data s
  | .eventRecordWrite ok => Sys2Proof.Machine.execEventRecordWrite ok s
  | .evtCtlWrite tenant v => Sys2Proof.Machine.execEvtCtlWrite tenant v s
  | .evtHeadWrite tenant v => Sys2Proof.Machine.execEvtHeadWrite tenant v s
  | .mctpMessage m => Sys2Proof.Machine.execMctpMessage m s
  | .tapReset => Sys2Proof.Machine.execTapReset s
  | .extest v => Sys2Proof.Machine.execExtest v s
  | .idcode => Sys2Proof.Machine.execIdcode s
  | .samplePreload v => Sys2Proof.Machine.execSamplePreload v s
  | .bypass => Sys2Proof.Machine.execBypass s
  | .dbgHalt c => Sys2Proof.Machine.execDbgHalt c s
  | .dbgResume c => Sys2Proof.Machine.execDbgResume c s
  | .dbgStep c => Sys2Proof.Machine.execDbgStep c s
  | .dbgRegRead c => Sys2Proof.Machine.execDbgRegRead c s
  | .dbgRegWrite c => Sys2Proof.Machine.execDbgRegWrite c s
  | .dbgLsRead c => Sys2Proof.Machine.execDbgLsRead c s
  | .dbgLsWrite c => Sys2Proof.Machine.execDbgLsWrite c s
  | .dbgAddr c => Sys2Proof.Machine.execDbgAddr c s
  | .dbgMemRead c => Sys2Proof.Machine.execDbgMemRead c s
  | .dbgMemWrite c => Sys2Proof.Machine.execDbgMemWrite c s
  | .dbgBpSet c => Sys2Proof.Machine.execDbgBpSet c s
  | .dbgBpClr c => Sys2Proof.Machine.execDbgBpClr c s
  | .dbgWpSet c => Sys2Proof.Machine.execDbgWpSet c s
  | .dbgWpClr c => Sys2Proof.Machine.execDbgWpClr c s
  | .dbgStatus c => Sys2Proof.Machine.execDbgStatus c s
  | .dbgCtlWrite tenant v => Sys2Proof.Machine.execDbgCtlWrite tenant v s
  | .epochPrepare tenant v => Sys2Proof.Machine.execEpochPrepare tenant v s
  | .epochAck unit => Sys2Proof.Machine.execEpochAck unit s
  | .epochPrepareTimeout => Sys2Proof.Machine.execEpochPrepareTimeout s
  | .epochCommit tenant v => Sys2Proof.Machine.execEpochCommit tenant v s
  | .epochBoundary => Sys2Proof.Machine.execEpochBoundary s
  | .epochDrainDone => Sys2Proof.Machine.execEpochDrainDone s
  | .hbmChannelTrainingLoss p n ch addr => Sys2Proof.Machine.execHbmChannelTrainingLoss p n ch addr s
  | .gpLinkDown port => Sys2Proof.Machine.execGpLinkDown port s
  | .gpLinkUp port => Sys2Proof.Machine.execGpLinkUp port s
  | .pcieLinkDown port => Sys2Proof.Machine.execPcieLinkDown port s
  | .atsInvalidation port fn page => Sys2Proof.Machine.execAtsInvalidation port fn page s
  | .notifyClear tenant j v => Sys2Proof.Machine.execNotifyClear tenant j v s
  | .opticalDieReady o => Sys2Proof.Machine.execOpticalDieReady o s
  | .stateEngineRequestDone stack req => Sys2Proof.Machine.execStateEngineRequestDone stack req s
  | .matrixQueueRetire c => Sys2Proof.Machine.execMatrixQueueRetire c s
  | .supplyGood => Sys2Proof.Machine.execSupplyGood s
  | .supplyLostBeforeReference => Sys2Proof.Machine.execSupplyLostBeforeReference s

end Sys2Proof.Machine
end

