-- ==== Sys2Proof/Machine/Tick.lean ====
section
/-! DEFINITION. What passes when no command waits: one cycle of the reference (DESIGN CHOICE, log entry 34). -/
namespace Sys2Proof.Machine

/-- TIMEBASE counts 10 ns per cycle of the 100 MHz reference (R43); while an offset is slewed away, one nanosecond more or less in
501 cycles, which is less than 200 parts per million (R45). -/
def tickTime (s : State) : State :=
  let t := s.timebase + 10
  let d : Int := if t < s.slewAt + 5010 then 0 else if 0 < s.slew then 1 else if s.slew < 0 then -1 else 0
  let now := ((t : Int) + d).toNat
  { s with timebase := now, slew := s.slew - d, slewAt := if d = 0 then s.slewAt else now }

/-- A steering point that a peer announced has come: an engine whose peer has moved away is dark (R349, R350). -/
def annDue (s : State) (eng : Nat) : State :=
  let x := getEng s eng
  match x.ann with
  | some (t, moves) =>
    if s.timebase < t then s
    else if moves && linkState s eng == 4 then peerGone s eng
    else setEng s eng { x with ann := none }
  | none => s

/-- Messages of collectives to other packages have left (R371, R380). -/
def sentFar (s : State) : State :=
  { s with hubs := s.hubs.map (fun e => (e.1, { e.2 with msgs := e.2.msgs.filter (fun m => m.1 % 65536 == pkgNum s) })) }

/-- An idle cycle of the package: the clock, buffers that drain, instances whose relock has ended, announced steering points. -/
def tick (s : State) : State :=
  if !(running s) then s
  else
    let s := if s.tbStarted then tickTime s else s
    let s := gpTick (sentFar (brDrain s))
    let s := s.engs.foldl (fun s e => lineTick (engSend (sparelessDue (annDue s e.1) e.1) e.1) e.1) s
    collResume s

end Sys2Proof.Machine
end

