-- ==== Sys2Proof/Safety.lean ====
section
/-! DEFINITION. What a safe run is, and the conditions that statements about commands are made under. -/
namespace Sys2Proof

open Machine

/-- A step goes on. -/
def stepsOn (s : State) : Prop := ∃ t, step s = .next t

/-- One step leads from a state to another. -/
def Steps (s t : State) : Prop := step s = .next t

/-- A run of `k` steps that never stops. -/
def RunsTo : Nat → State → State → Prop
  | 0, s, t => s = t
  | k + 1, s, t => ∃ m, Steps s m ∧ RunsTo k m t

/-- The form every state keeps: both memories and the register map in their canonical form. -/
def canonical (s : State) : Prop := Memory.wf s.mem = true ∧ Memory.wf s.hostMem = true ∧ mapWf s.bar0 = true

/-- A BAR0 write of `tenant` at `off` takes effect: BAR0 is open, the tenant holds ADMIN_LOCK, the block is there and ready (R496, R497). -/
def writeOpen (s : State) (tenant off : Nat) : Prop :=
  bar0Open s = true ∧ ownerTenant s = some tenant ∧ blockReach s (blockOf off).1 = .open_

/-- Operation `op` of partition `p` is a chosen descriptor of opcode `opc` that has not begun (R279). -/
def chosen (s : State) (p op opc : Nat) (o : Op) : Prop :=
  p < nParts s ∧ getOp s p op = some o ∧ dOpc o.desc = opc ∧ o.phase = .chosen

/-- Engine `eng` exists and its die is up. -/
def engReady (s : State) (eng : Nat) : Prop := eng < 64 ∧ engLive s eng = true

/-- Thread `t` exists. -/
def threadThere (s : State) (t : ThreadRef) : Prop := refOk s t = true

/-- The row, thread and word of a command that issues a core instruction; none for every other command. -/
def coreRow : Instr → Option (CoreRow × ThreadRef × Word)
  | .mclaim t w => some (.mclaim, t, w)
  | .mrel t w => some (.mrel, t, w)
  | .mcfg t w => some (.mcfg, t, w)
  | .mstream t w => some (.mstream, t, w)
  | .mrun t w => some (.mrun, t, w)
  | .mswap t w => some (.mswap, t, w)
  | .mzero t w => some (.mzero, t, w)
  | .mstat t w => some (.mstat, t, w)
  | .alu t w => some (.alu, t, w)
  | .alui t w => some (.alui, t, w)
  | .cmp t w => some (.cmp, t, w)
  | .cmpi t w => some (.cmpi, t, w)
  | .movi t w => some (.movi, t, w)
  | .movhi t w => some (.movhi, t, w)
  | .sel t w => some (.sel, t, w)
  | .plog t w => some (.plog, t, w)
  | .rdsr t w _ => some (.rdsr, t, w)
  | .br t w => some (.br, t, w)
  | .jal t w => some (.jal, t, w)
  | .jr t w => some (.jr, t, w)
  | .endThread t w => some (.endThread, t, w)
  | .yield t w => some (.yield, t, w)
  | .ldl t w => some (.ldl, t, w)
  | .stl t w => some (.stl, t, w)
  | .ldr t w => some (.ldr, t, w)
  | .str t w => some (.str, t, w)
  | .ldg t w _ => some (.ldg, t, w)
  | .stg t w _ => some (.stg, t, w)
  | .atom t w => some (.atom, t, w)
  | .fenceRel t w => some (.fenceRel, t, w)
  | .fenceAcq t w => some (.fenceAcq, t, w)
  | .fenceFull t w => some (.fenceFull, t, w)
  | .waitl t w => some (.waitl, t, w)
  | .waitc t w => some (.waitc, t, w)
  | .barc t w => some (.barc, t, w)
  | .barl t w => some (.barl, t, w)
  | .lcset t w => some (.lcset, t, w)
  | .lcadd t w => some (.lcadd, t, w)
  | .pref t w => some (.pref, t, w)
  | .spset t w => some (.spset, t, w)
  | .spstop t w => some (.spstop, t, w)
  | .cpreq t w => some (.cpreq, t, w)
  | .nop t w => some (.nop, t, w)
  | .trap t w => some (.trap, t, w)
  | .nwread t w => some (.nwread, t, w)
  | .phint t w => some (.phint, t, w)
  | .vint t w => some (.vint, t, w)
  | .vlog t w => some (.vlog, t, w)
  | .vshf t w => some (.vshf, t, w)
  | .vfp t w => some (.vfp, t, w)
  | .vfma t w => some (.vfma, t, w)
  | .vcmp t w => some (.vcmp, t, w)
  | .vsel t w => some (.vsel, t, w)
  | .vmov t w => some (.vmov, t, w)
  | .vext t w => some (.vext, t, w)
  | .vins t w => some (.vins, t, w)
  | .vapx t w => some (.vapx, t, w)
  | .vf2i t w => some (.vf2i, t, w)
  | .vi2f t w => some (.vi2f, t, w)
  | .vpack t w => some (.vpack, t, w)
  | .vunpk t w => some (.vunpk, t, w)
  | .vmde t w => some (.vmde, t, w)
  | .vmdd t w => some (.vmdd, t, w)
  | .vscale t w => some (.vscale, t, w)
  | .vred t w => some (.vred, t, w)
  | .currantBarrier t w => some (.curreq, t, w)
  | .smallAllReduce t w => some (.curreq, t, w)
  | .smallBcast t w => some (.curreq, t, w)
  | .seOpen (.thread t w) => some (.sereq, t, w)
  | .seClose (.thread t w) => some (.sereq, t, w)
  | .seAttend (.thread t w) => some (.sereq, t, w)
  | .seSelect (.thread t w) => some (.sereq, t, w)
  | .seAttendSel (.thread t w) => some (.sereq, t, w)
  | .seAppend (.thread t w) => some (.sereq, t, w)
  | .seMoveKeepRange (.thread t w) => some (.sereq, t, w)
  | .seMoveKeepList (.thread t w) => some (.sereq, t, w)
  | .seMoveOut (.thread t w) => some (.sereq, t, w)
  | .seMoveIn (.thread t w) => some (.sereq, t, w)
  | .seStatsContext (.thread t w) => some (.sereq, t, w)
  | .seStatsStack (.thread t w) => some (.sereq, t, w)
  | _ => none

end Sys2Proof
end

