-- ==== Sys2Proof/Certificates/Slice0/Obligations.lean ====
section
/-! DEFINITION. The statements for the provers: what every step keeps, when an instruction takes effect, and, family by family, where each
command completes and with what. -/
open Sys2Proof Sys2Proof.Machine

/-- The command at the front of the queue is what a step runs. -/
def Obligations.StepRunsFrontCommand : Prop :=
  ∀ (c : Instr) (rest : List Instr) (s : State), s.pending = c :: rest → step s = exec c { s with pending := rest }

/-- The model's choice (log entry 34): an empty queue passes one cycle of the 100 MHz reference. -/
def Obligations.IdleStepTicks : Prop :=
  ∀ s : State, s.pending = [] →
    step s = .next (tick s) ∧
    (running s = false → tick s = s) ∧
    (s.slew = 0 → tickTime s = { s with timebase := s.timebase + 10 })

/-- The invariant of `StepKeepsCanonicalForm` holds after reset. -/
def Obligations.ResetIsCanonical : Prop := canonical State.reset ∧ State.reset.pending = []

/-- No command, and no idle cycle, breaks the canonical form of device memory, host memory or the register map. -/
def Obligations.StepKeepsCanonicalForm : Prop := ∀ s t : State, canonical s → step s = .next t → canonical t

/-- No command changes a fuse or the rest of the queue, over runs of any length from any state. -/
def Obligations.RunsKeepIdentity : Prop :=
  ∀ (k : Nat) (s t : State), RunsTo k s t →
    t.fuses = s.fuses ∧ t.pending = s.pending.drop k ∧ s.free ≤ t.free ∧ (canonical s → canonical t)

/-- Ordinary data never ends a run: a refusal is for operands that name nothing or belong to another row. -/
def Obligations.StepNeverFaults : Prop :=
  ∀ s : State, (∀ f : Fault, step s ≠ .fault f) ∧ (∀ r : Refusal, step s = .refused r → r = .illFormed ∨ r = .notThisCommand)

/-- Exactly when an instruction's own effect happens (R89, R90, R93 to R95, R86, R492). -/
def Obligations.InstructionGoes : Prop :=
  ∀ (r : CoreRow) (t : ThreadRef) (w : Word) (s : State),
    fateOf r t w s = .go ↔
      (threadThere s t ∧ canIssue s t = true ∧ (threadOf s t).pc.toNat % 8 = 0 ∧ fetchStatus s t = .ok ∧
        rowOf w = some r ∧ fieldsOk r w = true ∧ (threeSrc r = true ∨ guardOn (threadOf s t) w = true) ∧
        atBreak s t = false ∧ overQuota (threadOf s t) r w = false ∧ mustWait s t r w = false)

/-- The fates of R89, R94 to R96 and R492, for every row of the instruction tables at once. -/
def Obligations.InstructionFates : Prop :=
  ∀ (i : Instr) (r : CoreRow) (t : ThreadRef) (w : Word) (s : State), coreRow i = some (r, t, w) →
    (∀ c, fateOf r t w s = .trap c → exec i s = .next (takeTrap (fetched s t) t c [])) ∧
    (fateOf r t w s = .skip → exec i s = .next (fin (fetched s t) t (threadOf s t))) ∧
    (fateOf r t w s = .hold → exec i s = .next s) ∧
    (fateOf r t w s = .break_ → exec i s = .next (leaf (putThread (fetched s t) t { threadOf s t with halted := true }) 29 0)) ∧
    (threadThere s t → canIssue s t = true → (threadOf s t).pc.toNat % 8 ≠ 0 → exec i s = .next (takeTrap s t .misaligned [])) ∧
    (threadThere s t → canIssue s t = true → (threadOf s t).pc.toNat % 8 = 0 → fetchStatus s t = .ok → rowOf w = none →
      exec i s = .next (takeTrap (fetched s t) t .illegal [])) ∧
    (fateOf r t w s = .go → r ≠ .curreq → r ≠ .sereq → ∃ s', exec i s = .next s')

/-- R96 and R97: the thread stops before its instruction, and the whole launch stops issuing. -/
def Obligations.TrapEndsLaunch : Prop :=
  ∀ (s : State) (t : ThreadRef) (c : Trap) (arg : List (Nat × Nat)) (l : Launch),
    t.th < 16 → (getCore s (tKey t)).launch = some l →
      let s' := takeTrap s t c arg
      (threadOf s' t).stat = .trapped c ∧ (threadOf s' t).pc = (threadOf s t).pc ∧ (threadOf s' t).regs = (threadOf s t).regs ∧
      (threadOf s' t).preds = (threadOf s t).preds ∧
      (∀ (k th : Nat), th < 16 → ofLaunch (getCore s' k) l.part l.op = true → alive (getThread (getCore s' k) th) = false) ∧
      (∀ k, (getCore s' k).launch = (getCore s k).launch) ∧
      (l.part < 16 → rbit s' (rIntL1 l.part) 50 = true) ∧ s'.mem = s.mem ∧ s'.timebase = s.timebase

/-- The frame of `fin`, which ends every instruction that goes on to the next word. -/
def Obligations.ThreadMovesOn : Prop :=
  ∀ (s : State) (t : ThreadRef) (x : ThreadSt), t.th < 16 →
    let s' := fin s t x
    (threadOf s' t).pc = x.pc + 8 ∧ (threadOf s' t).stat = .run ∧ (threadOf s' t).regs = x.regs ∧ (threadOf s' t).preds = x.preds ∧
    (threadOf s' t).claim = x.claim ∧ (threadOf s' t).fSat = x.fSat ∧ (threadOf s' t).fNan = x.fNan ∧ (threadOf s' t).fInf = x.fInf ∧
    (threadOf s' t).fOvf = x.fOvf ∧ (threadOf s' t).halted = (x.halted || x.stepping) ∧
    (∀ u : ThreadRef, u.th < 16 → tKey u ≠ tKey t ∨ u.th ≠ t.th → threadOf s' u = threadOf s u) ∧
    (∀ k, k ≠ tKey t → getCore s' k = getCore s k) ∧
    (∃ b, s' = { s with cores := s'.cores, bar0 := b } ∧ (x.stepping = false → b = s.bar0))

/-- ALU, ALUI, CMP, CMPI, MOVI, MOVHI, SEL, PLOG, RDSR, NOP and TRAP. -/
def Obligations.ScalarInstructions : Prop :=
  (∀ (t : ThreadRef) (w : Word) (s : State),
       let q := fetched s t
       let x := threadOf s t
       let a := rd x (wA w)
       let res (b : Word) (v : Word) : Prop :=
         (wMinor w = 0 → v = a + b) ∧ (wMinor w = 1 → v = a - b) ∧ (wMinor w = 2 → v = a * b) ∧
         (wMinor w = 3 → v = BitVec.ofNat 64 (a.toNat * b.toNat / 2 ^ 64)) ∧
         (wMinor w = 4 → v = BitVec.ofInt 64 (a.toInt * b.toInt / 2 ^ 64)) ∧
         (wMinor w = 5 → v = a &&& b) ∧ (wMinor w = 6 → v = a ||| b) ∧ (wMinor w = 7 → v = a ^^^ b) ∧
         (wMinor w = 8 → v = a <<< (b.toNat % 64)) ∧ (wMinor w = 9 → v = a >>> (b.toNat % 64)) ∧
         (wMinor w = 10 → v = a.sshiftRight (b.toNat % 64)) ∧
         (wMinor w = 11 → v.toInt = min a.toInt b.toInt) ∧ (wMinor w = 12 → v.toInt = max a.toInt b.toInt) ∧
         (wMinor w = 13 → v.toNat = min a.toNat b.toNat) ∧ (wMinor w = 14 → v.toNat = max a.toNat b.toNat)
       (fateOf .alu t w s = .go → ∃ v, res (rd x (wB w)) v ∧ exec (.alu t w) s = .next (fin q t (wr x (wDst w) v))) ∧
       (fateOf .alui t w s = .go → ∃ v, res (sImm w) v ∧ exec (.alui t w) s = .next (fin q t (wr x (wDst w) v)))) ∧
  (∀ (t : ThreadRef) (w : Word) (s : State) (cycles : Nat),
       let q := fetched s t
       let x := threadOf s t
       let a := rd x (wA w)
       let cmp (b : Word) (v : Bool) : Prop :=
         (wMinor w = 0 → v = decide (a = b)) ∧ (wMinor w = 1 → v = decide (a ≠ b)) ∧
         (wMinor w = 2 → v = decide (a.toInt < b.toInt)) ∧ (wMinor w = 3 → v = decide (b.toInt ≤ a.toInt)) ∧
         (wMinor w = 4 → v = decide (a.toNat < b.toNat)) ∧ (wMinor w = 5 → v = decide (b.toNat ≤ a.toNat))
       let c := getCore q (tKey t)
       (fateOf .cmp t w s = .go → ∃ v, cmp (rd x (wB w)) v ∧ exec (.cmp t w) s = .next (fin q t (wrP x (wDst w) v))) ∧
       (fateOf .cmpi t w s = .go → ∃ v, cmp (sImm w) v ∧ exec (.cmpi t w) s = .next (fin q t (wrP x (wDst w) v))) ∧
       (fateOf .movi t w s = .go → exec (.movi t w) s = .next (fin q t (wr x (wDst w) ((w.setWidth 32).signExtend 64)))) ∧
       (fateOf .movhi t w s = .go →
         exec (.movhi t w) s = .next (fin q t (wr x (wDst w) (setFld (rd x (wDst w)) 63 32 (fld w 31 0))))) ∧
       (fateOf .sel t w s = .go →
         exec (.sel t w) s = .next (fin q t (wr x (wDst w) (if rdP x (fld w 2 0) then a else rd x (wB w))))) ∧
       (fateOf .plog t w s = .go → ∃ v,
         (wMinor w = 0 → v = (rdP x (wA w) && rdP x (wB w))) ∧ (wMinor w = 1 → v = (rdP x (wA w) || rdP x (wB w))) ∧
         (wMinor w = 2 → v = (rdP x (wA w) ^^ rdP x (wB w))) ∧ (wMinor w = 3 → v = (rdP x (wA w) && !(rdP x (wB w)))) ∧
         exec (.plog t w) s = .next (fin q t (wrP x (wDst w) v))) ∧
       (fateOf .rdsr t w s = .go → ∃ v : Word,
         (fld w 7 0 = 0x00 → v = BitVec.ofNat 64 t.th) ∧ (fld w 7 0 = 0x01 → v = BitVec.ofNat 64 t.core) ∧
         (fld w 7 0 = 0x02 → v = BitVec.ofNat 64 t.cl) ∧ (fld w 7 0 = 0x03 → v = BitVec.ofNat 64 t.die) ∧
         (fld w 7 0 = 0x04 → v = BitVec.ofNat 64 (pkgNum q)) ∧ (fld w 7 0 = 0x05 → v = BitVec.ofNat 64 q.timebase) ∧
         (∀ l, c.launch = some l → (fld w 7 0 = 0x06 → v = BitVec.ofNat 64 l.tenant) ∧ (fld w 7 0 = 0x07 → v = BitVec.ofNat 64 l.jobTag)) ∧
         (fld w 7 0 = 0x08 → v = BitVec.ofNat 64 x.index) ∧ (fld w 7 0 = 0x09 → v = BitVec.ofNat 64 x.quota) ∧
         (fld w 7 0 = 0x0A → v = BitVec.ofNat 64 cycles) ∧
         (∀ i, i < 32 → fld w 7 0 = 0x20 + i → v = (vget 0 c.lc i).setWidth 64) ∧
         exec (.rdsr t w cycles) s = .next (fin q t (wr x (wDst w) v))) ∧
       (fateOf .nop t w s = .go → exec (.nop t w) s = .next (fin q t x)) ∧
       (fateOf .trap t w s = .go → exec (.trap t w) s = .next (takeTrap q t .software [(2, fld w 15 0)])))

/-- The registers of R85 behind their two accessors. -/
def Obligations.RegisterZeroes : Prop :=
  ∀ (x : ThreadSt) (v : Word) (b : Bool),
    rd x 0 = 0 ∧ rdP x 0 = true ∧ wr x 0 v = x ∧ wrP x 0 b = x ∧
    (∀ r, 0 < r → r < 32 → rd (wr x r v) r = v) ∧ (∀ r q, q ≠ r → rd (wr x r v) q = rd x q) ∧
    (∀ p, 0 < p → p < 8 → rdP (wrP x p b) p = b) ∧ (∀ p q, p < 8 → q ≠ p → rdP (wrP x p b) q = rdP x q) ∧
    (∀ r p, rdP (wr x r v) p = rdP x p ∧ rd (wrP x p b) r = rd x r) ∧ (∀ r, (wr x r v).pc = x.pc) ∧ (∀ p, (wrP x p b).pc = x.pc)

/-- The pc and the return address of the three branches; END with and without a pending store fault; YIELD and its end. -/
def Obligations.ControlFlow : Prop :=
  (∀ (t : ThreadRef) (w : Word) (s : State), t.th < 16 →
       let q := fetched s t
       let x := threadOf s t
       let target : BitVec 48 := x.pc + ((w.setWidth 32).signExtend 64 : Word).setWidth 48 * 8
       let back : Word := (x.pc + 8).setWidth 64
       let only (s' : State) : Prop := ∃ b, s' = { q with cores := s'.cores, bar0 := b } ∧ (x.stepping = false → b = q.bar0)
       (fateOf .br t w s = .go → ∃ s', exec (.br t w) s = .next s' ∧ (threadOf s' t).pc = target ∧
         (threadOf s' t).regs = x.regs ∧ only s') ∧
       (fateOf .jal t w s = .go → ∃ s', exec (.jal t w) s = .next s' ∧ (threadOf s' t).pc = target ∧
         (∀ r, r < 32 → rd (threadOf s' t) r = if r = wDst w ∧ r ≠ 0 then back else rd x r) ∧ only s') ∧
       (fateOf .jr t w s = .go → ∃ s', exec (.jr t w) s = .next s' ∧ (threadOf s' t).pc = (rd x (wA w)).setWidth 48 ∧
         (∀ r, r < 32 → rd (threadOf s' t) r = if r = wDst w ∧ r ≠ 0 then back else rd x r) ∧ only s')) ∧
  (∀ (t : ThreadRef) (w : Word) (s : State),
       let q := fetched s t
       let x := threadOf s t
       let k := tKey t
       (fateOf .endThread t w s = .go → x.pend = none →
         (let s' := stepLeaf x (putThread q t { x with stat := .ended, stepping := false })
          exec (.endThread t w) s = .next (setCore s' k (releaseDead (wakeBarc (getCore s' k)))))) ∧
       (∀ st a, fateOf .endThread t w s = .go → x.pend = some (st, a) →
         exec (.endThread t w) s =
           .next (takeTrap (putThread q t { x with pend := none }) t (accessTrap st) [(1, stCode st), (8, a)])) ∧
       (fateOf .yield t w s = .go → fld w 15 0 = 0 → exec (.yield t w) s = .next (fin q t x)) ∧
       (fateOf .yield t w s = .go → fld w 15 0 ≠ 0 →
         exec (.yield t w) s = .next (stepLeaf x (putThread q t { retire x with stat := .yielding (fld w 15 0) }))) ∧
       (∀ n, threadThere s t → x.stat = .yielding n → exec (.yieldExpiry t) s = .next (putThread s t { x with stat := .run })))

/-- LCSET, LCADD, WAITL, WAITC, their timeout, NWREAD; arrival and release of the barriers of R125. The ILLEGAL clause of BARC is the model's reading (log entry 13). -/
def Obligations.CountersAndBarriers : Prop :=
  (∀ (t : ThreadRef) (w : Word) (s : State),
       let q := fetched s t
       let x := threadOf s t
       let k := tKey t
       let c := getCore q k
       let i := fld w 4 0
       let thr : Word32 := (rd x (wA w)).setWidth 32
       let dl : Option Nat := if fld w 31 16 = 0 then none else some (q.timebase + 1000 * fld w 31 16)
       let f := fin q t x
       (fateOf .lcset t w s = .go → exec (.lcset t w) s =
         .next (setCore f k (wakeLocal { getCore f k with lc := vset (getCore f k).lc i ((rd x (wA w)).setWidth 32) }))) ∧
       (fateOf .lcadd t w s = .go → exec (.lcadd t w) s =
         .next (setCore f k (wakeLocal { getCore f k with
           lc := vset (getCore f k).lc i (vget 0 (getCore f k).lc i + (rd x (wA w)).setWidth 32) }))) ∧
       (fateOf .waitl t w s = .go → (vget 0 c.lc i - thr).toInt ≥ 0 → exec (.waitl t w) s = .next (fin q t (wrP x (wDst w) true))) ∧
       (fateOf .waitl t w s = .go → (vget 0 c.lc i - thr).toInt < 0 →
         exec (.waitl t w) s = .next (putThread q t { x with stat := .waitLocal i thr (wDst w) dl, bpSkip := false })) ∧
       (let p := fld (rd x (wA w)) 19 16
        let j := fld (rd x (wA w)) 15 0
        let th : Word32 := (rd x (wB w)).setWidth 32
        fateOf .waitc t w s = .go → x.pend = none →
         (p ≥ nParts q → exec (.waitc t w) s = .next (takeTrap q t .unsupported [])) ∧
         (p < nParts q → (getArr q p j - th).toInt ≥ 0 → exec (.waitc t w) s = .next (fin q t (wrP x (wDst w) true))) ∧
         (p < nParts q → (getArr q p j - th).toInt < 0 →
           exec (.waitc t w) s = .next (putThread q t { x with stat := .waitCounter p j th (wDst w) dl, bpSkip := false }))) ∧
       (∀ (j : Nat) (th : Word32) (pd d : Nat), threadThere s t → x.stat = .waitLocal j th pd (some d) →
         exec (.waitInstrTimeout t) s = .next (fin { s with timebase := max s.timebase d } t (wrP x pd false))) ∧
       (∀ (p j : Nat) (th : Word32) (pd d : Nat), threadThere s t → x.stat = .waitCounter p j th pd (some d) →
         exec (.waitInstrTimeout t) s = .next (fin { s with timebase := max s.timebase d } t (wrP x pd false))) ∧
       (fateOf .nwread t w s = .go →
         exec (.nwread t w) s = .next (fin (setCore q k (if fld w 2 2 = 1 then { c with nw := vset c.nw (fld w 1 0) 0 } else c)) t
           (wr x (wDst w) ((vget 0 c.nw (fld w 1 0)).setWidth 64))))) ∧
  (∀ (t : ThreadRef) (w : Word) (s : State), t.th < 16 →
       let q := fetched s t
       let x := threadOf s t
       let k := tKey t
       let m := fld w 15 0
       (fateOf .barc t w s = .go → nbit m t.th = false → exec (.barc t w) s = .next (takeTrap q t .illegal [])) ∧
       (fateOf .barc t w s = .go → nbit m t.th = true →
         ∃ s', exec (.barc t w) s = .next s' ∧ s' = { q with cores := s'.cores } ∧
           ((∀ i, i < 16 → i ≠ t.th → nbit m i = true → atBarrier m (getThread (getCore q k) i) = true) →
             ∀ i, i < 16 → (i = t.th ∨ (getThread (getCore q k) i).stat = .barCore m) →
               (getThread (getCore s' k) i).stat = .run ∧ (getThread (getCore s' k) i).pc = (getThread (getCore q k) i).pc + 8) ∧
           ((∃ i, i < 16 ∧ i ≠ t.th ∧ nbit m i = true ∧ atBarrier m (getThread (getCore q k) i) = false) →
             (threadOf s' t).stat = .barCore m ∧ (threadOf s' t).pc = x.pc)) ∧
       (fateOf .barl t w s = .go →
         let n := fld (rd x (wA w)) 15 0
         let s1 := putThread q t { x with stat := .barCluster (fld w 2 0) n, bpSkip := false }
         ∃ s', exec (.barl t w) s = .next s' ∧ s' = { q with cores := s'.cores } ∧
           (n ≤ atBarl s1 (clKey t.die t.cl) (fld w 2 0) →
             ∀ j th, th < 16 → clOf j = clKey t.die t.cl → (∃ n', (getThread (getCore s1 j) th).stat = .barCluster (fld w 2 0) n') →
               (getThread (getCore s' j) th).stat = .run ∧ (getThread (getCore s' j) th).pc = (getThread (getCore s1 j) th).pc + 8) ∧
           (atBarl s1 (clKey t.die t.cl) (fld w 2 0) < n → s' = s1)))

/-- LDL, STL, LDR and STR: the bytes they move and those they leave, and the delivery that loads share; the far-core clause is the model's reading (log entry 15). -/
def Obligations.LocalStore : Prop :=
  (∀ (t : ThreadRef) (w : Word) (s : State), t.th < 16 →
       let q := fetched s t
       let x := threadOf s t
       let z := wMinor w
       let a := (rd x (wA w) + (w.setWidth 32).signExtend 64).toNat % 65536
       let n := sizeBytes z
       let own := tKey t
       let far := coreKey t.die t.cl (fld (rd x (wB w)) 6 0)
       let stored (s' : State) (k : Nat) (v : Nat) : Prop :=
         (∀ i, i < n → lsGet (getCore s' k) (a + i) = BitVec.ofNat 8 (v / 256 ^ i)) ∧
         (∀ b, b < 65536 → (∀ i, i < n → b ≠ (a + i) % 65536) → lsGet (getCore s' k) b = lsGet (getCore q k) b) ∧
         (∀ k', k' ≠ k → (getCore s' k').ls = (getCore q k').ls) ∧ s'.mem = q.mem
       (fateOf .ldl t w s = .go → alignedFor z a = false → exec (.ldl t w) s = .next (takeTrap q t .misaligned [])) ∧
       (fateOf .ldl t w s = .go → alignedFor z a = true → watchHit (getCore q own) t.th true a n 1 = false →
         exec (.ldl t w) s = .next (deliver q t x w z (lsRead (getCore q own) a n))) ∧
       (fateOf .stl t w s = .go → alignedFor z a = false → exec (.stl t w) s = .next (takeTrap q t .misaligned [])) ∧
       (fateOf .stl t w s = .go → alignedFor z a = true → watchHit (getCore q own) t.th true a n 2 = false →
         ∃ s', exec (.stl t w) s = .next s' ∧ stored s' own (storeData (getCore q own) x z (wB w)) ∧ (threadOf s' t).pc = x.pc + 8 ∧
           (threadOf s' t).regs = x.regs) ∧
       (fateOf .ldr t w s = .go → alignedFor z a = true → fld (rd x (wB w)) 6 0 < 120 →
         exec (.ldr t w) s = .next (deliver q t x w z (lsRead (getCore q far) a n))) ∧
       (fateOf .ldr t w s = .go → alignedFor z a = true → 120 ≤ fld (rd x (wB w)) 6 0 →
         exec (.ldr t w) s = .next (takeTrap q t .memAccess [])) ∧
       (fateOf .str t w s = .go → alignedFor z a = true → fld (rd x (wB w)) 6 0 < 120 →
         ∃ s', exec (.str t w) s = .next s' ∧ stored s' far (storeData (getCore q own) x z (wC w)) ∧ (threadOf s' t).pc = x.pc + 8) ∧
       (fateOf .str t w s = .go → alignedFor z a = true → 120 ≤ fld (rd x (wB w)) 6 0 →
         exec (.str t w) s = .next (fin q t { x with pend := some (x.pend.getD (.access, a)) }))) ∧
  (∀ (s : State) (t : ThreadRef) (x : ThreadSt) (w : Word) (v : Nat),
       (∀ z, z < 4 → deliver s t x w z v = fin s t (wr x (wDst w) (BitVec.ofNat 64 v))) ∧
       deliver s t x w 4 v = fin s t (wr x (wDst w) ((BitVec.ofNat 8 v).signExtend 64)) ∧
       deliver s t x w 5 v = fin s t (wr x (wDst w) ((BitVec.ofNat 16 v).signExtend 64)) ∧
       deliver s t x w 6 v = fin s t (wr x (wDst w) ((BitVec.ofNat 32 v).signExtend 64)) ∧
       deliver s t x w 7 v =
         fin (setCore s (tKey t) (wrV (getCore s (tKey t)) x (wDst w) (BitVec.ofNat 1024 v))) t x)

/-- LDG, STG and ATOM: what they access and what a store leaves. -/
def Obligations.GlobalAccess : Prop :=
  (∀ (t : ThreadRef) (w : Word) (ecc : Ecc) (s : State),
       let q := fetched s t
       let x := threadOf s t
       let cl := clKey t.die t.cl
       let c := getCore q (tKey t)
       let z := wMinor w % 8
       let n := sizeBytes z
       let a := (rd x (wA w) + (w.setWidth 32).signExtend 64).toNat
       let b := (rd x (wA w)).toNat
       let m := atomWidth (wMinor w) / 8
       (fateOf .ldg t w s = .go → alignedFor z a = false → exec (.ldg t w ecc) s = .next (takeTrap q t .misaligned [])) ∧
       (fateOf .ldg t w s = .go → alignedFor z a = true → accessHeld q t a n = true → exec (.ldg t w ecc) s = .next q) ∧
       (∀ st v s1, fateOf .ldg t w s = .go → alignedFor z a = true → accessHeld q t a n = false →
         loadSplit q cl (threadWho q t) a n (wMinor w / 8) ecc = (st, v, s1) →
         (st = .ok → watchHit c t.th false a n 1 = false → exec (.ldg t w ecc) s = .next (deliver s1 t x w z v)) ∧
         (st ≠ .ok → exec (.ldg t w ecc) s = .next (takeTrap s1 t (accessTrap st) [(1, stCode st)]))) ∧
       (fateOf .stg t w s = .go → alignedFor z a = false → exec (.stg t w ecc) s = .next (takeTrap q t .misaligned [])) ∧
       (fateOf .stg t w s = .go → alignedFor z a = true → accessHeld q t a n = true → exec (.stg t w ecc) s = .next q) ∧
       (∀ f s1, fateOf .stg t w s = .go → alignedFor z a = true → accessHeld q t a n = false → watchHit c t.th false a n 2 = false →
         storeSplit q cl (threadWho q t) a n (wMinor w / 8) (storeData c x z (wB w) % 2 ^ (8 * n)) ecc = (f, s1) →
         exec (.stg t w ecc) s = .next (fin s1 t (match f with
           | some e => { x with pend := some (x.pend.getD e) }
           | none => x))) ∧
       (fateOf .atom t w s = .go → b % m ≠ 0 → exec (.atom t w) s = .next (takeTrap q t .misaligned [])) ∧
       (fateOf .atom t w s = .go → b % m = 0 → accessHeld q t b m = true → exec (.atom t w) s = .next q) ∧
       (∀ ga attr s1 d old s2, fateOf .atom t w s = .go → b % m = 0 → accessHeld q t b m = false →
         clTranslate q cl (threadWho q t) b .write = (.ok, ga, attr, s1) →
         cacheAtomic s1 cl (threadWho q t) ga (wMinor w) (rd x (wB w)).toNat (rd x (wC w)).toNat = (.ok, d, old, s2) →
         watchHit c t.th false b m 3 = false →
         exec (.atom t w) s = .next (fin (noteDegraded s2 (threadWho q t) d) t (wr x (wDst w) (BitVec.ofNat 64 old)))) ∧
       (∀ addr mem, threadThere s t → exec (.storeFault t addr mem) s =
         .next (if alive x then putThread s t { x with pend := some (x.pend.getD (if mem then .faultMem else .access, addr)) } else s))) ∧
  (∀ (t : ThreadRef) (w : Word) (ecc : Ecc) (s s1 : State) (ga p off : Nat), t.th < 16 →
       let q := fetched s t
       let x := threadOf s t
       let cl := clKey t.die t.cl
       let z := wMinor w % 8
       let n := sizeBytes z
       let a := (rd x (wA w) + (w.setWidth 32).signExtend 64).toNat
       let v := storeData (getCore q (tKey t)) x z (wB w)
       fateOf .stg t w s = .go → alignedFor z a = true → accessHeld q t a n = false → a % 64 + n ≤ 64 →
       clTranslate q cl (threadWho q t) a .write = (.ok, ga, 2, s1) → ga % 64 = a % 64 → homeOf s1 ga = .mem p off →
         ∃ s', exec (.stg t w ecc) s = .next s' ∧
           (∀ k, k < memKey p off ∨ memKey p off + n ≤ k → memByte s' k = memByte s1 k) ∧
           ((threadOf s' t).pend = none → ∀ i, i < n → memByte s' (memKey p off + i) = BitVec.ofNat 8 (v / 256 ^ i)))

/-- The three fences of a thread and its three prefetch instructions. -/
def Obligations.FencesAndPrefetch : Prop :=
  ∀ (t : ThreadRef) (w : Word) (s : State),
    let q := fetched s t
    let x := threadOf s t
    let cl := clKey t.die t.cl
    let who := threadWho q t
    let sc := fld w 1 0
    let i := fld w 20 16
    (∀ u, fenceRel u t 0 = u ∧ fenceAcq u t 0 = u) ∧
    (x.pend = none →
      (fateOf .fenceRel t w s = .go → exec (.fenceRel t w) s = .next (fin (fenceRel q t sc) t x)) ∧
      (fateOf .fenceAcq t w s = .go → exec (.fenceAcq t w) s = .next (fin (fenceAcq q t sc) t x)) ∧
      (fateOf .fenceFull t w s = .go → exec (.fenceFull t w) s = .next (fin (fenceAcq (fenceRel q t sc) t sc) t x))) ∧
    (∀ st a, x.pend = some (st, a) →
      let out := Host.Outcome.next (takeTrap (putThread q t { x with pend := none }) t (accessTrap st) [(1, stCode st), (8, a)])
      (fateOf .fenceRel t w s = .go → exec (.fenceRel t w) s = out) ∧ (fateOf .fenceAcq t w s = .go → exec (.fenceAcq t w) s = out) ∧
      (fateOf .fenceFull t w s = .go → exec (.fenceFull t w) s = out)) ∧
    (fateOf .pref t w s = .go → (rd x (wB w)).toNat > 2 ^ 20 → exec (.pref t w) s = .next (takeTrap q t .illegal [])) ∧
    (fateOf .pref t w s = .go → rd x (wB w) = 0 → exec (.pref t w) s = .next (fin q t x)) ∧
    (fateOf .pref t w s = .go → 0 < (rd x (wB w)).toNat → (rd x (wB w)).toNat ≤ 2 ^ 20 →
      let a := (rd x (wA w)).toNat
      let last := a + (rd x (wB w)).toNat - 1
      exec (.pref t w) s = .next (fin (prefetchRun q cl who (wMinor w) (last / 128 + 1 - a / 128) (a / 128 * 128)) t x)) ∧
    (fateOf .spset t w s = .go → (rd x (wB w)).toInt.natAbs > 4096 → exec (.spset t w) s = .next (takeTrap q t .illegal [])) ∧
    (fateOf .spset t w s = .go → (rd x (wB w)).toInt.natAbs ≤ 4096 →
      ∃ f : Pf, f.next = (rd x (wA w)).toNat ∧ f.stride = (rd x (wB w)).toInt ∧ f.left = fld w 15 0 ∧ f.directed = true ∧
        f.running = decide (fld w 15 0 ≠ 0) ∧ f.policy = fld w 22 21 ∧ f.lead = 0 ∧ f.leadMax = 64 ∧
        exec (.spset t w) s = .next (fin (pfRun (putPf q cl i f) cl i who.part 66) t x)) ∧
    (fateOf .spstop t w s = .go → ∃ s', exec (.spstop t w) s = .next s' ∧
      (vget {} (getCl s' cl).pf i).running = false ∧ s' = { q with cores := s'.cores, clusters := s'.clusters, bar0 := s'.bar0 } ∧
      (∀ j, j < 32 → j ≠ i → vget {} (getCl s' cl).pf j = vget {} (getCl q cl).pf j) ∧ (getCl s' cl).cache = (getCl q cl).cache)

/-- CPREQ, and CURREQ with the KIND_OP of each of its rows. -/
def Obligations.ThreadRequests : Prop :=
  ∀ (t : ThreadRef) (w : Word) (s : State),
    let q := fetched s t
    let x := threadOf s t
    let k := tKey t
    let c := getCore q k
    let a := ((rd x (wA w)).toNat + fld w 15 0) % 65536
    let ws := (List.range 8).map (blockWord c a)
    let w0 := blockWord c a 0
    let i : Issuer := .core k t.th q.nextJob (fld w0 12 8) (fld w0 31 16) (fld w0 63 32) (fld w0 13 13 == 1)
    let f := fin { q with nextJob := q.nextJob + 1 } t x
    let s1 := setCore f k { getCore f k with reqs := (getCore f k).reqs ++ [q.nextJob] }
    let row (kind : Nat) (j : Instr) : Prop :=
      fateOf .curreq t w s = .go → (a % 64 = 0 → fld w0 7 0 = kind) →
        (a % 64 ≠ 0 → exec j s = .next (takeTrap q t .misaligned [])) ∧
        (a % 64 = 0 → 64 ≤ c.reqs.length → exec j s = .next q) ∧
        (a % 64 = 0 → c.reqs.length < 64 → word0Ok w0 = false → exec j s = .next (localDone s1 i .badDesc 0 0 0)) ∧
        (a % 64 = 0 → c.reqs.length < 64 → word0Ok w0 = true → exec j s = .next (curRequest s1 t i ws))
    (fateOf .cpreq t w s = .go → a % 64 ≠ 0 → exec (.cpreq t w) s = .next (takeTrap q t .misaligned [])) ∧
    (fateOf .cpreq t w s = .go → a % 64 = 0 → 64 ≤ c.reqs.length → exec (.cpreq t w) s = .next q) ∧
    (fateOf .cpreq t w s = .go → a % 64 = 0 → c.reqs.length < 64 → word0Ok w0 = false →
      exec (.cpreq t w) s = .next (localDone s1 i .badDesc 0 0 0)) ∧
    (fateOf .cpreq t w s = .go → a % 64 = 0 → c.reqs.length < 64 → word0Ok w0 = true →
      (fld w0 7 0 ≠ 1 ∨ blockWord c a 5 ≠ 0 ∨ blockWord c a 6 ≠ 0 ∨ blockWord c a 7 ≠ 0) →
      exec (.cpreq t w) s = .next (localDone s1 i .badDesc 0 0 0)) ∧
    (∀ r s2, fateOf .cpreq t w s = .go → a % 64 = 0 → c.reqs.length < 64 → word0Ok w0 = true →
      fld w0 7 0 = 1 → blockWord c a 5 = 0 → blockWord c a 6 = 0 → blockWord c a 7 = 0 →
      startCopy s1 q.nextJob ((getCore s1 k).launch.getD {}).admin true [blockWord c a 1, blockWord c a 2, blockWord c a 3, blockWord c a 4]
        (threadWho s1 t) i (fld (blockWord c a 3) 48 48 == 1) = (r, s2) →
      exec (.cpreq t w) s = .next (match r with
        | some st => localDone s2 i st 0 0 0
        | none => s2)) ∧
    row 1 (.currantBarrier t w) ∧ row 2 (.smallAllReduce t w) ∧ row 3 (.smallBcast t w)

/-- The integer and the moving rows of the vector table, with their frame. -/
def Obligations.VectorInteger : Prop :=
  ∀ (t : ThreadRef) (w : Word) (s : State), t.th < 16 →
    let q := fetched s t
    let x := threadOf s t
    let c := getCore q (tKey t)
    let A (j : Nat) : Word32 := lane (srcA c x w) j
    let B (im : Word32) (j : Nat) : Word32 := lget 0 (srcB c x w im) j
    let ew := elemW w
    let el (v : Word32) (i : Nat) : Nat := fld v (ew * i + ew - 1) (ew * i)
    let onlyV (s' : State) : Prop :=
      s' = { q with cores := s'.cores, bar0 := s'.bar0 } ∧ (threadOf s' t).pc = x.pc + 8 ∧ (threadOf s' t).regs = x.regs ∧
      (threadOf s' t).preds = x.preds ∧ (getCore s' (tKey t)).ls = c.ls ∧ (getCore s' (tKey t)).arrs = c.arrs ∧
      (∀ i, i < 16 → i ≠ x.vbase + wDst w → vget 0 (getCore s' (tKey t)).vregs i = vget 0 c.vregs i)
    let onlyS (s' : State) : Prop :=
      s' = { q with cores := s'.cores, bar0 := s'.bar0 } ∧ (threadOf s' t).pc = x.pc + 8 ∧ (threadOf s' t).preds = x.preds ∧
      (getCore s' (tKey t)).vregs = c.vregs ∧ (getCore s' (tKey t)).ls = c.ls ∧
      (∀ r, r < 32 → r ≠ wDst w → rd (threadOf s' t) r = rd x r)
    let D (s' : State) (j : Nat) : Word32 := lane (rdV (getCore s' (tKey t)) (threadOf s' t) (wDst w)) j
    let flags (s' : State) (nan inf sat : Bool) : Prop :=
      (threadOf s' t).fNan = (x.fNan || nan) ∧ (threadOf s' t).fInf = (x.fInf || inf) ∧ (threadOf s' t).fSat = (x.fSat || sat) ∧
      (threadOf s' t).fOvf = x.fOvf
    let moved (s' : State) (l : List Word32) : Prop :=
      flags s' (l.any (fun v => (condOf v).nan)) (l.any (fun v => (condOf v).inf)) false
    x.vbase + wDst w < 16 →
    (fateOf .vint t w s = .go → ∃ s', exec (.vint t w) s = .next s' ∧ onlyV s' ∧
      flags s' false false ((List.range 32).any (fun j => (List.range (32 / ew)).any (fun i =>
        (vintOp (wMinor w) (fld w 7 7 == 1) (fld w 6 6 == 1) ew (el (A j) i) (el (B (intImm w ew) j) i)).2.sat))) ∧
      (∀ j i, j < 32 → i < 32 / ew → el (D s' j) i =
        (vintOp (wMinor w) (fld w 7 7 == 1) (fld w 6 6 == 1) ew (el (A j) i) (el (B (intImm w ew) j) i)).1 % 2 ^ ew) ∧
      (fld w 5 4 = 2 → fld w 6 6 = 0 → ∀ j, j < 32 →
        (wMinor w = 0 → D s' j = A j + B (intImm w 32) j) ∧ (wMinor w = 1 → D s' j = A j - B (intImm w 32) j) ∧
        (wMinor w = 2 → D s' j = A j * B (intImm w 32) j))) ∧
    (fateOf .vlog t w s = .go → ∃ s', exec (.vlog t w) s = .next s' ∧ onlyV s' ∧ flags s' false false false ∧ ∀ j, j < 32 →
      (wMinor w = 0 → D s' j = A j &&& B (intImm w 32) j) ∧ (wMinor w = 1 → D s' j = A j ||| B (intImm w 32) j) ∧
      (wMinor w = 2 → D s' j = A j ^^^ B (intImm w 32) j) ∧ (wMinor w = 3 → D s' j = A j &&& ~~~ B (intImm w 32) j)) ∧
    (fateOf .vshf t w s = .go → ∃ s', exec (.vshf t w) s = .next s' ∧ onlyV s' ∧ flags s' false false false ∧ ∀ j i, j < 32 → i < 32 / ew →
      el (D s' j) i = vshfOp (wMinor w) (fld w 7 7 == 1) ew (el (A j) i)
        (if fld w 3 2 = 3 then fld w 31 16 else el (B 0 j) i) % 2 ^ ew) ∧
    (fateOf .vsel t w s = .go → ∃ s', exec (.vsel t w) s = .next s' ∧ onlyV s' ∧ moved s' ((List.range 32).map (D s')) ∧ ∀ j, j < 32 →
      D s' j = if (rd x (wC w)).getLsbD j then A j else B (intImm w 32) j) ∧
    (fateOf .vmov t w s = .go → ∃ s', exec (.vmov t w) s = .next s' ∧ onlyV s' ∧ moved s' ((List.range 32).map (D s')) ∧ ∀ j, j < 32 → D s' j = A j) ∧
    (fateOf .vins t w s = .go → ∃ s', exec (.vins t w) s = .next s' ∧ onlyV s' ∧ moved s' [(rd x (wA w)).setWidth 32] ∧ ∀ j, j < 32 →
      D s' j = if j = fld w 12 8 then (rd x (wA w)).setWidth 32 else lane (rdV c x (wDst w)) j) ∧
    (fateOf .vext t w s = .go → ∃ s', exec (.vext t w) s = .next s' ∧ onlyS s' ∧ moved s' [A (fld w 12 8)] ∧
      (wDst w ≠ 0 → rd (threadOf s' t) (wDst w) = (A (fld w 12 8)).setWidth 64)) ∧
    (fateOf .vcmp t w s = .go → ∃ s', exec (.vcmp t w) s = .next s' ∧ onlyS s' ∧ flags s' false false false ∧ (wDst w ≠ 0 → ∀ j, j < 64 →
      (rd (threadOf s' t) (wDst w)).getLsbD j =
        (decide (j < 32) && vcmpOp (wMinor w) (fld w 7 7 == 1) (A j) (B (if wMinor w ≥ 4 then fpImm w else intImm w 32) j))))

/-- The floating-point rows of the vector table with the sticky flags of R112 and R128. -/
def Obligations.VectorFloat : Prop :=
  ∀ (t : ThreadRef) (w : Word) (s : State), t.th < 16 →
    let q := fetched s t
    let x := threadOf s t
    let c := getCore q (tKey t)
    let A (j : Nat) : Word32 := lane (srcA c x w) j
    let B (j : Nat) : Word32 := lget 0 (srcB c x w (fpImm w)) j
    let C (j : Nat) : Word32 := lane (rdV c x (wC w)) j
    let D (s' : State) (j : Nat) : Word32 := lane (rdV (getCore s' (tKey t)) (threadOf s' t) (wDst w)) j
    let lanesBy (i : Instr) (f : Nat → Word32 × Cond) : Prop :=
      ∃ s', exec i s = .next s' ∧ s' = { q with cores := s'.cores, bar0 := s'.bar0 } ∧ (threadOf s' t).pc = x.pc + 8 ∧
        (threadOf s' t).regs = x.regs ∧ (threadOf s' t).preds = x.preds ∧ (∀ j, j < 32 → D s' j = (f j).1) ∧
        (∀ i, i < 16 → i ≠ x.vbase + wDst w → vget 0 (getCore s' (tKey t)).vregs i = vget 0 c.vregs i) ∧
        (threadOf s' t).fNan = (x.fNan || (List.range 32).any (fun j => (f j).2.nan)) ∧
        (threadOf s' t).fInf = (x.fInf || (List.range 32).any (fun j => (f j).2.inf)) ∧
        (threadOf s' t).fSat = (x.fSat || (List.range 32).any (fun j => (f j).2.sat)) ∧
        (threadOf s' t).fOvf = (x.fOvf || (List.range 32).any (fun j => (f j).2.ovf))
    x.vbase + wDst w < 16 →
    (fateOf .vfp t w s = .go →
      (wMinor w = 0 → lanesBy (.vfp t w) (fun j => fpAdd (dec32 (A j)) (dec32 (B j)))) ∧
      (wMinor w = 1 → lanesBy (.vfp t w) (fun j => fpAdd (dec32 (A j)) (fvNeg (dec32 (B j))))) ∧
      (wMinor w = 2 → lanesBy (.vfp t w) (fun j => fpMul (dec32 (A j)) (dec32 (B j)))) ∧
      (wMinor w = 3 → lanesBy (.vfp t w) (fun j => fpMin (dec32 (A j)) (dec32 (B j)))) ∧
      (wMinor w = 4 → lanesBy (.vfp t w) (fun j => fpMax (dec32 (A j)) (dec32 (B j))))) ∧
    (fateOf .vfma t w s = .go →
      (wMinor w = 0 → lanesBy (.vfma t w) (fun j => fpFma (dec32 (A j)) (dec32 (B j)) (dec32 (C j)))) ∧
      (wMinor w = 1 → lanesBy (.vfma t w) (fun j => fpFma (dec32 (A j)) (dec32 (B j)) (fvNeg (dec32 (C j))))) ∧
      (wMinor w = 2 → lanesBy (.vfma t w) (fun j => fpFma (fvNeg (dec32 (A j))) (dec32 (B j)) (dec32 (C j))))) ∧
    (fateOf .vapx t w s = .go → lanesBy (.vapx t w) (fun j => (approxFn (wMinor w) (A j), approxCond (wMinor w) (A j)))) ∧
    (fateOf .vf2i t w s = .go → lanesBy (.vf2i t w) (fun j => f2i (A j))) ∧
    (fateOf .vi2f t w s = .go → lanesBy (.vi2f t w) (fun j => i2f (A j))) ∧
    (fateOf .vred t w s = .go → ∃ s', exec (.vred t w) s = .next s' ∧
      (let r := redTree (redOp (wMinor w) (fld w 6 6 == 1)) ((List.range 32).map A)
       (∀ i, i < 32 → rd (threadOf s' t) i = if i = wDst w ∧ i ≠ 0 then r.1.setWidth 64 else rd x i) ∧
       (threadOf s' t).fNan = (x.fNan || r.2.nan) ∧ (threadOf s' t).fSat = (x.fSat || r.2.sat)) ∧
      (getCore s' (tKey t)).vregs = c.vregs ∧ (threadOf s' t).pc = x.pc + 8 ∧ s' = { q with cores := s'.cores, bar0 := s'.bar0 })

/-- The format rows of the vector table. -/
def Obligations.VectorFormats : Prop :=
  ∀ (t : ThreadRef) (w : Word) (s : State), t.th < 16 →
    let q := fetched s t
    let x := threadOf s t
    let c := getCore q (tKey t)
    let a := srcA c x w
    let V (s' : State) : VReg := rdV (getCore s' (tKey t)) (threadOf s' t) (wDst w)
    let fmt := fld w 11 8
    let ew := elemWidth fmt
    let sc : Option Nat := if fld w 7 7 = 1 then some (fld (rd x (wB w)) 7 0) else none
    let goes (i : Instr) (post : State → Prop) : Prop :=
      ∃ s', exec i s = .next s' ∧ s' = { q with cores := s'.cores, bar0 := s'.bar0 } ∧ (threadOf s' t).pc = x.pc + 8 ∧ post s'
    x.vbase + wDst w < 16 →
    (fateOf .vpack t w s = .go → goes (.vpack t w) (fun s' =>
      (∀ j, j < 32 → fld (V s') (packBit w ew j + ew - 1) (packBit w ew j) = (packElem fmt sc (lane a j)).1 % 2 ^ ew) ∧
      (∀ b, b < 1024 → (∀ j, j < 32 → b < packBit w ew j ∨ packBit w ew j + ew ≤ b) →
        (V s').getLsbD b = (rdV c x (wDst w)).getLsbD b))) ∧
    (fateOf .vunpk t w s = .go → goes (.vunpk t w) (fun s' =>
      ∀ j, j < 32 → lane (V s') j = (unpackElem fmt sc (fld a (packBit w ew j + ew - 1) (packBit w ew j))).1)) ∧
    (fateOf .vmde t w s = .go → goes (.vmde t w) (fun s' =>
      V s' = BitVec.ofNat 1024 (ofBytes (encodeBlock (fld w 10 8) ((List.range 32).map (fun j => dec32 (lane a j)))).1))) ∧
    (fateOf .vmdd t w s = .go → goes (.vmdd t w) (fun s' =>
      (∀ j, j < 32 → lane (V s') j =
        (enc32 (lget (.fin false 0 0) (decodeBlock (fld w 10 8) (toBytes (blkBytes (fld w 10 8)) a.toNat)) j)).1) ∧
      (threadOf s' t).fNan = x.fNan ∧ (threadOf s' t).fInf = x.fInf ∧ (threadOf s' t).fSat = x.fSat ∧ (threadOf s' t).fOvf = x.fOvf)) ∧
    (fateOf .vscale t w s = .go → goes (.vscale t w) (fun s' =>
      ∀ r, r < 32 → rd (threadOf s' t) r =
        if r = wDst w ∧ r ≠ 0 then BitVec.ofNat 64 (blockScaleE8 fmt ((List.range 32).map (lane a))) else rd x r))

/-- R51, over the claim as the thread's next instruction sees it. -/
def Obligations.MatrixClaimTraps : Prop :=
  ∀ (t : ThreadRef) (w : Word) (s : State),
    let q := fetched s t
    let c := getCore q (tKey t)
    let v := claimView c t.th
    let m := BitVec.ofNat 4 (fld w 3 0)
    let trap (i : Instr) : Prop := exec i s = .next (takeTrap q t .matrixClaim [])
    let entry (i : Instr) (e : MatOp) : Prop :=
      exec i s = .next (fin (setCore q (tKey t) { c with mq := c.mq ++ [(t.th, e)] }) t (threadOf s t))
    (v = 0 →
      (fateOf .mrel t w s = .go → trap (.mrel t w)) ∧ (fateOf .mcfg t w s = .go → trap (.mcfg t w)) ∧
      (fateOf .mstream t w s = .go → trap (.mstream t w)) ∧ (fateOf .mrun t w s = .go → trap (.mrun t w)) ∧
      (fateOf .mswap t w s = .go → trap (.mswap t w)) ∧ (fateOf .mzero t w s = .go → trap (.mzero t w)) ∧
      (fateOf .mstat t w s = .go → trap (.mstat t w))) ∧
    (m &&& ~~~ v ≠ 0 →
      (fateOf .mrel t w s = .go → trap (.mrel t w)) ∧ (fateOf .mswap t w s = .go → trap (.mswap t w)) ∧
      (fateOf .mzero t w s = .go → trap (.mzero t w))) ∧
    (v.getLsbD (fld w 1 0) = false → fateOf .mstream t w s = .go → trap (.mstream t w)) ∧
    (m = 0 → v ≠ 0 → c.mq.length < 16 →
      (fateOf .mrel t w s = .go → entry (.mrel t w) (.rel v)) ∧ (fateOf .mswap t w s = .go → entry (.mswap t w) (.swap v)) ∧
      (fateOf .mzero t w s = .go → entry (.mzero t w) (.zero (wMinor w == 1) v)))

/-- R50: in full or not at all, and what a grant resets. -/
def Obligations.MatrixClaims : Prop :=
  ∀ (t : ThreadRef) (w : Word) (s : State), t.th < 16 → fateOf .mclaim t w s = .go →
    let q := fetched s t
    let x := threadOf s t
    let c := getCore q (tKey t)
    let m := BitVec.ofNat 4 (fld w 3 0)
    ∃ s', exec (.mclaim t w) s = .next s' ∧ s' = { q with cores := s'.cores, bar0 := s'.bar0 } ∧
      (threadOf s' t).pc = x.pc + 8 ∧ (threadOf s' t).regs = x.regs ∧
      ((∃ i, i < 16 ∧ i ≠ t.th ∧ (getThread c i).claim &&& m ≠ 0) →
        (threadOf s' t).claim = x.claim ∧ (threadOf s' t).mcfg = x.mcfg ∧ (getCore s' (tKey t)).arrs = c.arrs ∧
        (wDst w ≠ 0 → rdP (threadOf s' t) (wDst w) = false)) ∧
      ((∀ i, i < 16 → i ≠ t.th → (getThread c i).claim &&& m = 0) →
        (threadOf s' t).claim = x.claim ||| m ∧ claimView (getCore s' (tKey t)) t.th &&& m = m ∧ (threadOf s' t).mcfg = {} ∧ rdP (threadOf s' t) (wDst w) = true ∧
        ∀ a, a < 4 → (let y : ArraySt := vget {} (getCore s' (tKey t)).arrs a
          (m.getLsbD a = true → x.claim.getLsbD a = false →
            (∀ r, r < 4 → vget 0 y.bank0 r = 0 ∧ vget 0 y.bank1 r = 0) ∧ y.fill1 = false ∧
            y.sA = {} ∧ y.sAS = {} ∧ y.sB = {} ∧ y.sBS = {} ∧ flagBits y = flagBits (vget {} c.arrs a)) ∧
          ((m.getLsbD a = false ∨ x.claim.getLsbD a = true) → y = vget {} c.arrs a)))

/-- R52, R53, R69, R72, R74, R75 and R77: issue and retirement. -/
def Obligations.MatrixQueue : Prop :=
  ∀ (t : ThreadRef) (w : Word) (s : State),
    let q := fetched s t
    let x := threadOf s t
    let k := tKey t
    let c := getCore q k
    let v := claimView c t.th
    let entered (i : Instr) (y : ThreadSt) (e : MatOp) : Prop :=
      (c.mq.length < 16 → exec i s = .next (fin (setCore q k { c with mq := c.mq ++ [(t.th, e)] }) t y)) ∧
      (16 ≤ c.mq.length → exec i s = .next q)
    (v ≠ 0 →
      (∀ m : BitVec 4, m = BitVec.ofNat 4 (fld w 3 0) → m ≠ 0 → m &&& ~~~ v = 0 →
        (fateOf .mrel t w s = .go → entered (.mrel t w) x (.rel m)) ∧ (fateOf .mswap t w s = .go → entered (.mswap t w) x (.swap m)) ∧
        (fateOf .mzero t w s = .go → entered (.mzero t w) x (.zero (wMinor w == 1) m))) ∧
      (fateOf .mstream t w s = .go → v.getLsbD (fld w 1 0) = true → entered (.mstream t w) x
        (.stream (wMinor w) (fld w 1 0) ((rd x (wA w)).setWidth 16) ((rd x (wB w)).setWidth 16))) ∧
      (fateOf .mrun t w s = .go → entered (.mrun t w) x (.run v x.mcfg (fld (rd x (wA w)) 31 0) (fld w 0 0 == 1))) ∧
      (fateOf .mstat t w s = .go → entered (.mstat t w) x (.stat v (wMinor w == 0) (BitVec.ofNat 5 (wDst w)))) ∧
      (fateOf .mcfg t w s = .go →
        let g : MatCfg := { afmt := fld w 3 0, bfmt := fld w 7 4, int := fld w 8 8 == 1, ascale := fld w 9 9 == 1, bscale := fld w 10 10 == 1,
                            rows := BitVec.ofNat 16 (fld w 31 16), cols := (rd x (wA w)).setWidth 32 }
        (pairOf g.afmt g.bfmt g.int g.ascale g.bscale = none → exec (.mcfg t w) s = .next (takeTrap q t .matrixFormat [])) ∧
        (∀ p, pairOf g.afmt g.bfmt g.int g.ascale g.bscale = some p →
          ((p = 7 ∨ p = 8) ∧ dieW4a8 q t.die = false ∨ 9 ≤ p ∧ dieMedlar q t.die = false →
            exec (.mcfg t w) s = .next (takeTrap q t .unsupported [])) ∧
          (p < 7 ∨ (p < 9 ∧ dieW4a8 q t.die = true) ∨ (9 ≤ p ∧ dieMedlar q t.die = true) →
            entered (.mcfg t w) { x with mcfg := g } .cfg)))) ∧
    (∀ r : CoreRef, coreOk s r = true →
      let k := coreKey r.die r.cl r.core
      let c := getCore s k
      (c.mq = [] → exec (.matrixQueueRetire r) s = .next s) ∧
      (∀ th e rest, th < 16 → c.mq = (th, e) :: rest →
        (isRun e = true → pauseOf s (clKey r.die r.cl) = 16 → exec (.matrixQueueRetire r) s = .next s) ∧
        ((isRun e = false ∨ pauseOf s (clKey r.die r.cl) ≠ 16) →
          ∃ s', exec (.matrixQueueRetire r) s = .next s' ∧ s' = { s with cores := s'.cores } ∧ (getCore s' k).mq = rest ∧
            (∀ j, j ≠ k → getCore s' j = getCore s j) ∧ (getCore s' k).ls = c.ls ∧ (getCore s' k).vregs = c.vregs ∧
            (∀ m, e = .rel m → (getCore s' k).arrs = c.arrs ∧
              (alive (getThread c th) = true → (getThread (getCore s' k) th).claim = (getThread c th).claim &&& ~~~ m)) ∧
            (∀ m again, e = .renew m again → alive (getThread c th) = true →
              (getThread (getCore s' k) th).claim = (getThread c th).claim &&& ~~~ (m &&& ~~~ again) ∧
              ∀ a r, a < 4 → r < 4 → again.getLsbD a = true → vget 0 (vget ({} : ArraySt) (getCore s' k).arrs a).bank0 r = 0 ∧
                vget 0 (vget ({} : ArraySt) (getCore s' k).arrs a).bank1 r = 0) ∧
            (∀ kind a base step, e = .stream kind a base step → a < 4 →
              let y : ArraySt := vget {} (getCore s' k).arrs a
              let z : MStream := { base := base, step := step }
              (kind = 0 → y.sA = z) ∧ (kind = 1 → y.sAS = z) ∧ (kind = 2 → y.sB = z) ∧ (kind = 3 → y.sBS = z)) ∧
            (∀ m a, e = .swap m → a < 4 →
              (vget ({} : ArraySt) (getCore s' k).arrs a).fill1 =
                ((vget ({} : ArraySt) c.arrs a).fill1 ^^ m.getLsbD a)) ∧
            (∀ d m a r, e = .zero d m → a < 4 → r < 4 → m.getLsbD a = true →
              (d = false → vget 0 (fillBank (vget {} (getCore s' k).arrs a)) r = 0 ∧
                vget 0 (drainBank (vget {} (getCore s' k).arrs a)) r = vget 0 (drainBank (vget {} c.arrs a)) r) ∧
              (d = true → vget 0 (drainBank (vget {} (getCore s' k).arrs a)) r = 0 ∧
                vget 0 (fillBank (vget {} (getCore s' k).arrs a)) r = vget 0 (fillBank (vget {} c.arrs a)) r)) ∧
            (∀ m clear d, e = .stat m clear d → d ≠ 0 → rd (getThread (getCore s' k) th) d.toNat = statWord c m) ∧
            (∀ m g init, e = .run m g 0 init → (getCore s' k).arrs = c.arrs ∧ (getThread (getCore s' k) th).fSat = (getThread c th).fSat) ∧
            (∀ m g n init a, e = .run m g n init → m ≠ 0 → n ≠ 0 → a < 4 →
              let lead : ArraySt := vget {} c.arrs (leadOf m)
              let y : ArraySt := vget {} c.arrs a
              let z := (runArray c g init lead y a n).1
              (m.getLsbD a = false → vget {} (getCore s' k).arrs a = y) ∧
              (m.getLsbD a = true → vget {} (getCore s' k).arrs a =
                { z with sB := if a = leadOf m then { lead.sB with pos := lead.sB.pos + n } else y.sB }) ∧
              (m.getLsbD a = true → (runArray c g init lead y a n).2.sat = true → (getThread (getCore s' k) th).fSat = true)))))

/-- R65, for one cell's step, the bank that holds it, and the array's flag. -/
def Obligations.Int32Accumulation : Prop :=
  ∀ (c : CoreSt) (g : MatCfg) (lead arr : ArraySt) (i j : Nat) (acc : Word32),
    g.int = true → g.ascale = false → g.bscale = false → (g.afmt = 2 ∨ g.afmt = 4) → (g.bfmt = 2 ∨ g.bfmt = 4) →
    let av (q : Nat) : Int := sgn (elemWidth g.afmt) (groupElem c (streamAddr arr.sA (arr.sA.pos + q)) (elemWidth g.afmt) i)
    let bv (q : Nat) : Int := sgn (elemWidth g.bfmt) (groupElem c (streamAddr lead.sB (lead.sB.pos + q)) (elemWidth g.bfmt) j)
    let clamped (offs : List Nat) (a : Word32) (r : Word32 × Cond) : Prop :=
      let v := a.toInt + (offs.map (fun q => av q * bv q)).sum
      r.1.toInt = max (-(2 ^ 31)) (min (2 ^ 31 - 1) v) ∧ r.2.sat = decide (v < -(2 ^ 31) ∨ v > 2 ^ 31 - 1)
    (∀ offs, clamped offs acc (cellStep c g lead arr offs i j acc)) ∧
    (∀ (offs : List Nat) (first : Bool) (row : VReg), j < 32 → g.cols.getLsbD j = true →
      let r := rowStep c g lead arr offs first i row
      let a : Word32 := if first then 0 else lane row j
      lane r.1 j = (cellStep c g lead arr offs i j a).1 ∧ ((cellStep c g lead arr offs i j a).2.sat = true → r.2.sat = true)) ∧
    (∀ (pair init : Bool) (a fuel q left : Nat) (b : Bank) (k : Cond), 0 < left →
      let n := stepWidth pair (lead.sB.pos + q) left
      let r := bankStep c g lead arr a (if n = 2 then [q, q + 1] else [q]) (init && q == 0) b
      runSteps c g pair init lead arr a (fuel + 1) q left b k =
        runSteps c g pair init lead arr a fuel (q + n) (left - n) r.1 (condOr k r.2)) ∧
    (∀ (init : Bool) (a n : Nat), (runArray c g init lead arr a n).1.sat = (arr.sat || (runArray c g init lead arr a n).2.sat))

/-- HUB_LINE_WRITE and HUB_LINE_READ on device memory, byte by byte. -/
def Obligations.HubLines : Prop :=
  ∀ (r : HubReq) (mask : BitVec 64) (data : BitVec 512) (s : State) (p off : Nat),
    (hubReqWf r = true → (running s = false ∨ nParts s ≤ r.part ∨ segHeld s r.addr.toNat = true) →
      exec (.hubLineWrite r mask data) s = .next s ∧ ∀ ecc, exec (.hubLineRead r ecc) s = .next s) ∧ (
    let ga := r.addr.toNat
    let k := memKey p (off / 64 * 64)
    hubReqWf r = true → r.part < nParts s → running s = true → segHeld s ga = false → homeOf s ga = .mem p off →
    (∀ d, lineStatus s (reqWho r) (ga / 64 * 64) true = (.ok, d) → (∀ i, i < 8 → mfind s.ue (k / 8 + i) = none) →
      ∃ t, exec (.hubLineWrite r mask data) s = .next t ∧ (getHub t r.part).resp.status = .ok ∧
        (∀ i, i < 64 → memByte t (k + i) = if mask.getLsbD i then BitVec.ofNat 8 (fld data (8 * i + 7) (8 * i)) else memByte s (k + i)) ∧
        (∀ j, j < k ∨ k + 64 ≤ j → memByte t j = memByte s j) ∧
        t = { s with mem := t.mem, segWritten := t.segWritten, ue := t.ue, seStacks := t.seStacks, hubs := t.hubs }) ∧
    (∀ d, lineStatus s (reqWho r) (ga / 64 * 64) false = (.ok, d) → (∀ i, i < 8 → mfind s.ue (k / 8 + i) = none) →
      ∃ t, exec (.hubLineRead r .good) s = .next t ∧ (getHub t r.part).resp.status = .ok ∧
        (∀ i, i < 64 → fld (getHub t r.part).resp.data (8 * i + 7) (8 * i) = (memByte s (k + i)).toNat) ∧
        t = { s with seStacks := t.seStacks, hubs := t.hubs }) ∧
    (∀ st d, lineStatus s (reqWho r) (ga / 64 * 64) true = (st, d) → st ≠ .ok →
      ∃ t, exec (.hubLineWrite r mask data) s = .next t ∧ (getHub t r.part).resp.status = st ∧ t.mem = s.mem ∧ t.ue = s.ue) ∧
    (∀ st d ecc, lineStatus s (reqWho r) (ga / 64 * 64) false = (st, d) → st ≠ .ok →
      ∃ t, exec (.hubLineRead r ecc) s = .next t ∧ (getHub t r.part).resp.status = st ∧ t.mem = s.mem ∧ t.ue = s.ue))

/-- R233 and R245: HUB_ATOMIC on memory and on an arrival counter. -/
def Obligations.HubAtomics : Prop :=
  ∀ (r : HubReq) (op : Nat) (v cmp : Word) (s : State) (p off : Nat),
    let ga := r.addr.toNat
    let n := atomWidth op / 8
    let k := memKey p off
    hubReqWf r = true → op < 12 → ga % n = 0 → r.part < nParts s → running s = true → segHeld s ga = false →
    ((op = 0 ∨ op = 2 ∨ op = 3 ∨ op = 5 → n = 4) ∧ (op ≠ 0 ∧ op ≠ 2 ∧ op ≠ 3 ∧ op ≠ 5 → n = 8)) ∧
    (∀ d, homeOf s ga = .mem p off → lineStatus s (reqWho r) ga true = (.ok, d) → mfind s.ue (k / 8 * 8 / 8) = none →
      let old := memRead s k n
      ∃ t new, exec (.hubAtomic r op v cmp) s = .next t ∧ (getHub t r.part).resp.status = .ok ∧
        (getHub t r.part).resp.old = BitVec.ofNat 64 old ∧ memRead t k n = new % 2 ^ (8 * n) ∧
        (∀ j, j < k ∨ k + n ≤ j → memByte t j = memByte s j) ∧
        (op = 0 → new = (old + v.toNat) % 2 ^ 32) ∧ (op = 1 → new = (old + v.toNat) % 2 ^ 64) ∧
        (op = 3 → sgn 32 new = min (sgn 32 old) (sgn 32 v.toNat)) ∧ (op = 4 → sgn 64 new = min (sgn 64 old) v.toInt) ∧
        (op = 5 → sgn 32 new = max (sgn 32 old) (sgn 32 v.toNat)) ∧ (op = 6 → sgn 64 new = max (sgn 64 old) v.toInt) ∧
        (op = 7 → new = v.toNat) ∧ (op = 8 → new = if old = cmp.toNat then v.toNat else old) ∧
        (op = 9 → new = old &&& v.toNat) ∧ (op = 10 → new = old ||| v.toNat) ∧ (op = 11 → new = old ^^^ v.toNat)) ∧
    (∀ d i, homeOf s ga = .counter p i → lineStatus s (reqWho r) ga true = (.ok, d) →
      ∃ t, exec (.hubAtomic r op v cmp) s = .next t ∧ t.mem = s.mem ∧
        (op = 0 → (getHub t r.part).resp.status = .ok ∧ getArr t p i = getArr s p i + v.setWidth 32) ∧
        (op ≠ 0 → (getHub t r.part).resp.status = .access ∧ getArr t p i = getArr s p i))

/-- The gate that every administrator's command passes (R252, R496, R497), whatever it does beyond it. -/
def Obligations.AdminWrites : Prop :=
  ∀ (tenant off : Nat) (k : State → State) (s : State), tenant = 0 ∨ tenant = 256 →
    let b := (blockOf off).1
    (bar0Open s = false → adminCmd s tenant off k = .next s) ∧
    (bar0Open s = true → ownerTenant s ≠ some tenant → adminCmd s tenant off k = .next (writeRefused s off tenant)) ∧
    (bar0Open s = true → ownerTenant s = some tenant →
      (blockReach s b = .open_ → adminCmd s tenant off k = .next (k (renewLease s))) ∧
      (blockReach s b = .absent → adminCmd s tenant off k = .next (writeRefused (renewLease s) off tenant)) ∧
      (blockReach s b = .notReady → adminCmd s tenant off k = .next (renewLease s)) ∧
      (∀ p, b = .part p → blockReach s b = .unreachable →
        adminCmd s tenant off k = .next (noteUnreach (renewLease s) p off tenant true))) ∧
    (renewLease s).leaseAt = s.timebase ∧ (renewLease s) = { s with leaseAt := s.timebase, bar0 := (renewLease s).bar0 } ∧
    (∀ o, o ≠ rAdminLock → reg (renewLease s) o = reg s o) ∧ (∀ i, i ≠ 5 → rbit (renewLease s) rAdminLock i = rbit s rAdminLock i) ∧
    (s.evFifo.length < 1024 → saleyAway s { cause := 0x0008, source := 0, time := s.timebase, data := [(8, off), (8, tenant)] } = false →
      writeRefused s off tenant = { s with evFifo := s.evFifo ++
        [{ cause := 0x0008, source := 0, time := s.timebase, data := [(8, off), (8, tenant)] }] })

/-- R209, R212, R214, R225 and R228. -/
def Obligations.HubMaintenance : Prop :=
  ∀ (tenant p : Nat) (v : Word) (s : State), p < nParts s →
    let clean (t : State) : Prop :=
      (∀ e, e ∈ (getHub t p).tlb → ∀ x, x ∈ e.2 → invNames (fld v 8 0) (v.getLsbD 9) (fld v 47 21) x = false) ∧
      (∀ e, e ∈ t.clusters → e.1 / 160 = p → ∀ x, x ∈ e.2.tlb → invNames (fld v 8 0) (v.getLsbD 9) (fld v 47 21) x = false)
    (writeOpen s tenant (rTlbInv p) →
      (rbit s (rTlbInv p) 11 = true → exec (.tlbInv tenant p v) s = .next (renewLease s)) ∧
      (rbit s (rTlbInv p) 11 = false → v.getLsbD 10 = true →
        ∃ t, exec (.tlbInv tenant p v) s = .next t ∧ rbit t (rTlbInv p) 11 = true ∧ clean t ∧ t.mem = s.mem ∧
          (getHub t p).tlbInv = some (fld v 8 0, v.getLsbD 9, fld v 47 21))) ∧
    ((getHub s p).tlbInv = none → exec (.tlbInvDone p) s = .next s) ∧
    ((getHub s p).tlbInv = some (fld v 8 0, v.getLsbD 9, fld v 47 21) →
      ∃ t, exec (.tlbInvDone p) s = .next t ∧ rbit t (rTlbInv p) 11 = false ∧ clean t ∧ (getHub t p).tlbInv = none ∧ t.mem = s.mem) ∧
    (writeOpen s tenant (rRdcCtl p) → v.getLsbD 1 = true →
      ∃ t, exec (.rdcInv tenant p v) s = .next t ∧ (∀ e, e ∈ (getHub t p).rdc → e.2.lines = []) ∧ rbit t (rRdcCtl p) 1 = false ∧
        rbit t (rRdcCtl p) 0 = v.getLsbD 0 ∧ t.mem = s.mem ∧ t.clusters = s.clusters) ∧
    (∀ i, i < 3 → writeOpen s tenant (rSegMode p i) →
      ∃ t, exec (.hbmSegModeWrite tenant p i v) s = .next t ∧ mfind (getHub t p).segPend i = some v ∧
        reg t (rSegMode p i) = reg s (rSegMode p i) ∧ t.mem = s.mem ∧ t.segUndef = s.segUndef) ∧
    (∀ i, i < 3 → mfind (getHub s p).segPend i = none → exec (.hbmSegModeApply p i) s = .next s) ∧
    (∀ i, i < 3 → mfind (getHub s p).segPend i = some v →
      ∃ t, exec (.hbmSegModeApply p i) s = .next t ∧ reg t (rSegMode p i) = v ∧ (∀ o, o ≠ rSegMode p i → reg t o = reg s o) ∧
        t.mem = s.mem ∧ t.free = s.free + 1 ∧
        (∀ b k, b < 64 → rbit s (rSegMode p i) b ≠ v.getLsbD b → k / 2 ^ 30 = memKey p ((64 * i + b) * 2 ^ 30) / 2 ^ 30 →
          memByte t k = Config.freeByte s.free k) ∧
        (∀ k, (∀ b, b < 64 → rbit s (rSegMode p i) b ≠ v.getLsbD b → k / 2 ^ 30 ≠ memKey p ((64 * i + b) * 2 ^ 30) / 2 ^ 30) →
          memByte t k = memByte s k)) ∧
    (∀ n ch addr, n < 4 → ch < 32 →
      (rbit s (rHbmStatus p n) ch = false → exec (.hbmChannelTrainingLoss p n ch addr) s = .next s) ∧
      (rbit s (rHbmStatus p n) ch = true → ∃ t, exec (.hbmChannelTrainingLoss p n ch addr) s = .next t ∧
        rbit t (rHbmStatus p n) ch = false ∧ rbit t (rHbmStatus p n) 42 = true ∧ t.mem = s.mem)) ∧
    (∀ j, (getHub s p).deny[j]? = none → exec (.accessDeniedWindowClose p j) s = .next s) ∧
    (∀ j d, (getHub s p).deny[j]? = some d →
      ∃ t, exec (.accessDeniedWindowClose p j) s = .next t ∧ (getHub t p).deny = (getHub s p).deny.eraseIdx j ∧
        t.timebase = max s.timebase (d.time + 1000000) ∧ t.mem = s.mem)

/-- R285 to R294: BRAMBLE_TOKEN and BRAMBLE_ARRIVAL. -/
def Obligations.BrambleRings : Prop :=
  ∀ (a : BrAt) (s : State), brAtWf a = true → brAtOk s a = true →
    let ring (t : State) : BrRing := getRing' t a.die a.ring a.cw
    let stop (t : State) : BrStop := getStop t a.die a.ring a.stop
    let r := ring s
    let x := stop s
    let line := brLine s a
    let owe := if a.cw then x.oweCw else x.oweCcw
    let paid (y : BrStop) : BrStop := if a.cw then { y with oweCw := 0 } else { y with oweCcw := 0 }
    let pass := brPass s a.die a.ring a.stop
    let credit := (∀ m, m ∈ r.marks.head? → m = a.stop) ∧ 2 + (r.taken - owe) ≤ brSlots a.ring
    let onRing (t : State) : Prop := t = { s with brRings := t.brRings, brStops := t.brStops, streams := t.streams }
    let injected (t : State) (y : BrWait) : Prop :=
      onRing t ∧ (ring t).taken = r.taken - owe + 1 ∧
      ∃ slot, mfind (ring t).slots slot = some { brStamp s a.die a.ring a.stop y with
          defl := 0, urgent := false, seq := if y.dst.isSome then x.sent else y.slot.seq } ∧
        ∀ n, n ≠ slot → mfind (ring t).slots n = mfind r.slots n
    (running s = false → exec (.brambleToken a none) s = .next s) ∧
    (running s = true → (line = [] ∨ pass = true) →
      ∃ t, exec (.brambleToken a none) s = .next t ∧ t = { s with brRings := t.brRings, brStops := t.brStops } ∧
        ring t = { r with taken := r.taken - owe } ∧ stop t = paid x) ∧
    (∀ y rest, running s = true → line = y :: rest → pass = false → credit → isBridge a.stop = false →
      ∃ t, exec (.brambleToken a none) s = .next t ∧ injected t y ∧ (stop t).wait = x.wait.erase y) ∧
    (∀ y rest, running s = true → line = y :: rest → pass = false → isBridge a.stop = false →
      ((∃ m, m ∈ r.marks.head? ∧ m ≠ a.stop) ∨ brSlots a.ring < 2 + (r.taken - owe)) →
      ∃ t, exec (.brambleToken a none) s = .next t ∧ (ring t).slots = r.slots ∧ (ring t).taken = r.taken - owe ∧ (stop t).wait = x.wait ∧
        (let n := if a.cw then x.passCw else x.passCcw
         (ring t).marks = if 3 ≤ n ∧ a.stop ∉ r.marks then r.marks ++ [a.stop] else r.marks)) ∧
    (∀ k, brTokenWf a (some k) = true → running s = false → exec (.brambleToken a (some k)) s = .next s) ∧
    (∀ k, brTokenWf a (some k) = true → running s = true → pass = true →
      ∃ t, exec (.brambleToken a (some k)) s = .next t ∧ ring t = { r with taken := r.taken - owe } ∧
        stop t = paid { x with wait := x.wait ++ [brEnter k] }) ∧
    (∀ k, brTokenWf a (some k) = true → running s = true → pass = false → x.wait = [] → credit →
      brCw a.ring a.stop (brNext a.ring (brStamp s a.die a.ring a.stop (brEnter k))) = a.cw →
      ∃ t, exec (.brambleToken a (some k)) s = .next t ∧ injected t (brEnter k) ∧ (stop t).wait = []) ∧
    (∀ slot e, running s = false ∨ mfind r.slots slot = none → exec (.brambleArrival a slot e) s = .next s) ∧
    (∀ slot e y, mfind r.slots slot = some y → running s = true →
      let z := if e = .payload then { y with poison := true } else y
      let others (t : State) : Prop := ∀ n, n ≠ slot → mfind (ring t).slots n = mfind r.slots n
      (e = .header → exec (.brambleArrival a slot e) s =
        .next (emit (brFree s a slot) 0x0026 (srcDie a.die 0x3F) [(1, a.ring), (1, a.stop)])) ∧
      (e ≠ .header → brNext a.ring y ≠ a.stop → exec (.brambleArrival a slot e) s = .next s) ∧
      (e ≠ .header → brNext a.ring y = a.stop → pass = false → y.urgent = false → isBridge a.stop = false →
        (x.buf.length + x.given.length < 8 →
          ∃ t, exec (.brambleArrival a slot e) s = .next t ∧ mfind (ring t).slots slot = none ∧ (stop t).buf = x.buf ++ [z] ∧
            others t ∧ t = { s with brRings := t.brRings, brStops := t.brStops }) ∧
        (8 ≤ x.buf.length + x.given.length → y.defl < 15 →
          ∃ t, exec (.brambleArrival a slot e) s = .next t ∧ mfind (ring t).slots slot = some { z with defl := y.defl + 1 } ∧
            others t ∧ t = { s with brRings := t.brRings })) ∧
      (e ≠ .header → brNext a.ring y = a.stop → pass = true →
        ∃ t, exec (.brambleArrival a slot e) s = .next t ∧ onRing t ∧ others t ∧ (stop t).buf = x.buf ∧
          mfind (ring t).slots slot = if y.cls = 0 then some (brAnswer y .linkLost a.ring a.stop x.sent) else none))

/-- R296 to R304, R512: HUB_ROUTE, ROUTE_FAILOVER and LINK_TIMEOUT, after the packet has left the place it came from. -/
def Obligations.HubNetwork : Prop :=
  ∀ (p : Nat) (k0 : RoutePacket) (s0 : State), p < nParts s0 →
    let k := stampPkt k0
    let s := vcFree (takeIn s0 k) p k
    let ga := k.target.toNat
    let here := nbits ga 63 48 = pkgNum s ∧ nbits ga 47 44 = p
    let h := getHub s p
    let off := entryFor s k
    let goes := routeWf p k0 = true ∧ running s0 = true ∧ partUp s0 p = true
    let waits (e : Nat) : Bool := mustSettle s p off e k (((altsFor s p k off).head?.map (·.spread)).getD false) ||
      heldBefore s p off h.nextReq || epochWaits s p off k || !(vcCredit s p e k)
    (routeWf p k0 = true → (running s0 = false ∨ partUp s0 p = false) → exec (.hubRoute p k0) s0 = .next s0) ∧
    (goes → here → k.track = [] →
      ∃ t, exec (.hubRoute p k0) s0 = .next t ∧ (getHub t p).resp.status = (if k.poison then .faultMem else .ok) ∧
        (getHub t p).routed = none ∧ t = { s with hubs := t.hubs } ∧
        (∀ r, k.answers = some r → mfind (getHub t p).outst r = none) ∧ (k.answers = none → (getHub t p).outst = h.outst)) ∧
    (goes → ¬here → k.answers = none → k.issued = true → k.track = [] →
      ((altsFor s p k off).filter (fun a => a.valid && nbit a.dmask k.domain)).isEmpty = true →
      ∃ t, exec (.hubRoute p k0) s0 = .next t ∧ (getHub t p).resp.status = .access ∧ (getHub t p).outst = h.outst ∧
        t = { s with hubs := t.hubs }) ∧
    (∀ e, goes → ¬here → k.answers = none → e < 16 → k.hops < 4 →
      chooseAlt s p (altsFor s p k off) k.domain ga k.srcPort = .take e false →
      (waits e = false → ∃ t, exec (.hubRoute p k0) s0 = .next t ∧ (getHub t p).routed = some (e, false) ∧
        mget 0 (getHub t p).vc (vcKey e k.cls k.hops) = mget 0 h.vc (vcKey e k.cls k.hops) + hubFlits k ∧
        (k.cls = 0 → mfind (getHub t p).outst h.nextReq = some { pkt := k, off := off, egress := some e, time := s.timebase })) ∧
      (waits e = true → ∃ t, exec (.hubRoute p k0) s0 = .next t ∧ (getHub t p).routed = h.routed ∧ (getHub t p).vc = h.vc ∧
        mfind (getHub t p).outst h.nextReq = some { pkt := k, off := off, egress := none, time := s.timebase })) ∧
    (∀ e, goes → ¬here → k.answers = none → e < 16 → k.hops = 4 →
      chooseAlt s p (altsFor s p k off) k.domain ga k.srcPort = .take e false →
      ∃ t, exec (.hubRoute p k0) s0 = .next t ∧ (getHub t p).resp.status = .linkLost ∧ (getHub t p).routed = none) ∧
    (let out := (getHub s0 p).outst
     (∀ o, out.filter (fun q => q.2.off == o && q.2.egress.isNone) = [] → exec (.routeFailover p o) s0 = .next s0) ∧
     (∀ o e, out.filter (fun q => q.2.off == o && q.2.egress.isNone) = [e] → exec (.routeFailover p o) s0 = .next (retryHeld s0 p e)) ∧
     (∀ r, mfind out r = none → exec (.linkTimeout p (.hub r)) s0 = .next s0) ∧
     (∀ r o, mfind out r = some o → o.pkt.op = none →
       ∃ t, exec (.linkTimeout p (.hub r)) s0 = .next t ∧ mfind (getHub t p).outst r = none ∧
         ((o.pkt.cls = 0 ∨ o.egress = none) → (getHub t p).resp.status = .linkLost) ∧
         t.timebase = max s0.timebase (o.time + 1000 * max 100 (rfld s0 (rNetCtl p) 15 0)) ∧ t.mem = s0.mem) ∧
     (∀ die ring stop txid t0, die / 4 = p → mfind (getStop s0 die ring stop).opened txid = some t0 →
       ∃ t, exec (.linkTimeout p (.ring die ring stop txid)) s0 = .next t ∧ mfind (getStop t die ring stop).opened txid = none ∧
         mfind (getStop t die ring stop).ended txid = some .linkLost ∧ t.mem = s0.mem ∧
         t.timebase = max s0.timebase (t0 + 1000 * max 100 (rfld s0 (rNetCtl p) 15 0))))

/-- R258, R259 and R262 for SQ_DB, CQ_DB and SQ_ADD. -/
def Obligations.Doorbells : Prop :=
  ∀ (tn rn size p ctx : Nat) (r : Ring) (v : Word) (s : State), tn < 512 → rn < 512 →
    let go := flrBusy s tn = false ∧ running s = true ∧ saleyPath s p = true
    let bar (o : Nat) : Doorbell := .bar tn rn o size
    let moved (i : Instr) (r' : Ring) : Prop :=
      ∃ t, exec i s = .next t ∧ getRing t p ctx = r' ∧ t = { s with hubs := t.hubs } ∧
        (∀ q c, (q, c) ≠ (p, ctx) → getRing t q c = getRing s q c)
    ((flrBusy s tn = true ∨ running s = false) → exec (.sqDb (bar 0) v) s = .next s ∧ exec (.cqDb (bar 8) v) s = .next s ∧ exec (.sqAdd (bar 0x10) v) s = .next s) ∧
    (ringOf s (512 * tn + rn) = none → exec (.sqDb (bar 0) v) s = .next s ∧ exec (.cqDb (bar 8) v) s = .next s ∧
      exec (.sqAdd (bar 0x10) v) s = .next s) ∧
    (ringOf s (512 * tn + rn) = some (p, ctx, r) → saleyPath s p = false → exec (.sqDb (bar 0) v) s = .next s ∧
      exec (.cqDb (bar 8) v) s = .next s ∧ exec (.sqAdd (bar 0x10) v) s = .next s) ∧
    (go → ringOf s (512 * tn + rn) = some (p, ctx, r) → getRing s p ctx = r → r.state = .active →
      (size = 8 → fld v 63 32 = 0 → tailOk r (v.setWidth 32) = true → moved (.sqDb (bar 0) v) { r with sqTail := v.setWidth 32 }) ∧
      (size = 8 → fld v 63 17 = 0 → tailOk r (r.sqTail + v.setWidth 32) = true →
        moved (.sqAdd (bar 0x10) v) { r with sqTail := r.sqTail + v.setWidth 32 }) ∧
      (size = 8 → fld v 63 32 = 0 → cqHeadOk r (v.setWidth 32) = true → r.waiting = [] →
        moved (.cqDb (bar 8) v) { r with cqHead := v.setWidth 32 }) ∧
      (size = 8 → fld v 63 32 = 0 → tailOk r (v.setWidth 32) = false → exec (.sqDb (bar 0) v) s = .next (ringError s p ctx 0)) ∧
      (size = 8 → fld v 63 32 = 0 → cqHeadOk r (v.setWidth 32) = false → exec (.cqDb (bar 8) v) s = .next (ringError s p ctx 0)) ∧
      ((size ≠ 8 ∨ fld v 63 32 ≠ 0) → exec (.sqDb (bar 0) v) s = .next (tenLeaf s (ringTenant r) 2 (ringNo r)) ∧
        exec (.cqDb (bar 8) v) s = .next (tenLeaf s (ringTenant r) 2 (ringNo r))) ∧
      ((size ≠ 8 ∨ fld v 63 17 ≠ 0) → exec (.sqAdd (bar 0x10) v) s = .next (tenLeaf s (ringTenant r) 2 (ringNo r)))) ∧
    (∀ tag dom, partUp s p = true → p < 16 → ctx < 32768 → running s = true → windowOk s p ctx tag dom = false →
      ∃ t, exec (.sqDb (.window p ctx 0 size tag dom) v) s = .next t ∧ exec (.cqDb (.window p ctx 8 size tag dom) v) s = .next t ∧
        exec (.sqAdd (.window p ctx 0x10 size tag dom) v) s = .next t ∧ getRing t p ctx = getRing s p ctx ∧
        (getHub t p).deny ≠ [] ∧ t.mem = s.mem)

/-- R255 to R257. -/
def Obligations.RingCommands : Prop :=
  ∀ (tenant p : Nat) (v : Word) (s : State), p < 16 → fld v 21 21 = 1 → writeOpen s tenant (rRingCmd p) →
    let q := fld v 17 0
    let c := rRingCmd p
    let s1 := setRfld (renewLease s) c 20 0 (fld v 20 0)
    let ok (t : State) (st : Status) : Prop := rfld t c 31 24 = stCode st ∧ rbit t c 22 = false
    (rbit s c 22 = true →
      (fld v 20 18 = 1 → exec (.ringCreate tenant p v) s = .next (renewLease s)) ∧
      (fld v 20 18 = 2 → exec (.ringDestroy tenant p v) s = .next (renewLease s)) ∧
      (fld v 20 18 = 3 → exec (.ringReset tenant p v) s = .next (renewLease s)) ∧
      (fld v 20 18 = 4 → exec (.ringQuery tenant p v) s = .next (renewLease s))) ∧
    (rbit s c 22 = false → fld v 20 18 = 1 →
      (createCheck s1 p q = .ok → ∃ t ctx, exec (.ringCreate tenant p v) s = .next t ∧ ok t .ok ∧ freeCtx (getHub s p) = some ctx ∧
        rfld t c 46 32 = ctx ∧ (let r := getRing t p ctx
          r.state = .active ∧ r.qid = q ∧ r.sqHead = 0 ∧ r.sqTail = 0 ∧ r.cqHead = 0 ∧ r.cqTail = 0 ∧ r.waiting = [] ∧ r.fetched = [] ∧
          r.sqBase = reg s (rRingArg p 0) ∧ r.cqBase = reg s (rRingArg p 1) ∧ r.headWb = reg s (rRingArg p 2) ∧
          r.log2sz = rfld s (rRingArg p 3) 4 0 ∧ r.jobTag = rfld s (rRingArg p 3) 47 32) ∧
        (∀ x, x ≠ ctx → getRing t p x = getRing s p x)) ∧
      (createCheck s1 p q ≠ .ok → ∃ t, exec (.ringCreate tenant p v) s = .next t ∧ ok t (createCheck s1 p q) ∧ t.hubs = s.hubs)) ∧
    (rbit s c 22 = false → ringAt s p q = none →
      (fld v 20 18 = 2 → ∃ t, exec (.ringDestroy tenant p v) s = .next t ∧ ok t .badDesc ∧ t.hubs = s.hubs) ∧
      (fld v 20 18 = 3 → ∃ t, exec (.ringReset tenant p v) s = .next t ∧ ok t .badDesc ∧ t.hubs = s.hubs) ∧
      (fld v 20 18 = 4 → ∃ t, exec (.ringQuery tenant p v) s = .next t ∧ ok t .badDesc ∧ t.hubs = s.hubs)) ∧
    (∀ ctx r, rbit s c 22 = false → ringAt s p q = some (ctx, r) → getRing s p ctx = r →
      (fld v 20 18 = 4 → ∃ t, exec (.ringQuery tenant p v) s = .next t ∧ ok t .ok ∧ t.hubs = s.hubs ∧ rfld t c 46 32 = ctx % 2 ^ 15 ∧
        reg t (rRingArg p 4) = BitVec.ofNat 64 (r.sqHead.toNat + 2 ^ 32 * r.cqTail.toNat)) ∧
      (r.state ≠ .closing →
        (fld v 20 18 = 2 → exec (.ringDestroy tenant p v) s = .next (closeRing (setRbit s1 c 22 true) p ctx false false .aborted)) ∧
        (fld v 20 18 = 3 → exec (.ringReset tenant p v) s = .next (closeRing (setRbit s1 c 22 true) p ctx true false .aborted)))) ∧
    (∀ ctx t0 b, p < nParts s → ctx < 32768 → (getRing s p ctx).closing = some (b, t0) → (getRing s p ctx).state = .closing →
      (getRing s p ctx).mute = false → ringOps s p ctx = [] →
      let quiet := (getRing s p ctx).headWb = 0 ∨ ((getRing s p ctx).sqHead = 0 ∧ (getRing s p ctx).cqTail = 0)
      ∃ t, exec (.ringClosingDone p ctx) s = .next t ∧ ok t .ok ∧
        (b = true → quiet → (getRing t p ctx).state = .active ∧ (getRing t p ctx).sqHead = 0 ∧ (getRing t p ctx).sqTail = 0 ∧
          (getRing t p ctx).cqHead = 0 ∧ (getRing t p ctx).cqTail = 0 ∧ (getRing t p ctx).waiting = []) ∧
        (b = false → mfind (getHub t p).rings ctx = none))

/-- R414; the fields of a KERNEL hold each count less one. -/
def Obligations.ExpectedPower : Prop :=
  ∀ d : Desc,
    let ecls := fld (lget 0 d.words 0) 19 16
    let ndie := fld (lget 0 d.words 4) 3 2 + 1
    let ncl := fld (lget 0 d.words 4) 15 10 + 1
    let ncore := fld (lget 0 d.words 4) 22 16 + 1
    (dOpc d = 0x01 → descPower d = ecls * 8 * (ndie * ncl * ncore)) ∧
    (dOpc d = 0x02 ∨ dOpc d = 0x05 ∨ dOpc d = 0x04 → descPower d = ecls * 8 * 160) ∧
    (dOpc d ≠ 0x01 → dOpc d ≠ 0x02 → dOpc d ≠ 0x05 → dOpc d ≠ 0x04 → descPower d = 0) ∧
    ecls * 8 * 15 = ecls * 120

/-- R263, R279 and R415: DESCRIPTOR_FETCH, DISPATCH and ENERGY_GATE_STARVATION. -/
def Obligations.DispatchAndFetch : Prop :=
  ∀ (p ctx n : Nat) (s : State), p < nParts s → ctx < 32768 →
    (s.stage ≠ .up → exec (.descriptorFetch p ctx n) s = .next s) ∧
    (s.stage = .up → ((getRing s p ctx).state ≠ .active ∨ (getRing s p ctx).fetchPos = (getRing s p ctx).sqTail) →
      exec (.descriptorFetch p ctx n) s = .next (refreshHead s p ctx)) ∧
    (∀ ws s1, s.stage = .up → 0 < n → (getRing s p ctx).state = .active → (getRing s p ctx).fetchPos ≠ (getRing s p ctx).sqTail →
      readSlot s p ctx (getRing s p ctx).fetchPos.toNat = (.ok, ws, s1) →
      (let r := getRing s1 p ctx
       let d : Desc := { n := (getRing s p ctx).fetchPos.toNat, words := ws }
       exec (.descriptorFetch p ctx n) s = .next (refreshHead (fetchDescs (noteCommit
         (setRing s1 p ctx { r with fetched := r.fetched ++ [d], fetchPos := r.fetchPos + 1 }) p r d) p ctx (n - 1)) p ctx))) ∧
    (dispatchOn s p = false → exec (.dispatch p) s = .next s) ∧
    (dispatchOn s p = true → candidates s p = [] → exec (.dispatch p) s = .next (noteSince s p [])) ∧
    (dispatchOn s p = true → ∃ t, exec (.dispatch p) s = .next t ∧
      ((getHub t p).nextOp = (getHub s p).nextOp ∨ (getHub t p).nextOp = (getHub s p).nextOp + 1)) ∧
    (∀ c, dispatchOn s p = true → candidates s p = [c] → energyGate (noteSince s p [c]) p [c] c = true →
      0 < fld (qosOf s p (ringTenant c.ring)) 7 0 → c.desc.replay = false →
      refusal (noteSince s p [c]) p (getRing s p c.ctx) c.desc = none →
      ∃ t o, exec (.dispatch p) s = .next t ∧ getOp t p (getHub s p).nextOp = some o ∧ o.desc = c.desc ∧ o.ring = c.ctx ∧
        o.tenant = ringTenant (getRing s p c.ctx) ∧ o.phase = .chosen ∧ o.t0 = s.timebase ∧
        (getHub t p).nextOp = (getHub s p).nextOp + 1 ∧ (getRing t p c.ctx).fetched = (getRing s p c.ctx).fetched.drop 1) ∧
    (mfind (getHub s p).disp.waitSince ctx = none → exec (.energyGateStarvation p ctx) s = .next s) ∧
    (∀ t0, mfind (getHub s p).disp.waitSince ctx = some t0 →
      exec (.energyGateStarvation p ctx) s = .next { s with timebase := max s.timebase (t0 + 2000000) })

/-- R245, R246, R259, R268 and R269. -/
def Obligations.WaitsAndSignals : Prop :=
  ∀ (p op : Nat) (s : State) (o : Op), p < nParts s → getOp s p op = some o →
    let d := o.desc
    let q := dFld d 2 11 8
    let i := dFld d 2 31 16
    let thr := BitVec.ofNat 32 (dFld d 2 63 32)
    let waiting := setOp s p op { o with phase := .waiting }
    (dOpc d = 0x08 → dFld d 2 0 0 = 0 →
      (dWord d 3 ≠ 0 → exec (.waitCounter p op) s = .next (finishUnit s p op .badDesc)) ∧
      (dWord d 3 = 0 → partCheck s q o.tenant ≠ .ok → exec (.waitCounter p op) s = .next (finishUnit s p op (partCheck s q o.tenant))) ∧
      (dWord d 3 = 0 → partCheck s q o.tenant = .ok → (getArr s q i - thr).toInt ≥ 0 →
        exec (.waitCounter p op) s = .next (finishUnit s p op .ok)) ∧
      (dWord d 3 = 0 → partCheck s q o.tenant = .ok → (getArr s q i - thr).toInt < 0 → exec (.waitCounter p op) s = .next waiting)) ∧
    (∀ j, dOpc d = 0x08 → dFld d 2 0 0 = 1 → (o.phase = .chosen ∧ j = Instr.waitWord p op ∨ o.phase = .waiting ∧ j = Instr.waitWordPoll p op) →
      ((dWord d 3).toNat % 4 ≠ 0 → exec j s = .next (finishUnit s p op .badDesc)) ∧
      (∀ st v s1, (dWord d 3).toNat % 4 = 0 → hubLoad s (opWho s p op o) (dWord d 3).toNat 4 = (st, v, s1) →
        (st ≠ .ok → exec j s = .next (finishUnit s1 p op st)) ∧
        (st = .ok → (BitVec.ofNat 32 v - thr).toInt ≥ 0 → exec j s = .next (finishUnit s1 p op .ok)) ∧
        (st = .ok → (BitVec.ofNat 32 v - thr).toInt < 0 → exec j s = .next (setOp s1 p op { o with phase := .waiting })))) ∧
    (dOpc d = 0x08 → dFld d 4 31 0 ≠ 0 → o.phase = .waiting → exec (.waitTimeout p op) s =
      .next (finishUnit { s with timebase := max s.timebase (o.t0 + 1000 * dFld d 4 31 0) } p op .timeout)) ∧
    (dOpc d = 0x09 → o.phase = .chosen →
      (dFld d 2 5 4 ≠ 0 → (dFld d 2 2 0 = 0 → exec (.counterAdd p op) s = .next (finishUnit s p op .badDesc)) ∧
        (dFld d 2 2 0 = 1 → exec (.counterSet p op) s = .next (finishUnit s p op .badDesc)) ∧
        (dFld d 2 2 0 = 3 → exec (.signalSqAdd p op) s = .next (finishUnit s p op .badDesc))) ∧
      (let w := opWho s p op o
       let ga := gaOf s (memKey q (winBase + 4 * i))
       ∀ st dg, dFld d 2 5 4 = 0 → lineStatus s w ga true = (st, dg) →
        (st = .ok →
          (dFld d 2 2 0 = 0 → exec (.counterAdd p op) s =
            .next (finishUnit (noteDegraded (setArr s q i (getArr s q i + (dWord d 3).setWidth 32)) w dg) p op .ok)) ∧
          (dFld d 2 2 0 = 1 → exec (.counterSet p op) s =
            .next (finishUnit (noteDegraded (setArr s q i ((dWord d 3).setWidth 32)) w dg) p op .ok))) ∧
        (st ≠ .ok →
          (dFld d 2 2 0 = 0 → exec (.counterAdd p op) s = .next (finishUnit (noteDegraded (checkLine s w ga true).2.2 w dg) p op st)) ∧
          (dFld d 2 2 0 = 1 → exec (.counterSet p op) s = .next (finishUnit (noteDegraded (checkLine s w ga true).2.2 w dg) p op st)))) ∧
      (dFld d 2 2 0 = 2 → (dWord d 4).toNat % 8 ≠ 0 → exec (.write64 p op) s = .next (finishUnit s p op .badDesc)) ∧
      (∀ st s1, dFld d 2 2 0 = 2 → (dWord d 4).toNat % 8 = 0 → dFld d 2 5 4 ≠ 2 →
        hubStore s (opWho s p op o) (dWord d 4).toNat 8 (dWord d 3).toNat = (st, s1) →
        exec (.write64 p op) s = .next (finishUnit s1 p op st)) ∧
      (∀ st s1, dFld d 2 2 0 = 2 → (dWord d 4).toNat % 8 = 0 → dFld d 2 5 4 = 2 →
        hubHostWrite s (opWho s p op o) (dWord d 4).toNat 8 (dWord d 3).toNat = (st, s1) →
        exec (.write64 p op) s = .next (finishUnit s1 p op st)) ∧
      (let a := ringOf s (o.tenant * 512 + dFld d 2 40 32)
       let inc := dWord d 3
       dFld d 2 2 0 = 3 → dFld d 2 5 4 = 0 →
        (a = none → exec (.signalSqAdd p op) s = .next (finishUnit s p op .access)) ∧
        (∀ g c r, a = some (g, c, r) →
          ((r.state ≠ .active ∨ partDomain s g ≠ tenDomain s o.tenant) → exec (.signalSqAdd p op) s = .next (finishUnit s p op .access)) ∧
          (r.state = .active → partDomain s g = tenDomain s o.tenant →
            (inc.toNat = 0 ∨ inc.toNat > 65536 ∨ tailOk r (r.sqTail + inc.setWidth 32) = false) →
            exec (.signalSqAdd p op) s = .next (finishUnit s p op .badDesc)) ∧
          (r.state = .active → partDomain s g = tenDomain s o.tenant → 0 < inc.toNat → inc.toNat ≤ 65536 →
            tailOk r (r.sqTail + inc.setWidth 32) = true → exec (.signalSqAdd p op) s =
              .next (finishUnit (setRing s g c { r with sqTail := r.sqTail + inc.setWidth 32 }) p op .ok)))))

/-- R235, R243, R265, R267, R270, R274, R409 and R411. -/
def Obligations.DescriptorCommands : Prop :=
  ∀ (p op : Nat) (s : State) (o : Op),
    let d := o.desc
    (chosen s p op 0x3F o → exec (.nopDescriptor p op) s = .next (finishUnit s p op .ok)) ∧
    (chosen s p op 0x0A o →
      (dFld d 2 1 0 = 0 → exec (.fenceDescRel p op) s = .next (finishUnit s p op .ok)) ∧
      (dFld d 2 1 0 = 1 → exec (.fenceDescAcq p op) s = .next (finishUnit (ringAcquire s p o.jobTag (dFld d 2 3 2)) p op .ok)) ∧
      (dFld d 2 1 0 = 2 → exec (.fenceDescFull p op) s = .next (finishUnit (ringAcquire s p o.jobTag (dFld d 2 3 2)) p op .ok))) ∧
    (chosen s p op 0x01 o →
      let keys := kernelKeys p d
      let out := (kernelClusters p d).any (fun c => mfind s.clusterOut c == some 0)
      (kernelOk d = false → exec (.kernel p op) s = .next (finishOp s p op .badDesc 0 0)) ∧
      (kernelOk d = true → out = true → exec (.kernel p op) s = .next (finishOp s p op .noResource 0 0)) ∧
      (kernelOk d = true → out = false → ∃ t, exec (.kernel p op) s = .next t ∧
        getOp t p op = some { o with phase := .running, cores := keys } ∧ t = { s with hubs := t.hubs, cores := t.cores } ∧
        (∀ k, k ∈ keys → ∃ l, l ∈ (getCore t k).next ∧ l.part = p ∧ l.op = op ∧ l.tenant = o.tenant ∧ l.entry = dFld d 2 47 0 ∧
          l.arg = dWord d 3) ∧
        (∀ k, k ∉ keys → getCore t k = getCore s k) ∧ (∀ k, (getCore t k).launch = (getCore s k).launch))) ∧
    (chosen s p op 0x02 o → ∀ r s1,
      startCopy { s with nextJob := s.nextJob + 1 } s.nextJob (isAdmin o.tenant) false [dWord d 2, dWord d 3, dWord d 4, dWord d 5]
        { opWho s p op o with port := 0x41 } (.op p op 0) (dFld d 0 9 9 == 1) = (r, s1) → d.words.length = 8 →
      exec (.copy p op) s = .next (match r with
        | some st => finishOp s1 p op st 0 0
        | none => setOp s1 p op { o with phase := .running, job := s.nextJob })) ∧
    (∀ job unit ecc, mfind s.copies job = none → exec (.copyUnitAck job unit ecc) s = .next s) ∧
    (∀ job unit ecc j, mfind s.copies job = some j → unit < j.units →
      ((mfind j.resolved unit).isSome = true ∨ orderedWaits s job j unit = true ∨ unitHeld s j unit = true →
        exec (.copyUnitAck job unit ecc) s = .next s) ∧
      ((mfind j.resolved unit).isSome = false → orderedWaits s job j unit = false → unitHeld s j unit = false → j.xfmt ≠ 5 →
        ∃ t, exec (.copyUnitAck job unit ecc) s = .next t ∧
          ∀ st g l sat s1, unitBytes s j unit ecc = (st, g, l, sat, s1) → st ≠ .ok →
            t = noteUnit s1 job j unit st g false none (j.dst + (unitSpan j unit).1)) ∧
      ((mfind j.resolved unit).isSome = false → orderedWaits s job j unit = false → unitHeld s j unit = false → j.xfmt ≠ 5 →
        ∀ g l sat s1, unitBytes s j unit ecc = (.ok, g, l, sat, s1) →
          let a := j.dst + (unitSpan j unit).1
          let w := copyWrite { s1 with free := s1.free + 1 } j a (overlapBytes s1 j a l)
          exec (.copyUnitAck job unit ecc) s = .next (noteUnit w.2.2.2.2 job j unit w.1 (g || w.2.1) sat w.2.2.1 w.2.2.2.1)) ∧
      ((mfind j.resolved unit).isSome = false → orderedWaits s job j unit = false → unitHeld s j unit = false → j.xfmt = 5 →
        exec (.copyUnitAck job unit ecc) s =
          .next (execCopyUnitAck.segment (mdlWrite s j).2 job (mdlWrite s j).1 unit (j.dst + (unitSpan j unit).1)))) ∧
    (chosen s p op 0x05 o →
      let n := dFld d 3 12 0
      (n = 0 ∨ n > 4096 ∨ (dWord d 2).toNat % 64 ≠ 0 ∨ (dWord d 4).toNat % 16 ≠ 0 →
        exec (.seCmd p op) s = .next (finishOp s p op .badDesc 0 0)) ∧
      (0 < n → n ≤ 4096 → (dWord d 2).toNat % 64 = 0 → (dWord d 4).toNat % 16 = 0 →
        exec (.seCmd p op) s = .next (setOp s p op { o with phase := .running }))) ∧
    (chosen s p op 0x18 o →
      (16 ≤ (getHub s p).hints.length → exec (.hint p op) s = .next (finishUnit s p op .noResource)) ∧
      ((getHub s p).hints.length < 16 → ∃ h : Hint, h.ramp = none ∧ (dWord d 2 = 0 → h.tEnd = s.timebase + 1000 * dFld d 3 31 0) ∧
        (dWord d 2 ≠ 0 → h.tEnd = (dWord d 2).toNat + 1000 * dFld d 3 31 0) ∧
        exec (.hint p op) s = .next (finishUnit (setHub s p { getHub s p with hints := (getHub s p).hints ++ [h] }) p op .ok))) ∧
    (∀ st done ff, getOp s p op = some o → o.step = none → getOp (finishOp s p op st done ff) p op = none)

/-- R87, R88, R97, R267, R294 and R441. -/
def Obligations.KernelLife : Prop :=
  ∀ (c : CoreRef) (cl : ClusterRef) (p op : Nat) (ab : Bool) (s : State),
    let k := coreKey c.die c.cl c.core
    let free := (getCore s k).launch = none ∧ mfind s.clusterOut (clOf k) = none ∧ partUp s (partOf k) = true
    (coreOk s c = true → s.stage ≠ .up → exec (.launchStart c) s = .next s) ∧
    (coreOk s c = true → (getCore s k).next = [] → exec (.launchStart c) s = .next s) ∧
    (∀ l rest, coreOk s c = true → s.stage = .up → free → (getCore s k).next = l :: rest →
      ∃ t, exec (.launchStart c) s = .next t ∧ (getCore t k).launch = some l ∧ (getCore t k).next = rest ∧
        (∀ i, i < 16 → i < l.nthr → let x := getThread (getCore t k) i
          x.stat = .run ∧ x.pc = BitVec.ofNat 48 l.entry ∧ rd x 1 = l.arg ∧ rd x 2 = BitVec.ofNat 64 (l.base + i) ∧
          rd x 3 = BitVec.ofNat 64 l.total ∧ (∀ r, 3 < r → r < 32 → rd x r = 0) ∧ x.preds = 0 ∧ x.claim = 0 ∧ x.index = l.base + i) ∧
        (∀ i, i < 16 → l.nthr ≤ i → getThread (getCore t k) i = {}) ∧
        (∀ i, i < 16 → vget 0 (getCore t k).vregs i = 0) ∧ (∀ i, i < 32 → vget 0 (getCore t k).lc i = 0) ∧
        (∀ j, j ≠ k → getCore t j = getCore s j) ∧ t.mem = s.mem) ∧
    (p < nParts s → getOp s p op = none → exec (.kernelComplete p op) s = .next s ∧ exec (.kernelTimeout p op) s = .next s) ∧
    (∀ o, p < nParts s → getOp s p op = some o →
      ((dOpc o.desc ≠ 0x01 ∨ kernelDone s p op o = false) → exec (.kernelComplete p op) s = .next s) ∧
      (dOpc o.desc = 0x01 → kernelDone s p op o = true → o.step = none →
        ∃ t, exec (.kernelComplete p op) s = .next t ∧ getOp t p op = none) ∧
      (dOpc o.desc = 0x01 → dFld o.desc 4 63 32 ≠ 0 → o.stop = none → o.trap = none → o.phase = .running →
        let late := max s.timebase (o.t0 + 1000 * dFld o.desc 4 63 32)
        exec (.kernelTimeout p op) s = .next (completeKernel (stopOp { s with timebase := late } p op .timeout) p op))) ∧
    (coreOk s c = true → (running s = false ∨ partUp s (c.die / 4) = false ∨ (getCore s k).fault = true) →
      exec (.coreFault c) s = .next s) ∧
    (coreOk s c = true → running s = true → partUp s (c.die / 4) = true → (getCore s k).fault = false →
      mfind s.clusterOut (clKey c.die c.cl) = none →
      ∃ t, exec (.coreFault c) s = .next t ∧ t.calDirty = true ∧
        (let q := physOf s (clKey c.die c.cl)
         mfind t.coreGone (pclKey c.die q * 128 + physCoreOf s c.die q c.core) = some ())) ∧
    (clusterOk s cl = true → (running s = false ∨ partUp s (cl.die / 4) = false ∨ mfind s.clusterOut (clKey cl.die cl.cl) ≠ none) → exec (.clusterCutout cl ab) s = .next s) ∧
    (clusterOk s cl = true → running s = true → partUp s (cl.die / 4) = true → mfind s.clusterOut (clKey cl.die cl.cl) = none →
      exec (.clusterCutout cl ab) s = .next (cutFailed s (clKey cl.die cl.cl) ab))

/-- R103, R105, R144, R146 and R150 for every row of the State Engine. -/
def Obligations.StateEngineRows : Prop :=
  ∀ (t : ThreadRef) (w : Word) (p op idx : Nat) (s : State),
    let g := fetched s t
    let x := threadOf s t
    let k := tKey t
    let c := getCore g k
    let a := ((rd x (wA w)).toNat + fld w 15 0) % 65536
    let ws := (List.range 8).map (blockWord c a)
    let w0 := blockWord c a 0
    let i : Issuer := .core k t.th g.nextJob (fld w0 12 8) (fld w0 31 16) (fld w0 63 32) (fld w0 13 13 == 1)
    let f := fin { g with nextJob := g.nextJob + 1 } t x
    let s1 := setCore f k { getCore f k with reqs := (getCore f k).reqs ++ [g.nextJob] }
    let row (o : SeOp) (j : SeSource → Instr) : Prop :=
      (fateOf .sereq t w s = .go → (∀ o', seOp ws = some o' → o' = o) →
        (a % 64 ≠ 0 → exec (j (.thread t w)) s = .next (takeTrap g t .misaligned [])) ∧
        (a % 64 = 0 → 64 ≤ c.reqs.length → exec (j (.thread t w)) s = .next g) ∧
        (a % 64 = 0 → c.reqs.length < 64 → word0Ok w0 = false → exec (j (.thread t w)) s = .next (localDone s1 i .badDesc 0 0 0)) ∧
        (a % 64 = 0 → c.reqs.length < 64 → word0Ok w0 = true → exec (j (.thread t w)) s =
          .next (seArrive s1 (threadWho s1 t) i ws ((getCore s1 k).launch.bind (·.step)).isSome))) ∧
      (p < nParts s → getOp s p op = none → exec (j (.batch p op idx)) s = .next s) ∧
      (∀ y st l s2, p < nParts s → getOp s p op = some y → dOpc y.desc = 5 → y.phase = .running → y.stop = none → y.issued = idx →
        running s = true → tvaReadList s (opWho s p op y) 2 ((dWord y.desc 2).toNat + 64 * idx) 64 = (st, l, s2) →
        let b := (List.range 8).map (fun i => BitVec.ofNat 64 (bytesAt l (8 * i) 8))
        let b0 := lget 0 b 0
        let s3 := setOp s2 p op { y with issued := idx + 1 }
        (st ≠ .ok → exec (j (.batch p op idx)) s = .next (blockDone s3 p op idx 0 st 0 0 0)) ∧
        (st = .ok → seOp b = some o → word0Ok b0 = true → fld b0 13 8 = 0 → fld b0 31 16 = 0 → seFld b 2 7 6 = 3 →
          exec (j (.batch p op idx)) s = .next (seArrive s3 (opWho s p op y) (.op p op idx) b y.step.isSome)))
    row .open_ .seOpen ∧ row .close .seClose ∧ row .attend .seAttend ∧ row .select .seSelect ∧ row .attendSel .seAttendSel ∧
    row .append .seAppend ∧ row .keepRange .seMoveKeepRange ∧ row .keepList .seMoveKeepList ∧ row .moveOut .seMoveOut ∧
    row .moveIn .seMoveIn ∧ row .statsCtx .seStatsContext ∧ row .statsStack .seStatsStack ∧
    (∀ stack req, stack < 4 * nParts s →
      (mfind (getStack s stack).reqs req = none → exec (.stateEngineRequestDone stack req) s = .next s) ∧
      (∀ r, mfind (getStack s stack).reqs req = some r → (r.started = false ∨ running s = false) →
        exec (.stateEngineRequestDone stack req) s = .next s) ∧
      (∀ r bad s2, mfind (getStack s stack).reqs req = some r → r.started = true → running s = true → seResults s stack r = (bad, s2) →
        exec (.stateEngineRequestDone stack req) s = .next (admitSe (seComplete
          (setStack s2 stack { getStack s2 stack with reqs := mdel req (getStack s2 stack).reqs })
          r.issuer (fld (lget 0 r.words 0) 63 32) (bad.getD r.status) r.cflags r.done r.firstFail) stack 16)))

/-- R149, at the start of a request. -/
def Obligations.StateEngineJobTags : Prop :=
  ∀ (s : State) (k : Nat) (r : SeReq) (o : SeOp) (c : Ctx),
    seOp r.words = some o → o ≠ .open_ → o ≠ .statsStack → seCtx s k r.words = some c →
      (c.jobTag ≠ r.who.jobTag → (runSe s k r).1.st = .access ∧ (runSe s k r).2 = s) ∧
      (c.jobTag = r.who.jobTag → seWithin o r.words c = true → runSe s k r = runOn s k r o c)

/-- R151, with what R143 and R152 add. -/
def Obligations.StateEngineOpenClose : Prop :=
  ∀ (s : State) (k : Nat) (r : SeReq),
    let x := getStack s k
    let q := runSe s k r
    (seOp r.words = some .open_ → (x.nextNew < 65536 ∨ x.freed ≠ []) →
      ∃ i c, mfind (getStack q.2 k).ctx i = some c ∧ c.isOpen = true ∧ c.len = 0 ∧ c.jobTag = r.who.jobTag ∧
        c.fmtK = seFld r.words 2 35 32 ∧ c.fmtV = seFld r.words 2 39 36 ∧ c.h = seFld r.words 2 43 40 + 1 ∧
        c.nb = seFld r.words 2 46 44 + 1 ∧ c.ptab = seFld r.words 5 36 0 ∧ c.pcap = seFld r.words 6 31 0 ∧
        c.gen = (mget {} x.ctx i).gen + 1 ∧ q.1.st = .ok ∧ q.1.result = toBytes 8 (i + 2 ^ 16 * c.gen) ∧
        (∀ j, j ≠ i → mfind (getStack q.2 k).ctx j = mfind x.ctx j) ∧ q.2 = { s with seStacks := q.2.seStacks }) ∧
    (seOp r.words = some .open_ → 65536 ≤ x.nextNew → x.freed = [] → q.1.st = .noResource ∧ q.2 = s) ∧
    (∀ c, seOp r.words = some .close → seCtx s k r.words = some c → c.jobTag = r.who.jobTag →
      q.1.st = .ok ∧ seCtx q.2 k r.words = none ∧
      (∀ j, j ≠ seFld r.words 1 15 0 → mfind (getStack q.2 k).ctx j = mfind x.ctx j))

/-- R430 to R437. -/
def Obligations.Steps : Prop :=
  ∀ (p op : Nat) (s : State) (o : Op),
    (chosen s p op 0x10 o →
      ((getHub s p).steps.any (fun e => e.2.tenant == o.tenant && e.2.stepId == dStep o.desc) = true →
        exec (.stepBegin p op) s =
          .next (finishUnit (setRing s p o.ring { getRing s p o.ring with skipStep := true }) p op .badDesc)) ∧
      ((getHub s p).steps.any (fun e => e.2.tenant == o.tenant && e.2.stepId == dStep o.desc) = false →
        ∀ st rs s1, readRanges s (opWho s p op o) (dWord o.desc 2).toNat (dFld o.desc 3 6 0) = (st, rs, s1) →
        let skip (u : State) (st : Status) : Host.Outcome State Fault Refusal :=
          .next (finishUnit (setRing u p o.ring { getRing u p o.ring with skipStep := true }) p op st)
        (st ≠ .ok → exec (.stepBegin p op) s = skip s1 st) ∧
        (∀ st' runs s2, st = .ok → allRuns s1 (opWho s1 p op o) rs = (st', runs, s2) →
          let prot := runs.map (fun g => (g.1 / 2 ^ 44 % 16, g.1 % 2 ^ 44, g.2))
          let full := 1024 ≤ (getHub s2 p).steps.length ∨ ∃ q, q < 16 ∧ 16384 < protUsed s2 q + (prot.filter (fun e => e.1 == q)).length
          let n := (getHub s2 p).nextStep
          (st' ≠ .ok → exec (.stepBegin p op) s = skip s2 st') ∧
          (st' = .ok → (∃ g, g ∈ runs ∧ g.1 / 2 ^ 48 ≠ pkgNum s2) → exec (.stepBegin p op) s = skip s2 .badDesc) ∧
          (st' = .ok → (∀ g, g ∈ runs → g.1 / 2 ^ 48 = pkgNum s2) → full → exec (.stepBegin p op) s = skip s2 .noResource) ∧
          (st' = .ok → (∀ g, g ∈ runs → g.1 / 2 ^ 48 = pkgNum s2) → ¬full → ∃ u x, exec (.stepBegin p op) s = .next (finishUnit u p op .ok) ∧
            getStep u p n = some x ∧ x.state = .open_ ∧ x.tenant = o.tenant ∧ x.stepId = dStep o.desc ∧ x.ring = o.ring ∧ x.first = o.desc.n ∧
            x.prot = prot ∧ (getHub u p).nextStep = n + 1 ∧ (getRing u p o.ring).step = some n ∧ u.mem = s2.mem)))) ∧
    (chosen s p op 0x11 o →
      (o.step = none → exec (.stepCommit p op) s = .next (finishUnit s p op .badDesc)) ∧
      (∀ key, o.step = some key → getStep s p key = none → exec (.stepCommit p op) s = .next (finishUnit s p op .aborted)) ∧
      (∀ key x, o.step = some key → getStep s p key = some x → x.state ≠ .open_ →
        exec (.stepCommit p op) s = .next (finishUnit s p op .replayReq)) ∧
      (∀ key x dn ff s1, o.step = some key → getStep s p key = some x → x.state = .open_ →
        commitEnd (setStep s p key { x with state := .committing }) (opWho s p op o) o.desc = (.ok, dn, ff, s1) →
        exec (.stepCommit p op) s = .next (closeStep (finishRaw s1 p op .ok dn ff) p key))) ∧
    (∀ st q key, chosen s p op 0x12 o → namedStep s p o = (st, q, key) →
      (st ≠ .ok → exec (.stepAbort p op) s = .next (finishUnit s p op st)) ∧
      (st = .ok → exec (.stepAbort p op) s = .next (abortStep (setOp s p op { o with phase := .running }) q key (some (p, op))))) ∧
    (∀ st q key, chosen s p op 0x13 o → namedStep s p o = (st, q, key) →
      (st ≠ .ok → exec (.stepReplay p op) s = .next (finishUnit s p op st)) ∧
      (∀ x, st = .ok → getStep s q key = some x →
        ((x.state ≠ .failed ∨ x.commit = none) → exec (.stepReplay p op) s = .next (finishUnit s p op .badDesc)) ∧
        (x.state = .failed → x.commit ≠ none → 15 ≤ x.attempt →
          exec (.stepReplay p op) s = .next (finishUnit (emit s 0x0061 (srcHub q) [(4, x.stepId)]) p op .noResource)) ∧
        (x.state = .failed → x.commit ≠ none → x.attempt < 15 →
          ∃ s1, exec (.stepReplay p op) s = .next (finishUnit s1 p op .ok) ∧
            getStep s1 q key = some { x with state := .open_, attempt := x.attempt + 1, committed := false, replayPending := true } ∧
            (getHub s1 q).replays = min ((getHub s q).replays + 1) (2 ^ 32 - 1) ∧ s1 = { s with hubs := s1.hubs }))) ∧
    (∀ key, p < nParts s →
      (getStep s p key = none → exec (.stepReexecution p key) s = .next s) ∧
      (∀ x, getStep s p key = some x → x.replayPending = false → exec (.stepReexecution p key) s = .next s) ∧
      (∀ x st ds s1, getStep s p key = some x → x.replayPending = true →
        rereadSlots s p x.ring (((x.commit.getD x.first) + 2 ^ 32 - (x.first + 1) % 2 ^ 32) % 2 ^ 32 + 1) ((x.first + 1) % 2 ^ 32) = (st, ds, s1) →
        (st ≠ .ok → exec (.stepReexecution p key) s = .next (ringError s1 p x.ring 1)) ∧
        (st = .ok → exec (.stepReexecution p key) s = .next (setRing (setStep s1 p key { x with replayPending := false }) p x.ring
          { getRing s1 p x.ring with fetched := ds ++ (getRing s1 p x.ring).fetched }))))

/-- The rows of collectives, of groups and of their phases (R365, R371 to R373, R377, R378, R380, R381). -/
def Obligations.Collectives : Prop :=
  (∀ (p op : Nat) (s : State) (o : Op),
       let row (n : Nat) (i : Instr) : Prop :=
         chosen s p op 0x04 o → min (dFld o.desc 2 3 0) 6 = n →
           let r := getRing s p o.ring
           (r.comm = true → exec i s = .next (collComm s p op o r.group)) ∧
           (r.comm = false → exec i s = .next (collNormal s p op o)) ∧
           (r.comm = true → grpFld s p r.group 0 19 19 = 0 → exec i s = .next (finishOp s p op .badDesc 0 0xFFFFFFFF)) ∧
           (r.comm = false → collFields o.desc (dFld o.desc 2 22 16) (dFld o.desc 2 28 23) false = false →
             exec i s = .next (finishOp s p op .badDesc 0
               (if dFld o.desc 2 28 23 < dFld o.desc 2 22 16 then dFld o.desc 2 28 23 else 0xFFFFFFFF)))
       row 0 (.allReduce p op) ∧ row 1 (.reduceScatter p op) ∧ row 2 (.allGather p op) ∧ row 3 (.broadcast p op) ∧
       row 4 (.allToAll p op) ∧ row 5 (.reduce p op) ∧ row 6 (.barrier p op) ∧
       (p < nParts s →
         (∀ j, (running s = false ∨ partUp s p = false) → exec (.collectiveJoin p j) s = .next s) ∧
         (∀ j, running s = true → partUp s p = true → findColl s p j.key j.dest = none → ∃ t, exec (.collectiveJoin p j) s = .next t ∧
           (let late := (j.key, j.dest, j.sender)
            (late ∉ (getHub s p).lateJoins → (getHub t p).joins = (getHub s p).joins ++ [j] ∧ (getHub t p).lateJoins = (getHub s p).lateJoins) ∧
            (late ∈ (getHub s p).lateJoins → (getHub t p).joins = (getHub s p).joins ∧
              (getHub t p).lateJoins = (getHub s p).lateJoins.erase late)) ∧
           t = { s with hubs := t.hubs }) ∧
         (∀ j i c, running s = true → partUp s p = true → findColl s p j.key j.dest = some (i, c) →
           exec (.collectiveJoin p j) s = .next (collPass (takeJoin (arrived s (.join j)) p i j) j.key)) ∧
         (∀ k, (running s = false ∨ partUp s p = false ∨ findColl s p k.key k.dest = none) → exec (.collectivePacket p k) s = .next s) ∧
         (∀ k i c q, running s = true → partUp s p = true → findColl s p k.key k.dest = some (i, c) → k.level ≤ topLevel c →
           k.chunk < chunks c → k.group < c.members.length → packetPhase c k.level < phaseLimit s p c → k.src = .near q → q < nParts s → q ≠ p →
           exec (.collectivePacket p k) s = .next (nearPacket s p i c k q)) ∧
         (∀ k i c d, running s = true → partUp s p = true → findColl s p k.key k.dest = some (i, c) → k.level ≤ topLevel c →
           k.chunk < chunks c → k.group < c.members.length → packetPhase c k.level < phaseLimit s p c → k.src = .far d → reduces c.opc = true →
           (d.length = ((chunkSpan c k.chunk).2 - (chunkSpan c k.chunk).1) / elemBytes c.dtype →
             exec (.collectivePacket p k) s = .next (takeData s p i k d)) ∧
           (d.length ≠ ((chunkSpan c k.chunk).2 - (chunkSpan c k.chunk).1) / elemBytes c.dtype → exec (.collectivePacket p k) s = .next s)) ∧
         (∀ a, findColl s p a.key a.dest = none → exec (.collectiveAbort p a) s = .next (arrived s (.abort a))) ∧
         (∀ a i c, findColl s p a.key a.dest = some (i, c) → exec (.collectiveAbort p a) s =
           .next (collFail (arrived s (.abort a)) p i (if a.status = 0x17 then .badDesc else .peerLost) a.rank)) ∧
         (∀ inst, getColl s p inst = none → exec (.collectiveTimeout p inst) s = .next s) ∧
         (∀ inst c, getColl s p inst = some c →
           let s1 := spoilOut { s with timebase := max s.timebase (c.t0 + 1000 * c.timeout) } p c
           let member := ((getOp s p c.op).bind (·.step)).isSome = true
           (c.members.length ≤ c.joined.length →
             exec (.collectiveTimeout p inst) s = .next (finishOp (collLeave s1 p c.op) p c.op .peerLost 0 0xFFFFFFFF)) ∧
           (c.joined.length < c.members.length → ¬(s.stage = .powerFail ∧ member) →
             exec (.collectiveTimeout p inst) s = .next (finishOp (collLeave s1 p c.op) p c.op .timeout 0 0xFFFFFFFF)) ∧
           (c.joined.length < c.members.length → s.stage = .powerFail → member →
             exec (.collectiveTimeout p inst) s = .next (finishOp (collLeave s1 p c.op) p c.op .replayReq 0 0xFFFFFFFF))))) ∧
  (∀ (tenant p : Nat) (v : Word) (s : State), p < 16 → writeOpen s tenant (rGrpSel p + 0x40) →
       let g := rfld s (rGrpSel p) 11 0
       let s1 := renewLease s
       let s2 := setGrpWord s1 p g 0 (setFld (grpWord s1 p g 0) 48 32 (fld v 48 32))
       (grpFld s p g 0 18 18 = 0 → (v.getLsbD 19 = true → exec (.groupReady tenant p v) s = .next s1) ∧
         (v.getLsbD 19 = false → exec (.groupDisarm tenant p v) s = .next s1)) ∧
       (grpFld s p g 0 18 18 = 1 → v.getLsbD 19 = true → exec (.groupReady tenant p v) s = .next (armGroup s2 p g)) ∧
       (grpFld s p g 0 18 18 = 1 → v.getLsbD 19 = false → exec (.groupDisarm tenant p v) s = .next (disarmGroup s2 p g)) ∧
       (grpFld s p g 0 18 18 = 1 → grpFld s p g 0 19 19 = 0 → v.getLsbD 19 = false →
         ∃ t, exec (.groupDisarm tenant p v) s = .next t ∧ grpFld t p g 0 19 19 = 0 ∧ grpFld t p g 0 48 32 = fld v 48 32 ∧
           (∀ j, j ≠ g → mget ({} : Grp) (getHub t p).grp j = mget ({} : Grp) (getHub s p).grp j)) ∧
       (grpFld s p g 0 18 18 = 1 → grpFld s p g 0 19 19 = 1 → v.getLsbD 19 = false → ((getHub s p).colls.any (fun c => c.2.grp == some g)) = false →
         ∃ t, exec (.groupDisarm tenant p v) s = .next t ∧ grpFld t p g 0 19 19 = 0 ∧ (mget ({} : Grp) (getHub t p).grp g).disarm = false) ∧
       (∀ inst, p < nParts s → getColl s p inst = none → exec (.phaseBoundary p inst) s = .next s) ∧
       (∀ inst c, p < nParts s → getColl s p inst = some c → c.grp = none → exec (.phaseBoundary p inst) s = .next s) ∧
       (∀ inst c g k q m, p < nParts s → getColl s p inst = some c → c.grp = some g → c.onTree = false → c.resume = none → c.barrier = false →
         nextSteered s p c = some (k, q) → steeringMember s c.key.ident = some (p, g, m) →
         ((∃ x, x ∈ keyColls s c.key ∧ phaseDone s x.1 x.2.2 k = false) → exec (.phaseBoundary p inst) s = .next s) ∧
         ((∀ x, x ∈ keyColls s c.key → phaseDone s x.1 x.2.2 k = true) → ∃ t, exec (.phaseBoundary p inst) s = .next t ∧
           ∀ x, x ∈ keyColls s c.key → ∃ y, getColl t x.1 x.2.1 = some y ∧ y.phase = k + 1 ∧ y.resume.isSome = true)))

/-- R387, R392, R393 and R395. -/
def Obligations.CurrantTrees : Prop :=
  ∀ (s : State),
    (∀ (eng : Nat) (l : List Byte) (i : Instr), (i = .up ⟨eng, l⟩ ∨ i = .down ⟨eng, l⟩ ∨ i = .treeAbort ⟨eng, l⟩ ∨ i = .currantAck eng l) → eng < 64 →
      let f := treeFrameOf l
      let s1 := curAcked s eng f.lack
      let x := getEng s1 eng
      let s2 := setEng s1 eng { x with cur := { x.cur with last := f.lseq } }
      let known := f.f.op ≤ 2 ∧ f.f.rop ≤ 2 ∧ f.f.nelem ≤ 16
      (curUp s eng = false → exec i s = .next s) ∧
      (curUp s eng = true → f.sound = false → exec i s = .next (curTell s eng true)) ∧
      (curUp s eng = true → f.sound = true → f.f.kind = 0 → exec i s = .next s1) ∧
      (curUp s eng = true → f.sound = true → f.f.kind ≠ 0 → f.lseq ≠ (x.cur.last + 1) % 256 → exec i s = .next (curTell s1 eng true)) ∧
      (curUp s eng = true → f.sound = true → f.f.kind ≠ 0 → f.lseq = (x.cur.last + 1) % 256 →
        (treeAt s2 eng f.f.tid = none → exec i s = .next (curTell s2 eng false)) ∧
        (∀ t, treeAt s2 eng f.f.tid = some t → known → partUp s2 (treeHome s2 t) = true →
          (f.f.kind = 1 → exec i s = .next (curTell (treeGoOn (treeUp s2 eng t f.f) t) eng false)) ∧
          (f.f.kind = 2 → exec i s = .next (curTell (treeGoOn (treeDown s2 eng t f.f) t) eng false)) ∧
          (f.f.kind = 3 → exec i s = .next (curTell (treeGoOn (treeStop s2 eng t f.f) t) eng false))))) ∧
    (∀ (eng : Nat) (l : List Byte), eng < 64 → curUp s eng = true → (treeFrameOf l).sound = true → (treeFrameOf l).f.kind = 0 →
      let c := (getEng s eng).cur
      let n := ((treeFrameOf l).lack + 256 - (c.lseq + 256 - c.unack.length) % 256) % 256 + 1
      (c.unack.length < n → exec (.currantAck eng l) s = .next s) ∧
      (n ≤ c.unack.length → c.queue = [] → ∃ t, exec (.currantAck eng l) s = .next t ∧ (getEng t eng).cur.unack = c.unack.drop n ∧
        (getEng t eng).cur.ackAt = s.timebase ∧ t = { s with engs := t.engs })) ∧
    (∀ (s : State) (eng t : Nat) (f : CurFrame) (o : TreeOp), treeOp s t f.opseq = some o →
      (o.up = some eng → o.sent = true → treeKids s t = [] → treeDown s eng t f = treeEnd s t f.opseq .ok f.data o.sat) ∧
      (eng ∈ treeKids s t → treeBroken s t = false →
        treeUp s eng t f = treeStep (setTreeOp s t f.opseq { o with kids := mput eng f o.kids }) t f.opseq) ∧
      treeStop s eng t f = treeAbortOp s t f.opseq (statusOf f.cause) (some eng)) ∧
    (∀ eng, eng < 64 →
      (((getEng s eng).cur.unack = [] ∨ curUp s eng = false) → exec (.currantResend eng) s = .next s) ∧
      ((getEng s eng).cur.unack ≠ [] → curUp s eng = true → ∃ t, exec (.currantResend eng) s = .next t ∧
        t.timebase = max s.timebase ((getEng s eng).cur.ackAt + 1000) ∧ (getEng t eng).cur.unack = (getEng s eng).cur.unack ∧
        (getEng t eng).cur.ackAt = t.timebase ∧ t = { s with engs := t.engs, timebase := t.timebase })) ∧
    (∀ tree n, tree < 256 → treeOp s tree n = none → exec (.currantTreeTimeout tree n) s = .next s) ∧
    (∀ tree n o t0, tree < 256 → treeOp s tree n = some o → o.t0 = some t0 → ∃ t, exec (.currantTreeTimeout tree n) s = .next t ∧
      treeBroken t tree = true ∧ treeOp t tree n = none ∧
      (o.slots = [] → (getTree s tree).waiting = [] → t.timebase = max s.timebase (t0 + 1000 * max 3000 (treeFld s tree 1 47 32)))) ∧
    (∀ tenant tree (v : Word), tree < 256 → writeOpen s tenant (rCurTree tree 0) →
      (v.getLsbD 0 = true → treeValid s tree = true → exec (.curTreeValidSet tenant tree v) s = .next (renewLease s)) ∧
      (v.getLsbD 0 = true → treeValid s tree = false → ∃ t, exec (.curTreeValidSet tenant tree v) s = .next t ∧
        treeValid t tree = true ∧ treeBroken t tree = false ∧ treeFld t tree 1 63 48 = 0 ∧ getTree t tree = {}) ∧
      (v.getLsbD 0 = false → ∃ t, exec (.curTreeValidClear tenant tree v) s = .next t ∧ treeValid t tree = false ∧
        (treeValid s tree = true → (getTree t tree).ops = [])))

/-- R131, R132 and R443 to R445. -/
def Obligations.FieldTests : Prop :=
  ∀ (p : Nat) (s : State), p < nParts s →
    (∀ l : List IdleCount, (∀ c, c ∈ l → c.die / 4 = p ∧ c.cl < 40 ∧ c.cause < 11 ∧ ∀ t, c.tenant = some t → t < 512) →
      ((running s = false ∨ partUp s p = false) → exec (.idlePublication p l) s = .next s) ∧
      (running s = true → partUp s p = true → ∃ t, exec (.idlePublication p l) s = .next t ∧
        (∀ o, reg t o = reg s o +
          BitVec.ofNat 64 ((l.filter (fun c => rIdleCnt p (c.die % 4) c.cl c.cause == o)).map (·.cycles)).sum) ∧
        (∀ n cause, cause < 11 → mget 0 t.idle (16 * n + cause) = mget 0 s.idle (16 * n + cause) +
          ((l.filter (fun c => c.tenant == some n && c.cause == cause)).map (·.cycles)).sum) ∧
        t.timebase = cdiv s.timebase 1000000 * 1000000 ∧ t.mem = s.mem ∧ t.hubs = s.hubs)) ∧
    (∀ op o, chosen s p op 0x20 o →
      let c := dFld o.desc 2 13 8
      let cl := clKey (4 * p + dFld o.desc 2 1 0) c
      (partUp s p = false → exec (.fieldTest p op) s = .next (finishOp s p op .linkLost 0 0)) ∧
      (partUp s p = true → (c ≥ 40 ∨ mfind s.clusterOut cl = some 0) → exec (.fieldTest p op) s = .next (finishOp s p op .badDesc 0 0)) ∧
      (partUp s p = true → c < 40 → mfind s.clusterOut cl ≠ some 0 → exec (.fieldTest p op) s =
        .next (drainCut (beginTest { setOp s p op { o with phase := .running } with tests := s.tests ++ [{ part := p, op := op, cl := cl }] })))) ∧
    (s.tests = [] → exec .fieldTestDrainTimeout s = .next s) ∧
    (∀ t ts, s.tests = t :: ts → (t.begun = none ∨ t.phys ≠ none) → exec .fieldTestDrainTimeout s = .next s) ∧
    (∀ t ts t0, s.tests = t :: ts → t.begun = some t0 → t.phys = none →
      let s1 := { s with timebase := max s.timebase (t0 + 10000000) }
      let why (u : State) (e : Nat × Nat) : Status := if ((getOp u e.1 e.2).bind (·.step)).isSome = true then .replayReq else .aborted
      (exec .fieldTestDrainTimeout s = .next (drainCut ((clusterLaunches s t.cl).foldl
        (fun u e => completeKernel (stopOp u e.1 e.2 (why u e)) e.1 e.2) s1))) ∧
      (clusterLaunches s t.cl = [] → exec .fieldTestDrainTimeout s = .next (drainCut s1))) ∧
    (∀ r : TestResult, r.failed.all (fun x => x < 128) = true →
      (s.tests = [] → exec (.fieldTestResult r) s = .next s) ∧
      (∀ t ts, s.tests = t :: ts → t.begun = none → t.phys = none → exec (.fieldTestResult r) s = .next s) ∧
      (∀ t ts q took, s.tests = t :: ts → t.phys = some (q, took) →
        let die := t.cl / 40
        let bad := r.failed.eraseDups
        let gone (u : State) (x : Nat) : Bool := (mfind u.coreGone (pclKey die q * 128 + x)).isSome
        let retire : Bool := coreSpares s die q < (bad.filter (fun x => !(gone s x))).length || !r.cache
        let done := bad.length + 256 * b2n retire + 512 * b2n took
        let ff := bad.foldl min 0xFFFFFFFF
        (r.image = false → exec (.fieldTestResult r) s = .next (finishOp (endTest (health (returnCluster s t))) t.part t.op .faultMem 0 0)) ∧
        (r.image = true → ∃ u, exec (.fieldTestResult r) s =
            .next (finishOp (endTest (health (emit u 0x0029 (srcDie die q) [(4, done), (4, ff)]))) t.part t.op .ok done ff) ∧
          u.calDirty = true ∧ (retire = false ∨ took = true → ∀ x, x ∈ r.failed → gone u x = true) ∧
          (retire = true → took = true → mfind u.clGone (pclKey die q) = some 0))))

/-- R324 to R329. -/
def Obligations.Steering : Prop :=
  ∀ (die eng : Nat) (s : State),
    (∀ tenant (v : Word), die < 8 → writeOpen s tenant (rSteerCmd die) → v.getLsbD 4 = true →
      let s1 := writeReg (renewLease s) (rSteerCmd die) v
      let at_ := (reg s (rSteerTime die)).toNat
      let c := steerCheck s die none at_
      (small s = true → c = .unsupported) ∧
      (small s = false → at_ < s.timebase + 25000 → c = .badDesc) ∧
      (small s = false → s.timebase + 25000 ≤ at_ → (∀ p, p ∈ (getOpt s die).points → p.t + 10000 < at_ ∨ at_ + 10000 < p.t) →
        c = if 8 ≤ (getOpt s die).points.length then .noResource else .ok) ∧
      (∃ t, exec (.steeringRequest (.admin tenant die v)) s = .next t ∧ rfld t (rSteerCmd die) 15 8 = stCode c ∧
        (c ≠ .ok → t.opts = s.opts) ∧
        (c = .ok → (getOpt t die).points = insertPoint ⟨at_, fld v 3 0, presetMap s1 die (fld v 3 0)⟩ (getOpt s die).points ∧
          rfld t (rSteerStatus die) 3 0 = ((getOpt s die).points.length + 1) % 16))) ∧
    (∀ dom preset at_, die < 8 → dom < 16 → preset < 16 →
      ((running s = false ∨ optUp s die = false) → exec (.steeringRequest (.group die dom preset at_)) s = .next s) ∧
      ((rbit s (rQctl die) 8 = false ∨ rfld s (rQctl die) 7 4 ≠ dom) → small s = false →
        exec (.steeringRequest (.group die dom preset at_)) s = .next s)) ∧
    (die < 8 → ((getOpt s die).points = [] ∨ running s = false ∨ optUp s die = false) → exec (.steeringPoint die) s = .next s) ∧
    (∀ q rest, die < 8 → (getOpt s die).points = q :: rest → running s = true → optUp s die = true →
      ∃ t, exec (.steeringPoint die) s = .next t ∧ (getOpt t die).points = rest ∧ rfld t (rQctl die) 3 0 = q.preset % 16 ∧
        (let m := (applyMap { s with timebase := max s.timebase q.t } die q.map).1
         (∀ e, e < 8 → lget 15 m e = engPort s (8 * die + e)) →
           t.timebase = max s.timebase q.t ∧ rfld t (rSteerStatus die) 15 8 = 0 ∧ t.engs = s.engs ∧ t.mem = s.mem)) ∧
    (∀ fails, fails.all (fun w => w < 20) = true → engReady s eng →
      (linkState s eng ≠ 5 → exec (.relockDone eng fails) s = .next s) ∧
      (linkState s eng = 5 → (¬ engPort s eng ∈ (getEng s eng).stored ∨ 3 < fails.length) →
        ∃ t, exec (.relockDone eng fails) s = .next t ∧ linkState t eng = 1 ∧ (getEng t eng).unlocked = fails ∧
          rbit t (rEngStatus (eng / 8) (eng % 8)) 21 = true) ∧
      (linkState s eng = 5 → engPort s eng ∈ (getEng s eng).stored → fails.length ≤ 3 →
        exec (.relockDone eng fails) s = .next (collResume (linkUpNow (setEng (setRbit s (rPortStatus (eng / 8)) (16 + engPort s eng) true) eng
          { getEng s eng with unlocked := fails }) eng))))

/-- R317 to R322: the rows about this end's transmit direction, what the peer does in the other, and lasers. -/
def Obligations.WavelengthCalibration : Prop :=
  ∀ (eng : Nat) (s : State),
    let x := getEng s eng
    let on := linkState s eng = 4
    let ctl := rbit s (rCalCtl (eng / 8)) 0 = true
    let put (c : CalSt) (p : CalPhase) (q : State) : State := onDir q eng true (fun d => { d with cal := some { c with phase := p } })
    (engReady s eng →
      (¬(on ∧ ctl) → exec (.calibrationPeriod eng true) s = .next s ∧ ∀ w, w < 20 → exec (.calReq eng w) s = .next s) ∧
      (∀ w, 20 ≤ w → w < 256 → exec (.calReq eng w) s = .next s) ∧
      exec (.calibrationPeriod eng false) s = .next s ∧
      (on → ctl →
        let now := max s.timebase ((x.tx.swept.map (fun t => t + calPeriod s (eng / 8))).getD 0)
        exec (.calibrationPeriod eng true) s = .next (calStart (onDir { s with timebase := now } eng true (fun d => { d with
          swept := some now, todo := x.tx.first ++ (List.range 20).filter (fun w => !(x.tx.first.contains w)), first := [] })) eng 20)) ∧
      (let n := rfld s (rCalCtl (eng / 8)) 15 8
       calPeriod s (eng / 8) = 1000000000 * (if n = 0 then 10 else if 60 < n then 60 else n)) ∧
      (∀ w, on → ctl → w < 20 → exec (.calReq eng w) s = .next (calStart (onDir s eng true (fun d =>
        if d.todo.contains w then d else { d with todo := d.todo ++ [w] })) eng 20)) ∧
      (x.tx.cal = none → exec (.swapOut eng true) s = .next s ∧ exec (.swapBack eng true) s = .next s ∧
        exec (.sparelessOut eng true) s = .next s ∧ (∀ ok, exec (.sparelessReturn eng true ok) s = .next s) ∧
        (∀ ok, exec (.retuneEnd eng true ok) s = .next s)) ∧
      (∀ c sp at_, on → x.tx.cal = some c → c.phase = .outAt at_ → c.spare = some sp →
        let s1 := atSwap s eng at_
        ((role s1 eng true sp ≠ 0x11 ∨ role s1 eng true c.w ≠ c.role) →
          exec (.swapOut eng true) s = .next (calNext (onDir s1 eng true (fun d => { d with first := d.first ++ [c.w] })) eng)) ∧
        (role s1 eng true sp = 0x11 → role s1 eng true c.w = c.role →
          exec (.swapOut eng true) s = .next (calGone (putRole (putRole s1 eng true sp c.role) eng true c.w 0x12) eng c))) ∧
      (∀ c ok, on → x.tx.cal = some c → c.phase = .tuning →
        (ok = false → exec (.retuneEnd eng true ok) s = .next (calFail s eng c)) ∧
        (ok = true → c.inPlace = true → exec (.retuneEnd eng true ok) s =
          .next (calNext (if c.role = 0x13 then mapChanged (putRole s eng true c.w 0x11) eng else s) eng)) ∧
        (ok = true → c.inPlace = false →
          exec (.retuneEnd eng true ok) s = .next (sayCal (put c (.backAt (swapPoint s (eng / 8))) s) eng))) ∧
      (∀ c sp at_, on → x.tx.cal = some c → c.phase = .backAt at_ → c.spare = some sp →
        exec (.swapBack eng true) s =
          .next (calNext (nextGen (putRole (putRole (atSwap s eng at_) eng true c.w c.role) eng true sp 0x11) eng c) eng)) ∧
      (∀ c at_, on → x.tx.cal = some c → c.phase = .outAt at_ → c.spare = none → c.inPlace = false →
        let s1 := atSwap s eng at_
        (role s1 eng true c.w = c.role → exec (.sparelessOut eng true) s = .next (calGone (putRole s1 eng true c.w 0x12) eng c)) ∧
        (role s1 eng true c.w ≠ c.role → exec (.sparelessOut eng true) s = .next (calNext s1 eng))) ∧
      (∀ c, on → x.tx.cal = some c → c.spare = none → c.inPlace = false →
        (c.phase = .tuning → exec (.sparelessReturn eng true false) s = .next (calFail s eng c) ∧
          exec (.sparelessReturn eng true true) s = .next (calNext (nextGen (putRole s eng true c.w c.role) eng c) eng)) ∧
        (∀ at_, c.phase = .backAt at_ → exec (.sparelessReturn eng true true) s =
          .next (calNext (nextGen (putRole (atSwap s eng at_) eng true c.w c.role) eng c) eng))) ∧
      (¬on → exec (.swapOut eng false) s = .next s ∧ exec (.swapBack eng false) s = .next s ∧ exec (.sparelessOut eng false) s = .next s ∧
        (∀ ok, exec (.sparelessReturn eng false ok) s = .next s ∧ exec (.retuneEnd eng false ok) s = .next s)) ∧
      (on → exec (.swapOut eng false) s = .next (peerChange s eng 0) ∧ exec (.swapBack eng false) s = .next (peerChange s eng 1) ∧
        exec (.sparelessOut eng false) s = .next (peerChange s eng 2) ∧
        (∀ ok, exec (.sparelessReturn eng false ok) s = .next (peerChange s eng 3)) ∧ exec (.retuneEnd eng false true) s = .next s ∧
        (∀ c, x.rx.cal = some c → ∃ t, exec (.retuneEnd eng false false) s = .next t ∧ (getEng t eng).rx.cal = none ∧ (getEng t eng).tx = x.tx ∧
          (c.w < 20 → role t eng false c.w = 0x13)))) ∧
    (∀ die arr wl, die < 8 → arr < 2 → wl < 20 →
      let live := running s = true ∧ optUp s die = true ∧ laserOk s die arr wl = true
      let i := 20 * arr + wl
      let k := (mfind (getOpt s die).steps i).getD (biasSteps s die arr wl)
      (¬live → exec (.laserBiasControl die arr wl) s = .next s ∧ exec (.laserFailure die arr wl) s = .next s) ∧
      (live → laserMargin s die arr wl = none → exec (.laserBiasControl die arr wl) s = .next s) ∧
      (live → exec (.laserFailure die arr wl) s = .next (loseLaser s die arr wl 2)) ∧
      (∀ m, live → laserMargin s die arr wl = some m → 5 ≤ m → k ≤ 120 →
        ∃ t k', exec (.laserBiasControl die arr wl) s = .next t ∧ (k' ≠ k → mfind (getOpt t die).steps i = some k') ∧ k' ≤ 120 ∧
          rfld t (rLaser die arr wl) 31 16 = rfld s (rLaser die arr wl) 15 0 * (200 + k') / 200 % 65536 ∧ rbit t (rLaser die arr wl) 33 = (k' == 120) ∧
          (k' = k ∨ k' = k + 1 ∧ 2 * m < 35 ∨ k' + 1 = k ∧ 35 < m) ∧
          (∀ t0, mfind (getOpt s die).changed i = some t0 → s.timebase < t0 + 10000000 → k' = k)))

/-- R335, R338, R339, R343 to R347: what the flits and their timers do at one engine. -/
def Obligations.MeluxFlits : Prop :=
  ∀ (eng : Nat) (s : State), engReady s eng →
    let x := getEng s eng
    let up := linkState s eng = 4
    let cnt := rMlxCnt (eng / 8) (eng % 8) 2
    (∀ (h : FlitHead) (p : List Byte), h.kind < 3 → h.valid < 256 → h.cls < 4 → h.seq < 4096 → h.ack < 4096 →
      headOf (flitBits h p) = h ∧ payloadOf (flitBits h p) = padTo 240 p ∧ crcGood (flitBits h p) = true ∧
      (flitSound (flitBits h p) = true ↔ (h.kind = 1 → h.cls ≠ 3 ∧ 1 ≤ h.valid ∧ h.valid ≤ 240))) ∧
    (∀ f : Flit, f.cws = [] →
      let h := headOf f.bits
      let q := headerAck s eng h
      let y := getEng q eng
      let room := (lget 0 y.got h.cls + 2 ^ 32 - lget 0 y.passed h.cls) % 2 ^ 32 < 1024
      (linkState s eng ≠ 3 → ¬up → linkState s eng ≠ 5 → exec (.dataFlit eng f) s = .next s ∧ exec (.idleFlit eng f) s = .next s) ∧
      (up → flitSound f.bits = false → ∃ t, exec (.dataFlit eng f) s = .next t ∧ exec (.idleFlit eng f) s = .next t ∧
        (getEng t eng).nak = true ∧ (getEng t eng).expect = x.expect ∧ (getEng t eng).got = x.got ∧ (getEng t eng).unack = x.unack ∧
        reg t cnt = reg s cnt + 1 ∧ (∀ o, o ≠ cnt → reg t o = reg s o)) ∧
      (up → flitSound f.bits = true →
        (h.kind = 0 → exec (.idleFlit eng f) s = .next q) ∧
        (h.kind = 1 → (h.seq ≠ y.expect ∨ ¬room) → exec (.dataFlit eng f) s = .next (setNak q eng)) ∧
        (h.kind = 1 → h.seq = y.expect → room → ∃ t, exec (.dataFlit eng f) s = .next t ∧ (getEng t eng).expect = (y.expect + 1) % 4096 ∧
          (getEng t eng).ackV = true ∧ (getEng t eng).nak = false ∧ (h.eop = false → (getEng t eng).inbox = y.inbox) ∧
          (∀ c, c ≠ h.cls → lget 0 (getEng t eng).got c = lget 0 y.got c) ∧ (getEng t eng).passed = y.passed ∧ t = { q with engs := t.engs }) ∧
        (1 < h.kind → exec (.dataFlit eng f) s = .next ((ctlMsgs (payloadOf f.bits)).foldl (takeMsg eng) q)))) ∧
    (∀ f : Flit,
      let s1 := f.cws.foldl (codeword eng) s
      let bare : Flit := { f with cws := [] }
      (up → linkState s1 eng = 4 → exec (.dataFlit eng f) s = exec (.dataFlit eng bare) s1 ∧ exec (.idleFlit eng f) s = exec (.idleFlit eng bare) s1) ∧
      (linkState s eng = 3 ∨ linkState s eng = 5 →
        (flitSound f.bits = false → exec (.dataFlit eng f) s = .next (mlxCount s eng 2 1)) ∧
        (flitSound f.bits = true → (headOf f.bits).kind ≠ 2 → exec (.dataFlit eng f) s = .next s) ∧
        (flitSound f.bits = true → (headOf f.bits).kind = 2 →
          exec (.dataFlit eng f) s = .next ((ctlMsgs (payloadOf f.bits)).foldl (takeMsg eng) s)))) ∧
    (∀ wrong : AMap Nat, let n := wrong.foldl (fun a e => a + e.2) 0
      (n = 0 → codeword eng s wrong = s) ∧ (0 < n → n ≤ 15 → codeword eng s wrong = mlxCount s eng 0 1)) ∧
    ((¬up ∨ x.unack = [] ∨ changePending x.tx = true) → exec (.replayTimeout eng) s = .next s) ∧
    (up → x.unack ≠ [] → changePending x.tx = false → ∃ t, exec (.replayTimeout eng) s = .next t ∧
      t.timebase = max s.timebase (x.ackAt + 5000) ∧ (getEng t eng).ackAt = t.timebase ∧
      reg t (rMlxCnt (eng / 8) (eng % 8) 3) = reg s (rMlxCnt (eng / 8) (eng % 8) 3) + 1) ∧
    ((¬up ∨ x.nak = false ∨ changePending x.rx = true) → exec (.nakRepeat eng) s = .next s) ∧
    (up → x.nak = true → changePending x.rx = false →
      (let t1 := max s.timebase (x.nakAt + 2000)
       exec (.nakRepeat eng) s = .next (setEng { s with timebase := t1 } eng { x with nakAt := t1, nakDue := true }))) ∧
    ((¬up ∨ changePending x.rx = true) → exec (.codewordLockRegained eng) s = .next s) ∧
    (up → changePending x.rx = false → exec (.codewordLockRegained eng) s = .next (sendCtl (setEng s eng { x with nak := false, nakDue := false }) eng [.credit x.passed])) ∧
    (∀ freed, freed.length = 3 → freed.all (fun n => n < 2 ^ 32) = true →
      (¬up → exec (.credit eng freed) s = .next s) ∧
      (up → exec (.credit eng freed) s = .next (engSend (setEng s eng { x with freed := freed }) eng))) ∧
    (∀ omas, omas.length = 20 → omas.all (fun n => n < 256) = true → ∃ t, exec (.rxPower eng omas) s = .next t ∧
      (∀ w, w < 20 → rfld t (rFeOma (eng / 8) (eng % 8) 0 + 8 * (w / 8)) (8 * (w % 8) + 7) (8 * (w % 8)) = lget 0 omas w ∧
        mfind (getEng t eng).feAt w = some s.timebase)) ∧
    (∀ kind, kind = 1 ∨ kind = 2 ∨ kind = 3 ∨ kind = 6 ∨ kind = 8 →
      let may := (up ∧ kind ≠ 8) ∨ ((linkState s eng = 3 ∨ linkState s eng = 5) ∧ (kind = 6 ∨ kind = 8))
      ((¬may ∨ kind = 3 ∧ rbit s (rMlxCtl (eng / 8)) 0 = false) → exec (.controlMessageSend eng kind) s = .next s) ∧
      (may → (kind = 3 → rbit s (rMlxCtl (eng / 8)) 0 = true) → ∃ t, exec (.controlMessageSend eng kind) s = .next t ∧
        mfind (getEng t eng).ctlAt kind = some s.timebase ∧
        (getEng t eng).line = (putCtl (dataLanes s eng) s.timebase [timedMsg s eng kind] x).line ∧
        (kind = 3 → (getEng t eng).tsNum = (x.tsNum + 1) % 256 ∧ (getEng t eng).tsSent = nextTx s eng) ∧
        (kind ≠ 3 → (getEng t eng).tsNum = x.tsNum) ∧ t = { s with engs := t.engs, free := t.free })) ∧
    (∀ at_ moves, exec (.steerAnn eng at_ moves) s = .next (setEng s eng { x with ann := some (at_, moves) })) ∧
    (∀ w oma, w < 20 → ∃ t, exec (.omaMeasurement eng w oma) s = .next t ∧
      mget (0, 0) (getEng t eng).oma w = ((mget (0, 0) x.oma w).1 + oma, (mget (0, 0) x.oma w).2 + 1) ∧ t = { s with engs := t.engs }) ∧
    (∃ t, exec (.rxOmaPublish eng) s = .next t ∧ (getEng t eng).oma = [] ∧ (x.oma = [] → t.bar0 = s.bar0))

/-- R330, R336, R343, R345, R348 and R352 to R355. -/
def Obligations.MeluxLinks : Prop :=
  ∀ (eng : Nat) (s : State), engReady s eng →
    let x := getEng s eng
    let st := linkState s eng
    (∀ stage fails, 1 ≤ stage → stage ≤ 3 → fails.all (fun w => w < 20) = true →
      (engPort s eng = 15 → exec (.linkTraining eng stage fails) s = .next s) ∧
      (engPort s eng ≠ 15 →
        (stage = 1 → st = 0 ∨ st = 1 ∨ st = 6 → ∃ t, exec (.linkTraining eng stage fails) s = .next t ∧
          linkState t eng = (if st = 0 ∧ engPort s eng ∈ x.stored then 5 else 1) ∧ (getEng t eng).unlocked = fails ∧
          (engPort s eng < 12 → rbit t (rPortStatus (eng / 8)) (16 + engPort s eng) = true)) ∧
        (stage = 2 → st = 1 → exec (.linkTraining eng stage fails) s = .next (setLinkState s eng 2)) ∧
        (stage = 3 → st = 2 → exec (.linkTraining eng stage fails) s =
          .next (introduce (setLinkState (setEng s eng (clearLink x)) eng 3) eng)) ∧
        (¬(stage = 1 ∧ (st = 0 ∨ st = 1 ∨ st = 6)) → ¬(stage = 2 ∧ st = 1) → ¬(stage = 3 ∧ st = 2) →
          exec (.linkTraining eng stage fails) s = .next s))) ∧
    (∀ v, v < 8 → linkState (setLinkState s eng v) eng = v ∧
      rbit (setLinkState s eng v) (rEngStatus (eng / 8) (eng % 8)) 4 = decide (v = 4)) ∧
    (∀ m : LinkIdMsg, m.num < 65536 → m.bufs.length = 3 → m.bufs.all (fun b => b < 65536) = true →
      (st ≠ 3 → st ≠ 4 → st ≠ 5 → exec (.linkId eng m) s = .next s) ∧
      (st = 4 ∨ st = 5 ∨ (st = 3 ∧ x.gotMap = false) → ∃ t, exec (.linkId eng m) s = .next t ∧ (getEng t eng).bufs = m.bufs ∧
        (getEng t eng).gotId = true ∧ linkState t eng = st ∧ rfld t (rMlxState (eng / 8) (eng % 8)) 31 16 = m.num) ∧
      (st = 3 → x.gotMap = true → x.unlocked = [] → x.queue = [] → ∃ t, exec (.linkId eng m) s = .next t ∧ linkState t eng = 4 ∧ (getEng t eng).bufs = m.bufs)) ∧
    (st = 6 → exec (.retrain eng) s = .next (setLinkState (setLight s eng true) eng 1)) ∧ (st ≠ 6 → exec (.retrain eng) s = .next s) ∧
    (st = 4 → exec (.linkDown eng) s = .next (linkDownNow s eng)) ∧ (st ≠ 4 → exec (.linkDown eng) s = .next s) ∧
    (∀ gen roles, roles.length = 20 → roles.all (fun r => r < 32) = true → roles.all (fun r => r < 0x14) = false → gen < 256 →
      exec (.roleMap eng gen roles) s = .next s) ∧
    (∀ gen roles, roles.length = 20 → roles.all (fun r => r < 0x14) = true → gen < 256 →
      let ahead := (gen + 256 - x.rx.gen) % 256
      (st ≠ 3 → st ≠ 4 → st ≠ 5 → exec (.roleMap eng gen roles) s = .next s) ∧
      (st = 4 → (ahead = 0 ∨ 128 ≤ ahead) → exec (.roleMap eng gen roles) s = .next s) ∧
      (st = 4 → 0 < ahead → ahead < 128 → ∃ t, exec (.roleMap eng gen roles) s = .next t ∧
        (∀ w, w < 20 → role t eng false w = lget 0 roles w) ∧ (getEng t eng).rx.gen = gen ∧ (getEng t eng).tx = x.tx ∧ linkState t eng = 4) ∧
      (st = 3 → x.gotId = true → x.unlocked = [] → x.queue = [] → ∃ t, exec (.roleMap eng gen roles) s = .next t ∧ linkState t eng = 4 ∧
        (∀ w, w < 20 → role t eng false w = lget 0 roles w) ∧ (getEng t eng).rx.gen = gen) ∧
      (st = 5 ∨ (st = 3 ∧ x.gotId = false) → ∃ t, exec (.roleMap eng gen roles) s = .next t ∧ (∀ w, w < 20 → role t eng false w = lget 0 roles w) ∧
        (getEng t eng).rx.gen = gen ∧ (getEng t eng).rx.pend = [] ∧ (getEng t eng).tx = x.tx)) ∧
    (∀ m : LaneChg, m.kind < 256 → m.w < 256 → m.s < 256 → m.role < 256 → m.block < 2 ^ 32 → m.gen < 256 → chgBad m = true →
      exec (.laneChg eng m) s = .next s) ∧
    (∀ m : LaneChg, chgBad m = false → m.s < 256 → m.role < 256 → m.block < 2 ^ 32 → m.gen < 256 →
      (st ≠ 4 → exec (.laneChg eng m) s = .next s) ∧
      (st = 4 → m.kind = 6 → ∃ t, exec (.laneChg eng m) s = .next t ∧ t = { s with engs := t.engs } ∧
        (∀ e, e ∈ (getEng t eng).tx.pend ++ (getEng t eng).rx.pend → ¬(e.w = m.w ∧ e.block = m.block))) ∧
      (st = 4 → m.kind ≠ 6 → calYields x.tx m = true → ∃ t, exec (.laneChg eng m) s = .next t ∧ m ∈ (getEng t eng).tx.pend) ∧
      (st = 4 → m.kind ≠ 6 → calYields x.tx m = false → ∃ t, exec (.laneChg eng m) s = .next t ∧ t = { s with engs := t.engs } ∧
        m ∈ (dirOf (getEng t eng) (chgTx m)).pend ∧ dirOf (getEng t eng) (!chgTx m) = dirOf x (!chgTx m))) ∧
    (∀ tx, (dirOf x tx).pend = [] → exec (.laneChangeBoundary eng tx) s = .next s) ∧
    (∀ tx m rest, (dirOf x tx).pend = m :: rest → ∃ t, exec (.laneChangeBoundary eng tx) s = .next t) ∧
    (∀ tx m, (dirOf x tx).pend = [m] → m.kind ≠ 7 → m.w < 20 → m.s < 20 → m.s ≠ m.w → m.role < 0x14 →
      ∃ t, exec (.laneChangeBoundary eng tx) s = .next t ∧ (dirOf (getEng t eng) tx).pend = [] ∧ (dirOf (getEng t eng) tx).gen = m.gen ∧
        (m.kind = 4 → role t eng tx m.s = m.role ∧ role t eng tx m.w = 0x13) ∧
        (m.kind = 5 → role t eng tx m.s = role s eng tx m.w ∧ role t eng tx m.w = 0x13) ∧
        (m.kind = 0 → role t eng tx m.s = role s eng tx m.w ∧ role t eng tx m.w = 0x12) ∧
        (m.kind = 1 → role t eng tx m.w = role s eng tx m.s ∧ role t eng tx m.s = 0x11) ∧ (m.kind = 2 → role t eng tx m.w = 0x12)) ∧
    (∀ w, w < 20 →
      (st = 0 ∨ 6 ≤ st → exec (.wavelengthLoss eng w) s = .next s) ∧ (st = 4 → exec (.wavelengthLoss eng w) s = .next (lostWave s eng w)) ∧
      (st = 1 ∨ st = 2 ∨ st = 3 ∨ st = 5 → ∃ t, exec (.wavelengthLoss eng w) s = .next t ∧
        (getEng t eng).unlocked = (if w ∈ x.unlocked then x.unlocked else x.unlocked ++ [w]) ∧
        linkState t eng = if 20 ≤ (getEng t eng).unlocked.length then 0 else st) ∧
      ∀ (low : BitVec 92) (high : BitVec 248),
        (markerOf (high ++ low) = none → exec (.alignmentMarker eng w low high) s = .next s) ∧
        (∀ lane gen block, markerOf (high ++ low) = some (lane, gen, block) →
          (st ≠ 4 ∨ 16 ≤ role s eng false w → exec (.alignmentMarker eng w low high) s = .next s) ∧
          (st = 4 → role s eng false w < 16 → (role s eng false w ≠ lane ∨ gen ≠ x.rx.gen % 256) →
            exec (.alignmentMarker eng w low high) s = .next (lostWave s eng w)) ∧
          (st = 4 → role s eng false w < 16 → role s eng false w = lane → gen = x.rx.gen % 256 →
            exec (.alignmentMarker eng w low high) s = .next (setEng s eng { x with rxBlk := (block, s.timebase) })))) ∧
    (x.subst = none ∨ st = 4 → exec (.portSpareTimeout eng) s = .next s) ∧
    (∀ k t0, x.subst = some (k, t0) → st ≠ 4 → k < 12 → ∃ t, exec (.portSpareTimeout eng) s = .next t ∧ engPort t eng = k ∧ linkState t eng = 6 ∧
      rbit t (rPortStatus (eng / 8)) k = false ∧ (getEng t eng).subst = none ∧ t.timebase = max s.timebase (t0 + 10000000))

/-- R356 to R361. -/
def Obligations.GeneralPorts : Prop :=
  ∀ (g : Nat) (s : State), g < 8 →
    let live := running s = true ∧ optUp s g = true
    (¬live → ∀ i, (∃ l, i = .gpData g l ∨ i = .gpAck g l ∨ i = .gpNak g l ∨ i = .gpSync g l) ∨ i = .gpLinkDown g ∨ i = .gpLinkUp g ∨
      (∃ conn, conn < 4096 ∧ i = .gpRto g conn) ∨ (∃ prio on, prio < 8 ∧ i = .pfcFrame g prio on) → exec i s = .next s) ∧ (live →
    (∀ (l : List Byte) (i : Instr), (i = .gpData g l ∨ i = .gpAck g l ∨ i = .gpNak g l ∨ i = .gpSync g l) →
      let f := gpFrameOf l
      (∀ k, frameBad s g f = some k → exec i s = .next (gpCount s g k 1) ∧
        reg (gpCount s g k 1) (rGpCnt g k) = reg s (rGpCnt g k) + 1 ∧ (∀ o, o ≠ rGpCnt g k → reg (gpCount s g k 1) o = reg s o)) ∧
      (frameBad s g f = none →
        let n := mget 0 s.gbuf (8 * g + f.prio)
        let a := gpAcked s g f.t.conn f.t.ackPsn
        let b := gpAcked (gpCount s g 1 1) g f.t.conn f.t.ackPsn
        let r := rGpConn g f.t.conn 4
        (f.t.typ = 0 →
          (524288 < n + f.body.length → exec i s = .next (gpCount s g 5 1)) ∧
          (n + f.body.length ≤ 524288 → f.t.psn ≠ rfld a r 63 32 → exec i s = .next (gpSignal a g f.t.conn 2)) ∧
          (n + f.body.length ≤ 524288 → f.t.psn = rfld a r 63 32 → ∃ t, exec i s = .next t ∧
            rfld t r 63 32 = (f.t.psn + 1) % 2 ^ 32 ∧
            (getConn t g f.t.conn).accepted = (if 15 ≤ (getConn a g f.t.conn).accepted then 0 else (getConn a g f.t.conn).accepted + 1) ∧
            (framePackets (0x20 + g) f.t.npkt f.body = [] → t.gbuf = a.gbuf ∧ (getConn t g f.t.conn).inbox = (getConn a g f.t.conn).inbox))) ∧
        (f.t.typ = 1 → exec i s = .next b) ∧
        (f.t.typ = 2 → ∃ t, exec i s = .next t ∧ (getConn t g f.t.conn).unack = (getConn b g f.t.conn).unack ∧
          (getConn t g f.t.conn).since = b.timebase ∧
          reg t (rGpCnt g 6) = reg b (rGpCnt g 6) + BitVec.ofNat 64 (getConn b g f.t.conn).unack.length) ∧
        (f.t.typ = 3 → exec i s = .next (failConn (setRfld (gpCount s g 1 1) r 63 32 0) g f.t.conn .peerLost)))) ∧
    (∀ conn, conn < 4096 →
      let c := getConn s g conn
      let t1 := max s.timebase (c.since + 1000 * max 1 (rfld s (rGpTimer g) 15 0))
      (c.unack = [] → exec (.gpRto g conn) s = .next s) ∧
      (c.unack ≠ [] → c.tries + 1 < max 1 (rfld s (rGpTimer g) 19 16) → ∃ t, exec (.gpRto g conn) s = .next t ∧
        t.timebase = t1 ∧ (getConn t g conn).tries = c.tries + 1 ∧ (getConn t g conn).since = t1 ∧ (getConn t g conn).unack = c.unack ∧
        (getConn t g conn).queue = c.queue ∧ t.hubs = s.hubs) ∧
      (c.unack ≠ [] → max 1 (rfld s (rGpTimer g) 19 16) ≤ c.tries + 1 → s.hubs = [] → ∃ t, exec (.gpRto g conn) s = .next t ∧
        getConn t g conn = { inbox := c.inbox } ∧ rbit t (rGpConn g conn 0) 3 = true)) ∧
    (∀ prio, prio < 8 → exec (.pfcFrame g prio true) s = .next (gpSendAll (setRbit s (rGpStatus g) (8 + prio) true) g) ∧
      exec (.pfcFrame g prio false) s = .next (gpSendAll (setRbit s (rGpStatus g) (8 + prio) false) g)) ∧
    (rbit s (rGpStatus g) 0 = false → exec (.gpLinkDown g) s = .next s) ∧
    (rbit s (rGpStatus g) 0 = true → ∃ t, exec (.gpLinkDown g) s = .next t ∧ rbit t (rGpStatus g) 0 = false) ∧
    (rbit s (rGpCtl g) 0 = false → exec (.gpLinkUp g) s = .next s) ∧
    (rbit s (rGpCtl g) 0 = true → exec (.gpLinkUp g) s = .next (gpSendAll (health (setRbit s (rGpStatus g) 0 true)) g))) ∧
    (∀ tenant conn (v : Word), conn < 4096 → writeOpen s tenant (rGpConn g conn 0) →
      (v.getLsbD 0 = true → connValid s g conn = true → exec (.gpConnValidSet tenant g conn v) s = .next (renewLease s)) ∧
      (v.getLsbD 0 = true → connValid s g conn = false → ∃ t, exec (.gpConnValidSet tenant g conn v) s = .next t ∧ connValid t g conn = true ∧
        (getConn t g conn).unack = [] ∧ (getConn t g conn).queue = [] ∧ (getConn t g conn).tries = 0 ∧ reg t (rGpConn g conn 4) = 0) ∧
      (v.getLsbD 0 = false → connValid s g conn = true → ∃ t, exec (.gpConnValidSet tenant g conn v) s = .next t ∧ connValid t g conn = false ∧
        (getConn t g conn).unack = [] ∧ (getConn t g conn).queue = []))

/-- R41, R42, R397 to R411, R518 and R524: the rows of the power governor. By how much Gp rises is a free value (log entry 1). -/
def Obligations.PowerManagement : Prop :=
  ∀ s : State,
    (∀ (c : ClusterRef) (op : Nat), clusterOk s c = true → op < 8 →
      let p := c.die / 4
      let k := clKey c.die c.cl
      let ok := (rbit s rPwrCtl 11 = true ∧ opPermit s p op = true) ∨ (rbit s rPwrCtl 11 = false ∧ op = opDefault s p)
      (running s = true → partUp s p = true → ok → ∃ t, exec (.operatingPointChange c op) s = .next t ∧ (getCl t k).op = op ∧
        t = { s with clusters := t.clusters } ∧ ∀ j, j ≠ k → getCl t j = getCl s j) ∧
      ((running s = false ∨ partUp s p = false ∨ ¬ok) → exec (.operatingPointChange c op) s = .next s)) ∧
    (∀ (c : ClusterRef) (ppm : Int), clusterOk s c = true →
      let k := clKey c.die c.cl
      (running s = true → rbit s rRefclk 4 = false → partUp s (c.die / 4) = true → ∃ t, exec (.oscillatorCheck c ppm) s = .next t ∧
        (getCl t k).trim = (getCl s k).trim - ppm ∧ t = { s with clusters := t.clusters } ∧ ∀ j, j ≠ k → getCl t j = getCl s j) ∧
      ((running s = false ∨ rbit s rRefclk 4 = true ∨ partUp s (c.die / 4) = false) → exec (.oscillatorCheck c ppm) s = .next s)) ∧
    (∀ (c : ClusterRef), clusterOk s c = true →
      let p := c.die / 4
      let k := clKey c.die c.cl
      let x := getCl s k
      let may := s.stage = .up ∧ rbit s rPwrCtl 11 = true ∧ partUp s p = true
      (¬may → exec (.opAutoMove c) s = .next s) ∧
      (∃ t, exec (.opAutoMove c) s = .next t ∧ t = { s with clusters := t.clusters } ∧ (∀ j, j ≠ k → getCl t j = getCl s j) ∧
        ((getCl t k).op < x.op → opPermit s p (getCl t k).op = true ∧ (∃ h, x.gpHigh = some h ∧ h + 1000000 ≤ s.timebase) ∧
          ∀ i, (getCl t k).op < i → i < x.op → opPermit s p i = false) ∧
        (x.op < (getCl t k).op → opPermit s p (getCl t k).op = true ∧ (∃ h, x.gpZero = some h ∧ h + 1000000 ≤ s.timebase) ∧
          10 * (getHub s p).pow.est ≤ 9 * (getHub s p).pow.allow ∧ ∀ i, x.op < i → i < (getCl t k).op → opPermit s p i = false) ∧
        (∀ h i, may → x.gpHigh = some h → h + 1000000 ≤ s.timebase → i < x.op → opPermit s p i = true → (getCl t k).op < x.op))) ∧
    (∀ (t : ThreadRef) (w : Word), fateOf .phint t w s = .go →
      let p := t.die / 4
      let f := fin (fetched s t) t (threadOf s t)
      (16 ≤ (getHub s p).hints.length →
        exec (.phint t w) s = .next (leaf (setRfld f rPwrCnt 31 0 (min (2 ^ 32 - 1) (rfld f rPwrCnt 31 0 + 1))) 24 2)) ∧
      ((getHub s p).hints.length < 16 → ∃ u x, exec (.phint t w) s = .next u ∧ (getHub u p).hints = (getHub s p).hints ++ [x] ∧
        x.target = (getHub s p).pow.base + (fld w 3 0 * 8 * coresInService s p : Nat) ∧ x.tStart = s.timebase ∧
        x.tEnd = s.timebase + 1000 * fld w 31 16 ∧ u.cores = f.cores)) ∧
    (∀ p i, p < nParts s →
      let h := getHub s p
      (h.hints[i]? = none → exec (.hintRampStart p i) s = .next s ∧ exec (.hintEnd p i) s = .next s) ∧
      (∀ x, h.hints[i]? = some x →
        let t1 := max s.timebase (rampTime s p x)
        ((s.restarting = true ∨ x.ramp.isSome = true ∨ x.tStart ≤ t1) → exec (.hintRampStart p i) s = .next s) ∧
        (s.restarting = false → x.ramp = none → t1 < x.tStart → ∃ t, exec (.hintRampStart p i) s = .next t ∧ t.timebase = t1 ∧
          (getHub t p).hints = lset h.hints i { x with ramp := some (t1, h.pow.est) } ∧ (getHub t p).pow = h.pow) ∧
        (∃ t, exec (.hintEnd p i) s = .next t ∧ t.timebase = max s.timebase x.tEnd ∧ (getHub t p).hints = h.hints.eraseIdx i ∧
          (floorHeld s = true → (getHub t p).pow.falls = h.pow.falls) ∧
          (floorHeld s = false → (getHub t p).pow.falls = h.pow.falls ++ [(t.timebase, hintAsks { s with timebase := t.timebase } p x)])))) ∧
    (∀ acts : List IslandAct, acts.all (fun a => a.die < 153) = true →
      (running s = false → exec (.powerEstimate acts) s = .next s) ∧
      (running s = true → ∃ t rest u, exec (.powerEstimate acts) s = .next t ∧
        t.pow.hist = (s.timebase, corrected s (sumActs acts (fun _ => true) (islandPower s)), u) :: rest ∧
        (∀ p, p ∈ partsUp s → (getHub t p).pow.est = corrected s (sumActs acts (fun i => diePart i == some p) (islandPower s)) ∧
          (getHub t p).pow.prev = (getHub s p).pow.est) ∧ t.mem = s.mem ∧ t.timebase = s.timebase)) ∧
    (let a := packageAllowance s
     ((running s = false ∨ s.restarting = true) → exec .allowance s = .next s) ∧
     (running s = true → s.restarting = false → ∃ t, exec .allowance s = .next t ∧ t.pow.allow = a ∧
       (∀ p, p ∈ partsUp s → (getHub t p).pow.allow = mget 0 (divide s a) p ∧ (getHub t p).pow.used = 0 ∧
         (getHub t p).pow.limited = false ∧ (getHub t p).pow.floor = false) ∧
       (rbit t rPwrStatus 50 = true ↔ ∃ p, p ∈ partsUp s ∧ mget 0 (divide s a) p < demandOf s p)) ∧
     (s.pow.vinCap = none → pFloor s ≤ a) ∧ (∀ c, s.pow.vinCap = some c → a ≤ c) ∧ (floorHeld s = true → a ≤ pFloor s)) ∧
    (∀ p, p < nParts s →
      let w := (getHub s p).pow
      ((s.stage ≠ .up ∨ partUp s p = false) → exec (.pauseLevelUpdate p) s = .next s) ∧
      (s.stage = .up → partUp s p = true → overPower w = true → ∃ t, exec (.pauseLevelUpdate p) s = .next t ∧ t.free = s.free + 2 ∧
        ∀ c, c ∈ partClusters p → (getCl s c).gp ≤ 16 → (getCl s c).gp ≤ (getCl t c).gp ∧ (getCl t c).gp ≤ 16 ∧
          (getCl t c).gp ≤ (getCl s c).gp + 8 ∧
          ((clusterBg s c = true ∨ ∀ d, d ∈ partClusters p → clusterBg s d = false) → (getCl s c).gp < (getCl t c).gp ∨ (getCl t c).gp = 16)) ∧
      (s.stage = .up → partUp s p = true → overPower w = false → ∃ t, exec (.pauseLevelUpdate p) s = .next t ∧ t.free = s.free ∧
        ∀ c, c ∈ partClusters p → (getCl t c).gp ≤ (getCl s c).gp ∧ (getCl s c).gp ≤ (getCl t c).gp + 1)) ∧
    (∀ pin, let k := rfld s rPwrStatus 47 32
      ((running s = false ∨ s.restarting = true) → exec (.kUpdate pin) s = .next s) ∧
      (running s = true → s.restarting = false → ∃ t, exec (.kUpdate pin) s = .next t ∧ t.pow.pmbAt = s.timebase ∧
        rbit t rPwrStatus 49 = false ∧ rfld t rPwrStatus 31 16 = min 65535 (pin / 10000) ∧
        cdiv (k * 98) 100 ≤ rfld t rPwrStatus 47 32 ∧ rfld t rPwrStatus 47 32 ≤ max (cdiv (k * 98) 100) (k * 102 / 100))) ∧
    ((running s = false ∨ s.restarting = true ∨ rbit s rPwrStatus 49 = true) → exec .pmbusLost s = .next s) ∧
    (running s = true → s.restarting = false → rbit s rPwrStatus 49 = false → ∃ t, exec .pmbusLost s = .next t ∧
      rbit t rPwrStatus 49 = true ∧ rbit t (rIntL1 24) 0 = true ∧ t.timebase = max s.timebase (s.pow.pmbAt + 100000000)) ∧
    (∀ (i : Nat) (v : BitVec 16), 0x40 ≤ i → i < 0x48 →
      ((running s = false ∨ s.restarting = true ∨ extestOn s = true ∨ ¬ i ∈ s.pow.pmbus) → exec (.pmbAlert i v) s = .next s) ∧
      (running s = true → s.restarting = false → extestOn s = false → i ∈ s.pow.pmbus → s.evFifo.length ≤ 1008 →
        exec (.pmbAlert i v) s = .next { s with evFifo := s.evFifo ++ ((List.range 16).filter (fun b => v.getLsbD b)).map (fun b =>
          { cause := Config.code 0x524 0 % 65536, source := 0, time := s.timebase, data := [(1, i), (1, b)] }) })) ∧
    (∀ tenant (v : Word), writeOpen s tenant rPwrCtl → ∃ t, exec (.registerWrite tenant rPwrCtl 8 v.toNat) s = .next t ∧
      rbit t rPwrCtl 11 = v.getLsbD 11 ∧ (v.getLsbD 11 = true → t.clusters = s.clusters) ∧
      (v.getLsbD 11 = false → ∀ p c, p ∈ partsUp s → c ∈ partClusters p → (getCl t c).op = opDefault s p)) ∧
    (∀ mv, let cap : Int := ((if small s then 625 else 1250) * mv : Nat)
      ∃ t, exec (.vin48Sample mv) s = .next t ∧ t.pins = { s.pins with vin := mv } ∧ ((running s = false ∨ s.restarting = true) → t.pow = s.pow) ∧
        (running s = true → s.restarting = false → t.pow = { s.pow with vinCap := some cap, allow := min s.pow.allow cap }))

/-- R416 to R425; of DIODE_READING the readings below the shut-down level. -/
def Obligations.ThermalAndCoolant : Prop :=
  ∀ s : State,
    let idle := running s = false ∨ s.restarting = true
    (∀ (ch : Nat) (r : Option Int), ch < 416 → unitPresent s (chUnit ch) = true →
      let u := chUnit ch
      (idle → exec (.diodeReading ch r) s = .next s) ∧
      (¬idle → (∀ x, validReading r = some x → x < unitLevel u 2) →
        (∀ c x, c ∈ unitChans u → c ≠ ch → chReading s c = some x → x < unitLevel u 2) →
        ∃ t, exec (.diodeReading ch r) s = .next t ∧ t.mem = s.mem ∧ t.hubs = s.hubs ∧ t.cores = s.cores ∧
          (validReading r = none → rfld t (rThmTemp (ch / 4)) (16 * (ch % 4) + 15) (16 * (ch % 4)) = 0x8000 ∧
            mfind t.thm.faulty ch = some () ∧ t.comp = s.comp) ∧
          (∀ x, validReading r = some x → compReading t ch = x ∧ rfld t (rThmTemp (ch / 4)) (16 * (ch % 4) + 15) (16 * (ch % 4)) = intBits 16 x ∧
            mfind t.thm.faulty ch = none ∧ (unitLevel u 1 ≤ x → nbit (stands t u) 1 = true)))) ∧
    (∀ (i : Nat) (r : Option Int), i < 4 →
      (idle → exec (.thermistorReading i r) s = .next s) ∧
      (¬idle → validReading r = none → ∃ t, exec (.thermistorReading i r) s = .next t ∧ rbit t (rThmIn i) 16 = true ∧
        mfind t.thm.faulty (416 + i) = some () ∧ (i = 1 → floorHeld t = true ∧ rbit t rPwrStatus 48 = true ∧
          ∀ k, k < 160 * nParts s → (getCl t k).gp = 16)) ∧
      (∀ x, ¬idle → validReading r = some x → (i = 1 → x < unitLevel 160 2) → ∃ t, exec (.thermistorReading i r) s = .next t ∧
        reg t (rThmIn i) = BitVec.ofNat 64 (intBits 16 x) ∧ mfind t.thm.faulty (416 + i) = none ∧ t.stage = s.stage) ∧
      (∀ x, ¬idle → validReading r = some x → i = 1 → unitLevel 160 2 ≤ x → ∃ t, exec (.thermistorReading i r) s = .next t ∧
        t.stage = .powerFail ∧ t.pins.thermtrip = true ∧ t.pf.final = true)) ∧
    (running s = false → exec .throttleStep s = .next s) ∧
    (running s = true → ∃ t, exec .throttleStep s = .next t ∧
      (∀ c, (c < 80 ∨ (144 ≤ c ∧ c < 200) ∨ (300 ≤ c ∧ c < 364)) →
        (throttleOn s c = true → mget 0 t.thm.cont c = min (throttleCap c) (mget 0 s.thm.cont c + 1)) ∧
        (throttleOn s c = false → mget 0 t.thm.cont c = mget 0 s.thm.cont c - 1)) ∧
      (∀ k, k < 4 * nParts s →
        (nbit (stands s (80 + k)) 1 = true → (getStack t k).gate = min 15 ((getStack s k).gate + 1)) ∧
        (nbit (stands s (80 + k)) 1 = false → (getStack t k).gate = (getStack s k).gate - 1)) ∧
      t.bar0 = s.bar0 ∧ t.timebase = s.timebase) ∧
    (∀ unit, unit < 24 →
      ((mfind s.thm.below unit = none ∨ rbit s rThmCtl 0 = false ∨ s.stage ≠ .up ∨ s.restarting = true) →
        exec (.unitRestart unit) s = .next s) ∧
      (∀ b, mfind s.thm.below unit = some b → rbit s rThmCtl 0 = true → s.stage = .up → s.restarting = false →
        ∃ t, exec (.unitRestart unit) s = .next t ∧ t.timebase = max s.timebase (b + 1000000000) ∧ mfind t.thm.below unit = none ∧
          (unit < 16 → mfind s.partOut unit = some 2 → mfind t.partOut unit = some 3) ∧
          (16 ≤ unit → (getOpt s (unit - 16)).out = some 2 → (getOpt t (unit - 16)).out = none))) ∧
    (∀ ch, ch < 2 →
      (coolPin s ch = true → exec (.coolFailAssert ch) s = .next s) ∧
      (coolPin s ch = false → running s = false → ∃ t, exec (.coolFailAssert ch) s = .next t ∧ coolPin t ch = true ∧
        t = { s with pins := t.pins }) ∧
      (coolPin s ch = false → running s = true → s.thm.coolHeld = false → coolPin s (1 - ch) = false → s.thm.coolRef = none →
        ∃ t, exec (.coolFailAssert ch) s = .next t ∧ t.thm.coolHeld = true ∧ t.thm.coolRef = some s.timebase ∧ coolPin t ch = true ∧
          rbit t rPwrStatus 48 = true ∧ rbit t rCoolStatus 2 = true ∧ rbit t rCoolStatus ch = true ∧ t.stage = s.stage ∧
          ∀ k, k < 160 * nParts s → (getCl t k).gp = 16) ∧
      (∀ r, coolPin s ch = false → running s = true → coolPin s (1 - ch) = true → s.thm.coolRef = some r → s.timebase ≤ r + discTime s →
        ∃ t, exec (.coolFailAssert ch) s = .next t ∧ t.stage = .powerFail ∧ t.pins.thermtrip = true ∧ t.pf.final = true ∧ coolPin t ch = true) ∧
      (coolPin s ch = false → exec (.coolFailDeassert ch) s = .next s) ∧
      (coolPin s ch = true → running s = false → ∃ t, exec (.coolFailDeassert ch) s = .next t ∧ coolPin t ch = false ∧
        t = { s with pins := t.pins }) ∧
      (coolPin s ch = true → running s = true → ∃ t, exec (.coolFailDeassert ch) s = .next t ∧ coolPin t ch = false ∧
        coolPin t (1 - ch) = coolPin s (1 - ch) ∧ rbit t rCoolStatus ch = false ∧ t.thm.coolRef = none ∧
        (s.thm.coolHeld = true → coolPin s (1 - ch) = false → t.thm.coolClear = some s.timebase) ∧
        (∀ r, s.thm.coolRef = some r → s.timebase ≤ r + discTime s → rbit t (rIntL1 32) 2 = true))) ∧
    ((s.thm.coolRef = none ∨ running s = false) → exec .coolantDiscrepancy s = .next s) ∧
    (∀ r, s.thm.coolRef = some r → running s = true → ∃ t, exec .coolantDiscrepancy s = .next t ∧ t.thm.coolRef = none ∧
      rbit t rCoolStatus 3 = true ∧ rbit t (rIntL1 32) 1 = true ∧ t.timebase = max s.timebase (r + discTime s)) ∧
    ((s.thm.coolHeld = false ∨ s.thm.coolClear = none ∨ running s = false) → exec .coolantReturn s = .next s) ∧
    (∀ r, s.thm.coolHeld = true → s.thm.coolClear = some r → running s = true → ∃ t, exec .coolantReturn s = .next t ∧
      t.thm.coolHeld = false ∧ t.timebase = max s.timebase (r + 100000000) ∧ rbit t rCoolStatus 3 = false ∧
      (s.thm.in1Bad = false → floorHeld t = false ∧ rbit t rPwrStatus 48 = false ∧ rbit t rCoolStatus 2 = false)) ∧
    (∀ p, p < nParts s →
      let h := getHub s p
      let n := shareSum s (partsUp s)
      ((running s = false ∨ s.restarting = false ∨ partUp s p = false ∨ h.pow.floor = true) → exec (.hubReadingsTimeout p) s = .next s) ∧
      (running s = true → s.restarting = true → partUp s p = true → h.pow.floor = false → n ≠ 0 →
        ∃ t, exec (.hubReadingsTimeout p) s = .next t ∧ t.timebase = max s.timebase (s.fwSt.since + 60000000) ∧
          (getHub t p).pow = { h.pow with floor := true, allow := min h.pow.allow (pFloor s * (shareOf s p : Int) / (n : Int)) }))

/-- R28 to R34, R455 to R474. -/
def Obligations.PowerUpAndReset : Prop :=
  ∀ s : State,
    (s.stage = .waitSupply ∨ s.stage = .off → ∃ t, exec .supplyGood s = .next t ∧ t.stage = .waitReference ∧ t.pins.pwrFail = false ∧
      (s.stage = .off → t.pins.thermtrip = false) ∧ t = { s with stage := t.stage, pins := t.pins }) ∧
    (s.stage ≠ .waitSupply → s.stage ≠ .off → exec .supplyGood s = .next s) ∧
    (s.stage = .waitReference → exec .supplyLostBeforeReference s = .next { s with stage := .waitSupply }) ∧
    (s.stage ≠ .waitReference → exec .supplyLostBeforeReference s = .next s) ∧
    (∀ cause vin, cause = 1 ∨ cause = 2 → vin < 64000 → ∃ t, exec (.powerFailRecognition cause vin) s = .next t ∧ t.pins.vin = vin ∧
      t.mem = s.mem ∧ t.cores = s.cores ∧
      (s.stage = .up ∨ s.stage = .halted → t.stage = .powerFail ∧ t.pf.cause = cause ∧ t.pf.tRec = s.timebase ∧ t.pf.vinMin = vin / 250 ∧
        t.pf.final = false ∧ ∀ k, k < 160 * nParts s → (getCl t k).gp = 16) ∧
      (s.stage ≠ .up → s.stage ≠ .halted → t = { s with pins := t.pins })) ∧
    (∀ good vin, vin < 64000 →
      let dead (t : State) : Prop := t.mem = [] ∧ t.cores = [] ∧ t.bar0 = [] ∧ t.hubs = [] ∧ t.fuses = s.fuses ∧ t.pins = s.pins ∧
        t.flashA.fw = s.flashA.fw ∧ t.flashB.fw = s.flashB.fw ∧ t.flashA.pf = s.flashA.pf ∧ t.flashB.pf = s.flashB.pf ∧
        (s.calDirty = false → t.flashA = s.flashA ∧ t.flashB = s.flashB) ∧ t.hostMem = s.hostMem ∧ t.pending = s.pending
      (s.stage ≠ .powerFail → exec (.pf1End good vin) s = .next s) ∧
      (s.stage = .powerFail → s.pf.final = false → good = true → ∃ t, exec (.pf1End good vin) s = .next t ∧ t.pins.pwrFail = false ∧
        (s.pf.halted = true → t.stage = .halted) ∧ (s.pf.halted = false → t.stage = .up)) ∧
      (s.stage = .powerFail → s.pf.final = false → good = false →
        ∃ t, exec (.pf1End good vin) s = .next t ∧ t.stage = .off ∧ t.nextCause = 1 ∧ dead t) ∧
      (s.stage = .powerFail → s.pf.final = true → ∃ t, exec (.pf1End good vin) s = .next t ∧ dead t ∧
        (s.pf.rails = true ∨ (good = true ∧ (s.pins.coldRst = true ∨ s.pf.cause < 3)) → t.stage = .waitReference ∧ t.nextCause = s.nextCause) ∧
        (s.pf.rails = false → ¬(good = true ∧ (s.pins.coldRst = true ∨ s.pf.cause < 3)) → t.stage = .off ∧
          (3 ≤ s.pf.cause → t.nextCause = s.nextCause) ∧ (s.pf.cause < 3 → t.nextCause = 1)))) ∧
    (∃ t, exec .coldRstNAssert s = .next t ∧ t.pins.coldRst = true ∧ t.pins.thermtrip = false ∧
      (s.stage = .up ∨ s.stage = .halted → t.stage = .powerFail ∧ t.pf.final = true ∧ t.pf.rails = true ∧ t.nextCause = 2) ∧
      (s.stage = .powerFail → t.stage = .powerFail ∧ t.pf = { s.pf with final := true } ∧
        (s.pf.final = true → t.nextCause = s.nextCause) ∧ (s.pf.final = false → t.nextCause = 2)) ∧
      (s.stage = .off → t.nextCause = s.nextCause ∧ (4 ≤ s.nextCause → t.stage = .waitReference) ∧ (s.nextCause < 4 → t.stage = .off)) ∧
      (s.stage = .waitSupply ∨ s.stage = .waitReference → t = { s with pins := t.pins })) ∧
    (∀ tenant (v : Word), v.getLsbD 7 = true → writeOpen s tenant rRstCmd →
      let p := fld v 3 0
      (fld v 6 4 = 1 → rbit s rRstCmd 8 = true → exec (.rstCmdPartition tenant v) s = .next (renewLease s)) ∧
      (fld v 6 4 = 2 → rbit s rRstCmd 8 = true → exec (.rstCmdPackage tenant v) s = .next (renewLease s)) ∧
      (fld v 6 4 = 2 → rbit s rRstCmd 8 = false → fld v 31 24 = 0xC5 → ∃ t, exec (.rstCmdPackage tenant v) s = .next t ∧
        t.stage = .powerFail ∧ t.pf.final = true ∧ (s.stage = .up → t.pf.rails = true) ∧ t.nextCause = 3) ∧
      (fld v 6 4 = 2 → rbit s rRstCmd 8 = false → fld v 31 24 ≠ 0xC5 → ∃ t, exec (.rstCmdPackage tenant v) s = .next t ∧
        t.stage = s.stage ∧ rfld t rRstCmd 23 16 = 0x17 ∧ rbit t rRstCmd 8 = false) ∧
      (fld v 6 4 = 1 → rbit s rRstCmd 8 = false → nParts s ≤ p → ∃ t, exec (.rstCmdPartition tenant v) s = .next t ∧
        rfld t rRstCmd 23 16 = 0x18 ∧ t.partOut = s.partOut) ∧
      (fld v 6 4 = 1 → rbit s rRstCmd 8 = false → p < nParts s → (∀ q, q < 4 → q ≠ p → partUp s q = false) →
        ∃ t, exec (.rstCmdPartition tenant v) s = .next t ∧ rfld t rRstCmd 23 16 = 0x13 ∧ t.partOut = s.partOut) ∧
      (∀ q, fld v 6 4 = 1 → rbit s rRstCmd 8 = false → p < nParts s → q < 4 → q ≠ p → partUp s q = true →
        exec (.rstCmdPartition tenant v) s =
          .next (partIdents (partitionDown (setRbit (rstFields (renewLease s) v) rRstCmd 8 true) p 3 .aborted) p).2)) ∧
    (∀ b : BootInputs, bootOk b = true →
      (s.stage ≠ .waitReference → exec (.coldStartReference b) s = .next s) ∧
      (s.stage = .waitReference → (identOk s 152 = false ∨ ((fwImage s 0).ok = false ∧ (fwImage s 1).ok = false)) →
        ∃ t, exec (.coldStartReference b) s = .next t ∧ t.stage = .halted ∧ rfld t rDevStatus 7 4 = 0xF) ∧
      (s.stage = .waitReference → identOk s 152 = true → ((fwImage s 0).ok = true ∨ (fwImage s 1).ok = true) →
        (s.pins.coolA = false ∨ s.pins.coolB = false) →
        ∃ t, exec (.coldStartReference b) s = .next t ∧ t.stage = .up ∧ rfld t rDevStatus 7 4 = 2 ∧ rbit t rDevStatus 0 = false ∧
          t.mem = [] ∧ t.fuses = s.fuses ∧ t.pins.coldRst = false ∧ t.timebase = 0 ∧ (s.pins.ref0 = true ∨ s.pins.ref1 = true → t.tbStarted = true))) ∧
    (∀ i (words : List Word), i < 153 → diePresent s i = true → words.length = 8 →
      let part := if i < 64 then i / 4 else if i < 80 then i - 64 else (i - 80) / 4
      let cant := s.stage ≠ .up ∨ s.restarting = true ∨ (i < 144 ∧ mfind s.partOut part = some 2) ∨ dieExpected s i = false ∨ dieValid s i = true
      (cant → exec (.capabilityRecord i words) s = .next s) ∧
      (¬cant → ∃ t, exec (.capabilityRecord i words) s = .next t ∧ dieValid t i = true ∧ reg t (rDieCap i 0) = identWord s i ∧
        rfld t (rDieCap i 1) 7 0 = 1 ∧ rfld t (rDieCap i 1) 15 8 = dieModules s i ∧
        (rbit t (rDieCap i 1) 22 = true ↔ i < 64 ∧ 1 ≤ fld (identWord s i) 3 0) ∧ t.mem = s.mem ∧ t.stage = .up)) ∧
    (∀ o, optPresent s o = true →
      let cant := s.stage ≠ .up ∨ s.restarting = true ∨ (getOpt s o).ready = true ∨ (getOpt s o).out.isSome = true ∨ dieValid s (144 + o) = false
      (cant → exec (.opticalDieReady o) s = .next s) ∧
      (¬cant → ∃ t, exec (.opticalDieReady o) s = .next t ∧ (getOpt t o).ready = true ∧ optUp t o = true ∧ t.mem = s.mem)) ∧
    (∀ p, p < nParts s →
      let cant := partLinked s p = false ∨ s.stage ≠ .up ∨ s.heatWait = true ∨ s.restarting = true ∨ (mfind s.partOut p).isSome = true ∨ rbit s rDevStatus (16 + p) = true
        ∨ ∃ i, i ∈ partDies p ∧ rbit s (rDieCap i 7) 32 = false
      (cant → exec (.partitionReady p) s = .next s) ∧
      (¬cant → ∃ t, exec (.partitionReady p) s = .next t ∧ partUp t p = true ∧ t.mem = s.mem)) ∧
    (∀ p (hbm : List (BitVec 32)), p < nParts s →
      let cant := s.stage ≠ .up ∨ s.restarting = true ∨ mfind s.partOut p ≠ some 3
      let good := (∀ i, i ∈ partDies p → identOk s i = true) ∧ partLinked s p = true ∧ (trainPart s p hbm).1 = true
      let mine := rbit s rRstCmd 8 = true ∧ rfld s rRstCmd 3 0 = p
      (cant → exec (.partitionResetDone p hbm) s = .next s) ∧
      (¬cant → good → ∃ t, exec (.partitionResetDone p hbm) s = .next t ∧ partUp t p = true ∧ rbit t (rIntL1 p) 52 = true ∧
        (mine → rbit t rRstCmd 8 = false ∧ rfld t rRstCmd 23 16 = 0)) ∧
      (¬cant → ¬good → ∃ t, exec (.partitionResetDone p hbm) s = .next t ∧ partUp t p = false ∧ rbit t (rIntL1 p) 51 = true ∧
        (mine → rbit t rRstCmd 8 = false ∧ rfld t rRstCmd 23 16 = 0x11)))

/-- R37 to R39, R252, R283, R461, R469, R487 and R521. -/
def Obligations.LockAndPorts : Prop :=
  ∀ s : State,
    (∀ tenant (v : Word), tenant = 0 ∨ tenant = 256 →
      let mine := ownerTenant s = some tenant
      let free := ownerTenant s = none ∨ rbit s rAdminLock 5 = true
      let lease (t : State) : Prop := t.leaseAt = s.timebase ∧ rbit t rAdminLock 5 = false ∧ rfld t rAdminLock 31 16 = fld v 31 16 ∧
        ∀ o, o ≠ rAdminLock → reg t o = reg s o
      (bar0Open s = false → (v.getLsbD 2 = true → exec (.lockTake tenant v) s = .next s) ∧
        (v.getLsbD 3 = true → exec (.lockRelease tenant v) s = .next s) ∧ (v.getLsbD 4 = true → exec (.lockRenew tenant v) s = .next s)) ∧
      (bar0Open s = true → v.getLsbD 2 = true → v.getLsbD 3 = false →
        (mine → ∃ t, exec (.lockTake tenant v) s = .next t ∧ ownerTenant t = some tenant ∧ lease t ∧
          rfld t rAdminLock 63 32 = rfld s rAdminLock 63 32) ∧
        (¬mine → free → (tenant = 256 → rbit s rStrap 5 = false) → ∃ t, exec (.lockTake tenant v) s = .next t ∧
          ownerTenant t = some tenant ∧ lease t ∧ rfld t rAdminLock 63 32 = (rfld s rAdminLock 63 32 + 1) % 2 ^ 32) ∧
        (¬mine → (¬free ∨ (tenant = 256 ∧ rbit s rStrap 5 = true)) → exec (.lockTake tenant v) s = .next s)) ∧
      (bar0Open s = true → v.getLsbD 3 = true →
        (mine → ∃ t, exec (.lockRelease tenant v) s = .next t ∧ ownerTenant t = none ∧ lease t ∧
          rfld t rAdminLock 63 32 = (rfld s rAdminLock 63 32 + 1) % 2 ^ 32) ∧
        (¬mine → v.getLsbD 2 = false → exec (.lockRelease tenant v) s = .next s)) ∧
      (bar0Open s = true → v.getLsbD 4 = true → v.getLsbD 3 = false →
        (mine → ∃ t, exec (.lockRenew tenant v) s = .next t ∧ ownerTenant t = some tenant ∧ lease t) ∧
        (¬mine → v.getLsbD 2 = false → exec (.lockRenew tenant v) s = .next s))) ∧
    (let ms := rfld s rAdminLock 31 16
     ((ownerTenant s = none ∨ ms = 0) → exec .leaseExpiry s = .next s) ∧
     (ownerTenant s ≠ none → ms ≠ 0 → ∃ t, exec .leaseExpiry s = .next t ∧ rbit t rAdminLock 5 = true ∧ ownerTenant t = ownerTenant s ∧
       t.timebase = max s.timebase (s.leaseAt + 1000000 * ms))) ∧
    (∀ tenant, tenant < 512 →
      let live := running s = true ∧ (getPort s (tenant / 256)).up = true
      let rs := tenantRings s tenant
      (¬live → exec (.flr tenant) s = .next s) ∧
      (live → tenant % 256 ≠ 0 → exec (.flr tenant) s = .next (flrBegin s tenant)) ∧
      (live → tenant % 256 = 0 → exec (.flr tenant) s =
        .next (portLock ((List.range 256).foldl (fun s f => flrBegin s (tenant + f)) s) (tenant / 256))) ∧
      ((rbit s (rTenState tenant) 10 = false ∨ ∃ r, r ∈ rs ∧ ringOps s r.1 r.2 ≠ []) → exec (.flrDone tenant) s = .next s) ∧
      (rbit s (rTenState tenant) 10 = true → (∀ r, r ∈ rs → ringOps s r.1 r.2 = []) → ∃ t, exec (.flrDone tenant) s = .next t ∧
        rbit t (rTenState tenant) 10 = false ∧ rbit t (rIntL1 31) (2 + tenant / 256) = true)) ∧
    (∀ port, port < 2 →
      let x := getPort s port
      let able := refPin s port = true ∧ (port = 0 ∨ rbit s rStrap 5 = false) ∧ (running s = true ∨ s.stage = .halted)
      ((perstOf s port = true ∨ extestOn s = true) → exec (.perstNAssert port) s = .next s) ∧
      (perstOf s port = false → extestOn s = false → exec (.perstNAssert port) s = .next (portReset (setPerst s port true) port)) ∧
      (running s = false → (getPort (portReset s port) port).up = false ∧ (getPort (portReset s port) port).ats = []) ∧
      (extestOn s = true → exec (.perstNDeassert port) s = .next s) ∧
      (extestOn s = false → ∃ t, exec (.perstNDeassert port) s = .next t ∧ perstOf t port = false ∧ t.bar0 = s.bar0 ∧
        (able → (getPort t port).up = true) ∧ (¬able → t.ports = s.ports)) ∧
      (x.up = false → exec (.pcieLinkDown port) s = .next s) ∧
      (x.up = true → ∃ t, exec (.pcieLinkDown port) s = .next t ∧ (getPort t port).up = false ∧ (getPort t port).atc = [] ∧
        rbit t (rIntL1 31) port = true ∧ getPort t (1 - port) = getPort s (1 - port) ∧
        (evtEn s = true → rfld s rEvtCtl 1 1 = port → rbit t rEvtStatus 12 = true)) ∧
      (∀ fn (ats : Option Bool), fn < 256 →
        (s.stage = .waitReference → refPin s port = true → perstOf s port = false →
          exec (.pcieConfigRequest port fn ats) s = .next (setPort s port { x with cfg := some true })) ∧
        (s.stage = .waitReference → (refPin s port = false ∨ perstOf s port = true) → exec (.pcieConfigRequest port fn ats) s = .next s) ∧
        (s.stage ≠ .waitReference → (¬able ∨ perstOf s port = true) → exec (.pcieConfigRequest port fn ats) s = .next s) ∧
        (s.stage ≠ .waitReference → able → perstOf s port = false → ∃ t, exec (.pcieConfigRequest port fn ats) s = .next t ∧
          t = { s with ports := t.ports } ∧ (getPort t port).up = true ∧ (getPort t port).cfg = some false ∧
          (ats = some true → fn ∈ (getPort t port).ats) ∧ (ats = some false → ¬ fn ∈ (getPort t port).ats) ∧
          (ats = none → (getPort t port).ats = x.ats) ∧ (∀ f, f ≠ fn → (f ∈ (getPort t port).ats ↔ f ∈ x.ats)) ∧
          getPort t (1 - port) = getPort s (1 - port))) ∧
      (∀ write, ((s.stage = .waitReference ∨ s.stage = .halted) → write = false →
          exec (.pcieEarlyBarAccess port write) s = .next (setPort s port { x with bar := some (BitVec.allOnes 64) })) ∧
        ((s.stage ≠ .waitReference ∧ s.stage ≠ .halted ∨ write = true) → exec (.pcieEarlyBarAccess port write) s = .next s)) ∧
      (∀ fn page, fn < 256 → ∃ t, exec (.atsInvalidation port fn page) s = .next t ∧ t = { s with ports := t.ports } ∧
        (∀ e, e ∈ (getPort t port).atc ↔ e ∈ x.atc ∧ ¬(e.1 = fn ∧ e.2.1 = page)) ∧ (getPort t port).ats = x.ats ∧ (getPort t port).up = x.up)) ∧
    (∀ i, i < 2 →
      let s0 := setRbit (setRefPin s i false) rRefclk i false
      let s1 := if (getPort s i).up = true then portReset s0 i else s0
      let s2 := if refGood s1 (refSel s1) = true then s1 else setRbit s1 rRefclk 4 true
      (s.stage = .halted → exec (.refclkLoss i) s = .next (portReset (setRefPin s i false) i)) ∧
      (s.stage ≠ .halted → (running s = false ∨ refGood s i = false) → exec (.refclkLoss i) s = .next (setRefPin s i false)) ∧
      (running s = true → refGood s i = true →
        (refGood s (1 - i) = true → exec (.refclkLoss i) s = .next s2) ∧
        (refGood s (1 - i) = false → exec (.refclkLoss i) s = .next (leaf (emit (setRbit s1 rRefclk 4 true) 0x0011 0 []) 28 2))) ∧
      (s.stage = .halted → exec (.refclkGood i) s = .next (portTrain (setRefPin s i true) i)) ∧
      (s.stage ≠ .halted → running s = false → exec (.refclkGood i) s = .next (setRefPin s i true)) ∧
      (running s = true → ∃ t, exec (.refclkGood i) s = .next t ∧ refGood t i = true ∧ t.tbStarted = true ∧ rbit t rRefclk 4 = false ∧
        (rbit s rRefclk 4 = false → refSel t = refSel s) ∧ (rbit s rRefclk 4 = true → refSel t = i))) ∧
    (let i := refSel s
     ((running s = false ∨ refGood s i = true ∨ refGood s (1 - i) = false) → exec .refclkSwitchover s = .next s) ∧
     (running s = true → refGood s i = false → refGood s (1 - i) = true → ∃ t, exec .refclkSwitchover s = .next t ∧ refSel t = 1 - i ∧
       rbit t rRefclk 8 = true ∧ rbit t rRefclk 4 = false ∧ rbit t (rIntL1 28) 2 = true)) ∧
    (∀ tenant (v : Word), writeOpen s tenant rRefclk →
      let want := fld v 3 3
      ∃ t, exec (.refclkPreferWrite tenant v) s = .next t ∧ rfld t rRefclk 3 3 = want ∧ (∀ i, i < 2 → refGood t i = refGood s i) ∧
        (refGood s want = true → refSel t = want) ∧ (refGood s want = false → refGood s (1 - want) = true → refSel t = 1 - want) ∧
        (refGood s want = false → refGood s (1 - want) = false → refSel t = refSel s))

/-- R23 to R26, R44, R45 and R347. -/
def Obligations.LinksAndTimebase : Prop :=
  ∀ s : State,
    (∀ link module lanes (ok : Bool), linkOk s link = true → module < linkModules link →
      let m := mget 0 s.ucieDown link
      let s1 := emit { s with ucieDown := mput link (m + 2 ^ module) s.ucieDown } 0x0021 0 [(2, link), (1, module), (1, lanes)]
      ((running s = false ∨ ok = true ∨ nbit m module = true) → exec (.ucieModuleRetrain link module lanes ok) s = .next s) ∧
      (nbit m module = false → mget 0 s1.ucieDown link = m + 2 ^ module ∧ nbit (m + 2 ^ module) module = true ∧
        (∀ i, i ≠ module → nbit (m + 2 ^ module) i = nbit m i) ∧ (∀ l, l ≠ link → mget 0 s1.ucieDown l = mget 0 s.ucieDown l)) ∧
      (running s = true → ok = false → nbit m module = false →
        (linkDead s1 link = false → exec (.ucieModuleRetrain link module lanes ok) s = .next (health s1)) ∧
        (linkDead s1 link = true → exec (.ucieModuleRetrain link module lanes ok) s = .next (health (linkLost s1 link))) ∧
        (linkDead s1 link = true → link < 128 → rbit s rDevStatus (16 + link % 64 / 4) = false → mfind s.partOut (link % 64 / 4) = none →
          ∃ t, exec (.ucieModuleRetrain link module lanes ok) s = .next t ∧ mfind t.partOut (link % 64 / 4) = some 0) ∧
        (linkDead s1 link = true → 512 ≤ link → ∃ t, exec (.ucieModuleRetrain link module lanes ok) s = .next t ∧
          rbit t (rEgr (link - 512)) 24 = false))) ∧
    (∀ p off tenant (write : Bool), tenant = 0 ∨ tenant = 256 → p < nParts s → (blockOf off).1 = .part p →
      (bar0Open s = false → exec (.partUnreachable p off tenant write) s = .next s) ∧
      (bar0Open s = true → write = true → ownerTenant s ≠ some tenant →
        exec (.partUnreachable p off tenant write) s = .next (writeRefused s off tenant)) ∧
      (bar0Open s = true → (write = false ∨ ownerTenant s = some tenant) →
        (blockReach s (.part p) ≠ .unreachable → exec (.partUnreachable p off tenant write) s = .next s) ∧
        (blockReach s (.part p) = .unreachable → ∃ t, exec (.partUnreachable p off tenant write) s = .next t ∧
          (mfind t.unreach p).isSome = true ∧ ((mfind s.unreach p).isSome = true → t = s) ∧ t.mem = s.mem))) ∧
    (∀ m : TsSync, engReady s m.eng → m.num < 256 → m.lastNum < 256 → m.master < 65536 → m.stratum < 256 →
      let x := getEng s m.eng
      (linkState s m.eng ≠ 4 → exec (.tsSync m) s = .next s) ∧
      (linkState s m.eng = 4 → ∃ t, exec (.tsSync m) s = .next t ∧ (getEng t m.eng).tsLast = some (m.num, s.timebase) ∧
        (getEng t m.eng).peer = some (m.master, m.stratum, m.locked) ∧ rfld t (rMlxState (m.eng / 8) (m.eng % 8)) 40 33 = m.stratum ∧
        ((m.lastRx ≠ 0 ∧ m.lastNum = x.tsNum) → (getEng t m.eng).delay =
          (((s.timebase : Int) - (x.tsSent : Int)) - ((m.tTx : Int) - (m.lastRx : Int))) / 2) ∧
        (¬(m.lastRx ≠ 0 ∧ m.lastNum = x.tsNum) → (getEng t m.eng).delay = x.delay) ∧
        ((rbit s rTbCtl 0 = true ∨ rbit s rTbCtl 1 = false ∨ s.tbStarted = false ∨ ¬(m.lastRx ≠ 0 ∧ m.lastNum = x.tsNum)) →
          t.timebase = s.timebase ∧ t.slew = s.slew))) ∧
    (∀ off : Int,
      let t := align s off
      let near := -25 ≤ off ∧ off ≤ 25
      (near → t.timebase = s.timebase ∧ t.slew = off ∧ rbit t rTbStatus 0 = true ∧ rbit t rTbStatus 1 = true) ∧
      (¬near → rbit s rTbStatus 1 = false → timeArmed s = false → t.timebase = ((s.timebase : Int) + off).toNat ∧ t.slew = 0 ∧
        rbit t rTbStatus 0 = true) ∧
      (¬near → (rbit s rTbStatus 1 = true ∨ timeArmed s = true) → t.timebase = s.timebase ∧ t.slew = off ∧ rbit t rTbStatus 0 = false) ∧
      (rbit s rTbStatus 1 = true → (off < -1000000 ∨ 1000000 < off) → rbit t rTbStatus 2 = true) ∧
      (-32768 ≤ off → off ≤ 32767 → sgn 16 (rfld t rTbStatus 31 16) = off)) ∧
    ((running s = false ∨ rbit s rTbStatus 0 = false) → exec .tbLockLoss s = .next s) ∧
    (running s = true → rbit s rTbStatus 0 = true → ∃ t, exec .tbLockLoss s = .next t ∧
      t.timebase = max s.timebase (s.syncAt + 10000000) ∧ t.slew = 0 ∧ rbit t rTbStatus 0 = false ∧ rbit t (rIntL1 28) 3 = true ∧
      (∀ eng n l, (getEng s eng).tsLast = some (n, l) → l + 10000000 ≤ t.timebase → (getEng t eng).peer = none) ∧
      (∀ eng n l, (getEng s eng).tsLast = some (n, l) → t.timebase < l + 10000000 → getEng t eng = getEng s eng))

/-- R450 to R453, R476 to R479. -/
def Obligations.FirmwareAndCalibration : Prop :=
  ∀ s : State,
    let a := fwActive s
    let res (t : State) (n : Nat) : Prop := rfld t rFwCmd 15 8 = n ∧ fwBusy t = false
    (∀ tenant (v : Word), v.getLsbD 3 = true → writeOpen s tenant rFwCmd →
      let go (n : Nat) : State := setRbit (setRfld (renewLease s) rFwCmd 2 0 n) rFwCmd 4 true
      (fwBusy s = true → (fld v 2 0 = 1 → exec (.fwStage tenant v) s = .next (renewLease s)) ∧
        (fld v 2 0 = 2 → exec (.fwActivate tenant v) s = .next (renewLease s)) ∧
        (fld v 2 0 = 3 → exec (.fwCommit tenant v) s = .next (renewLease s)) ∧
        (fld v 2 0 = 4 → exec (.fwRevert tenant v) s = .next (renewLease s))) ∧
      (fwBusy s = false → fld v 2 0 = 1 → ∃ t, exec (.fwStage tenant v) s = .next t ∧ fwBusy t = true ∧
        (fwImage t (1 - a)).ok = false ∧ fwImage t a = fwImage s a ∧ rfld t rFwStatus 5 4 = 2 ∧ fwActive t = a) ∧
      (fwBusy s = false → fld v 2 0 = 2 → rbit s rFwStatus (3 - a) = false → ∃ t, exec (.fwActivate tenant v) s = .next t ∧ res t 0x17 ∧
        t.restarting = s.restarting ∧ t.fwSt = s.fwSt) ∧
      (fwBusy s = false → fld v 2 0 = 2 → rbit s rFwStatus (3 - a) = true →
        exec (.fwActivate tenant v) s = .next (restartBegin (go 2) (1 - a) true)) ∧
      (fwBusy s = false → fld v 2 0 = 3 → s.fwSt.trial = false → ∃ t, exec (.fwCommit tenant v) s = .next t ∧ res t 0x17 ∧ t.calPref = s.calPref) ∧
      (fwBusy s = false → fld v 2 0 = 3 → s.fwSt.trial = true → ∃ t, exec (.fwCommit tenant v) s = .next t ∧ res t 0 ∧ t.calPref = some a ∧
        t.fwSt.trial = false ∧ rfld t rFwStatus 1 1 = a ∧ rfld t rFwStatus 5 4 = 0 ∧ t.calDirty = true) ∧
      (fwBusy s = false → fld v 2 0 = 4 → exec (.fwRevert tenant v) s = .next (restartBegin (go 4) (1 - a) false))) ∧
    (∀ slot trial, s.tests = [] →
      let t := restartBegin s slot trial
      t.restarting = true ∧ t.fwSt.slot = slot ∧ t.fwSt.toTrial = trial ∧ t.fwSt.before = a ∧ t.fwSt.watchdog = false ∧
      t.fwSt.since = s.timebase ∧ (epochState s = 1 ∨ epochState s = 2 → epochState t = 0 ∧ rbit t rEpochStatus 3 = true) ∧
      (epochState s ≠ 1 → epochState s ≠ 2 → t.bar0 = s.bar0)) ∧
    (∀ r : StageEnd,
      let cant := s.stage ≠ .up ∨ s.restarting = true ∨ fwBusy s = false ∨ rfld s rFwCmd 2 0 ≠ 1
      (cant → exec (.fwStageDone r) s = .next s) ∧
      (¬cant → ∃ t, exec (.fwStageDone r) s = .next t ∧ fwImage t (1 - a) = { ok := r.readBack && r.check, version := r.version.toNat } ∧
        fwImage t a = fwImage s a ∧ rbit t (rIntL1 28) 1 = true ∧ rbit t rFwStatus (3 - a) = (r.readBack && r.check) ∧
        (r.readBack = false → res t 0x10) ∧ (r.readBack = true → r.check = false → res t 0x13) ∧
        (r.readBack = true → r.check = true → res t 0))) ∧
    (let f := s.fwSt
     let im := fwImage s f.slot
     ((running s = false ∨ s.restarting = false ∨ im.ok = false) → exec .saleyReattach s = .next s) ∧
     (running s = true → s.restarting = true → im.ok = true → ∃ t, exec .saleyReattach s = .next t ∧ t.restarting = false ∧
       fwActive t = f.slot % 2 ∧ rfld t rFwStatus 63 32 = im.version % 2 ^ 32 ∧ t.fwSt.trial = f.toTrial ∧ fwBusy t = false ∧
       rfld t rFwStatus 5 4 = b2n f.toTrial ∧ rbit t (rIntL1 28) 0 = true ∧ (fwBusy s = true → f.watchdog = false → rfld t rFwCmd 15 8 = 0)) ∧
     ((running s = false ∨ s.restarting = false) → exec .mgmtWatchdog s = .next s) ∧
     (running s = true → s.restarting = true → ∃ t, exec .mgmtWatchdog s = .next t ∧ t.timebase = max s.timebase (f.since + 100000000) ∧
       t.fwSt = { f with slot := f.before, toTrial := if f.watchdog then f.toTrial else f.trial, watchdog := true, since := t.timebase } ∧
       t = { s with timebase := t.timebase, fwSt := t.fwSt }) ∧
     ((s.stage ≠ .up ∨ s.restarting = true ∨ f.trial = false) → exec .trialTimeout s = .next s) ∧
     (s.stage = .up → s.restarting = false → f.trial = true → exec .trialTimeout s = .next (restartBegin
       { s with timebase := max s.timebase (f.trialAt + 1000000000 * max 10 (rfld s rFwStatus 15 8)) } (1 - a) false))) ∧
    ((s.stage ≠ .up ∨ s.restarting = true) → exec .calRecordWrite s = .next s) ∧
    (∀ k r, calNewest s = some (k, r) → calNow s r.seq = r → s.calDirty = false → exec .calRecordWrite s = .next s) ∧
    (rbit s rDevStatus 0 = false → (∀ k r, calNewest s = some (k, r) → calNow s r.seq = r) → exec .calRecordWrite s = .next s) ∧
    (∀ k r, s.stage = .up → s.restarting = false → calNewest s = some (k, r) →
      (calNow s r.seq ≠ r ∨ (s.calDirty = true ∧ rbit s rDevStatus 0 = true)) →
      ∃ t, exec .calRecordWrite s = .next t ∧ t.calDirty = false ∧
        (k % 2 = 0 → t.flashA.cal1 = .valid (calNow s (r.seq + 1)) ∧ t.flashB.cal1 = .valid (calNow s (r.seq + 1)) ∧
          t.flashA.cal0 = s.flashA.cal0 ∧ t.flashB.cal0 = s.flashB.cal0) ∧
        (k % 2 = 1 → t.flashA.cal0 = .valid (calNow s (r.seq + 1)) ∧ t.flashB.cal0 = .valid (calNow s (r.seq + 1)) ∧
          t.flashA.cal1 = s.flashA.cal1 ∧ t.flashB.cal1 = s.flashB.cal1) ∧
        rfld t rCalStatus 31 0 = (r.seq + 1).toNat ∧ t.flashA.fw = s.flashA.fw ∧ t.flashB.fw = s.flashB.fw) ∧
    (s.stage = .up → s.restarting = false → calNewest s = none → rbit s rDevStatus 0 = true → ∃ t, exec .calRecordWrite s = .next t ∧ t.calDirty = false ∧
      t.flashA.cal0 = .valid (calNow s 1) ∧ t.flashB.cal0 = .valid (calNow s 1))

/-- R282, R484 to R489, R496, R499, R504 and R523. -/
def Obligations.EventsAndRegisterWrites : Prop :=
  ∀ s : State,
    (∀ cause source (data : List (Nat × Nat)),
      let e : Event := { cause := cause, source := source, time := s.timebase, data := data }
      let c := Instr.eventArrival cause source data
      (running s = false → exec c s = .next s) ∧
      (running s = true → saleyAway s e = false → s.evFifo.length < 1024 → exec c s = .next { s with evFifo := s.evFifo ++ [e] }) ∧
      (running s = true → saleyAway s e = false → 1024 ≤ s.evFifo.length → ∃ t, exec c s = .next t ∧ t.evFifo = s.evFifo ∧
        t.evDrops = countDrop s.evDrops cause ∧ rbit t (rIntL1 27) 1 = true) ∧
      (running s = true → saleyAway s e = true → (getHub s (eventHub e)).events.length < 256 → ∃ t, exec c s = .next t ∧
        (getHub t (eventHub e)).events = (getHub s (eventHub e)).events ++ [e] ∧ t.evFifo = s.evFifo)) ∧
    (∀ ok, ((running s = false ∨ s.restarting = true) → exec (.eventRecordWrite ok) s = .next s) ∧
      (running s = true → s.restarting = false → s.evResume = none →
        let n := nextSeq s
        let tail := rfld s rEvtTail 31 0
        let addr := (reg s rEvtBase).toNat + 64 * (tail % evtSize s)
        (ringFull s = true → exec (.eventRecordWrite ok) s = .next s) ∧
        (ringFull s = false → n ≠ 0xFFFFFFFF#32 → s.evSeries = [] → s.evDrops = [] → s.evFifo = [] →
          exec (.eventRecordWrite ok) s = .next s) ∧
        (ringFull s = false → n = 0xFFFFFFFF#32 → ∃ t, exec (.eventRecordWrite ok) s = .next t ∧ nextSeq t = 0 ∧ t.evFifo = s.evFifo ∧
          mget 0 t.hist 4095 = recordOf n { cause := 0x0002, time := s.timebase }) ∧
        (∀ e es, ringFull s = false → n ≠ 0xFFFFFFFF#32 → s.evSeries = [] → s.evDrops = [] → s.evFifo = e :: es →
          ∃ t, exec (.eventRecordWrite ok) s = .next t ∧ nextSeq t = n + 1 ∧ t.evFifo = es ∧
            mget 0 t.hist (n.toNat % 4096) = recordOf n e ∧ t.mem = s.mem ∧
            (ringOn s = false → rfld t rEvtTail 31 0 = tail ∧ t.hostMem = s.hostMem) ∧
            (ringOn s = true → ok = false → evtFault t = true ∧ rfld t rEvtTail 31 0 = tail ∧ t.evResume = some n) ∧
            (ringOn s = true → ok = true → (hostPlace s (256 * rfld s rEvtCtl 1 1) addr).1 = .ok →
              rfld t rEvtTail 31 0 = (tail + 1) % 2 ^ 32 ∧ evtFault t = false) ∧
            (ringOn s = true → (hostPlace s (256 * rfld s rEvtCtl 1 1) addr).1 ≠ .ok → evtFault t = true)))) ∧
    (∀ tenant (v : Word), writeOpen s tenant rEvtCtl → ∃ t, exec (.evtCtlWrite tenant v) s = .next t ∧ rbit t rEvtCtl 0 = v.getLsbD 0 ∧
      rfld t rEvtCtl 35 16 = fld v 35 16 ∧
      (rbit s rEvtCtl 0 = true → v.getLsbD 0 = true → rfld t rEvtCtl 12 8 = rfld s rEvtCtl 12 8 ∧ rbit t rEvtCtl 1 = rbit s rEvtCtl 1 ∧
        reg t rEvtTail = reg s rEvtTail ∧ reg t rEvtHead = reg s rEvtHead) ∧
      (rbit s rEvtCtl 0 = false → v.getLsbD 0 = true → reg t rEvtTail = 0 ∧ reg t rEvtHead = 0 ∧ rfld t rEvtCtl 12 8 = fld v 12 8 ∧
        rbit t rEvtCtl 1 = v.getLsbD 1) ∧
      (v.getLsbD 0 = false → reg t rEvtTail = reg s rEvtTail ∧ reg t rEvtHead = reg s rEvtHead)) ∧
    (∀ tenant (v : Word), writeOpen s tenant rEvtHead →
      let new : BitVec 32 := v.setWidth 32
      let far := evtSize s < (new - BitVec.ofNat 32 (rfld s rEvtHead 31 0)).toNat ∨ evtSize s < (BitVec.ofNat 32 (rfld s rEvtTail 31 0) - new).toNat
      (far → exec (.evtHeadWrite tenant v) s = .next (renewLease s)) ∧
      (¬far → exec (.evtHeadWrite tenant v) s = .next (setReg (renewLease s) rEvtHead (BitVec.ofNat 64 new.toNat)))) ∧
    (∀ tenant i (v : Word), tenant < 512 → i < 8 →
      let cant := running s = false ∨ (getPort s (tenant / 256)).up = false ∨ rbit s (rTenState tenant) 10 = true
      let r := rTenLeaf tenant 0 i
      (cant → exec (.notifyClear tenant i v) s = .next s) ∧
      (¬cant → exec (.notifyClear tenant i v) s = .next (setReg s r (reg s r &&& ~~~ v)))) ∧
    (∀ tenant off (v : Word), off < 0x4000000 → writeOpen s tenant off →
      (∀ n, exec (.registerWrite tenant off 0 n) s = .next s) ∧
      (∀ size n, size % 8 ≠ 0 → (size ≠ 4 ∨ off % 4 ≠ 0) →
        exec (.registerWrite tenant off size n) s = .next (writeRefused (renewLease s) off tenant)) ∧
      (∀ k n, 0 < k → off + 8 < 0x4000000 → ∃ t, exec (.registerWrite tenant off 8 n) s = .next t ∧
        exec (.registerWrite tenant off (8 + 8 * k) n) s = exec (.registerWrite tenant (off + 8) (8 * k) (n / 2 ^ 64)) t) ∧
      (off % 8 ≠ 0 → exec (.registerWrite tenant off 8 v.toNat) s = .next (writeRefused (renewLease s) off tenant)) ∧
      (off % 8 = 0 → regDesc off = none → off ≠ rAdminLock → exec (.registerWrite tenant off 8 v.toNat) s = .next (renewLease s)) ∧
      (∀ d, off % 8 = 0 → (blockOf off).1 = .pkg → regDesc off = some d →
        ¬ off ∈ [rAdminLock, rPkgNum, rRefclk, rRstCmd, rEpochPrepare, rEpochCommit, rEvtBase, rEvtCtl, rEvtHead, rFwCmd, rDbgCtl, rPwrCtl] →
        ¬(0x84000 ≤ off ∧ off < 0x86000) →
        exec (.registerWrite tenant off 8 v.toNat) s = .next (setReg (renewLease s) off (writeBits d (reg s off) v (BitVec.allOnes 64))) ∧
        (d.rw &&& (d.w1c ||| d.w1s) = 0 → ∃ t, exec (.registerWrite tenant off 4 v.toNat) s = .next t ∧
          (∀ i, 32 ≤ i → i < 64 → rbit t off i = rbit s off i) ∧
          (∀ i, i < 32 → rbit t off i = (writeBits d (reg s off) v (BitVec.allOnes 64)).getLsbD i) ∧
          (∀ o, o ≠ off → o ≠ rAdminLock → reg t o = reg s o)))) ∧
    (∀ tenant (v : Word), writeOpen s tenant rPkgNum →
      (rbit s rPkgNum 16 = true → exec (.pkgNumWrite tenant v) s = .next (renewLease s)) ∧
      (rbit s rPkgNum 16 = false → ∃ t, exec (.pkgNumWrite tenant v) s = .next t ∧ pkgNum t = fld v 15 0 ∧ rbit t rPkgNum 16 = true ∧
        ∀ o, o ≠ rPkgNum → o ≠ rAdminLock → reg t o = reg s o)) ∧
    (let heard := (running s = true ∨ s.stage = .halted) ∧ extestOn s = false
     let busy := s.stage = .halted ∨ s.restarting = true
     (¬heard → exec (.mctpMessage .control) s = .next s) ∧ (heard → exec (.mctpMessage .control) s = .next { s with smb := some .control }) ∧
     (∀ x, sensorOk x = true → (¬heard → exec (.mctpMessage (.read x)) s = .next s) ∧
       (heard → busy → exec (.mctpMessage (.read x)) s = .next { s with smb := some .busy }) ∧
       (heard → ¬busy → exec (.mctpMessage (.read x)) s = .next { s with smb := some (.value (sensorValue s x)) })) ∧
     (∀ n, heard → busy → exec (.mctpMessage (.pldm n)) s = .next { s with smb := some .busy }))

/-- R506 and R509 to R513. -/
def Obligations.Epochs : Prop :=
  ∀ s : State,
    let st := epochState s
    let result (t : State) (n : Nat) : Prop := rfld t rEpochStatus 23 16 = n
    (∀ tenant (v : Word), writeOpen s tenant rEpochPrepare →
      let next := fld v 31 0 = (rfld s rEpochCur 31 0 + 1) % 2 ^ 32
      ((st ≠ 0 ∨ ¬next) → ∃ t, exec (.epochPrepare tenant v) s = .next t ∧ result t 0x17 ∧ epochState t = st ∧ reg t rEpochAck = reg s rEpochAck) ∧
      (st = 0 → next → ∃ t, exec (.epochPrepare tenant v) s = .next t ∧ rfld t rEpochAck 63 32 = participantBits s ∧ rfld t rEpochAck 31 0 = 0 ∧
        rbit t rEpochStatus 3 = false ∧ t.prepAt = s.timebase ∧ (participantBits s ≠ 0 → epochState t = 1) ∧
        (participantBits s = 0 → epochState t = 2 ∧ result t 0))) ∧
    (∀ u b, unitBit u = some b →
      let cant := running s = false ∨ s.restarting = true ∨ st ≠ 1 ∨ rbit s rEpochAck (32 + b) = false ∨ rbit s rEpochAck b = true
      let sound := if u < 80 then hubChecks s (u - 64) else optChecks s (u - 144)
      (cant → exec (.epochAck u) s = .next s) ∧
      (¬cant → sound = true → ∃ t, exec (.epochAck u) s = .next t ∧ rbit t rEpochAck b = true ∧
        (u < 80 → (getHub t (u - 64)).prep = hubShadows s (u - 64)) ∧ (144 ≤ u → (getOpt t (u - 144)).prep = optShadows s (u - 144)) ∧
        (silent s = [u] → epochState t = 2 ∧ result t 0) ∧ ((∃ w, w ∈ silent s ∧ w ≠ u) → epochState t = 1)) ∧
      (¬cant → sound = false → ∃ t, exec (.epochAck u) s = .next t ∧ epochState t = 0 ∧ rbit t rEpochStatus 3 = true ∧
        rfld t rEpochStatus 15 8 = u ∧ result t 0x17 ∧ rbit t (rIntL1 26) 1 = true ∧ (∀ p, (getHub t p).prep = []) ∧ ∀ o, (getOpt t o).prep = [])) ∧
    (∀ u, unitBit u = none → exec (.epochAck u) s = .refused .illFormed) ∧
    ((st ≠ 1 ∨ silent s = []) → exec .epochPrepareTimeout s = .next s) ∧
    (∀ u l, st = 1 → silent s = u :: l → ∃ t, exec .epochPrepareTimeout s = .next t ∧ epochState t = 0 ∧ rbit t rEpochStatus 3 = true ∧
      rfld t rEpochStatus 15 8 = u ∧ result t 0x12 ∧ t.timebase = max s.timebase (s.prepAt + 1000000)) ∧
    (∀ tenant (v : Word), writeOpen s tenant rEpochCommit →
      (v.getLsbD 0 = false → exec (.epochCommit tenant v) s = .next (renewLease s)) ∧
      (v.getLsbD 0 = true → st ≠ 2 → ∃ t, exec (.epochCommit tenant v) s = .next t ∧ result t 0x17 ∧ epochState t = st ∧ t.boundAt = s.boundAt) ∧
      (v.getLsbD 0 = true → st = 2 → ∃ t, exec (.epochCommit tenant v) s = .next t ∧ result t 0 ∧ epochState t = 3 ∧
        t.boundAt = s.timebase + 1000 * max 20 (rfld s rEpochCtl 15 0))) ∧
    ((running s = false ∨ st ≠ 3) → exec .epochBoundary s = .next s) ∧
    (running s = true → st = 3 → ∃ t, exec .epochBoundary s = .next t ∧ epochState t = 4 ∧
      rfld t rEpochCur 31 0 = (rfld s rEpochCur 31 0 + 1) % 2 ^ 32 ∧ t.timebase = max s.timebase s.boundAt ∧
      reg t rEpochTime = BitVec.ofNat 64 s.boundAt ∧ rbit t (rIntL1 26) 0 = true ∧
      (∀ u, u ∈ participants s → u < 80 → (getHub t (u - 64)).routeOld = (getHub s (u - 64)).routeAct ∧
        (getHub t (u - 64)).opAct = shadowOp (getHub s (u - 64)).prep ∧ (getHub t (u - 64)).prep = []) ∧
      (∀ u, u ∈ participants s → 144 ≤ u → (getOpt t (u - 144)).qact = (getOpt s (u - 144)).prep) ∧ t.mem = s.mem) ∧
    ((st ≠ 4 ∨ oldPackets s ≠ 0) → exec .epochDrainDone s = .next s) ∧
    (st = 4 → oldPackets s = 0 → ∃ t, exec .epochDrainDone s = .next t ∧ epochState t = 0 ∧ (∀ p, (getHub t p).routeOld = []) ∧
      t.mem = s.mem ∧ t.timebase = s.timebase)

/-- R490 to R494; some readings are the model's choice (log entry 30). -/
def Obligations.DebugPort : Prop :=
  ∀ s : State,
    let dead := tapOn s = false
    let ir (v : BitVec 8) : State := { s with dbg := { s.dbg with ir := v } }
    (dead → exec .tapReset s = .next s ∧ exec .idcode s = .next s ∧ exec .bypass s = .next s ∧
      ∀ v, exec (.extest v) s = .next s ∧ exec (.samplePreload v) s = .next s) ∧
    (¬dead → exec .tapReset s = .next (ir 0x01) ∧ exec .idcode s = .next (ir 0x01) ∧ exec .bypass s = .next (ir 0xFF) ∧
      ∀ v : BitVec 64, exec (.samplePreload v) s = .next { s with dbg := { s.dbg with ir := 0x02, boundary := v } } ∧
        (dbgOn s = true → exec (.extest v) s = .next { s with dbg := { s.dbg with ir := 0x00, boundary := v } }) ∧
        (dbgOn s = false → exec (.extest v) s = .next (ir 0xFF))) ∧
    (fld (idcode s) 0 0 = 1 ∧ fld (idcode s) 11 1 = s.fuses.mfr % 2 ^ 11 ∧ fld (idcode s) 27 12 = 0x4C52) ∧
    (∀ c : DbgCmd, dbgOk c = true →
      let threads := [Instr.dbgHalt c, .dbgResume c, .dbgStep c, .dbgRegRead c, .dbgRegWrite c, .dbgLsRead c, .dbgLsWrite c, .dbgBpSet c,
        .dbgBpClr c, .dbgWpSet c, .dbgWpClr c, .dbgStatus c]
      let needs := [Instr.dbgStep c, .dbgRegRead c, .dbgRegWrite c, .dbgLsRead c, .dbgLsWrite c]
      let held := segHeld s s.dbg.addr.toNat = true
      let say (t : State) (a : DbgAns) : State := { t with dbg := { t.dbg with ir := 0x10, resp := dbgWord a } }
      let ready := tapOn s = true ∧ dbgOn s = true
      let there := c.pkg = pkgNum s ∧ saleyReaches s = true ∧ c.part < nParts s ∧ c.cl < 40 ∧ c.core < 120 ∧
        mfind s.clusterOut (clOf (dbgKey c)) = none
      let x := getCore s (dbgKey c)
      let t := getThread x c.th
      let r := fld c.arg 7 0
      let w := fld c.arg 11 8
      let got (i : Instr) (n : Nat) : Prop := exec i s = .next (say s (showThread t n))
      let put (i : Instr) (y : ThreadSt) : Prop :=
        exec i s = .next (say (setCore s (dbgKey c) (setThread x c.th y)) (showThread y 0))
      let core (i : Instr) (y : CoreSt) : Prop := exec i s = .next (say (setCore s (dbgKey c) y) (showThread t 0))
      (held → exec (.dbgMemRead c) s = .next s ∧ exec (.dbgMemWrite c) s = .next s) ∧
      (∀ i, i ∈ .dbgAddr c :: threads ∨ (¬held ∧ (i = .dbgMemRead c ∨ i = .dbgMemWrite c)) → (dead → exec i s = .next s) ∧
        (¬dead → dbgOn s = false → exec i s = .next (say s { status := .access }))) ∧
      (ready → exec (.dbgAddr c) s = .next (say { s with dbg := { s.dbg with addr := c.data } } {})) ∧
      (ready → ¬held → saleyReaches s = false → exec (.dbgMemRead c) s = .next (say s { status := .linkLost }) ∧
        exec (.dbgMemWrite c) s = .next (say s { status := .linkLost })) ∧
      (let ga := s.dbg.addr.toNat / 8 * 8
       ready → ¬held → saleyReaches s = true → (∀ p q o, homeOf s ga ≠ .bell p q o) → (∀ p i, homeOf s ga ≠ .counter p i) →
        (let l := lineRead s (dbgWho s) (ga / 64 * 64)
         exec (.dbgMemRead c) s = .next (say l.2.2.2
          { status := l.1, data := if l.1 = .ok then fld l.2.2.1 (8 * (ga % 64) + 63) (8 * (ga % 64)) else 0 })) ∧
        (let l := lineWrite s (dbgWho s) (ga / 64 * 64) (0xFF * 2 ^ (ga % 64)) (BitVec.ofNat 512 (c.data.toNat * 2 ^ (8 * (ga % 64))))
         exec (.dbgMemWrite c) s = .next (say l.2.2 { status := l.1 }))) ∧
      (∀ i, i ∈ threads → ready → c.pkg = pkgNum s → saleyReaches s = false → exec i s = .next (say s { status := .linkLost })) ∧
      (∀ i, i ∈ threads → ready → c.pkg = pkgNum s → saleyReaches s = true → ¬there → exec i s = .next (say s { status := .unsupported })) ∧
      (∀ i, i ∈ threads → ready → there → x.launch = none → exec i s = .next (say s { status := .aborted })) ∧
      (∀ i, i ∈ needs → ready → there → x.launch.isSome = true → isHalted t = false →
        exec i s = .next (say s { showThread t 0 with status := .badDesc })) ∧
      (ready → there → x.launch.isSome = true →
        put (.dbgHalt c) { t with halted := t.halted || alive t, stepping := false } ∧
        (t.halted = true → put (.dbgResume c) { t with halted := false, bpSkip := true }) ∧ (t.halted = false → put (.dbgResume c) t) ∧
        got (.dbgStatus c) 0 ∧
        core (.dbgBpSet c) { x with bps := mput (fld c.arg 2 0) ⟨fld c.data 47 0, dbgMask c⟩ x.bps } ∧
        core (.dbgBpClr c) { x with bps := mdel (fld c.arg 2 0) x.bps } ∧ core (.dbgWpClr c) { x with wps := mdel (fld c.arg 1 0) x.wps } ∧
        (let e := fld c.arg 7 4
         let a := if c.arg.getLsbD 10 then fld c.data 15 0 else c.data.toNat
         (e ≤ 12 → fld c.arg 9 8 ≠ 0 → core (.dbgWpSet c) { x with
           wps := mput (fld c.arg 1 0) ⟨a / 2 ^ e * 2 ^ e, 2 ^ e, fld c.arg 9 8, c.arg.getLsbD 10, dbgMask c⟩ x.wps }) ∧
         ((12 < e ∨ fld c.arg 9 8 = 0) → exec (.dbgWpSet c) s = .next (say s { showThread t 0 with status := .badDesc }))) ∧
        (isHalted t = true →
          put (.dbgStep c) { t with halted := false, stepping := true, bpSkip := true } ∧
          got (.dbgLsRead c) (bread x.ls (dbgLs c) 8) ∧
          core (.dbgLsWrite c) { x with ls := bwrite x.ls (dbgLs c) 8 c.data.toNat } ∧
          (dbgRegOk t r = false → ∀ i, i = .dbgRegRead c ∨ i = .dbgRegWrite c →
            exec i s = .next (say s { showThread t 0 with status := .badDesc })) ∧
          (r < 0x20 → got (.dbgRegRead c) (rd t r).toNat ∧ put (.dbgRegWrite c) (wr t r c.data)) ∧
          (∀ p, p < 8 → r = 0x20 + p → got (.dbgRegRead c) (b2n (rdP t p)) ∧ put (.dbgRegWrite c) (wrP t p (c.data.getLsbD 0))) ∧
          (r = 0x40 → got (.dbgRegRead c) t.pc.toNat ∧ put (.dbgRegWrite c) { t with pc := c.data.setWidth 48 }) ∧
          (r = 0x41 → got (.dbgRegRead c) (b2n t.fNan + 2 * b2n t.fInf + 4 * b2n t.fSat + 8 * b2n t.fOvf) ∧ got (.dbgRegWrite c) 0) ∧
          (∀ n, r = 0x80 + n → n < t.quota → got (.dbgRegRead c) (fld (rdV x t n) (64 * w + 63) (64 * w)) ∧
            core (.dbgRegWrite c) (wrV x t n (setFld (rdV x t n) (64 * w + 63) (64 * w) c.data.toNat)))))) ∧
    (∀ tenant (v : Word), writeOpen s tenant rDbgCtl → ∃ t, exec (.dbgCtlWrite tenant v) s = .next t ∧
      rbit t rDbgCtl 0 = v.getLsbD 0 ∧ rbit t rDbgCtl 1 = (v.getLsbD 0 || rbit s rStrap 1) ∧
      (dbgOn s = true → v.getLsbD 0 = false → rbit s rStrap 1 = false →
        ∀ k, (getCore t k).bps = [] ∧ (getCore t k).wps = [] ∧ ∀ th, (getThread (getCore t k) th).halted = false) ∧
      ((dbgOn s = false ∨ v.getLsbD 0 = true ∨ rbit s rStrap 1 = true) → t.cores = s.cores))

/-- The values that reset leaves. -/
def Obligations.ResetValues : Prop :=
  let s := State.reset
  s.stage = .waitSupply ∧ running s = false ∧ s.timebase = 0 ∧ s.mem = [] ∧ s.evFifo = [] ∧ s.hist = [] ∧ s.cores = [] ∧ s.hubs = [] ∧
  s.clusters = [] ∧ (∀ off, reg s off = regReset (small s) off) ∧ reg s rDevStatus = 0 ∧ reg s rEpochCur = 0 ∧ reg s rPkgNum = 0 ∧
  ownerTenant s = none ∧ (∀ p, p < 16 → reg s (pBase p + 0x50000) = 0x47F) ∧ step s = .next s
end

