-- ==== Sys2Proof/Laws/Memory.lean ====
section
/-! SUPPORT. The laws of sparse maps and byte memories: what a read answers after a write, and that every operation keeps the
canonical form. -/
namespace Sys2Proof.Machine

/-! ## Reading after writing -/

@[simp] theorem mget_mput_same {β : Type} (d : β) (m : AMap β) (k : Nat) (v : β) : mget d (mput k v m) k = v := by
  induction m with
  | nil => simp [mput, mget]
  | cons c m ih =>
    obtain ⟨j, w⟩ := c
    simp only [mput]
    split
    · simp [mget]
    · split
      · simp [mget]
      · simp only [mget]
        rw [if_neg (by omega), ih]

theorem mget_mput_ne {β : Type} (d : β) (m : AMap β) {k j : Nat} (v : β) (h : j ≠ k) : mget d (mput k v m) j = mget d m j := by
  induction m with
  | nil => simp [mput, mget, h.symm]
  | cons c m ih =>
    obtain ⟨i, w⟩ := c
    simp only [mput]
    split
    · simp [mget, h.symm]
    · split
      · subst_vars; simp [mget, h.symm]
      · simp only [mget, ih]

theorem mget_mput {β : Type} (d : β) (m : AMap β) (k j : Nat) (v : β) : mget d (mput k v m) j = if j = k then v else mget d m j := by
  split
  · subst_vars; simp
  · exact mget_mput_ne d m v ‹_›

@[simp] theorem mfind_mput_same {β : Type} (m : AMap β) (k : Nat) (v : β) : mfind (mput k v m) k = some v := by
  induction m with
  | nil => simp [mput, mfind]
  | cons c m ih =>
    obtain ⟨j, w⟩ := c
    simp only [mput]
    split
    · simp [mfind]
    · split
      · simp [mfind]
      · simp only [mfind]
        rw [if_neg (by omega), ih]

theorem mfind_mput_ne {β : Type} (m : AMap β) {k j : Nat} (v : β) (h : j ≠ k) : mfind (mput k v m) j = mfind m j := by
  induction m with
  | nil => simp [mput, mfind, h.symm]
  | cons c m ih =>
    obtain ⟨i, w⟩ := c
    simp only [mput]
    split
    · simp [mfind, h.symm]
    · split
      · subst_vars; simp [mfind, h.symm]
      · simp only [mfind, ih]

theorem mget_mdel {β : Type} (d : β) (m : AMap β) (k j : Nat) : mget d (mdel k m) j = if j = k then d else mget d m j := by
  induction m with
  | nil => simp [mdel, mget]
  | cons c m ih =>
    obtain ⟨i, w⟩ := c
    simp only [mdel, List.filter_cons, mget] at *
    by_cases hi : i = k
    · subst hi
      simp only [bne_self_eq_false, Bool.false_eq_true, if_false, ih]
      split
      · rfl
      · rw [if_neg (by omega)]
    · simp only [bne_iff_ne, ne_eq, hi, not_false_eq_true, if_true, mget, ih]
      split
      · subst_vars; rw [if_neg hi]
      · rfl

/-- A byte read after a byte is written. -/
theorem bget_bput (m : Bytes) (a j : Nat) (v : BitVec 8) : bget (bput m a v) j = if j = a then v else bget m j := by
  unfold bget bput
  split
  · subst_vars; rw [mget_mdel]
  · rw [mget_mput]

@[simp] theorem bget_bput_same (m : Bytes) (a : Nat) (v : BitVec 8) : bget (bput m a v) a = v := by simp [bget_bput]

theorem bget_bput_ne (m : Bytes) {a j : Nat} (v : BitVec 8) (h : j ≠ a) : bget (bput m a v) j = bget m j := by simp [bget_bput, h]

/-- A list of bytes written changes no byte outside it. -/
theorem bget_bwriteList_out (m : Bytes) (a j : Nat) (l : List (BitVec 8)) (h : j < a ∨ a + l.length ≤ j) :
    bget (bwriteList m a l) j = bget m j := by
  induction l generalizing m a with
  | nil => rfl
  | cons b l ih =>
    simp only [List.length_cons] at h
    simp only [bwriteList]
    rw [ih _ _ (by omega), bget_bput_ne _ _ (by omega)]

/-- A list of bytes written is what its addresses read as. -/
theorem bget_bwriteList_in (m : Bytes) (a i : Nat) (l : List (BitVec 8)) (h : i < l.length) :
    bget (bwriteList m a l) (a + i) = l.getD i 0 := by
  induction l generalizing m a i with
  | nil => simp at h
  | cons b l ih =>
    cases i with
    | zero => simp only [bwriteList, Nat.add_zero]; rw [bget_bwriteList_out _ _ _ _ (by omega)]; simp
    | succ i =>
      have := ih (bput m a b) (a + 1) i (by simpa using h)
      simp only [bwriteList]
      rw [show a + (i + 1) = a + 1 + i by omega, this]
      simp

/-! ## The canonical form -/

theorem memWf_cons {a : Nat} {v : BitVec 8} {m : Bytes} :
    Memory.wf ((a, v) :: m) = true ↔ v ≠ unlisted ∧ (∀ c ∈ m.head?, a < c.1) ∧ Memory.wf m = true := by
  cases m with
  | nil => simp [Memory.wf]
  | cons c m => simp [Memory.wf, and_assoc]

theorem memWf_mput {m : Bytes} (h : Memory.wf m = true) (a : Nat) {v : BitVec 8} (hv : v ≠ unlisted) : Memory.wf (mput a v m) = true := by
  induction m with
  | nil => simp [mput, Memory.wf, hv]
  | cons c m ih =>
    obtain ⟨k, w⟩ := c
    obtain ⟨hw, hk, hm⟩ := memWf_cons.1 h
    simp only [mput]
    split
    · exact memWf_cons.2 ⟨hv, by simpa using ‹a < k›, h⟩
    · split
      · subst_vars; exact memWf_cons.2 ⟨hv, hk, hm⟩
      · refine memWf_cons.2 ⟨hw, ?_, ih hm⟩
        cases m with
        | nil => simp [mput]; omega
        | cons d m =>
          simp only [mput]
          split
          · simp; omega
          · split
            · simp; omega
            · exact hk

theorem mapWf_cons {β : Type} {a : Nat} {v : β} {m : AMap β} :
    mapWf ((a, v) :: m) = true ↔ (∀ c ∈ m.head?, a < c.1) ∧ mapWf m = true := by
  cases m with
  | nil => simp [mapWf]
  | cons c m => simp [mapWf]

/-- Setting a key keeps a map's canonical form. -/
theorem mapWf_mput {β : Type} {m : AMap β} (h : mapWf m = true) (a : Nat) (v : β) : mapWf (mput a v m) = true := by
  induction m with
  | nil => simp [mput, mapWf]
  | cons c m ih =>
    obtain ⟨k, w⟩ := c
    obtain ⟨hk, hm⟩ := mapWf_cons.1 h
    simp only [mput]
    split
    · exact mapWf_cons.2 ⟨by simpa using ‹a < k›, h⟩
    · split
      · subst_vars; exact mapWf_cons.2 ⟨hk, hm⟩
      · refine mapWf_cons.2 ⟨?_, ih hm⟩
        cases m with
        | nil => simp [mput]; omega
        | cons d m =>
          simp only [mput]
          split
          · simp; omega
          · split
            · simp; omega
            · exact hk

/-- Keeping only some entries keeps a map's canonical form. -/
theorem mapWf_filter {β : Type} {m : AMap β} (h : mapWf m = true) (p : Nat × β → Bool) :
    mapWf (m.filter p) = true ∧ ∀ k, (∀ c ∈ m.head?, k < c.1) → ∀ c ∈ (m.filter p).head?, k < c.1 := by
  induction m with
  | nil => simp [mapWf]
  | cons c m ih =>
    obtain ⟨k, w⟩ := c
    obtain ⟨hk, hm⟩ := mapWf_cons.1 h
    obtain ⟨h1, h2⟩ := ih hm
    by_cases e : p (k, w)
    · simp only [List.filter_cons, e, if_true]
      exact ⟨mapWf_cons.2 ⟨h2 k hk, h1⟩, by simp⟩
    · simp only [List.filter_cons, e]
      refine ⟨h1, fun j hj => h2 j fun c hc => ?_⟩
      have := hk c hc
      simp at hj
      omega

/-- Keeping only some entries keeps a memory's canonical form. -/
theorem memWf_keep {m : Bytes} (h : Memory.wf m = true) (p : Nat × BitVec 8 → Bool) :
    Memory.wf (m.filter p) = true ∧ ∀ k, (∀ c ∈ m.head?, k < c.1) → ∀ c ∈ (m.filter p).head?, k < c.1 := by
  induction m with
  | nil => simp [Memory.wf]
  | cons c m ih =>
    obtain ⟨k, w⟩ := c
    obtain ⟨hw, hk, hm⟩ := memWf_cons.1 h
    obtain ⟨h1, h2⟩ := ih hm
    by_cases e : p (k, w)
    · simp only [List.filter_cons, e, if_true]
      exact ⟨memWf_cons.2 ⟨hw, h2 k hk, h1⟩, by simp⟩
    · simp only [List.filter_cons, e]
      refine ⟨h1, fun j hj => h2 j fun c hc => ?_⟩
      have := hk c hc
      simp at hj
      omega

/-- Writing a byte keeps the canonical form. -/
theorem memWf_bput {m : Bytes} (h : Memory.wf m = true) (a : Nat) (v : BitVec 8) : Memory.wf (bput m a v) = true := by
  unfold bput
  split
  · exact (memWf_keep h _).1
  · exact memWf_mput h a ‹_›

theorem memWf_bwriteList {m : Bytes} (h : Memory.wf m = true) (a : Nat) (l : List (BitVec 8)) : Memory.wf (bwriteList m a l) = true := by
  induction l generalizing m a with
  | nil => exact h
  | cons b l ih => exact ih (memWf_bput h a b) (a + 1)

theorem memWf_fold {α : Type} (f : Bytes → α → Bytes) (hf : ∀ m a, Memory.wf m = true → Memory.wf (f m a) = true) (l : List α) {m : Bytes}
    (h : Memory.wf m = true) : Memory.wf (l.foldl f m) = true := by
  induction l generalizing m with
  | nil => exact h
  | cons a l ih => exact ih (hf m a h)

/-- A number written, little-endian, keeps the canonical form. -/
theorem memWf_bwrite {m : Bytes} (h : Memory.wf m = true) (a n v : Nat) : Memory.wf (bwrite m a n v) = true := by
  induction n generalizing m a v with
  | zero => exact h
  | succ n ih => exact ih (memWf_bput h a _) (a + 1) (v / 256)

/-- Two memories in canonical form that read alike are the same data. -/
theorem mem_ext {m m' : Bytes} (h : Memory.wf m = true) (h' : Memory.wf m' = true) (e : ∀ a, bget m a = bget m' a) : m = m' := by
  have low : ∀ {m : Bytes} {k : Nat}, Memory.wf m = true → (∀ c ∈ m.head?, k < c.1) → ∀ j, j ≤ k → bget m j = unlisted := by
    intro m
    induction m with
    | nil => intros; rfl
    | cons c m ih =>
      obtain ⟨i, w⟩ := c
      intro k h hk j hj
      obtain ⟨hw, hi, hm⟩ := memWf_cons.1 h
      have hk' := hk (i, w) (by simp)
      simp only [bget, mget]
      rw [if_neg (by simp at hk'; omega)]
      exact ih hm hi j (by simp at hk'; omega)
  induction m generalizing m' with
  | nil =>
    cases m' with
    | nil => rfl
    | cons c m' =>
      obtain ⟨i, w⟩ := c
      have := e i
      simp [bget, mget] at this
      exact absurd this.symm (memWf_cons.1 h').1
  | cons c m ih =>
    obtain ⟨i, w⟩ := c
    obtain ⟨hw, hi, hm⟩ := memWf_cons.1 h
    cases m' with
    | nil =>
      have := e i
      simp [bget, mget] at this
      exact absurd this hw
    | cons c' m' =>
      obtain ⟨j, w'⟩ := c'
      obtain ⟨hw', hj, hm'⟩ := memWf_cons.1 h'
      have hij : i = j := by
        rcases Nat.lt_trichotomy i j with l | l | l
        · have := e i
          rw [low (k := i) h' (by simpa using l) i (Nat.le_refl _)] at this
          simp [bget, mget] at this
          exact absurd this hw
        · exact l
        · have := e j
          rw [low (k := j) h (by simpa using l) j (Nat.le_refl _)] at this
          simp [bget, mget] at this
          exact absurd this.symm hw'
      subst hij
      have hww : w = w' := by simpa [bget, mget] using e i
      subst hww
      congr 1
      refine ih hm hm' fun a => ?_
      by_cases ha : a ≤ i
      · rw [low hm hi a ha, low hm' hj a ha]
      · have := e a
        simpa [bget, mget, if_neg (show ¬ i = a by omega)] using this

end Sys2Proof.Machine
end

