-- ==== Sys2Proof/Laws/Kept.lean ====
section
/-! SUPPORT. What every function of the model keeps, said once: the queue and the fuses as they are, the memories and the
register map in canonical form, the counter of free values never back. `f_kept` says it of `f`; provers cite it and unfold no
meaning. -/
namespace Sys2Proof.Machine

/-- Of a state: its queue, fuses, memory, host memory, free-value counter and registers, held against those of `b`: queue and
fuses as they were, the memories and the register map in canonical form if they were, the counter not gone back. -/
def KeptF (b : State) (q : List Instr) (fu : Fuses) (m hm : Bytes) (n : Nat) (r : AMap Word) : Prop :=
  q = b.pending ∧ fu = b.fuses ∧ (Memory.wf b.mem = true → Memory.wf m = true) ∧ (Memory.wf b.hostMem = true → Memory.wf hm = true) ∧
    b.free ≤ n ∧ (mapWf b.bar0 = true → mapWf r = true)

/-- A state keeps what `b` had. -/
def Kept (b s : State) : Prop := KeptF b s.pending s.fuses s.mem s.hostMem s.free s.bar0

/-- Of an outcome: a next state keeps what `b` had; no fault; a refusal only of operands that name nothing, or of another
row's word. -/
def KeptO (b : State) : Out → Prop
  | .next t => Kept b t
  | .fault _ => False
  | .refused r => r = .illFormed ∨ r = .notThisCommand

theorem kept_refl (b : State) : Kept b b := ⟨rfl, rfl, id, id, Nat.le_refl _, id⟩

theorem kept_eta {b s : State} (h : Kept b s) : KeptF b s.pending s.fuses s.mem s.hostMem s.free s.bar0 := h

theorem kept_mk {b : State} {x0 x1 x2 x3 x4 x5 x6 x7 x8 x9 x10 x11 x12 x13 x14 x15 x16 x17 x18 x19 x20 x21 x22 x23 x24 x25 x26 x27 x28 x29 x30 x31 x32 x33 x34 x35 x36 x37 x38 x39 x40 x41 x42 x43 x44 x45 x46 x47 x48 x49 x50 x51 x52 x53 x54 x55 x56 x57 x58 x59 x60 x61 x62 x63 x64 x65 x66 x67 x68 x69 x70 x71}
    (h : KeptF b x0 x2 x8 x13 x1 x7) :
    Kept b (State.mk x0 x1 x2 x3 x4 x5 x6 x7 x8 x9 x10 x11 x12 x13 x14 x15 x16 x17 x18 x19 x20 x21 x22 x23 x24 x25 x26 x27 x28 x29 x30 x31 x32 x33 x34 x35 x36 x37 x38 x39 x40 x41 x42 x43 x44 x45 x46 x47 x48 x49 x50 x51 x52 x53 x54 x55 x56 x57 x58 x59 x60 x61 x62 x63 x64 x65 x66 x67 x68 x69 x70 x71) := h

theorem kept_ite {b s t : State} {c : Prop} [Decidable c] (hs : Kept b s) (ht : Kept b t) : Kept b (if c then s else t) := by
  split <;> assumption

theorem keptO_ite {b : State} {s t : Out} {c : Prop} [Decidable c] (hs : KeptO b s) (ht : KeptO b t) : KeptO b (if c then s else t) := by
  split <;> assumption

theorem keptO_next {b s : State} (h : Kept b s) : KeptO b (.next s) := h

theorem keptO_refused {b : State} {r : Refusal} (h : r = .illFormed ∨ r = .notThisCommand) : KeptO b (.refused r) := h

theorem keptO_of_next {b s : State} {o : Out} (h : o = .next s) (k : KeptO b o) : Kept b s := by
  subst h; exact k

theorem kept_foldl {b : State} {α : Type} {f : State → α → State} (hf : ∀ s a, Kept b s → Kept b (f s a)) (l : List α) {s : State}
    (h : Kept b s) : Kept b (l.foldl f s) := by
  induction l generalizing s with
  | nil => exact h
  | cons a l ih => exact ih (hf s a h)

theorem keptF_mem {b : State} {q fu m hm n r m'} (h : KeptF b q fu m hm n r) (hw : Memory.wf m = true → Memory.wf m' = true) :
    KeptF b q fu m' hm n r :=
  ⟨h.1, h.2.1, hw ∘ h.2.2.1, h.2.2.2⟩

theorem keptF_bwriteList {b : State} {q fu m hm n r} (k : Nat) (l : List (BitVec 8)) (h : KeptF b q fu m hm n r) :
    KeptF b q fu (bwriteList m k l) hm n r :=
  keptF_mem h fun h => memWf_bwriteList h k l

theorem keptF_bput {b : State} {q fu m hm n r} (k : Nat) (v : BitVec 8) (h : KeptF b q fu m hm n r) : KeptF b q fu (bput m k v) hm n r :=
  keptF_mem h fun h => memWf_bput h k v

theorem keptF_filter {b : State} {q fu m hm n r} (p : Nat × BitVec 8 → Bool) (h : KeptF b q fu m hm n r) :
    KeptF b q fu (m.filter p) hm n r :=
  keptF_mem h fun h => (memWf_keep h p).1

theorem keptF_nil {b : State} {q fu m hm n r} (h : KeptF b q fu m hm n r) : KeptF b q fu [] hm n r := keptF_mem h fun _ => rfl

theorem keptF_free {b : State} {q fu m hm n r} (k : Nat) (h : KeptF b q fu m hm n r) : KeptF b q fu m hm (n + k) r :=
  ⟨h.1, h.2.1, h.2.2.1, h.2.2.2.1, Nat.le_add_right_of_le h.2.2.2.2.1, h.2.2.2.2.2⟩

theorem keptF_regs {b : State} {q fu m hm n r r'} (h : KeptF b q fu m hm n r) (hw : mapWf r = true → mapWf r' = true) :
    KeptF b q fu m hm n r' :=
  ⟨h.1, h.2.1, h.2.2.1, h.2.2.2.1, h.2.2.2.2.1, hw ∘ h.2.2.2.2.2⟩

theorem keptF_mput {b : State} {q fu m hm n r} (k : Nat) (v : Word) (h : KeptF b q fu m hm n r) : KeptF b q fu m hm n (mput k v r) :=
  keptF_regs h fun h => mapWf_mput h k v

theorem keptF_regFilter {b : State} {q fu m hm n r} (p : Nat × Word → Bool) (h : KeptF b q fu m hm n r) :
    KeptF b q fu m hm n (r.filter p) :=
  keptF_regs h fun h => (mapWf_filter h p).1

theorem keptF_regNil {b : State} {q fu m hm n r} (h : KeptF b q fu m hm n r) : KeptF b q fu m hm n [] := keptF_regs h fun _ => rfl

theorem keptF_host {b : State} {q fu m hm n r m'} (h : KeptF b q fu m hm n r) (hw : Memory.wf hm = true → Memory.wf m' = true) :
    KeptF b q fu m m' n r :=
  ⟨h.1, h.2.1, h.2.2.1, hw ∘ h.2.2.2.1, h.2.2.2.2⟩

theorem keptF_mix {b s t : State} (h : Kept b s) (k : Kept b t) (n : Nat) :
    KeptF b s.pending s.fuses t.mem s.hostMem (t.free + n) s.bar0 :=
  ⟨h.1, h.2.1, k.2.2.1, h.2.2.2.1, Nat.le_add_right_of_le k.2.2.2.2.1, h.2.2.2.2.2⟩

theorem kept_ite_2 {α : Type} {b : State} {s t : α × State} {c : Prop} [Decidable c] (hs : Kept b s.2) (ht : Kept b t.2) :
    Kept b (if c then s else t).2 := by
  split <;> assumption

theorem kept_ite_2_2 {α β : Type} {b : State} {s t : α × β × State} {c : Prop} [Decidable c] (hs : Kept b s.2.2) (ht : Kept b t.2.2) :
    Kept b (if c then s else t).2.2 := by
  split <;> assumption

theorem kept_ite_2_2_2 {α β γ : Type} {b : State} {s t : α × β × γ × State} {c : Prop} [Decidable c] (hs : Kept b s.2.2.2) (ht : Kept b t.2.2.2) :
    Kept b (if c then s else t).2.2.2 := by
  split <;> assumption

theorem kept_ite_2_2_2_2 {α β γ δ : Type} {b : State} {s t : α × β × γ × δ × State} {c : Prop} [Decidable c] (hs : Kept b s.2.2.2.2) (ht : Kept b t.2.2.2.2) :
    Kept b (if c then s else t).2.2.2.2 := by
  split <;> assumption

theorem kept_of_eq_2 {α : Type} {b s : State} {t : α × State} {a0} (h : t = (a0, s)) (k : Kept b t.2) :
    Kept b s := by
  subst h; exact k

theorem kept_foldl_2 {α ι : Type} {b : State} {f : (α × State) → ι → (α × State)}
    (hf : ∀ t i, Kept b t.2 → Kept b (f t i).2) (l : List ι) {t} (h : Kept b t.2) : Kept b (l.foldl f t).2 := by
  induction l generalizing t with
  | nil => exact h
  | cons a l ih => exact ih (hf t a h)

theorem kept_of_eq_2_2 {α β : Type} {b s : State} {t : α × β × State} {a0 a1} (h : t = (a0, a1, s)) (k : Kept b t.2.2) :
    Kept b s := by
  subst h; exact k

theorem kept_foldl_2_2 {α β ι : Type} {b : State} {f : (α × β × State) → ι → (α × β × State)}
    (hf : ∀ t i, Kept b t.2.2 → Kept b (f t i).2.2) (l : List ι) {t} (h : Kept b t.2.2) : Kept b (l.foldl f t).2.2 := by
  induction l generalizing t with
  | nil => exact h
  | cons a l ih => exact ih (hf t a h)

theorem kept_of_eq_2_2_2 {α β γ : Type} {b s : State} {t : α × β × γ × State} {a0 a1 a2} (h : t = (a0, a1, a2, s)) (k : Kept b t.2.2.2) :
    Kept b s := by
  subst h; exact k

theorem kept_of_eq_2_2_2_2 {α β γ δ : Type} {b s : State} {t : α × β × γ × δ × State} {a0 a1 a2 a3} (h : t = (a0, a1, a2, a3, s)) (k : Kept b t.2.2.2.2) :
    Kept b s := by
  subst h; exact k

end Sys2Proof.Machine
end

