-- ==== Sys2Proof/Laws/KeptMemory.lean ====
section
/-! SUPPORT. `f_kept` (Laws/Kept.lean) for the functions of memory, the registers, the hub translations and the hosts. -/
namespace Sys2Proof.Machine

theorem setReg_kept{b : State} : ∀ x0 x1 x2, Kept b x0 → Kept b (setReg x0 x1 x2) := by
  intro x0 x1 x2 h0
  unfold setReg
  exact kept_mk (keptF_mput _ _ (kept_eta h0))

theorem setRfld_kept{b : State} : ∀ x0 x1 x2 x3 x4, Kept b x0 → Kept b (setRfld x0 x1 x2 x3 x4) := by
  intro x0 x1 x2 x3 x4 h0
  unfold setRfld
  exact setReg_kept _ _ _ h0

theorem setRbit_kept{b : State} : ∀ x0 x1 x2 x3, Kept b x0 → Kept b (setRbit x0 x1 x2 x3) := by
  intro x0 x1 x2 x3 h0
  unfold setRbit
  exact setReg_kept _ _ _ h0

theorem clearRegs_kept{b : State} : ∀ x0 x1 x2, Kept b x0 → Kept b (clearRegs x0 x1 x2) := by
  intro x0 x1 x2 h0
  unfold clearRegs
  exact kept_mk (keptF_regFilter _ (kept_eta h0))

theorem setCore_kept{b : State} : ∀ x0 x1 x2, Kept b x0 → Kept b (setCore x0 x1 x2) := by
  intro x0 x1 x2 h0
  unfold setCore
  exact kept_mk (kept_eta h0)

theorem setCl_kept{b : State} : ∀ x0 x1 x2, Kept b x0 → Kept b (setCl x0 x1 x2) := by
  intro x0 x1 x2 h0
  unfold setCl
  exact kept_mk (kept_eta h0)

theorem setHub_kept{b : State} : ∀ x0 x1 x2, Kept b x0 → Kept b (setHub x0 x1 x2) := by
  intro x0 x1 x2 h0
  unfold setHub
  exact kept_mk (kept_eta h0)

theorem setStack_kept{b : State} : ∀ x0 x1 x2, Kept b x0 → Kept b (setStack x0 x1 x2) := by
  intro x0 x1 x2 h0
  unfold setStack
  exact kept_mk (kept_eta h0)

theorem putThread_kept{b : State} : ∀ x0 x1 x2, Kept b x0 → Kept b (putThread x0 x1 x2) := by
  intro x0 x1 x2 h0
  unfold putThread
  extract_lets +onlyGivenNames v0
  clear_value v0
  exact setCore_kept _ _ _ h0

theorem freshWord_kept{b : State} : ∀ x0, Kept b x0 → Kept b (freshWord x0).2 := by
  intro x0 h0
  unfold freshWord
  exact kept_mk (keptF_free _ (kept_eta h0))

theorem setGp_kept{b : State} : ∀ x0 x1 x2, Kept b x0 → Kept b (setGp x0 x1 x2) := by
  intro x0 x1 x2 h0
  unfold setGp
  extract_lets +onlyGivenNames v0
  clear_value v0
  exact setCl_kept _ _ _ h0

theorem gateAll_kept{b : State} : ∀ x0, Kept b x0 → Kept b (gateAll x0) := by
  intro x0 h0
  unfold gateAll
  exact kept_mk (kept_eta h0)

theorem leaf_kept{b : State} : ∀ x0 x1 x2, Kept b x0 → Kept b (leaf x0 x1 x2) := by
  intro x0 x1 x2 h0
  unfold leaf
  exact setRbit_kept _ _ _ _ h0

theorem holdEv_kept{b : State} : ∀ x0 x1, Kept b x0 → Kept b (holdEv x0 x1) := by
  intro x0 x1 h0
  unfold holdEv
  extract_lets +onlyGivenNames v0
  clear_value v0
  extract_lets +onlyGivenNames v1
  clear_value v1
  exact kept_ite (setHub_kept _ _ _ h0) (leaf_kept _ _ _ (setHub_kept _ _ _ (kept_mk (kept_eta h0))))

theorem fifoEv_kept{b : State} : ∀ x0 x1, Kept b x0 → Kept b (fifoEv x0 x1) := by
  intro x0 x1 h0
  unfold fifoEv
  exact kept_ite (kept_mk (kept_eta h0)) (leaf_kept _ _ _ (kept_mk (kept_eta h0)))

theorem emitEv_kept{b : State} : ∀ x0 x1, Kept b x0 → Kept b (emitEv x0 x1) := by
  intro x0 x1 h0
  unfold emitEv
  exact kept_ite (holdEv_kept _ _ h0) (fifoEv_kept _ _ h0)

theorem releaseEv_kept{b : State} : ∀ x0 x1, Kept b x0 → Kept b (releaseEv x0 x1) := by
  intro x0 x1 h0
  unfold releaseEv
  extract_lets +onlyGivenNames v0
  clear_value v0
  extract_lets +onlyGivenNames v1
  have p2 : Kept b v1 := by
    unfold v1
    exact setHub_kept _ _ _ h0
  clear_value v1
  extract_lets +onlyGivenNames v3
  have p4 : Kept b v3 := by
    unfold v3
    exact kept_mk (kept_eta p2)
  clear_value v3
  exact kept_foldl (fun f5 i5 p5 => fifoEv_kept _ _ p5) _ p4

theorem emit_kept{b : State} : ∀ x0 x1 x2 x3, Kept b x0 → Kept b (emit x0 x1 x2 x3) := by
  intro x0 x1 x2 x3 h0
  unfold emit
  exact emitEv_kept _ _ h0

theorem writeRefused_kept{b : State} : ∀ x0 x1 x2, Kept b x0 → Kept b (writeRefused x0 x1 x2) := by
  intro x0 x1 x2 h0
  unfold writeRefused
  exact emit_kept _ _ _ _ h0

theorem nextS_kept{b : State} : ∀ x0, Kept b x0 → KeptO b (nextS x0) := by
  intro x0 h0
  unfold nextS
  exact keptO_next h0

theorem guardWf_kept{b : State} : ∀ x0 x1, KeptO b x1 → KeptO b (guardWf x0 x1) := by
  intro x0 x1 h1
  unfold guardWf
  exact keptO_ite h1 (keptO_refused (.inl rfl))

theorem noRoute_kept{b : State} : ∀ x0 x1 x2 x3, Kept b x0 → Kept b (noRoute x0 x1 x2 x3) := by
  intro x0 x1 x2 x3 h0
  unfold noRoute
  extract_lets +onlyGivenNames v0
  have p1 : Kept b v0 := by
    unfold v0
    exact leaf_kept _ _ _ (emit_kept _ _ _ _ h0)
  clear_value v0
  extract_lets +onlyGivenNames v2
  clear_value v2
  exact setRfld_kept _ _ _ _ _ p1

theorem pathLost_kept{b : State} : ∀ x0 x1 x2 x3, Kept b x0 → Kept b (pathLost x0 x1 x2 x3) := by
  intro x0 x1 x2 x3 h0
  unfold pathLost
  split
  · exact h0
  · extract_lets +onlyGivenNames v6
    have p7 : Kept b v6 := by
      unfold v6
      exact kept_ite (kept_mk (kept_eta h0)) h0
    clear_value v6
    exact noRoute_kept _ _ _ _ p7

theorem setRing_kept{b : State} : ∀ x0 x1 x2 x3, Kept b x0 → Kept b (setRing x0 x1 x2 x3) := by
  intro x0 x1 x2 x3 h0
  unfold setRing
  extract_lets +onlyGivenNames v0
  clear_value v0
  exact setHub_kept _ _ _ h0

theorem tenLeaf_kept{b : State} : ∀ x0 x1 x2 x3, Kept b x0 → Kept b (tenLeaf x0 x1 x2 x3) := by
  intro x0 x1 x2 x3 h0
  unfold tenLeaf
  exact setRbit_kept _ _ _ _ h0

theorem ringError_kept{b : State} : ∀ x0 x1 x2 x3, Kept b x0 → Kept b (ringError x0 x1 x2 x3) := by
  intro x0 x1 x2 x3 h0
  unfold ringError
  extract_lets +onlyGivenNames v0
  clear_value v0
  refine kept_ite ?_ ?_
  · exact h0
  · extract_lets +onlyGivenNames v1
    have p2 : Kept b v1 := by
      unfold v1
      exact setRing_kept _ _ _ _ h0
    clear_value v1
    extract_lets +onlyGivenNames v3
    have p4 : Kept b v3 := by
      unfold v3
      exact tenLeaf_kept _ _ _ _ p2
    clear_value v3
    exact emit_kept _ _ _ _ p4

theorem bellTail_kept{b : State} : ∀ x0 x1 x2 x3, Kept b x0 → Kept b (bellTail x0 x1 x2 x3) := by
  intro x0 x1 x2 x3 h0
  unfold bellTail
  extract_lets +onlyGivenNames v0
  clear_value v0
  exact kept_ite h0 (kept_ite (setRing_kept _ _ _ _ h0) (ringError_kept _ _ _ _ h0))

theorem bellHead_kept{b : State} : ∀ x0 x1 x2 x3, Kept b x0 → Kept b (bellHead x0 x1 x2 x3).2 := by
  intro x0 x1 x2 x3 h0
  unfold bellHead
  extract_lets +onlyGivenNames v0
  clear_value v0
  refine kept_ite_2 ?_ ?_
  · exact h0
  · refine kept_ite_2 ?_ ?_
    · dsimp only
      exact setRing_kept _ _ _ _ h0
    · dsimp only
      exact ringError_kept _ _ _ _ h0

theorem bellWrite_kept{b : State} : ∀ x0 x1 x2 x3 x4 x5, Kept b x0 → Kept b (bellWrite x0 x1 x2 x3 x4 x5).2 := by
  intro x0 x1 x2 x3 x4 x5 h0
  unfold bellWrite
  extract_lets +onlyGivenNames v0
  clear_value v0
  extract_lets +onlyGivenNames v1
  have p2 : Kept b v1.2 := by
    unfold v1
    dsimp only
    exact tenLeaf_kept _ _ _ _ h0
  clear_value v1
  refine kept_ite_2 ?_ ?_
  · exact p2
  · refine kept_ite_2 ?_ ?_
    · refine kept_ite_2 ?_ ?_
      · dsimp only
        exact bellTail_kept _ _ _ _ h0
      · exact p2
    · refine kept_ite_2 ?_ ?_
      · exact kept_ite_2 (bellHead_kept _ _ _ _ h0) p2
      · refine kept_ite_2 ?_ ?_
        · refine kept_ite_2 ?_ ?_
          · dsimp only
            exact bellTail_kept _ _ _ _ h0
          · exact p2
        · exact p2

theorem mapThreads_kept{b : State} : ∀ x0 x1, Kept b x0 → Kept b (mapThreads x0 x1) := by
  intro x0 x1 h0
  unfold mapThreads
  exact kept_mk (kept_eta h0)

theorem stepLeaf_kept{b : State} : ∀ x0 x1, Kept b x1 → Kept b (stepLeaf x0 x1) := by
  intro x0 x1 h1
  unfold stepLeaf
  exact kept_ite (leaf_kept _ _ _ h1) h1

theorem stopLaunch_kept{b : State} : ∀ x0 x1 x2, Kept b x0 → Kept b (stopLaunch x0 x1 x2) := by
  intro x0 x1 x2 h0
  unfold stopLaunch
  exact kept_mk (kept_eta h0)

theorem takeTrap_kept{b : State} : ∀ x0 x1 x2 x3, Kept b x0 → Kept b (takeTrap x0 x1 x2 x3) := by
  intro x0 x1 x2 x3 h0
  unfold takeTrap
  extract_lets +onlyGivenNames v0
  clear_value v0
  extract_lets +onlyGivenNames v1
  clear_value v1
  extract_lets +onlyGivenNames v2
  have p3 : Kept b v2 := by
    unfold v2
    exact putThread_kept _ _ _ h0
  clear_value v2
  split
  · exact p3
  · extract_lets +onlyGivenNames v9
    have p10 : Kept b v9 := by
      unfold v9
      exact emitEv_kept _ _ p3
    clear_value v9
    extract_lets +onlyGivenNames v11
    have p12 : Kept b v11 := by
      unfold v11
      exact leaf_kept _ _ _ p10
    clear_value v11
    extract_lets +onlyGivenNames v13
    clear_value v13
    extract_lets +onlyGivenNames v14
    have p15 : Kept b v14 := by
      unfold v14
      split
      · exact setHub_kept _ _ _ p12
      · exact p12
    clear_value v14
    exact stopLaunch_kept _ _ _ p15

theorem bumpLocal_kept{b : State} : ∀ x0 x1 x2, Kept b x0 → Kept b (bumpLocal x0 x1 x2) := by
  intro x0 x1 x2 h0
  unfold bumpLocal
  extract_lets +onlyGivenNames v0
  clear_value v0
  exact setCore_kept _ _ _ h0

theorem wakeArr_kept{b : State} : ∀ x0 x1 x2 x3, Kept b x0 → Kept b (wakeArr x0 x1 x2 x3) := by
  intro x0 x1 x2 x3 h0
  unfold wakeArr
  exact mapThreads_kept _ _ h0

theorem ueCover_kept {b s s' : State} {k m : Nat} (e : ueCover s k m = some s') (h : Kept b s) : Kept b s' := by
  unfold ueCover at e
  split at e
  · cases e
  · cases e; exact h

theorem memPut_kept{b : State} : ∀ x0 x1 x2, Kept b x0 → Kept b (memPut x0 x1 x2) := by
  intro x0 x1 x2 h0
  unfold memPut
  extract_lets +onlyGivenNames v0
  have p1 : Kept b v0 := by
    unfold v0
    exact kept_mk (keptF_bput _ _ (kept_eta h0))
  clear_value v0
  exact kept_ite (kept_mk (kept_eta p1)) p1

theorem memWriteMask_kept{b : State} : ∀ x0 x1 x2 x3 x4, Kept b x0 → Kept b (memWriteMask x0 x1 x2 x3 x4) := by
  intro x0 x1 x2 x3 x4
  induction x2 generalizing x0 x1 x3 x4 with
  | zero =>
    intro h0
    unfold memWriteMask
    exact h0
  | succ n ih =>
    intro h0
    unfold memWriteMask
    extract_lets +onlyGivenNames v0
    have p1 : Kept b v0 := by
      unfold v0
      exact kept_ite (memPut_kept _ _ _ h0) h0
    clear_value v0
    exact ih _ _ _ _ p1

theorem segApply_kept{b : State} : ∀ x0 x1 x2, Kept b x0 → Kept b (segApply x0 x1 x2) := by
  intro x0 x1 x2 h0
  unfold segApply
  extract_lets +onlyGivenNames v0
  clear_value v0
  split
  · exact h0
  · extract_lets +onlyGivenNames v6
    clear_value v6
    extract_lets +onlyGivenNames v7
    clear_value v7
    extract_lets +onlyGivenNames v8
    clear_value v8
    extract_lets +onlyGivenNames v9
    have p10 : Kept b v9 := by
      unfold v9
      exact setReg_kept _ _ _ (setHub_kept _ _ _ h0)
    clear_value v9
    exact kept_mk (keptF_free _ (kept_eta p10))

theorem segSettle_kept{b : State} : ∀ x0 x1, Kept b x0 → Kept b (segSettle x0 x1) := by
  intro x0 x1 h0
  unfold segSettle
  exact kept_ite (segApply_kept _ _ _ h0) h0

theorem denyRecord_kept{b : State} : ∀ x0 x1 x2 x3 x4 x5, Kept b x0 → Kept b (denyRecord x0 x1 x2 x3 x4 x5) := by
  intro x0 x1 x2 x3 x4 x5 h0
  unfold denyRecord
  extract_lets +onlyGivenNames v0
  clear_value v0
  split
  · exact setHub_kept _ _ _ h0
  · exact leaf_kept _ _ _ (setHub_kept _ _ _ h0)

theorem windowDeny_kept{b : State} : ∀ x0 x1 x2 x3 x4, Kept b x0 → Kept b (windowDeny x0 x1 x2 x3 x4) := by
  intro x0 x1 x2 x3 x4 h0
  unfold windowDeny
  exact denyRecord_kept _ _ _ _ _ _ h0

theorem denyEvents_kept{b : State} : ∀ x0 x1 x2 x3, Kept b x0 → Kept b (denyEvents x0 x1 x2 x3) := by
  intro x0 x1 x2 x3 h0
  unfold denyEvents
  split
  · exact kept_ite h0 (denyRecord_kept _ _ _ _ _ _ h0)
  · exact kept_ite h0 (denyRecord_kept _ _ _ _ _ _ h0)
  · exact emit_kept _ _ _ _ h0
  · exact h0

theorem checkLine_kept{b : State} : ∀ x0 x1 x2 x3, Kept b x0 → Kept b (checkLine x0 x1 x2 x3).2.2 := by
  intro x0 x1 x2 x3 h0
  unfold checkLine
  extract_lets +onlyGivenNames v0
  clear_value v0
  exact kept_ite (denyEvents_kept _ _ _ _ h0) (kept_ite (pathLost_kept _ _ _ _ h0) h0)

theorem noteDegraded_kept{b : State} : ∀ x0 x1 x2, Kept b x0 → Kept b (noteDegraded x0 x1 x2) := by
  intro x0 x1 x2 h0
  unfold noteDegraded
  split
  · extract_lets +onlyGivenNames v5
    clear_value v5
    split
    · exact setHub_kept _ _ _ h0
    · exact h0
  · exact h0

theorem remoteStatus_kept{b : State} : ∀ x0, Kept b x0 → Kept b (remoteStatus x0).2 := by
  intro x0 h0
  unfold remoteStatus
  exact kept_mk (keptF_free _ (kept_eta h0))

theorem stackCount_kept{b : State} : ∀ x0 x1 x2 x3 x4, Kept b x0 → Kept b (stackCount x0 x1 x2 x3 x4) := by
  intro x0 x1 x2 x3 x4 h0
  unfold stackCount
  refine kept_ite ?_ ?_
  · extract_lets +onlyGivenNames v0
    clear_value v0
    extract_lets +onlyGivenNames v1
    clear_value v1
    exact setStack_kept _ _ _ h0
  · exact h0

theorem setArr_kept{b : State} : ∀ x0 x1 x2 x3, Kept b x0 → Kept b (setArr x0 x1 x2 x3) := by
  intro x0 x1 x2 x3 h0
  unfold setArr
  extract_lets +onlyGivenNames v0
  clear_value v0
  exact wakeArr_kept _ _ _ _ (setHub_kept _ _ _ h0)

theorem counterLoad_kept{b : State} : ∀ x0 x1 x2 x3, Kept b x0 → Kept b (counterLoad x0 x1 x2 x3).2.2.2 := by
  intro x0 x1 x2 x3 h0
  unfold counterLoad
  split
  rename_i z4
  split
  · exact kept_ite_2_2_2 (kept_of_eq_2_2 z4 (checkLine_kept _ _ _ _ h0)) (kept_of_eq_2_2 z4 (checkLine_kept _ _ _ _ h0))
  · exact kept_of_eq_2_2 z4 (checkLine_kept _ _ _ _ h0)
  · exact kept_of_eq_2_2 z4 (checkLine_kept _ _ _ _ h0)

theorem counterStore_kept{b : State} : ∀ x0 x1 x2 x3 x4, Kept b x0 → Kept b (counterStore x0 x1 x2 x3 x4).2.2 := by
  intro x0 x1 x2 x3 x4 h0
  unfold counterStore
  split
  rename_i z4
  split
  · refine kept_ite_2_2 ?_ ?_
    · dsimp only
      exact setArr_kept _ _ _ _ (kept_of_eq_2_2 z4 (checkLine_kept _ _ _ _ h0))
    · exact kept_of_eq_2_2 z4 (checkLine_kept _ _ _ _ h0)
  · exact kept_of_eq_2_2 z4 (checkLine_kept _ _ _ _ h0)
  · exact kept_of_eq_2_2 z4 (checkLine_kept _ _ _ _ h0)

theorem lineReadN_kept{b : State} : ∀ x0 x1 x2 x3 x4, Kept b x0 → Kept b (lineReadN x0 x1 x2 x3 x4).2.2.2 := by
  intro x0 x1 x2 x3 x4 h0
  unfold lineReadN
  extract_lets +onlyGivenNames v0
  have p1 : Kept b v0 := by
    unfold v0
    exact segSettle_kept _ _ h0
  clear_value v0
  split
  · split
    rename_i z11
    exact kept_of_eq_2_2_2 z11 (counterLoad_kept _ _ _ _ p1)
  · split
    rename_i z18
    refine kept_ite_2_2_2 ?_ ?_
    · exact kept_of_eq_2_2 z18 (checkLine_kept _ _ _ _ p1)
    · split
      · extract_lets +onlyGivenNames v23
        clear_value v23
        refine kept_ite_2_2_2 ?_ ?_
        · exact kept_of_eq_2_2 z18 (checkLine_kept _ _ _ _ p1)
        · dsimp only
          exact stackCount_kept _ _ _ _ _ (kept_of_eq_2_2 z18 (checkLine_kept _ _ _ _ p1))
      · refine kept_ite_2_2_2 ?_ ?_
        · exact kept_of_eq_2_2 z18 (checkLine_kept _ _ _ _ p1)
        · dsimp only
          exact windowDeny_kept _ _ _ _ _ (kept_of_eq_2_2 z18 (checkLine_kept _ _ _ _ p1))
      · split
        rename_i z34
        exact kept_of_eq_2 z34 (remoteStatus_kept _ (kept_of_eq_2_2 z18 (checkLine_kept _ _ _ _ p1)))
      · exact kept_of_eq_2_2 z18 (checkLine_kept _ _ _ _ p1)

theorem lineRead_kept{b : State} : ∀ x0 x1 x2, Kept b x0 → Kept b (lineRead x0 x1 x2).2.2.2 := by
  intro x0 x1 x2 h0
  unfold lineRead
  exact lineReadN_kept _ _ _ _ _ h0

theorem lineWrite_kept{b : State} : ∀ x0 x1 x2 x3 x4, Kept b x0 → Kept b (lineWrite x0 x1 x2 x3 x4).2.2 := by
  intro x0 x1 x2 x3 x4 h0
  unfold lineWrite
  extract_lets +onlyGivenNames v0
  have p1 : Kept b v0 := by
    unfold v0
    exact segSettle_kept _ _ h0
  clear_value v0
  extract_lets +onlyGivenNames v2
  clear_value v2
  split
  · exact counterStore_kept _ _ _ _ _ p1
  · split
    rename_i z13
    refine kept_ite_2_2 ?_ ?_
    · exact kept_of_eq_2_2 z13 (checkLine_kept _ _ _ _ p1)
    · split
      · extract_lets +onlyGivenNames v18
        clear_value v18
        split
        · exact kept_of_eq_2_2 z13 (checkLine_kept _ _ _ _ p1)
        · rename_i z23
          dsimp only
          exact stackCount_kept _ _ _ _ _ (memWriteMask_kept _ _ _ _ _ (ueCover_kept z23 (kept_of_eq_2_2 z13 (checkLine_kept _ _ _ _ p1))))
      · refine kept_ite_2_2 ?_ ?_
        · exact bellWrite_kept _ _ _ _ _ _ (kept_of_eq_2_2 z13 (checkLine_kept _ _ _ _ p1))
        · dsimp only
          exact windowDeny_kept _ _ _ _ _ (kept_of_eq_2_2 z13 (checkLine_kept _ _ _ _ p1))
      · split
        rename_i z34
        exact kept_of_eq_2 z34 (remoteStatus_kept _ (kept_of_eq_2_2 z13 (checkLine_kept _ _ _ _ p1)))
      · exact kept_of_eq_2_2 z13 (checkLine_kept _ _ _ _ p1)

theorem atomicAt_kept{b : State} : ∀ x0 x1 x2 x3 x4 x5, Kept b x0 → Kept b (atomicAt x0 x1 x2 x3 x4 x5).2.2.2 := by
  intro x0 x1 x2 x3 x4 x5 h0
  unfold atomicAt
  extract_lets +onlyGivenNames v0
  have p1 : Kept b v0 := by
    unfold v0
    exact segSettle_kept _ _ h0
  clear_value v0
  split
  rename_i z6
  refine kept_ite_2_2_2 ?_ ?_
  · exact kept_of_eq_2_2 z6 (checkLine_kept _ _ _ _ p1)
  · split
    · extract_lets +onlyGivenNames v11
      clear_value v11
      extract_lets +onlyGivenNames v12
      clear_value v12
      extract_lets +onlyGivenNames v13
      clear_value v13
      refine kept_ite_2_2_2 ?_ ?_
      · exact kept_of_eq_2_2 z6 (checkLine_kept _ _ _ _ p1)
      · extract_lets +onlyGivenNames v14
        clear_value v14
        dsimp only
        exact stackCount_kept _ _ _ _ _ (memWriteMask_kept _ _ _ _ _ (kept_of_eq_2_2 z6 (checkLine_kept _ _ _ _ p1)))
    · refine kept_ite_2_2_2 ?_ ?_
      · extract_lets +onlyGivenNames v19
        clear_value v19
        dsimp only
        exact setArr_kept _ _ _ _ (kept_of_eq_2_2 z6 (checkLine_kept _ _ _ _ p1))
      · exact kept_of_eq_2_2 z6 (checkLine_kept _ _ _ _ p1)
    · dsimp only
      exact windowDeny_kept _ _ _ _ _ (kept_of_eq_2_2 z6 (checkLine_kept _ _ _ _ p1))
    · split
      rename_i z30
      exact kept_of_eq_2 z30 (remoteStatus_kept _ (kept_of_eq_2_2 z6 (checkLine_kept _ _ _ _ p1)))
    · exact kept_of_eq_2_2 z6 (checkLine_kept _ _ _ _ p1)

theorem capChange_kept{b : State} : ∀ x0 x1 x2, Kept b x0 → Kept b (capChange x0 x1 x2) := by
  intro x0 x1 x2 h0
  unfold capChange
  extract_lets +onlyGivenNames v0
  have p1 : Kept b v0 := by
    unfold v0
    exact kept_foldl (fun f2 i2 p2 => setReg_kept _ _ _ p2) _ h0
  clear_value v0
  exact setRfld_kept _ _ _ _ _ p1

theorem capSpares_kept{b : State} : ∀ x0 x1, Kept b x0 → Kept b (capSpares x0 x1) := by
  intro x0 x1 h0
  unfold capSpares
  exact capChange_kept _ _ _ h0

theorem setRole_kept{b : State} : ∀ x0 x1 x2 x3 x4 x5, Kept b x0 → Kept b (setRole x0 x1 x2 x3 x4 x5) := by
  intro x0 x1 x2 x3 x4 x5 h0
  unfold setRole
  exact setRfld_kept _ _ _ _ _ h0

theorem health_kept{b : State} : ∀ x0, Kept b x0 → Kept b (health x0) := by
  intro x0 h0
  unfold health
  refine kept_ite ?_ ?_
  · exact h0
  · extract_lets +onlyGivenNames v0
    clear_value v0
    extract_lets +onlyGivenNames v1
    clear_value v1
    extract_lets +onlyGivenNames v2
    clear_value v2
    extract_lets +onlyGivenNames v3
    have p4 : Kept b v3 := by
      unfold v3
      exact kept_ite h0 (leaf_kept _ _ _ (setReg_kept _ _ _ (setReg_kept _ _ _ h0)))
    clear_value v3
    extract_lets +onlyGivenNames v5
    clear_value v5
    extract_lets +onlyGivenNames v6
    clear_value v6
    extract_lets +onlyGivenNames v7
    have p8 : Kept b v7 := by
      unfold v7
      exact setReg_kept _ _ _ p4
    clear_value v7
    extract_lets +onlyGivenNames v9
    clear_value v9
    exact kept_ite p8 (emit_kept _ _ _ _ (kept_foldl (fun f10 i10 p10 => leaf_kept _ _ _ p10) _ p8))

theorem fenceChannel_kept{b : State} : ∀ x0 x1 x2 x3 x4, Kept b x0 → Kept b (fenceChannel x0 x1 x2 x3 x4) := by
  intro x0 x1 x2 x3 x4 h0
  unfold fenceChannel
  extract_lets +onlyGivenNames v0
  have p1 : Kept b v0 := by
    unfold v0
    exact setRbit_kept _ _ _ _ (setRbit_kept _ _ _ _ h0)
  clear_value v0
  extract_lets +onlyGivenNames v2
  clear_value v2
  extract_lets +onlyGivenNames v3
  have p4 : Kept b v3 := by
    unfold v3
    exact capChange_kept _ _ _ p1
  clear_value v3
  extract_lets +onlyGivenNames v5
  have p6 : Kept b v5 := by
    unfold v5
    exact kept_mk (kept_eta p4)
  clear_value v5
  exact health_kept _ (leaf_kept _ _ _ (emit_kept _ _ _ _ p6))

theorem foundCe_kept{b : State} : ∀ x0 x1 x2, Kept b x0 → Kept b (foundCe x0 x1 x2) := by
  intro x0 x1 x2 h0
  unfold foundCe
  split
  · extract_lets +onlyGivenNames v3
    clear_value v3
    exact setStack_kept _ _ _ h0
  · extract_lets +onlyGivenNames v6
    clear_value v6
    exact kept_mk (kept_eta h0)

theorem foundUe_kept{b : State} : ∀ x0 x1 x2, Kept b x0 → Kept b (foundUe x0 x1 x2) := by
  intro x0 x1 x2 h0
  unfold foundUe
  extract_lets +onlyGivenNames v0
  clear_value v0
  extract_lets +onlyGivenNames v1
  clear_value v1
  extract_lets +onlyGivenNames v2
  have p3 : Kept b v2 := by
    unfold v2
    exact kept_mk (kept_eta h0)
  clear_value v2
  extract_lets +onlyGivenNames v4
  clear_value v4
  extract_lets +onlyGivenNames v5
  clear_value v5
  extract_lets +onlyGivenNames v6
  have p7 : Kept b v6 := by
    unfold v6
    exact leaf_kept _ _ _ (emit_kept _ _ _ _ p3)
  clear_value v6
  refine kept_ite ?_ ?_
  · extract_lets +onlyGivenNames v8
    clear_value v8
    extract_lets +onlyGivenNames v9
    clear_value v9
    exact setStack_kept _ _ _ p7
  · split
    · exact p7
    · extract_lets +onlyGivenNames v16
      clear_value v16
      extract_lets +onlyGivenNames v17
      clear_value v17
      extract_lets +onlyGivenNames v18
      have p19 : Kept b v18 := by
        unfold v18
        exact kept_mk (kept_eta p7)
      clear_value v18
      exact kept_ite (fenceChannel_kept _ _ _ _ _ p19) p19

theorem setEng_kept{b : State} : ∀ x0 x1 x2, Kept b x0 → Kept b (setEng x0 x1 x2) := by
  intro x0 x1 x2 h0
  unfold setEng
  exact kept_mk (kept_eta h0)

theorem setLinkState_kept{b : State} : ∀ x0 x1 x2, Kept b x0 → Kept b (setLinkState x0 x1 x2) := by
  intro x0 x1 x2 h0
  unfold setLinkState
  exact setRbit_kept _ _ _ _ (setRfld_kept _ _ _ _ _ h0)

theorem onDir_kept{b : State} : ∀ x0 x1 x2 x3, Kept b x0 → Kept b (onDir x0 x1 x2 x3) := by
  intro x0 x1 x2 x3 h0
  unfold onDir
  extract_lets +onlyGivenNames v0
  clear_value v0
  exact setEng_kept _ _ _ h0

theorem putRole_kept{b : State} : ∀ x0 x1 x2 x3 x4, Kept b x0 → Kept b (putRole x0 x1 x2 x3 x4) := by
  intro x0 x1 x2 x3 x4 h0
  unfold putRole
  exact setRole_kept _ _ _ _ _ _ h0

theorem refreshEng_kept{b : State} : ∀ x0 x1, Kept b x0 → Kept b (refreshEng x0 x1) := by
  intro x0 x1 h0
  unfold refreshEng
  extract_lets +onlyGivenNames v0
  clear_value v0
  extract_lets +onlyGivenNames v1
  clear_value v1
  extract_lets +onlyGivenNames v2
  have p3 : Kept b v2 := by
    unfold v2
    exact setRfld_kept _ _ _ _ _ h0
  clear_value v2
  extract_lets +onlyGivenNames v4
  have p5 : Kept b v4 := by
    unfold v4
    exact setRfld_kept _ _ _ _ _ p3
  clear_value v4
  extract_lets +onlyGivenNames v6
  have p7 : Kept b v6 := by
    unfold v6
    exact setRfld_kept _ _ _ _ _ p5
  clear_value v6
  extract_lets +onlyGivenNames v8
  have p9 : Kept b v8 := by
    unfold v8
    exact setRfld_kept _ _ _ _ _ p7
  clear_value v8
  exact health_kept _ (setRbit_kept _ _ _ _ (setRbit_kept _ _ _ _ p9))

theorem mlxCount_kept{b : State} : ∀ x0 x1 x2 x3, Kept b x0 → Kept b (mlxCount x0 x1 x2 x3) := by
  intro x0 x1 x2 x3 h0
  unfold mlxCount
  extract_lets +onlyGivenNames v0
  clear_value v0
  exact setReg_kept _ _ _ h0

theorem setOpt_kept{b : State} : ∀ x0 x1 x2, Kept b x0 → Kept b (setOpt x0 x1 x2) := by
  intro x0 x1 x2 h0
  unfold setOpt
  exact kept_mk (kept_eta h0)

theorem onLine_kept{b : State} : ∀ x0 x1 x2, Kept b x0 → Kept b (onLine x0 x1 x2) := by
  intro x0 x1 x2 h0
  unfold onLine
  exact setEng_kept _ _ _ h0

theorem sendCtl_kept{b : State} : ∀ x0 x1 x2, Kept b x0 → Kept b (sendCtl x0 x1 x2) := by
  intro x0 x1 x2 h0
  unfold sendCtl
  exact kept_ite (onLine_kept _ _ _ h0) h0

theorem introduce_kept{b : State} : ∀ x0 x1, Kept b x0 → Kept b (introduce x0 x1) := by
  intro x0 x1 h0
  unfold introduce
  exact sendCtl_kept _ _ _ h0

theorem mapChanged_kept{b : State} : ∀ x0 x1, Kept b x0 → Kept b (mapChanged x0 x1) := by
  intro x0 x1 h0
  unfold mapChanged
  extract_lets +onlyGivenNames v0
  have p1 : Kept b v0 := by
    unfold v0
    exact onDir_kept _ _ _ _ h0
  clear_value v0
  exact kept_ite (sendCtl_kept _ _ _ p1) p1

theorem engPump_kept{b : State} : ∀ x0 x1 x2, Kept b x0 → Kept b (engPump x0 x1 x2) := by
  intro x0 x1 x2
  induction x2 generalizing x0 x1 with
  | zero =>
    intro h0
    unfold engPump
    exact h0
  | succ n ih =>
    intro h0
    unfold engPump
    extract_lets +onlyGivenNames v0
    clear_value v0
    split
    · exact h0
    · extract_lets +onlyGivenNames v6
      clear_value v6
      extract_lets +onlyGivenNames v7
      clear_value v7
      exact ih _ _ (setEng_kept _ _ _ h0)

theorem engSend_kept{b : State} : ∀ x0 x1, Kept b x0 → Kept b (engSend x0 x1) := by
  intro x0 x1 h0
  unfold engSend
  exact engPump_kept _ _ _ h0

theorem resend_kept{b : State} : ∀ x0 x1, Kept b x0 → Kept b (resend x0 x1) := by
  intro x0 x1 h0
  unfold resend
  exact onLine_kept _ _ _ h0

theorem lineTick_kept{b : State} : ∀ x0 x1, Kept b x0 → Kept b (lineTick x0 x1) := by
  intro x0 x1 h0
  unfold lineTick
  exact kept_ite h0 (onLine_kept _ _ _ h0)

theorem setConn_kept{b : State} : ∀ x0 x1 x2 x3, Kept b x0 → Kept b (setConn x0 x1 x2 x3) := by
  intro x0 x1 x2 x3 h0
  unfold setConn
  exact kept_mk (kept_eta h0)

theorem gpCount_kept{b : State} : ∀ x0 x1 x2 x3, Kept b x0 → Kept b (gpCount x0 x1 x2 x3) := by
  intro x0 x1 x2 x3 h0
  unfold gpCount
  exact setReg_kept _ _ _ h0

theorem gpFrame_kept{b : State} : ∀ x0 x1 x2 x3 x4 x5 x6, Kept b x0 → Kept b (gpFrame x0 x1 x2 x3 x4 x5 x6) := by
  intro x0 x1 x2 x3 x4 x5 x6 h0
  unfold gpFrame
  extract_lets +onlyGivenNames v0
  clear_value v0
  exact gpCount_kept _ _ _ _ (setConn_kept _ _ _ _ h0)

theorem gpSignal_kept{b : State} : ∀ x0 x1 x2 x3, Kept b x0 → Kept b (gpSignal x0 x1 x2 x3) := by
  intro x0 x1 x2 x3 h0
  unfold gpSignal
  exact gpFrame_kept _ _ _ _ _ _ _ h0

theorem gpPump_kept{b : State} : ∀ x0 x1 x2 x3, Kept b x0 → Kept b (gpPump x0 x1 x2 x3) := by
  intro x0 x1 x2 x3
  induction x3 generalizing x0 x1 x2 with
  | zero =>
    intro h0
    unfold gpPump
    exact h0
  | succ n ih =>
    intro h0
    unfold gpPump
    extract_lets +onlyGivenNames v0
    clear_value v0
    split
    · exact h0
    · refine kept_ite ?_ ?_
      · exact h0
      · extract_lets +onlyGivenNames v6
        clear_value v6
        extract_lets +onlyGivenNames v7
        clear_value v7
        extract_lets +onlyGivenNames v8
        clear_value v8
        extract_lets +onlyGivenNames v9
        clear_value v9
        extract_lets +onlyGivenNames v10
        have p11 : Kept b v10 := by
          unfold v10
          exact setConn_kept _ _ _ _ h0
        clear_value v10
        extract_lets +onlyGivenNames v12
        have p13 : Kept b v12 := by
          unfold v12
          exact gpFrame_kept _ _ _ _ _ _ _ p11
        clear_value v12
        exact ih _ _ _ (setRfld_kept _ _ _ _ _ p13)

theorem gpResend_kept{b : State} : ∀ x0 x1 x2, Kept b x0 → Kept b (gpResend x0 x1 x2) := by
  intro x0 x1 x2 h0
  unfold gpResend
  extract_lets +onlyGivenNames v0
  clear_value v0
  extract_lets +onlyGivenNames v1
  clear_value v1
  exact gpCount_kept _ _ _ _ (kept_foldl (fun f2 i2 p2 => gpFrame_kept _ _ _ _ _ _ _ p2) _ h0)

theorem gpSend_kept{b : State} : ∀ x0 x1 x2, Kept b x0 → Kept b (gpSend x0 x1 x2) := by
  intro x0 x1 x2 h0
  unfold gpSend
  exact gpPump_kept _ _ _ _ h0

theorem renewLease_kept{b : State} : ∀ x0, Kept b x0 → Kept b (renewLease x0) := by
  intro x0 h0
  unfold renewLease
  exact setRbit_kept _ _ _ _ (kept_mk (kept_eta h0))

theorem noteUnreach_kept{b : State} : ∀ x0 x1 x2 x3 x4, Kept b x0 → Kept b (noteUnreach x0 x1 x2 x3 x4) := by
  intro x0 x1 x2 x3 x4 h0
  unfold noteUnreach
  exact kept_ite h0 (emit_kept _ _ _ _ (kept_mk (kept_eta h0)))

theorem adminWrite_kept{b : State} : ∀ x0 x1 x2 x3, Kept b x0 → (∀ y0, Kept b y0 → Kept b (x3 y0)) → Kept b (adminWrite x0 x1 x2 x3) := by
  intro x0 x1 x2 x3 h0 h3
  unfold adminWrite
  refine kept_ite ?_ ?_
  · exact h0
  · refine kept_ite ?_ ?_
    · exact writeRefused_kept _ _ _ h0
    · extract_lets +onlyGivenNames v0
      have p1 : Kept b v0 := by
        unfold v0
        exact renewLease_kept _ h0
      clear_value v0
      split
      · exact h3 _ p1
      · exact writeRefused_kept _ _ _ p1
      · exact p1
      · split
        · exact noteUnreach_kept _ _ _ _ _ p1
        · exact p1

theorem writeReg_kept{b : State} : ∀ x0 x1 x2, Kept b x0 → Kept b (writeReg x0 x1 x2) := by
  intro x0 x1 x2 h0
  unfold writeReg
  split
  · exact setReg_kept _ _ _ h0
  · exact h0

theorem adminCmd_kept{b : State} : ∀ x0 x1 x2 x3, Kept b x0 → (∀ y0, Kept b y0 → Kept b (x3 y0)) → KeptO b (adminCmd x0 x1 x2 x3) := by
  intro x0 x1 x2 x3 h0 h3
  unfold adminCmd
  exact guardWf_kept _ _ (keptO_next (adminWrite_kept _ _ _ _ h0 (fun y0 k1 => h3 _ k1)))

theorem hubFind_kept {b s s' : State} {p t v : Nat} {e : Tlb} (h' : hubFind s p t v = some (e, s')) (h : Kept b s) : Kept b s' := by
  unfold hubFind at h'
  extract_lets hh try1 at h'
  have h1 : ∀ i r, try1 i = some r → Kept b r.2 := by
    intro i r e
    simp only [try1, Option.map_eq_some_iff] at e
    obtain ⟨t, -, rfl⟩ := e
    exact setHub_kept _ _ _ h
  split at h'
  · cases h'; exact h1 _ _ ‹_›
  · exact h1 _ _ h'

theorem readWord_kept{b : State} : ∀ x0 x1 x2, Kept b x0 → Kept b (readWord x0 x1 x2).2.2 := by
  intro x0 x1 x2 h0
  unfold readWord
  split
  rename_i z5
  dsimp only
  exact noteDegraded_kept _ _ _ (kept_of_eq_2_2_2 z5 (lineReadN_kept _ _ _ _ _ h0))

theorem walk_kept{b : State} : ∀ x0 x1 x2, Kept b x0 → Kept b (walk x0 x1 x2).2.2 := by
  intro x0 x1 x2 h0
  unfold walk
  extract_lets +onlyGivenNames v0
  clear_value v0
  refine kept_ite_2_2 ?_ ?_
  · exact h0
  · split
    · rename_i z4
      refine kept_ite_2_2 ?_ ?_
      · exact kept_of_eq_2_2 z4 (readWord_kept _ _ _ h0)
      · refine kept_ite_2_2 ?_ ?_
        · split
          · exact kept_of_eq_2_2 z4 (readWord_kept _ _ _ h0)
          · exact kept_of_eq_2_2 z4 (readWord_kept _ _ _ h0)
        · refine kept_ite_2_2 ?_ ?_
          · exact kept_of_eq_2_2 z4 (readWord_kept _ _ _ h0)
          · split
            · rename_i z13
              refine kept_ite_2_2 ?_ ?_
              · exact kept_of_eq_2_2 z13 (readWord_kept _ _ _ (kept_of_eq_2_2 z4 (readWord_kept _ _ _ h0)))
              · split
                · exact kept_of_eq_2_2 z13 (readWord_kept _ _ _ (kept_of_eq_2_2 z4 (readWord_kept _ _ _ h0)))
                · exact kept_of_eq_2_2 z13 (readWord_kept _ _ _ (kept_of_eq_2_2 z4 (readWord_kept _ _ _ h0)))
            · rename_i z24
              exact kept_of_eq_2_2 z24 (readWord_kept _ _ _ (kept_of_eq_2_2 z4 (readWord_kept _ _ _ h0)))
    · rename_i z30
      exact kept_of_eq_2_2 z30 (readWord_kept _ _ _ h0)

theorem hubFill_kept{b : State} : ∀ x0 x1 x2, Kept b x0 → Kept b (hubFill x0 x1 x2) := by
  intro x0 x1 x2 h0
  unfold hubFill
  extract_lets +onlyGivenNames v0
  clear_value v0
  extract_lets +onlyGivenNames v1
  clear_value v1
  exact setHub_kept _ _ _ h0

theorem hubLookup_kept{b : State} : ∀ x0 x1 x2, Kept b x0 → Kept b (hubLookup x0 x1 x2).2.2 := by
  intro x0 x1 x2 h0
  unfold hubLookup
  split
  · rename_i z3
    exact hubFind_kept z3 h0
  · split
    · rename_i z9
      dsimp only
      exact hubFill_kept _ _ _ (kept_of_eq_2_2 z9 (walk_kept _ _ _ h0))
    · exact walk_kept _ _ _ h0

theorem clLookup_kept{b : State} : ∀ x0 x1 x2 x3, Kept b x0 → Kept b (clLookup x0 x1 x2 x3).2.2 := by
  intro x0 x1 x2 x3 h0
  unfold clLookup
  extract_lets +onlyGivenNames v0
  clear_value v0
  split
  · dsimp only
    exact setCl_kept _ _ _ h0
  · split
    · rename_i z9
      extract_lets +onlyGivenNames v10
      clear_value v10
      dsimp only
      exact setCl_kept _ _ _ (kept_of_eq_2_2 z9 (hubLookup_kept _ _ _ h0))
    · exact hubLookup_kept _ _ _ h0

theorem finish_kept{b : State} : ∀ x0 x1 x2, Kept b x0.2.2 → Kept b (finish x0 x1 x2).2.2.2 := by
  intro x0 x1 x2 h0
  unfold finish
  split
  · exact kept_ite_2_2_2 h0 h0
  · exact h0
  · exact h0

theorem clTranslate_kept{b : State} : ∀ x0 x1 x2 x3 x4, Kept b x0 → Kept b (clTranslate x0 x1 x2 x3 x4).2.2.2 := by
  intro x0 x1 x2 x3 x4 h0
  unfold clTranslate
  exact kept_ite_2_2_2 h0 (finish_kept _ _ _ (clLookup_kept _ _ _ _ h0))

theorem hubTranslate_kept{b : State} : ∀ x0 x1 x2 x3, Kept b x0 → Kept b (hubTranslate x0 x1 x2 x3).2.2.2 := by
  intro x0 x1 x2 x3 h0
  unfold hubTranslate
  exact kept_ite_2_2_2 h0 (finish_kept _ _ _ (hubLookup_kept _ _ _ h0))

theorem invalidate_kept{b : State} : ∀ x0 x1 x2 x3 x4, Kept b x0 → Kept b (invalidate x0 x1 x2 x3 x4) := by
  intro x0 x1 x2 x3 x4 h0
  unfold invalidate
  extract_lets +onlyGivenNames v0
  clear_value v0
  extract_lets +onlyGivenNames v1
  have p2 : Kept b v1 := by
    unfold v1
    exact setHub_kept _ _ _ h0
  clear_value v1
  exact kept_mk (kept_eta p2)

theorem rdcPut_kept{b : State} : ∀ x0 x1 x2 x3, Kept b x0 → Kept b (rdcPut x0 x1 x2 x3) := by
  intro x0 x1 x2 x3 h0
  unfold rdcPut
  extract_lets +onlyGivenNames v0
  clear_value v0
  exact setHub_kept _ _ _ h0

theorem rdcDrop_kept{b : State} : ∀ x0 x1 x2, Kept b x0 → Kept b (rdcDrop x0 x1 x2) := by
  intro x0 x1 x2 h0
  unfold rdcDrop
  extract_lets +onlyGivenNames v0
  clear_value v0
  extract_lets +onlyGivenNames v1
  clear_value v1
  exact kept_ite (rdcPut_kept _ _ _ _ h0) h0

theorem rdcMap_kept{b : State} : ∀ x0 x1 x2 x3, Kept b x0 → Kept b (rdcMap x0 x1 x2 x3) := by
  intro x0 x1 x2 x3 h0
  unfold rdcMap
  split
  · exact h0
  · extract_lets +onlyGivenNames v5
    clear_value v5
    extract_lets +onlyGivenNames v6
    clear_value v6
    exact rdcPut_kept _ _ _ _ h0

theorem rdcUpset_kept{b : State} : ∀ x0 x1 x2, Kept b x0 → Kept b (rdcUpset x0 x1 x2) := by
  intro x0 x1 x2 h0
  unfold rdcUpset
  exact rdcMap_kept _ _ _ _ h0

theorem bumpReg_kept{b : State} : ∀ x0 x1, Kept b x0 → Kept b (bumpReg x0 x1) := by
  intro x0 x1 h0
  unfold bumpReg
  exact setReg_kept _ _ _ h0

theorem rdcScrub_kept{b : State} : ∀ x0 x1 x2, Kept b x0 → Kept b (rdcScrub x0 x1 x2) := by
  intro x0 x1 x2 h0
  unfold rdcScrub
  split
  · exact kept_ite (rdcDrop_kept _ _ _ h0) h0
  · exact h0

theorem rdcFill_kept{b : State} : ∀ x0 x1 x2 x3 x4 x5, Kept b x0 → Kept b (rdcFill x0 x1 x2 x3 x4 x5) := by
  intro x0 x1 x2 x3 x4 x5 h0
  unfold rdcFill
  extract_lets +onlyGivenNames v0
  clear_value v0
  extract_lets +onlyGivenNames v1
  clear_value v1
  extract_lets +onlyGivenNames v2
  clear_value v2
  extract_lets +onlyGivenNames v3
  clear_value v3
  extract_lets +onlyGivenNames v4
  clear_value v4
  exact rdcPut_kept _ _ _ _ h0

theorem partRead_kept{b : State} : ∀ x0 x1 x2 x3 x4 x5 x6, Kept b x0 → Kept b (partRead x0 x1 x2 x3 x4 x5 x6).2.2.2 := by
  intro x0 x1 x2 x3 x4 x5 x6 h0
  unfold partRead
  extract_lets +onlyGivenNames v0
  have p1 : Kept b v0 := by
    unfold v0
    exact kept_ite (rdcDrop_kept _ _ _ h0) h0
  clear_value v0
  extract_lets +onlyGivenNames v2
  clear_value v2
  refine kept_ite_2_2_2 ?_ ?_
  · exact lineReadN_kept _ _ _ _ _ p1
  · extract_lets +onlyGivenNames v3
    have p4 : Kept b v3 := by
      unfold v3
      exact rdcScrub_kept _ _ _ p1
    clear_value v3
    split
    · extract_lets +onlyGivenNames v8
      clear_value v8
      extract_lets +onlyGivenNames v9
      clear_value v9
      dsimp only
      exact bumpReg_kept _ _ (rdcPut_kept _ _ _ _ p4)
    · extract_lets +onlyGivenNames v12
      have p13 : Kept b v12 := by
        unfold v12
        exact bumpReg_kept _ _ p4
      clear_value v12
      split
      · rename_i z18
        exact kept_ite (kept_of_eq_2_2_2 z18 (lineReadN_kept _ _ _ _ _ p13)) (rdcFill_kept _ _ _ _ _ _ (kept_of_eq_2_2_2 z18 (lineReadN_kept _ _ _ _ _ p13)))
      · exact lineReadN_kept _ _ _ _ _ p13

theorem partWrite_kept{b : State} : ∀ x0 x1 x2 x3 x4, Kept b x0 → Kept b (partWrite x0 x1 x2 x3 x4).2.2 := by
  intro x0 x1 x2 x3 x4 h0
  unfold partWrite
  extract_lets +onlyGivenNames v0
  clear_value v0
  extract_lets +onlyGivenNames v1
  have p2 : Kept b v1 := by
    unfold v1
    exact rdcMap_kept _ _ _ _ h0
  clear_value v1
  exact lineWrite_kept _ _ _ _ _ p2

theorem discardRdc_kept{b : State} : ∀ x0 x1 x2, Kept b x0 → Kept b (discardRdc x0 x1 x2) := by
  intro x0 x1 x2 h0
  unfold discardRdc
  extract_lets +onlyGivenNames v0
  clear_value v0
  exact setHub_kept _ _ _ h0

theorem setPort_kept{b : State} : ∀ x0 x1 x2, Kept b x0 → Kept b (setPort x0 x1 x2) := by
  intro x0 x1 x2 h0
  unfold setPort
  exact kept_mk (kept_eta h0)

theorem busPage_kept{b : State} : ∀ x0 x1 x2 x3, Kept b x0 → Kept b (busPage x0 x1 x2 x3).2 := by
  intro x0 x1 x2 x3 h0
  unfold busPage
  extract_lets +onlyGivenNames v0
  clear_value v0
  refine kept_ite_2 ?_ ?_
  · exact h0
  · split
    · dsimp only
      exact setPort_kept _ _ _ h0
    · extract_lets +onlyGivenNames v6
      clear_value v6
      dsimp only
      exact setPort_kept _ _ _ h0

theorem hostPlace_kept{b : State} : ∀ x0 x1 x2, Kept b x0 → Kept b (hostPlace x0 x1 x2).2.2 := by
  intro x0 x1 x2 h0
  unfold hostPlace
  extract_lets +onlyGivenNames v0
  clear_value v0
  extract_lets +onlyGivenNames v1
  clear_value v1
  refine kept_ite_2_2 ?_ ?_
  · exact h0
  · refine kept_ite_2_2 ?_ ?_
    · exact h0
    · split
      · exact h0
      · exact h0
      · split
        rename_i z11
        split
        · exact kept_of_eq_2 z11 (busPage_kept _ _ _ _ h0)
        · exact kept_of_eq_2 z11 (busPage_kept _ _ _ _ h0)
        · exact kept_of_eq_2 z11 (busPage_kept _ _ _ _ h0)

theorem hostWrite_kept {b : State} : ∀ x0 x1 x2 x3 x4 x5, Kept b x0 → Kept b (hostWrite x0 x1 x2 x3 x4 x5).2 := by
  intro x0 x1 x2 x3 x4 x5 h
  have h1 := hostPlace_kept (b := b) x0 x1 x2 h
  unfold hostWrite
  split
  · rename_i k s e
    rw [e] at h1
    refine keptF_host h1 fun h => memWf_fold _ (fun m a h => ?_) _ h
    split
    · exact memWf_bput h _ _
    · exact h
  · rename_i e
    rw [e] at h1
    exact h1

theorem hostRead_kept{b : State} : ∀ x0 x1 x2 x3, Kept b x0 → Kept b (hostRead x0 x1 x2 x3).2.2 := by
  intro x0 x1 x2 x3 h0
  unfold hostRead
  split
  · rename_i z3
    exact kept_of_eq_2_2 z3 (hostPlace_kept _ _ _ h0)
  · rename_i z9
    exact kept_of_eq_2_2 z9 (hostPlace_kept _ _ _ h0)

theorem hubHostRead_kept{b : State} : ∀ x0 x1 x2 x3, Kept b x0 → Kept b (hubHostRead x0 x1 x2 x3).2.2 := by
  intro x0 x1 x2 x3 h0
  unfold hubHostRead
  unfold viaSaley
  extract_lets +onlyGivenNames v0
  clear_value v0
  refine kept_ite_2_2 ?_ ?_
  · exact hostRead_kept _ _ _ _ (noteDegraded_kept _ _ _ h0)
  · dsimp only
    exact pathLost_kept _ _ _ _ h0

theorem hubHostWrite_kept{b : State} : ∀ x0 x1 x2 x3 x4, Kept b x0 → Kept b (hubHostWrite x0 x1 x2 x3 x4).2 := by
  intro x0 x1 x2 x3 x4 h0
  unfold hubHostWrite
  unfold viaSaley
  extract_lets +onlyGivenNames v0
  clear_value v0
  refine kept_ite_2 ?_ ?_
  · exact hostWrite_kept _ _ _ _ _ _ (noteDegraded_kept _ _ _ h0)
  · dsimp only
    exact pathLost_kept _ _ _ _ h0

theorem tvaRead_kept{b : State} : ∀ x0 x1 x2 x3, Kept b x0 → Kept b (tvaRead x0 x1 x2 x3).2.2 := by
  intro x0 x1 x2 x3 h0
  unfold tvaRead
  split
  · rename_i z4
    split
    rename_i z10
    dsimp only
    exact noteDegraded_kept _ _ _ (kept_of_eq_2_2_2 z10 (lineReadN_kept _ _ _ _ _ (kept_of_eq_2_2_2 z4 (hubTranslate_kept _ _ _ _ h0))))
  · rename_i z17
    exact kept_of_eq_2_2_2 z17 (hubTranslate_kept _ _ _ _ h0)

theorem tvaWrite_kept{b : State} : ∀ x0 x1 x2 x3 x4, Kept b x0 → Kept b (tvaWrite x0 x1 x2 x3 x4).2 := by
  intro x0 x1 x2 x3 x4 h0
  unfold tvaWrite
  split
  · rename_i z4
    split
    rename_i z9
    dsimp only
    exact noteDegraded_kept _ _ _ (kept_of_eq_2_2 z9 (partWrite_kept _ _ _ _ _ (kept_of_eq_2_2_2 z4 (hubTranslate_kept _ _ _ _ h0))))
  · rename_i z16
    exact kept_of_eq_2_2_2 z16 (hubTranslate_kept _ _ _ _ h0)

theorem tvaReadList_kept{b : State} : ∀ x0 x1 x2 x3 x4, Kept b x0 → Kept b (tvaReadList x0 x1 x2 x3 x4).2.2 := by
  intro x0 x1 x2 x3 x4
  induction x2 generalizing x0 x1 x3 x4 with
  | zero =>
    intro h0
    unfold tvaReadList
    exact h0
  | succ n ih =>
    intro h0
    unfold tvaReadList
    refine kept_ite_2_2 ?_ ?_
    · exact h0
    · extract_lets +onlyGivenNames v0
      clear_value v0
      split
      · rename_i z4
        extract_lets +onlyGivenNames v5
        have p6 : Kept b v5.2.2 := by
          unfold v5
          exact ih _ _ _ _ (kept_of_eq_2_2 z4 (tvaRead_kept _ _ _ _ h0))
        clear_value v5
        exact p6
      · rename_i z12
        exact kept_of_eq_2_2 z12 (tvaRead_kept _ _ _ _ h0)

theorem tvaWriteList_kept{b : State} : ∀ x0 x1 x2 x3 x4, Kept b x0 → Kept b (tvaWriteList x0 x1 x2 x3 x4).2 := by
  intro x0 x1 x2 x3 x4
  induction x2 generalizing x0 x1 x3 x4 with
  | zero =>
    intro h0
    unfold tvaWriteList
    exact h0
  | succ n ih =>
    intro h0
    unfold tvaWriteList
    refine kept_ite_2 ?_ ?_
    · exact h0
    · extract_lets +onlyGivenNames v0
      clear_value v0
      split
      · rename_i z3
        exact ih _ _ _ _ (kept_of_eq_2 z3 (tvaWrite_kept _ _ _ _ _ h0))
      · rename_i z8
        exact kept_of_eq_2 z8 (tvaWrite_kept _ _ _ _ _ h0)

theorem kindRead_kept{b : State} : ∀ x0 x1 x2 x3 x4, Kept b x0 → Kept b (kindRead x0 x1 x2 x3 x4).2.2 := by
  intro x0 x1 x2 x3 x4 h0
  unfold kindRead
  exact kept_ite_2_2 (hubHostRead_kept _ _ _ _ h0) (tvaRead_kept _ _ _ _ h0)

theorem kindWrite_kept{b : State} : ∀ x0 x1 x2 x3 x4 x5, Kept b x0 → Kept b (kindWrite x0 x1 x2 x3 x4 x5).2 := by
  intro x0 x1 x2 x3 x4 x5 h0
  unfold kindWrite
  exact kept_ite_2 (hubHostWrite_kept _ _ _ _ _ h0) (tvaWrite_kept _ _ _ _ _ h0)

end Sys2Proof.Machine
end

