-- ==== Sys2Proof/Laws/KeptRings.lean ====
section
/-! SUPPORT. `f_kept` (Laws/Kept.lean) for the functions of rings, the cluster cache and the ends of operations. -/
namespace Sys2Proof.Machine

theorem headWb_kept{b : State} : ∀ x0 x1 x2, Kept b x0 → Kept b (headWb x0 x1 x2) := by
  intro x0 x1 x2 h0
  unfold headWb
  extract_lets +onlyGivenNames v0
  clear_value v0
  refine kept_ite ?_ ?_
  · exact h0
  · split
    rename_i z4
    exact kept_ite (kept_of_eq_2 z4 (kindWrite_kept _ _ _ _ _ _ h0)) (ringError_kept _ _ _ _ (kept_of_eq_2 z4 (kindWrite_kept _ _ _ _ _ _ h0)))

theorem setSqHead_kept{b : State} : ∀ x0 x1 x2 x3, Kept b x0 → Kept b (setSqHead x0 x1 x2 x3) := by
  intro x0 x1 x2 x3 h0
  unfold setSqHead
  extract_lets +onlyGivenNames v0
  clear_value v0
  exact kept_ite h0 (headWb_kept _ _ _ (setRing_kept _ _ _ _ h0))

theorem writeRec_kept{b : State} : ∀ x0 x1 x2 x3, Kept b x0 → Kept b (writeRec x0 x1 x2 x3) := by
  intro x0 x1 x2 x3 h0
  unfold writeRec
  extract_lets +onlyGivenNames v0
  clear_value v0
  extract_lets +onlyGivenNames v1
  clear_value v1
  split
  rename_i z5
  refine kept_ite ?_ ?_
  · exact ringError_kept _ _ _ _ (kept_of_eq_2 z5 (kindWrite_kept _ _ _ _ _ _ h0))
  · extract_lets +onlyGivenNames v6
    clear_value v6
    extract_lets +onlyGivenNames v7
    have p8 : Kept b v7 := by
      unfold v7
      exact setRing_kept _ _ _ _ (kept_of_eq_2 z5 (kindWrite_kept _ _ _ _ _ _ h0))
    clear_value v7
    extract_lets +onlyGivenNames v9
    have p10 : Kept b v9 := by
      unfold v9
      exact kept_ite (tenLeaf_kept _ _ _ _ p8) p8
    clear_value v9
    exact headWb_kept _ _ _ p10

theorem flushRecs_kept{b : State} : ∀ x0 x1 x2 x3, Kept b x0 → Kept b (flushRecs x0 x1 x2 x3) := by
  intro x0 x1 x2 x3
  induction x3 generalizing x0 x1 x2 with
  | zero =>
    intro h0
    unfold flushRecs
    exact h0
  | succ n ih =>
    intro h0
    unfold flushRecs
    extract_lets +onlyGivenNames v0
    clear_value v0
    split
    · exact h0
    · exact kept_ite (ih _ _ _ (writeRec_kept _ _ _ _ (setRing_kept _ _ _ _ h0))) h0

theorem postRec_kept{b : State} : ∀ x0 x1 x2 x3, Kept b x0 → Kept b (postRec x0 x1 x2 x3) := by
  intro x0 x1 x2 x3 h0
  unfold postRec
  extract_lets +onlyGivenNames v0
  clear_value v0
  exact kept_ite h0 (flushRecs_kept _ _ _ _ (setRing_kept _ _ _ _ h0))

theorem bellStore_kept{b : State} : ∀ x0 x1 x2 x3 x4 x5, Kept b x0 → Kept b (bellStore x0 x1 x2 x3 x4 x5) := by
  intro x0 x1 x2 x3 x4 x5 h0
  unfold bellStore
  split
  rename_i z3
  exact kept_ite (flushRecs_kept _ _ _ _ (kept_of_eq_2 z3 (bellWrite_kept _ _ _ _ _ _ h0))) (kept_of_eq_2 z3 (bellWrite_kept _ _ _ _ _ _ h0))

theorem windowStore_kept{b : State} : ∀ x0 x1 x2 x3 x4 x5 x6 x7, Kept b x0 → Kept b (windowStore x0 x1 x2 x3 x4 x5 x6 x7).2 := by
  intro x0 x1 x2 x3 x4 x5 x6 x7 h0
  unfold windowStore
  split
  · rename_i z3
    refine kept_ite_2 ?_ ?_
    · dsimp only
      exact bellStore_kept _ _ _ _ _ _ (noteDegraded_kept _ _ _ (kept_of_eq_2_2 z3 (checkLine_kept _ _ _ _ h0)))
    · dsimp only
      exact windowDeny_kept _ _ _ _ _ (kept_of_eq_2_2 z3 (checkLine_kept _ _ _ _ h0))
  · rename_i z9
    exact kept_of_eq_2_2 z9 (checkLine_kept _ _ _ _ h0)

theorem windowLoad_kept{b : State} : ∀ x0 x1 x2 x3 x4 x5 x6, Kept b x0 → Kept b (windowLoad x0 x1 x2 x3 x4 x5 x6).2.2 := by
  intro x0 x1 x2 x3 x4 x5 x6 h0
  unfold windowLoad
  split
  · rename_i z3
    refine kept_ite_2_2 ?_ ?_
    · dsimp only
      exact noteDegraded_kept _ _ _ (kept_of_eq_2_2 z3 (checkLine_kept _ _ _ _ h0))
    · dsimp only
      exact windowDeny_kept _ _ _ _ _ (kept_of_eq_2_2 z3 (checkLine_kept _ _ _ _ h0))
  · rename_i z9
    exact kept_of_eq_2_2 z9 (checkLine_kept _ _ _ _ h0)

theorem doorbell_kept{b : State} : ∀ x0 x1 x2, Kept b x2 → Kept b (doorbell x0 x1 x2) := by
  intro x0 x1 x2 h2
  unfold doorbell
  split
  · refine kept_ite ?_ ?_
    · exact h2
    · split
      · exact kept_ite (bellStore_kept _ _ _ _ _ _ h2) h2
      · exact h2
  · exact kept_ite h2 (kept_ite (bellStore_kept _ _ _ _ _ _ h2) (windowDeny_kept _ _ _ _ _ h2))

theorem execSqDb_kept{b : State} : ∀ x0 x1 x2, Kept b x2 → KeptO b (execSqDb x0 x1 x2) := by
  intro x0 x1 x2 h2
  unfold execSqDb
  exact guardWf_kept _ _ (keptO_next (doorbell_kept _ _ _ h2))

theorem execCqDb_kept{b : State} : ∀ x0 x1 x2, Kept b x2 → KeptO b (execCqDb x0 x1 x2) := by
  intro x0 x1 x2 h2
  unfold execCqDb
  exact guardWf_kept _ _ (keptO_next (doorbell_kept _ _ _ h2))

theorem execSqAdd_kept{b : State} : ∀ x0 x1 x2, Kept b x2 → KeptO b (execSqAdd x0 x1 x2) := by
  intro x0 x1 x2 h2
  unfold execSqAdd
  exact guardWf_kept _ _ (keptO_next (doorbell_kept _ _ _ h2))

theorem putSet_kept{b : State} : ∀ x0 x1 x2 x3, Kept b x0 → Kept b (putSet x0 x1 x2 x3) := by
  intro x0 x1 x2 x3 h0
  unfold putSet
  extract_lets +onlyGivenNames v0
  clear_value v0
  exact setCl_kept _ _ _ h0

theorem putLine_kept{b : State} : ∀ x0 x1 x2, Kept b x0 → Kept b (putLine x0 x1 x2) := by
  intro x0 x1 x2 h0
  unfold putLine
  extract_lets +onlyGivenNames v0
  clear_value v0
  extract_lets +onlyGivenNames v1
  clear_value v1
  exact putSet_kept _ _ _ _ h0

theorem dropLine_kept{b : State} : ∀ x0 x1 x2, Kept b x0 → Kept b (dropLine x0 x1 x2) := by
  intro x0 x1 x2 h0
  unfold dropLine
  extract_lets +onlyGivenNames v0
  clear_value v0
  extract_lets +onlyGivenNames v1
  clear_value v1
  exact putSet_kept _ _ _ _ h0

theorem opLost_kept{b : State} : ∀ x0 x1 x2, Kept b x1 → Kept b (opLost x0 x1 x2) := by
  intro x0 x1 x2 h1
  unfold opLost
  extract_lets +onlyGivenNames v0
  clear_value v0
  split
  · exact setHub_kept _ _ _ h1
  · exact h1

theorem wbFailed_kept{b : State} : ∀ x0 x1 x2 x3, Kept b x0 → Kept b (wbFailed x0 x1 x2 x3) := by
  intro x0 x1 x2 x3 h0
  unfold wbFailed
  exact kept_foldl (fun f0 i0 p0 => opLost_kept _ _ _ p0) _ (emit_kept _ _ _ _ h0)

theorem eccLost_kept{b : State} : ∀ x0 x1 x2 x3, Kept b x0 → Kept b (eccLost x0 x1 x2 x3) := by
  intro x0 x1 x2 x3 h0
  unfold eccLost
  exact leaf_kept _ _ _ (emit_kept _ _ _ _ h0)

theorem wbSector_kept{b : State} : ∀ x0 x1 x2 x3 x4 x5, Kept b x0 → Kept b (wbSector x0 x1 x2 x3 x4 x5).2 := by
  intro x0 x1 x2 x3 x4 x5 h0
  unfold wbSector
  refine kept_ite_2 ?_ ?_
  · exact h0
  · refine kept_ite_2 ?_ ?_
    · exact kept_foldl (fun f0 i0 p0 => opLost_kept _ _ _ p0) _ (eccLost_kept _ _ _ _ h0)
    · split
      rename_i z5
      extract_lets +onlyGivenNames v6
      have p7 : Kept b v6 := by
        unfold v6
        exact kept_foldl (fun f8 i8 p8 => noteDegraded_kept _ _ _ p8) _ (kept_of_eq_2_2 z5 (partWrite_kept _ _ _ _ _ h0))
      clear_value v6
      refine kept_ite_2 ?_ ?_
      · exact p7
      · dsimp only
        exact wbFailed_kept _ _ _ _ p7

theorem wbLine_kept{b : State} : ∀ x0 x1 x2 x3, Kept b x0 → Kept b (wbLine x0 x1 x2 x3) := by
  intro x0 x1 x2 x3 h0
  unfold wbLine
  exact wbSector_kept _ _ _ _ _ _ (wbSector_kept _ _ _ _ _ _ h0)

theorem wbKeep_kept{b : State} : ∀ x0 x1 x2 x3 x4, Kept b x0 → Kept b (wbKeep x0 x1 x2 x3 x4).2 := by
  intro x0 x1 x2 x3 x4 h0
  unfold wbKeep
  extract_lets +onlyGivenNames v0
  have p1 : ∀ y1000 y1001 y1002, Kept b y1000 → Kept b (v0 y1000 y1001 y1002).2 := by
    unfold v0
    intro y2 y3 y4 k5
    refine kept_ite_2 ?_ ?_
    · split
      rename_i z9
      exact kept_of_eq_2 z9 (wbSector_kept _ _ _ _ _ _ k5)
    · exact k5
  clear_value v0
  split
  rename_i z13
  split
  rename_i z17
  exact kept_of_eq_2 z17 (p1 _ _ _ (kept_of_eq_2 z13 (p1 _ _ _ h0)))

theorem wbCluster_kept{b : State} : ∀ x0 x1 x2 x3, Kept b x0 → Kept b (wbCluster x0 x1 x2 x3) := by
  intro x0 x1 x2 x3 h0
  unfold wbCluster
  refine kept_foldl (fun f0 i0 p0 => ?_) _ ?_
  · refine kept_foldl (fun f1 i1 p1 => ?_) _ ?_
    · extract_lets +onlyGivenNames v2
      clear_value v2
      refine kept_ite ?_ ?_
      · split
        rename_i z6
        exact putLine_kept _ _ _ (kept_of_eq_2 z6 (wbKeep_kept _ _ _ _ _ p1))
      · exact p1
    · exact p0
  · exact h0

theorem discardCl_kept{b : State} : ∀ x0 x1 x2, Kept b x0 → Kept b (discardCl x0 x1 x2) := by
  intro x0 x1 x2 h0
  unfold discardCl
  extract_lets +onlyGivenNames v0
  clear_value v0
  exact setCl_kept _ _ _ h0

theorem acquireCl_kept{b : State} : ∀ x0 x1 x2, Kept b x0 → Kept b (acquireCl x0 x1 x2) := by
  intro x0 x1 x2 h0
  unfold acquireCl
  extract_lets +onlyGivenNames v0
  clear_value v0
  extract_lets +onlyGivenNames v1
  extract_lets +onlyGivenNames v2
  clear_value v2
  exact setCl_kept _ _ _ h0

theorem acquireRdc_kept{b : State} : ∀ x0 x1 x2, Kept b x0 → Kept b (acquireRdc x0 x1 x2) := by
  intro x0 x1 x2 h0
  unfold acquireRdc
  exact discardRdc_kept _ _ _ h0

theorem cacheUpset_kept{b : State} : ∀ x0 x1 x2, Kept b x0 → Kept b (cacheUpset x0 x1 x2) := by
  intro x0 x1 x2 h0
  unfold cacheUpset
  split
  · exact h0
  · extract_lets +onlyGivenNames v5
    clear_value v5
    exact kept_ite h0 (putLine_kept _ _ _ h0)

theorem upset_kept{b : State} : ∀ x0 x1 x2 x3 x4, Kept b x0 → Kept b (upset x0 x1 x2 x3 x4) := by
  intro x0 x1 x2 x3 x4 h0
  unfold upset
  split
  · exact h0
  · exact cacheUpset_kept _ _ _ h0
  · exact rdcUpset_kept _ _ _ h0
  · exact cacheUpset_kept _ _ _ h0
  · exact h0
  · exact rdcUpset_kept _ _ _ h0

theorem eccHit_kept{b : State} : ∀ x0 x1 x2 x3, Kept b x0 → Kept b (eccHit x0 x1 x2 x3).2 := by
  intro x0 x1 x2 x3 h0
  unfold eccHit
  split
  · exact h0
  · extract_lets +onlyGivenNames v5
    clear_value v5
    refine kept_ite_2 ?_ ?_
    · exact h0
    · extract_lets +onlyGivenNames v6
      have p7 : Kept b v6 := by
        unfold v6
        exact putLine_kept _ _ _ h0
      clear_value v6
      refine kept_ite_2 ?_ ?_
      · exact p7
      · dsimp only
        exact eccLost_kept _ _ _ _ p7

theorem allocLine_kept{b : State} : ∀ x0 x1 x2 x3 x4, Kept b x0 → Kept b (allocLine x0 x1 x2 x3 x4).2 := by
  intro x0 x1 x2 x3 x4 h0
  unfold allocLine
  extract_lets +onlyGivenNames v0
  clear_value v0
  extract_lets +onlyGivenNames v1
  clear_value v1
  extract_lets +onlyGivenNames v2
  clear_value v2
  extract_lets +onlyGivenNames v3
  have p4 : Kept b v3 := by
    unfold v3
    split
    · exact wbLine_kept _ _ _ _ h0
    · exact h0
  clear_value v3
  extract_lets +onlyGivenNames v10
  clear_value v10
  extract_lets +onlyGivenNames v11
  clear_value v11
  extract_lets +onlyGivenNames v12
  clear_value v12
  dsimp only
  exact setCl_kept _ _ _ p4

theorem touchPf_kept{b : State} : ∀ x0 x1 x2, Kept b x0 → Kept b (touchPf x0 x1 x2) := by
  intro x0 x1 x2 h0
  unfold touchPf
  split
  · exact h0
  · split
    · exact h0
    · extract_lets +onlyGivenNames v10
      have p11 : Kept b v10 := by
        unfold v10
        exact putLine_kept _ _ _ h0
      clear_value v10
      extract_lets +onlyGivenNames v12
      clear_value v12
      extract_lets +onlyGivenNames v13
      clear_value v13
      extract_lets +onlyGivenNames v14
      clear_value v14
      exact setCl_kept _ _ _ p11

theorem cacheLoad_kept{b : State} : ∀ x0 x1 x2 x3 x4 x5 x6 x7, Kept b x0 → Kept b (cacheLoad x0 x1 x2 x3 x4 x5 x6 x7).2.2.2 := by
  intro x0 x1 x2 x3 x4 x5 x6 x7 h0
  unfold cacheLoad
  extract_lets +onlyGivenNames v0
  clear_value v0
  split
  · exact counterLoad_kept _ _ _ _ h0
  · refine kept_ite_2_2_2 ?_ ?_
    · extract_lets +onlyGivenNames v7
      have p8 : Kept b v7 := by
        unfold v7
        exact kept_ite (dropLine_kept _ _ _ h0) h0
      clear_value v7
      split
      rename_i z14
      exact kept_of_eq_2_2_2 z14 (partRead_kept _ _ _ _ _ _ _ p8)
    · split
      rename_i z18
      refine kept_ite_2_2_2 ?_ ?_
      · exact kept_of_eq_2 z18 (eccHit_kept _ _ _ _ h0)
      · split
        · extract_lets +onlyGivenNames v22
          clear_value v22
          extract_lets +onlyGivenNames v23
          have p24 : Kept b v23 := by
            unfold v23
            exact putSet_kept _ _ _ _ (kept_of_eq_2 z18 (eccHit_kept _ _ _ _ h0))
          clear_value v23
          extract_lets +onlyGivenNames v25
          clear_value v25
          extract_lets +onlyGivenNames v26
          clear_value v26
          refine kept_ite_2_2_2 ?_ ?_
          · dsimp only
            exact putLine_kept _ _ _ p24
          · split
            · rename_i z31
              extract_lets +onlyGivenNames v32
              clear_value v32
              dsimp only
              exact putLine_kept _ _ _ (kept_of_eq_2_2_2 z31 (partRead_kept _ _ _ _ _ _ _ p24))
            · rename_i z39
              exact kept_of_eq_2_2_2 z39 (partRead_kept _ _ _ _ _ _ _ p24)
        · split
          · rename_i z46
            refine kept_ite_2_2_2 ?_ ?_
            · exact kept_of_eq_2_2_2 z46 (partRead_kept _ _ _ _ _ _ _ (kept_of_eq_2 z18 (eccHit_kept _ _ _ _ h0)))
            · split
              rename_i z50
              dsimp only
              exact putLine_kept _ _ _ (kept_of_eq_2 z50 (allocLine_kept _ _ _ _ _ (kept_of_eq_2_2_2 z46 (partRead_kept _ _ _ _ _ _ _ (kept_of_eq_2 z18 (eccHit_kept _ _ _ _ h0))))))
          · rename_i z57
            exact kept_of_eq_2_2_2 z57 (partRead_kept _ _ _ _ _ _ _ (kept_of_eq_2 z18 (eccHit_kept _ _ _ _ h0)))

theorem cacheStore_kept{b : State} : ∀ x0 x1 x2 x3 x4 x5 x6 x7, Kept b x0 → Kept b (cacheStore x0 x1 x2 x3 x4 x5 x6 x7).2.2 := by
  intro x0 x1 x2 x3 x4 x5 x6 x7 h0
  unfold cacheStore
  extract_lets +onlyGivenNames v0
  clear_value v0
  extract_lets +onlyGivenNames v1
  clear_value v1
  extract_lets +onlyGivenNames v2
  clear_value v2
  extract_lets +onlyGivenNames v3
  clear_value v3
  split
  · exact counterStore_kept _ _ _ _ _ h0
  · refine kept_ite_2_2 ?_ ?_
    · extract_lets +onlyGivenNames v10
      have p11 : Kept b v10 := by
        unfold v10
        exact kept_ite (dropLine_kept _ _ _ h0) h0
      clear_value v10
      exact partWrite_kept _ _ _ _ _ (rdcDrop_kept _ _ _ p11)
    · split
      rename_i z15
      refine kept_ite_2_2 ?_ ?_
      · exact kept_of_eq_2 z15 (eccHit_kept _ _ _ _ h0)
      · split
        · extract_lets +onlyGivenNames v19
          clear_value v19
          extract_lets +onlyGivenNames v20
          have p21 : Kept b v20 := by
            unfold v20
            exact putSet_kept _ _ _ _ (kept_of_eq_2 z15 (eccHit_kept _ _ _ _ h0))
          clear_value v20
          extract_lets +onlyGivenNames v22
          clear_value v22
          dsimp only
          exact putLine_kept _ _ _ p21
        · refine kept_ite_2_2 ?_ ?_
          · exact partWrite_kept _ _ _ _ _ (kept_of_eq_2 z15 (eccHit_kept _ _ _ _ h0))
          · split
            rename_i z28
            dsimp only
            exact putLine_kept _ _ _ (kept_of_eq_2 z28 (allocLine_kept _ _ _ _ _ (kept_of_eq_2 z15 (eccHit_kept _ _ _ _ h0))))

theorem cacheAtomic_kept{b : State} : ∀ x0 x1 x2 x3 x4 x5 x6, Kept b x0 → Kept b (cacheAtomic x0 x1 x2 x3 x4 x5 x6).2.2.2 := by
  intro x0 x1 x2 x3 x4 x5 x6 h0
  unfold cacheAtomic
  split
  rename_i z3
  refine kept_ite_2_2_2 ?_ ?_
  · exact kept_of_eq_2 z3 (eccHit_kept _ _ _ _ h0)
  · extract_lets +onlyGivenNames v4
    have p5 : Kept b v4 := by
      unfold v4
      split
      · exact dropLine_kept _ _ _ (wbLine_kept _ _ _ _ (kept_of_eq_2 z3 (eccHit_kept _ _ _ _ h0)))
      · exact kept_of_eq_2 z3 (eccHit_kept _ _ _ _ h0)
    clear_value v4
    exact atomicAt_kept _ _ _ _ _ _ (rdcDrop_kept _ _ _ p5)

theorem prefetchLine_kept{b : State} : ∀ x0 x1 x2 x3 x4 x5, Kept b x0 → Kept b (prefetchLine x0 x1 x2 x3 x4 x5).2.2 := by
  intro x0 x1 x2 x3 x4 x5 h0
  unfold prefetchLine
  split
  · rename_i z4
    extract_lets +onlyGivenNames v5
    clear_value v5
    refine kept_ite_2_2 ?_ ?_
    · exact kept_of_eq_2_2_2 z4 (clTranslate_kept _ _ _ _ _ h0)
    · extract_lets +onlyGivenNames v6
      have p7 : ∀ y7000 y7001, Kept b y7000 → Kept b (v6 y7000 y7001).2 := by
        unfold v6
        intro y8 y9 k10
        refine kept_ite_2 ?_ ?_
        · exact k10
        · split
          rename_i z16
          dsimp only
          exact noteDegraded_kept _ _ _ (kept_of_eq_2_2_2 z16 (cacheLoad_kept _ _ _ _ _ _ _ _ k10))
      clear_value v6
      split
      rename_i z20
      refine kept_ite_2_2 ?_ ?_
      · exact kept_of_eq_2 z20 (p7 _ _ (kept_of_eq_2_2_2 z4 (clTranslate_kept _ _ _ _ _ h0)))
      · split
        rename_i z24
        split
        · dsimp only
          exact putLine_kept _ _ _ (kept_of_eq_2 z24 (p7 _ _ (kept_of_eq_2 z20 (p7 _ _ (kept_of_eq_2_2_2 z4 (clTranslate_kept _ _ _ _ _ h0))))))
        · exact kept_of_eq_2 z24 (p7 _ _ (kept_of_eq_2 z20 (p7 _ _ (kept_of_eq_2_2_2 z4 (clTranslate_kept _ _ _ _ _ h0)))))
  · rename_i z40
    exact kept_of_eq_2_2_2 z40 (clTranslate_kept _ _ _ _ _ h0)

theorem prefetchRun_kept{b : State} : ∀ x0 x1 x2 x3 x4 x5, Kept b x0 → Kept b (prefetchRun x0 x1 x2 x3 x4 x5) := by
  intro x0 x1 x2 x3 x4 x5
  induction x4 generalizing x0 x1 x2 x3 x5 with
  | zero =>
    intro h0
    unfold prefetchRun
    exact h0
  | succ n ih =>
    intro h0
    unfold prefetchRun
    split
    rename_i z4
    exact kept_ite (ih _ _ _ _ _ (kept_of_eq_2_2 z4 (prefetchLine_kept _ _ _ _ _ _ h0))) (kept_of_eq_2_2 z4 (prefetchLine_kept _ _ _ _ _ _ h0))

theorem putPf_kept{b : State} : ∀ x0 x1 x2 x3, Kept b x0 → Kept b (putPf x0 x1 x2 x3) := by
  intro x0 x1 x2 x3 h0
  unfold putPf
  extract_lets +onlyGivenNames v0
  clear_value v0
  exact setCl_kept _ _ _ h0

theorem pfRun_kept{b : State} : ∀ x0 x1 x2 x3 x4, Kept b x0 → Kept b (pfRun x0 x1 x2 x3 x4) := by
  intro x0 x1 x2 x3 x4
  induction x4 generalizing x0 x1 x2 x3 with
  | zero =>
    intro h0
    unfold pfRun
    exact h0
  | succ n ih =>
    intro h0
    unfold pfRun
    extract_lets +onlyGivenNames v0
    clear_value v0
    refine kept_ite ?_ ?_
    · exact h0
    · refine kept_ite ?_ ?_
      · exact putPf_kept _ _ _ _ h0
      · refine kept_ite ?_ ?_
        · exact h0
        · split
          rename_i z5
          exact kept_ite (ih _ _ _ _ (putPf_kept _ _ _ _ (kept_of_eq_2_2 z5 (prefetchLine_kept _ _ _ _ _ _ h0)))) (putPf_kept _ _ _ _ (kept_of_eq_2_2 z5 (prefetchLine_kept _ _ _ _ _ _ h0)))

theorem pfAll_kept{b : State} : ∀ x0 x1 x2, Kept b x0 → Kept b (pfAll x0 x1 x2) := by
  intro x0 x1 x2 h0
  unfold pfAll
  exact kept_foldl (fun f0 i0 p0 => kept_ite (pfRun_kept _ _ _ _ _ p0) p0) _ h0

theorem detect_kept{b : State} : ∀ x0 x1 x2 x3 x4, Kept b x0 → Kept b (detect x0 x1 x2 x3 x4) := by
  intro x0 x1 x2 x3 x4 h0
  unfold detect
  extract_lets +onlyGivenNames v0
  clear_value v0
  extract_lets +onlyGivenNames v1
  clear_value v1
  refine kept_ite ?_ ?_
  · exact h0
  · split
    · split
      · exact h0
      · extract_lets +onlyGivenNames v10
        clear_value v10
        extract_lets +onlyGivenNames v11
        clear_value v11
        extract_lets +onlyGivenNames v12
        clear_value v12
        exact pfRun_kept _ _ _ _ _ (setCl_kept _ _ _ h0)
    · split
      · extract_lets +onlyGivenNames v18
        clear_value v18
        exact setCl_kept _ _ _ h0
      · exact setCl_kept _ _ _ h0

theorem demandLoad_kept{b : State} : ∀ x0 x1 x2 x3 x4 x5 x6 x7 x8, Kept b x0 → Kept b (demandLoad x0 x1 x2 x3 x4 x5 x6 x7 x8).2.2.2 := by
  intro x0 x1 x2 x3 x4 x5 x6 x7 x8 h0
  unfold demandLoad
  extract_lets +onlyGivenNames v0
  clear_value v0
  split
  rename_i z6
  extract_lets +onlyGivenNames v7
  have p8 : Kept b v7 := by
    unfold v7
    split
    · exact detect_kept _ _ _ _ _ (kept_of_eq_2_2_2 z6 (cacheLoad_kept _ _ _ _ _ _ _ _ (touchPf_kept _ _ _ h0)))
    · exact kept_of_eq_2_2_2 z6 (cacheLoad_kept _ _ _ _ _ _ _ _ (touchPf_kept _ _ _ h0))
  clear_value v7
  dsimp only
  exact pfAll_kept _ _ _ p8

theorem setOp_kept{b : State} : ∀ x0 x1 x2 x3, Kept b x0 → Kept b (setOp x0 x1 x2 x3) := by
  intro x0 x1 x2 x3 h0
  unfold setOp
  extract_lets +onlyGivenNames v0
  clear_value v0
  exact setHub_kept _ _ _ h0

theorem setStep_kept{b : State} : ∀ x0 x1 x2 x3, Kept b x0 → Kept b (setStep x0 x1 x2 x3) := by
  intro x0 x1 x2 x3 h0
  unfold setStep
  extract_lets +onlyGivenNames v0
  clear_value v0
  exact setHub_kept _ _ _ h0

theorem refreshHead_kept{b : State} : ∀ x0 x1 x2, Kept b x0 → Kept b (refreshHead x0 x1 x2) := by
  intro x0 x1 x2 h0
  unfold refreshHead
  exact setSqHead_kept _ _ _ _ h0

theorem copyEvent_kept{b : State} : ∀ x0 x1 x2, Kept b x0 → Kept b (copyEvent x0 x1 x2) := by
  intro x0 x1 x2 h0
  unfold copyEvent
  split
  · exact h0
  · exact emit_kept _ _ _ _ h0

theorem finishRaw_kept{b : State} : ∀ x0 x1 x2 x3 x4 x5, Kept b x0 → Kept b (finishRaw x0 x1 x2 x3 x4 x5) := by
  intro x0 x1 x2 x3 x4 x5 h0
  unfold finishRaw
  split
  · exact h0
  · extract_lets +onlyGivenNames v5
    clear_value v5
    extract_lets +onlyGivenNames v6
    have p7 : Kept b v6 := by
      unfold v6
      exact setHub_kept _ _ _ h0
    clear_value v6
    extract_lets +onlyGivenNames v8
    have p9 : Kept b v8 := by
      unfold v8
      split
      · exact p7
      · split
        · exact p7
        · extract_lets +onlyGivenNames v20
          clear_value v20
          exact setStep_kept _ _ _ _ p7
    clear_value v8
    extract_lets +onlyGivenNames v21
    have p22 : Kept b v21 := by
      unfold v21
      exact postRec_kept _ _ _ _ p9
    clear_value v21
    exact refreshHead_kept _ _ _ p22

theorem settleGroup_kept{b : State} : ∀ x0 x1 x2, Kept b x0 → Kept b (settleGroup x0 x1 x2) := by
  intro x0 x1 x2 h0
  unfold settleGroup
  extract_lets +onlyGivenNames v0
  clear_value v0
  extract_lets +onlyGivenNames v1
  clear_value v1
  exact kept_ite (setHub_kept _ _ _ h0) h0

theorem collAborts_kept{b : State} : ∀ x0 x1 x2 x3 x4, Kept b x0 → Kept b (collAborts x0 x1 x2 x3 x4) := by
  intro x0 x1 x2 x3 x4 h0
  unfold collAborts
  extract_lets +onlyGivenNames v0
  clear_value v0
  extract_lets +onlyGivenNames v1
  clear_value v1
  exact setHub_kept _ _ _ h0

theorem spoilOut_kept {b : State} : ∀ x0 x1 x2, Kept b x0 → Kept b (spoilOut x0 x1 x2) := by
  intro x0 x1 x2 h0
  unfold spoilOut
  split
  · exact h0
  · extract_lets +onlyGivenNames v1
    clear_value v1
    extract_lets +onlyGivenNames v2
    clear_value v2
    extract_lets +onlyGivenNames v3
    have p4 : Kept b v3 := by
      unfold v3
      exact tvaWriteList_kept _ _ _ _ _ h0
    clear_value v3
    exact kept_mk (keptF_mix h0 p4 1)

theorem collLeave_kept{b : State} : ∀ x0 x1 x2, Kept b x0 → Kept b (collLeave x0 x1 x2) := by
  intro x0 x1 x2 h0
  unfold collLeave
  extract_lets +onlyGivenNames v0
  clear_value v0
  extract_lets +onlyGivenNames v1
  clear_value v1
  extract_lets +onlyGivenNames v2
  clear_value v2
  extract_lets +onlyGivenNames v3
  clear_value v3
  extract_lets +onlyGivenNames v4
  have p5 : Kept b v4 := by
    unfold v4
    exact setHub_kept _ _ _ h0
  clear_value v4
  extract_lets +onlyGivenNames v6
  have p7 : Kept b v6 := by
    unfold v6
    exact kept_mk (kept_eta p5)
  clear_value v6
  refine kept_foldl (fun f8 i8 p8 => ?_) _ ?_
  · split
    · exact settleGroup_kept _ _ _ p8
    · exact p8
  · exact p7

theorem returnCluster_kept{b : State} : ∀ x0 x1, Kept b x0 → Kept b (returnCluster x0 x1) := by
  intro x0 x1 h0
  unfold returnCluster
  split
  · exact h0
  · extract_lets +onlyGivenNames v6
    clear_value v6
    exact capSpares_kept _ _ (kept_mk (kept_eta h0))

theorem beginTest_kept{b : State} : ∀ x0, Kept b x0 → Kept b (beginTest x0) := by
  intro x0 h0
  unfold beginTest
  split
  · exact h0
  · exact kept_ite h0 (kept_mk (kept_eta h0))

theorem abandonTest_kept{b : State} : ∀ x0 x1 x2, Kept b x0 → Kept b (abandonTest x0 x1 x2) := by
  intro x0 x1 x2 h0
  unfold abandonTest
  extract_lets +onlyGivenNames v0
  clear_value v0
  extract_lets +onlyGivenNames v1
  have p2 : Kept b v1 := by
    unfold v1
    exact kept_foldl (fun f3 i3 p3 => returnCluster_kept _ _ p3) _ h0
  clear_value v1
  exact beginTest_kept _ (kept_mk (kept_eta p2))

theorem stopOp_kept{b : State} : ∀ x0 x1 x2 x3, Kept b x0 → Kept b (stopOp x0 x1 x2 x3) := by
  intro x0 x1 x2 x3 h0
  unfold stopOp
  split
  · exact h0
  · extract_lets +onlyGivenNames v5
    have p6 : Kept b v5 := by
      unfold v5
      exact setOp_kept _ _ _ _ h0
    clear_value v5
    split
    · exact kept_ite p6 (stopLaunch_kept _ _ _ p6)
    · extract_lets +onlyGivenNames v11
      have p12 : Kept b v11 := by
        unfold v11
        exact kept_foldl (fun f13 i13 p13 => kept_ite (spoilOut_kept _ _ _ (collAborts_kept _ _ _ _ _ p13)) p13) _ p6
      clear_value v11
      exact collLeave_kept _ _ _ p12
    · exact abandonTest_kept _ _ _ p6
    · exact p6

theorem endStopped_kept{b : State} : ∀ x0 x1 x2, Kept b x0 → Kept b (endStopped x0 x1 x2) := by
  intro x0 x1 x2 h0
  unfold endStopped
  split
  · exact h0
  · split
    · exact h0
    · refine kept_ite ?_ ?_
      · exact h0
      · split
        extract_lets +onlyGivenNames v15
        have p16 : Kept b v15 := by
          unfold v15
          refine kept_ite ?_ ?_
          · split
            · refine setOp_kept _ _ _ _ ?_
              extract_lets +onlyGivenNames v20
              have p21 : Kept b v20 := by
                unfold v20
                exact copyEvent_kept _ _ _ h0
              clear_value v20
              exact kept_mk (kept_eta p21)
            · exact h0
          · exact h0
        clear_value v15
        exact finishRaw_kept _ _ _ _ _ _ p16

theorem stopOps_kept{b : State} : ∀ x0 x1 x2 x3, Kept b x0 → Kept b (stopOps x0 x1 x2 x3) := by
  intro x0 x1 x2 x3 h0
  unfold stopOps
  exact kept_foldl (fun f0 i0 p0 => endStopped_kept _ _ _ (stopOp_kept _ _ _ _ p0)) _ h0

theorem closeStep_kept{b : State} : ∀ x0 x1 x2, Kept b x0 → Kept b (closeStep x0 x1 x2) := by
  intro x0 x1 x2 h0
  unfold closeStep
  split
  · exact h0
  · extract_lets +onlyGivenNames v5
    clear_value v5
    extract_lets +onlyGivenNames v6
    have p7 : Kept b v6 := by
      unfold v6
      exact setHub_kept _ _ _ h0
    clear_value v6
    extract_lets +onlyGivenNames v8
    clear_value v8
    extract_lets +onlyGivenNames v9
    have p10 : Kept b v9 := by
      unfold v9
      exact setRing_kept _ _ _ _ p7
    clear_value v9
    exact refreshHead_kept _ _ _ p10

theorem settleStep_kept{b : State} : ∀ x0 x1 x2, Kept b x0 → Kept b (settleStep x0 x1 x2) := by
  intro x0 x1 x2 h0
  unfold settleStep
  split
  · exact h0
  · refine kept_ite ?_ ?_
    · exact h0
    · split
      · exact setStep_kept _ _ _ _ h0
      · extract_lets +onlyGivenNames v9
        have p10 : Kept b v9 := by
          unfold v9
          exact closeStep_kept _ _ _ h0
        clear_value v9
        split
        · exact finishRaw_kept _ _ _ _ _ _ p10
        · exact p10
      · exact h0

theorem failStep_kept{b : State} : ∀ x0 x1 x2, Kept b x0 → Kept b (failStep x0 x1 x2) := by
  intro x0 x1 x2 h0
  unfold failStep
  split
  · exact h0
  · extract_lets +onlyGivenNames v5
    have p6 : Kept b v5 := by
      unfold v5
      exact setStep_kept _ _ _ _ h0
    clear_value v5
    exact settleStep_kept _ _ _ (stopOps_kept _ _ _ _ p6)

theorem abortStep_kept{b : State} : ∀ x0 x1 x2 x3, Kept b x0 → Kept b (abortStep x0 x1 x2 x3) := by
  intro x0 x1 x2 x3 h0
  unfold abortStep
  split
  · exact h0
  · extract_lets +onlyGivenNames v5
    have p6 : Kept b v5 := by
      unfold v5
      exact setStep_kept _ _ _ _ h0
    clear_value v5
    extract_lets +onlyGivenNames v7
    clear_value v7
    extract_lets +onlyGivenNames v8
    have p9 : Kept b v8 := by
      unfold v8
      refine kept_foldl (fun f10 i10 p10 => ?_) _ ?_
      · split
        · exact setOp_kept _ _ _ _ p10
        · exact p10
      · exact p6
    clear_value v8
    exact settleStep_kept _ _ _ (stopOps_kept _ _ _ _ p9)

theorem finishOp_kept{b : State} : ∀ x0 x1 x2 x3 x4 x5, Kept b x0 → Kept b (finishOp x0 x1 x2 x3 x4 x5) := by
  intro x0 x1 x2 x3 x4 x5 h0
  unfold finishOp
  split
  · exact h0
  · extract_lets +onlyGivenNames v5
    have p6 : Kept b v5 := by
      unfold v5
      exact finishRaw_kept _ _ _ _ _ _ h0
    clear_value v5
    split
    · exact p6
    · split
      · exact p6
      · exact kept_ite (failStep_kept _ _ _ p6) (settleStep_kept _ _ _ p6)

theorem finishUnit_kept{b : State} : ∀ x0 x1 x2 x3, Kept b x0 → Kept b (finishUnit x0 x1 x2 x3) := by
  intro x0 x1 x2 x3 h0
  unfold finishUnit
  exact finishOp_kept _ _ _ _ _ _ h0

theorem onChosen_kept{b : State} : ∀ x0 x1 x2 x3 x4, Kept b x0 → (∀ y0, Kept b (x4 y0)) → KeptO b (onChosen x0 x1 x2 x3 x4) := by
  intro x0 x1 x2 x3 x4 h0 h4
  unfold onChosen
  refine guardWf_kept _ _ ?_
  refine keptO_next ?_
  split
  · exact kept_ite (h4 _) h0
  · exact h0

end Sys2Proof.Machine
end

