-- ==== Sys2Proof/Laws/KeptThreads.lean ====
section
/-! SUPPORT. `f_kept` (Laws/Kept.lean) for the functions of the scalar core, loads and stores, and waits. -/
namespace Sys2Proof.Machine

theorem fateOf_refuse {r : CoreRow} {t : ThreadRef} {w : Word} {s : State} {q : Refusal} (h : fateOf r t w s = .refuse q) :
    q = .illFormed ∨ q = .notThisCommand := by
  unfold fateOf at h
  extract_lets at h
  repeat' split at h
  all_goals first | (cases h; done) | (cases h; first | exact .inl rfl | exact .inr rfl)

theorem fetch_kept{b : State} : ∀ x0 x1, Kept b x0 → Kept b (fetch x0 x1).2 := by
  intro x0 x1 h0
  unfold fetch
  extract_lets +onlyGivenNames v0
  clear_value v0
  extract_lets +onlyGivenNames v1
  clear_value v1
  extract_lets +onlyGivenNames v2
  clear_value v2
  refine kept_ite_2 ?_ ?_
  · dsimp only
    exact setCore_kept _ _ _ h0
  · extract_lets +onlyGivenNames v3
    clear_value v3
    extract_lets +onlyGivenNames v4
    clear_value v4
    split
    · rename_i z9
      split
      · rename_i z14
        extract_lets +onlyGivenNames v15
        clear_value v15
        dsimp only
        exact setCore_kept _ _ _ (noteDegraded_kept _ _ _ (kept_of_eq_2_2_2 z14 (cacheLoad_kept _ _ _ _ _ _ _ _ (kept_of_eq_2_2_2 z9 (clTranslate_kept _ _ _ _ _ h0)))))
      · rename_i z22
        exact kept_of_eq_2_2_2 z22 (cacheLoad_kept _ _ _ _ _ _ _ _ (kept_of_eq_2_2_2 z9 (clTranslate_kept _ _ _ _ _ h0)))
    · rename_i z29
      exact kept_of_eq_2_2_2 z29 (clTranslate_kept _ _ _ _ _ h0)

theorem fetched_kept{b : State} : ∀ x0 x1, Kept b x0 → Kept b (fetched x0 x1) := by
  intro x0 x1 h0
  unfold fetched
  exact kept_ite h0 (fetch_kept _ _ h0)

theorem fin_kept{b : State} : ∀ x0 x1 x2, Kept b x0 → Kept b (fin x0 x1 x2) := by
  intro x0 x1 x2 h0
  unfold fin
  exact stepLeaf_kept _ _ (putThread_kept _ _ _ h0)

theorem issue_kept{b : State} : ∀ x0 x1 x2 x3 x4, Kept b x3 → (∀ y0 y1, Kept b y0 → Kept b (x4 y0 y1)) → KeptO b (issue x0 x1 x2 x3 x4) := by
  intro x0 x1 x2 x3 x4 h3 h4
  unfold issue
  split
  · rename_i z2
    exact keptO_refused (fateOf_refuse z2)
  · exact keptO_next h3
  · exact keptO_next (leaf_kept _ _ _ (putThread_kept _ _ _ (fetched_kept _ _ h3)))
  · exact keptO_next (takeTrap_kept _ _ _ _ (fetched_kept _ _ h3))
  · exact keptO_next (fin_kept _ _ _ (fetched_kept _ _ h3))
  · exact keptO_next (h4 _ _ (fetched_kept _ _ h3))

theorem execAlu_kept{b : State} : ∀ x0 x1 x2, Kept b x2 → KeptO b (execAlu x0 x1 x2) := by
  intro x0 x1 x2 h2
  unfold execAlu
  exact issue_kept _ _ _ _ _ h2 (fun y0 y1 k2 => fin_kept _ _ _ k2)

theorem execAlui_kept{b : State} : ∀ x0 x1 x2, Kept b x2 → KeptO b (execAlui x0 x1 x2) := by
  intro x0 x1 x2 h2
  unfold execAlui
  exact issue_kept _ _ _ _ _ h2 (fun y0 y1 k2 => fin_kept _ _ _ k2)

theorem execCmp_kept{b : State} : ∀ x0 x1 x2, Kept b x2 → KeptO b (execCmp x0 x1 x2) := by
  intro x0 x1 x2 h2
  unfold execCmp
  exact issue_kept _ _ _ _ _ h2 (fun y0 y1 k2 => fin_kept _ _ _ k2)

theorem execCmpi_kept{b : State} : ∀ x0 x1 x2, Kept b x2 → KeptO b (execCmpi x0 x1 x2) := by
  intro x0 x1 x2 h2
  unfold execCmpi
  exact issue_kept _ _ _ _ _ h2 (fun y0 y1 k2 => fin_kept _ _ _ k2)

theorem execMovi_kept{b : State} : ∀ x0 x1 x2, Kept b x2 → KeptO b (execMovi x0 x1 x2) := by
  intro x0 x1 x2 h2
  unfold execMovi
  exact issue_kept _ _ _ _ _ h2 (fun y0 y1 k2 => fin_kept _ _ _ k2)

theorem execMovhi_kept{b : State} : ∀ x0 x1 x2, Kept b x2 → KeptO b (execMovhi x0 x1 x2) := by
  intro x0 x1 x2 h2
  unfold execMovhi
  exact issue_kept _ _ _ _ _ h2 (fun y0 y1 k2 => fin_kept _ _ _ k2)

theorem execSel_kept{b : State} : ∀ x0 x1 x2, Kept b x2 → KeptO b (execSel x0 x1 x2) := by
  intro x0 x1 x2 h2
  unfold execSel
  exact issue_kept _ _ _ _ _ h2 (fun y0 y1 k2 => fin_kept _ _ _ k2)

theorem execPlog_kept{b : State} : ∀ x0 x1 x2, Kept b x2 → KeptO b (execPlog x0 x1 x2) := by
  intro x0 x1 x2 h2
  unfold execPlog
  exact issue_kept _ _ _ _ _ h2 (fun y0 y1 k2 => fin_kept _ _ _ k2)

theorem execRdsr_kept{b : State} : ∀ x0 x1 x2 x3, Kept b x3 → KeptO b (execRdsr x0 x1 x2 x3) := by
  intro x0 x1 x2 x3 h3
  unfold execRdsr
  exact issue_kept _ _ _ _ _ h3 (fun y0 y1 k2 => fin_kept _ _ _ k2)

theorem goTo_kept{b : State} : ∀ x0 x1 x2 x3, Kept b x0 → Kept b (goTo x0 x1 x2 x3) := by
  intro x0 x1 x2 x3 h0
  unfold goTo
  exact stepLeaf_kept _ _ (putThread_kept _ _ _ h0)

theorem execBr_kept{b : State} : ∀ x0 x1 x2, Kept b x2 → KeptO b (execBr x0 x1 x2) := by
  intro x0 x1 x2 h2
  unfold execBr
  exact issue_kept _ _ _ _ _ h2 (fun y0 y1 k2 => goTo_kept _ _ _ _ k2)

theorem execJal_kept{b : State} : ∀ x0 x1 x2, Kept b x2 → KeptO b (execJal x0 x1 x2) := by
  intro x0 x1 x2 h2
  unfold execJal
  exact issue_kept _ _ _ _ _ h2 (fun y0 y1 k2 => goTo_kept _ _ _ _ k2)

theorem execJr_kept{b : State} : ∀ x0 x1 x2, Kept b x2 → KeptO b (execJr x0 x1 x2) := by
  intro x0 x1 x2 h2
  unfold execJr
  exact issue_kept _ _ _ _ _ h2 (fun y0 y1 k2 => goTo_kept _ _ _ _ k2)

theorem withPend_kept{b : State} : ∀ x0 x1 x2 x3, Kept b x0 → Kept b x3 → Kept b (withPend x0 x1 x2 x3) := by
  intro x0 x1 x2 x3 h0 h3
  unfold withPend
  split
  · exact takeTrap_kept _ _ _ _ (putThread_kept _ _ _ h0)
  · exact h3

theorem execEndThread_kept{b : State} : ∀ x0 x1 x2, Kept b x2 → KeptO b (execEndThread x0 x1 x2) := by
  intro x0 x1 x2 h2
  unfold execEndThread
  refine issue_kept _ _ _ _ _ ?_ ?_
  · exact h2
  · intro y0 y1 k2
    refine withPend_kept _ _ _ _ ?_ ?_
    · exact k2
    · extract_lets +onlyGivenNames v3
      have p4 : Kept b v3 := by
        unfold v3
        exact stepLeaf_kept _ _ (putThread_kept _ _ _ k2)
      clear_value v3
      extract_lets +onlyGivenNames v5
      clear_value v5
      exact setCore_kept _ _ _ p4

theorem execYield_kept{b : State} : ∀ x0 x1 x2, Kept b x2 → KeptO b (execYield x0 x1 x2) := by
  intro x0 x1 x2 h2
  unfold execYield
  exact issue_kept _ _ _ _ _ h2 (fun y0 y1 k2 => kept_ite (fin_kept _ _ _ k2) (stepLeaf_kept _ _ (putThread_kept _ _ _ k2)))

theorem execYieldExpiry_kept{b : State} : ∀ x0 x1, Kept b x1 → KeptO b (execYieldExpiry x0 x1) := by
  intro x0 x1 h1
  unfold execYieldExpiry
  refine guardWf_kept _ _ ?_
  refine keptO_next ?_
  extract_lets +onlyGivenNames v0
  clear_value v0
  split
  · exact putThread_kept _ _ _ h1
  · exact h1

theorem execLcset_kept{b : State} : ∀ x0 x1 x2, Kept b x2 → KeptO b (execLcset x0 x1 x2) := by
  intro x0 x1 x2 h2
  unfold execLcset
  refine issue_kept _ _ _ _ _ ?_ ?_
  · exact h2
  · intro y0 y1 k2
    extract_lets +onlyGivenNames v3
    have p4 : Kept b v3 := by
      unfold v3
      exact fin_kept _ _ _ k2
    clear_value v3
    extract_lets +onlyGivenNames v5
    clear_value v5
    extract_lets +onlyGivenNames v6
    clear_value v6
    exact setCore_kept _ _ _ p4

theorem execLcadd_kept{b : State} : ∀ x0 x1 x2, Kept b x2 → KeptO b (execLcadd x0 x1 x2) := by
  intro x0 x1 x2 h2
  unfold execLcadd
  refine issue_kept _ _ _ _ _ ?_ ?_
  · exact h2
  · intro y0 y1 k2
    extract_lets +onlyGivenNames v3
    have p4 : Kept b v3 := by
      unfold v3
      exact fin_kept _ _ _ k2
    clear_value v3
    extract_lets +onlyGivenNames v5
    clear_value v5
    extract_lets +onlyGivenNames v6
    clear_value v6
    exact setCore_kept _ _ _ p4

theorem execWaitl_kept{b : State} : ∀ x0 x1 x2, Kept b x2 → KeptO b (execWaitl x0 x1 x2) := by
  intro x0 x1 x2 h2
  unfold execWaitl
  refine issue_kept _ _ _ _ _ ?_ ?_
  · exact h2
  · intro y0 y1 k2
    extract_lets +onlyGivenNames v3
    clear_value v3
    extract_lets +onlyGivenNames v4
    clear_value v4
    exact kept_ite (fin_kept _ _ _ k2) (putThread_kept _ _ _ k2)

theorem execWaitc_kept{b : State} : ∀ x0 x1 x2, Kept b x2 → KeptO b (execWaitc x0 x1 x2) := by
  intro x0 x1 x2 h2
  unfold execWaitc
  refine issue_kept _ _ _ _ _ ?_ ?_
  · exact h2
  · intro y0 y1 k2
    refine withPend_kept _ _ _ _ ?_ ?_
    · exact k2
    · extract_lets +onlyGivenNames v3
      clear_value v3
      extract_lets +onlyGivenNames v4
      clear_value v4
      extract_lets +onlyGivenNames v5
      clear_value v5
      exact kept_ite (takeTrap_kept _ _ _ _ k2) (kept_ite (fin_kept _ _ _ k2) (putThread_kept _ _ _ k2))

theorem execWaitInstrTimeout_kept{b : State} : ∀ x0 x1, Kept b x1 → KeptO b (execWaitInstrTimeout x0 x1) := by
  intro x0 x1 h1
  unfold execWaitInstrTimeout
  refine guardWf_kept _ _ ?_
  refine keptO_next ?_
  extract_lets +onlyGivenNames v0
  clear_value v0
  extract_lets +onlyGivenNames v1
  have p2 : ∀ y2000 y2001, Kept b (v1 y2000 y2001) := by
    unfold v1
    intro y3 y4
    split
    · exact fin_kept _ _ _ (kept_mk (kept_eta h1))
    · exact h1
  clear_value v1
  split
  · exact p2 _ _
  · exact p2 _ _
  · exact h1

theorem execBarc_kept{b : State} : ∀ x0 x1 x2, Kept b x2 → KeptO b (execBarc x0 x1 x2) := by
  intro x0 x1 x2 h2
  unfold execBarc
  refine issue_kept _ _ _ _ _ ?_ ?_
  · exact h2
  · intro y0 y1 k2
    refine kept_ite ?_ ?_
    · exact takeTrap_kept _ _ _ _ k2
    · extract_lets +onlyGivenNames v3
      have p4 : Kept b v3 := by
        unfold v3
        exact putThread_kept _ _ _ k2
      clear_value v3
      extract_lets +onlyGivenNames v5
      clear_value v5
      exact setCore_kept _ _ _ p4

theorem execBarl_kept{b : State} : ∀ x0 x1 x2, Kept b x2 → KeptO b (execBarl x0 x1 x2) := by
  intro x0 x1 x2 h2
  unfold execBarl
  refine issue_kept _ _ _ _ _ ?_ ?_
  · exact h2
  · intro y0 y1 k2
    extract_lets +onlyGivenNames v3
    clear_value v3
    extract_lets +onlyGivenNames v4
    clear_value v4
    extract_lets +onlyGivenNames v5
    have p6 : Kept b v5 := by
      unfold v5
      exact putThread_kept _ _ _ k2
    clear_value v5
    extract_lets +onlyGivenNames v7
    clear_value v7
    exact kept_ite (mapThreads_kept _ _ p6) p6

theorem execNop_kept{b : State} : ∀ x0 x1 x2, Kept b x2 → KeptO b (execNop x0 x1 x2) := by
  intro x0 x1 x2 h2
  unfold execNop
  exact issue_kept _ _ _ _ _ h2 (fun y0 y1 k2 => fin_kept _ _ _ k2)

theorem execTrap_kept{b : State} : ∀ x0 x1 x2, Kept b x2 → KeptO b (execTrap x0 x1 x2) := by
  intro x0 x1 x2 h2
  unfold execTrap
  exact issue_kept _ _ _ _ _ h2 (fun y0 y1 k2 => takeTrap_kept _ _ _ _ k2)

theorem execNwread_kept{b : State} : ∀ x0 x1 x2, Kept b x2 → KeptO b (execNwread x0 x1 x2) := by
  intro x0 x1 x2 h2
  unfold execNwread
  refine issue_kept _ _ _ _ _ ?_ ?_
  · exact h2
  · intro y0 y1 k2
    extract_lets +onlyGivenNames v3
    clear_value v3
    extract_lets +onlyGivenNames v4
    clear_value v4
    extract_lets +onlyGivenNames v5
    clear_value v5
    extract_lets +onlyGivenNames v6
    clear_value v6
    exact fin_kept _ _ _ (setCore_kept _ _ _ k2)

theorem watched_kept{b : State} : ∀ x0 x1 x2, Kept b x0 → Kept b (watched x0 x1 x2) := by
  intro x0 x1 x2 h0
  unfold watched
  exact kept_ite (leaf_kept _ _ _ (putThread_kept _ _ _ h0)) h0

theorem deliver_kept{b : State} : ∀ x0 x1 x2 x3 x4 x5, Kept b x0 → Kept b (deliver x0 x1 x2 x3 x4 x5) := by
  intro x0 x1 x2 x3 x4 x5 h0
  unfold deliver
  refine kept_ite ?_ ?_
  · extract_lets +onlyGivenNames v0
    clear_value v0
    exact fin_kept _ _ _ (setCore_kept _ _ _ h0)
  · exact fin_kept _ _ _ h0

theorem execLdl_kept{b : State} : ∀ x0 x1 x2, Kept b x2 → KeptO b (execLdl x0 x1 x2) := by
  intro x0 x1 x2 h2
  unfold execLdl
  refine issue_kept _ _ _ _ _ ?_ ?_
  · exact h2
  · intro y0 y1 k2
    extract_lets +onlyGivenNames v3
    clear_value v3
    extract_lets +onlyGivenNames v4
    clear_value v4
    extract_lets +onlyGivenNames v5
    clear_value v5
    exact kept_ite (takeTrap_kept _ _ _ _ k2) (watched_kept _ _ _ (deliver_kept _ _ _ _ _ _ k2))

theorem execStl_kept{b : State} : ∀ x0 x1 x2, Kept b x2 → KeptO b (execStl x0 x1 x2) := by
  intro x0 x1 x2 h2
  unfold execStl
  refine issue_kept _ _ _ _ _ ?_ ?_
  · exact h2
  · intro y0 y1 k2
    extract_lets +onlyGivenNames v3
    clear_value v3
    extract_lets +onlyGivenNames v4
    clear_value v4
    extract_lets +onlyGivenNames v5
    clear_value v5
    extract_lets +onlyGivenNames v6
    clear_value v6
    exact kept_ite (takeTrap_kept _ _ _ _ k2) (watched_kept _ _ _ (fin_kept _ _ _ (setCore_kept _ _ _ k2)))

theorem execLdr_kept{b : State} : ∀ x0 x1 x2, Kept b x2 → KeptO b (execLdr x0 x1 x2) := by
  intro x0 x1 x2 h2
  unfold execLdr
  refine issue_kept _ _ _ _ _ ?_ ?_
  · exact h2
  · intro y0 y1 k2
    extract_lets +onlyGivenNames v3
    clear_value v3
    extract_lets +onlyGivenNames v4
    clear_value v4
    refine kept_ite ?_ ?_
    · exact takeTrap_kept _ _ _ _ k2
    · split
      · exact takeTrap_kept _ _ _ _ k2
      · exact deliver_kept _ _ _ _ _ _ k2

theorem execStr_kept{b : State} : ∀ x0 x1 x2, Kept b x2 → KeptO b (execStr x0 x1 x2) := by
  intro x0 x1 x2 h2
  unfold execStr
  refine issue_kept _ _ _ _ _ ?_ ?_
  · exact h2
  · intro y0 y1 k2
    extract_lets +onlyGivenNames v3
    clear_value v3
    extract_lets +onlyGivenNames v4
    clear_value v4
    refine kept_ite ?_ ?_
    · exact takeTrap_kept _ _ _ _ k2
    · split
      · exact fin_kept _ _ _ k2
      · exact fin_kept _ _ _ (setCore_kept _ _ _ k2)

theorem loadPiece_kept{b : State} : ∀ x0 x1 x2 x3 x4 x5 x6, Kept b x0 → Kept b (loadPiece x0 x1 x2 x3 x4 x5 x6).2.2 := by
  intro x0 x1 x2 x3 x4 x5 x6 h0
  unfold loadPiece
  split
  · rename_i z4
    split
    · exact windowLoad_kept _ _ _ _ _ _ _ (kept_of_eq_2_2_2 z4 (clTranslate_kept _ _ _ _ _ h0))
    · split
      rename_i z19
      dsimp only
      exact noteDegraded_kept _ _ _ (kept_of_eq_2_2_2 z19 (counterLoad_kept _ _ _ _ (kept_of_eq_2_2_2 z4 (clTranslate_kept _ _ _ _ _ h0))))
    · split
      rename_i z28
      dsimp only
      exact noteDegraded_kept _ _ _ (kept_of_eq_2_2_2 z28 (demandLoad_kept _ _ _ _ _ _ _ _ _ (upset_kept _ _ _ _ _ (kept_of_eq_2_2_2 z4 (clTranslate_kept _ _ _ _ _ h0)))))
  · rename_i z35
    exact kept_of_eq_2_2_2 z35 (clTranslate_kept _ _ _ _ _ h0)

theorem loadSplit_kept{b : State} : ∀ x0 x1 x2 x3 x4 x5 x6, Kept b x0 → Kept b (loadSplit x0 x1 x2 x3 x4 x5 x6).2.2 := by
  intro x0 x1 x2 x3 x4 x5 x6 h0
  unfold loadSplit
  extract_lets +onlyGivenNames v0
  clear_value v0
  split
  rename_i z5
  refine kept_ite_2_2 ?_ ?_
  · exact kept_of_eq_2_2 z5 (loadPiece_kept _ _ _ _ _ _ _ h0)
  · extract_lets +onlyGivenNames v6
    clear_value v6
    split
    rename_i z11
    extract_lets +onlyGivenNames v12
    clear_value v12
    extract_lets +onlyGivenNames v13
    clear_value v13
    refine kept_ite_2_2 ?_ ?_
    · exact kept_of_eq_2_2 z11 (loadPiece_kept _ _ _ _ _ _ _ (kept_of_eq_2_2 z5 (loadPiece_kept _ _ _ _ _ _ _ h0)))
    · split
      rename_i z18
      exact kept_of_eq_2_2 z18 (loadPiece_kept _ _ _ _ _ _ _ (kept_of_eq_2_2 z11 (loadPiece_kept _ _ _ _ _ _ _ (kept_of_eq_2_2 z5 (loadPiece_kept _ _ _ _ _ _ _ h0)))))

theorem execLdg_kept{b : State} : ∀ x0 x1 x2 x3, Kept b x3 → KeptO b (execLdg x0 x1 x2 x3) := by
  intro x0 x1 x2 x3 h3
  unfold execLdg
  refine issue_kept _ _ _ _ _ ?_ ?_
  · exact h3
  · intro y0 y1 k2
    extract_lets +onlyGivenNames v3
    clear_value v3
    extract_lets +onlyGivenNames v4
    clear_value v4
    refine kept_ite ?_ ?_
    · exact takeTrap_kept _ _ _ _ k2
    · refine kept_ite ?_ ?_
      · exact k2
      · extract_lets +onlyGivenNames v5
        clear_value v5
        split
        · rename_i z9
          exact watched_kept _ _ _ (deliver_kept _ _ _ _ _ _ (kept_of_eq_2_2 z9 (loadSplit_kept _ _ _ _ _ _ _ k2)))
        · rename_i z15
          exact takeTrap_kept _ _ _ _ (kept_of_eq_2_2 z15 (loadSplit_kept _ _ _ _ _ _ _ k2))

theorem storePiece_kept{b : State} : ∀ x0 x1 x2 x3 x4 x5 x6 x7, Kept b x0 → Kept b (storePiece x0 x1 x2 x3 x4 x5 x6 x7).2 := by
  intro x0 x1 x2 x3 x4 x5 x6 x7 h0
  unfold storePiece
  split
  · rename_i z4
    split
    · exact windowStore_kept _ _ _ _ _ _ _ _ (kept_of_eq_2_2_2 z4 (clTranslate_kept _ _ _ _ _ h0))
    · split
      rename_i z18
      dsimp only
      exact noteDegraded_kept _ _ _ (kept_of_eq_2_2 z18 (counterStore_kept _ _ _ _ _ (kept_of_eq_2_2_2 z4 (clTranslate_kept _ _ _ _ _ h0))))
    · split
      rename_i z26
      dsimp only
      exact noteDegraded_kept _ _ _ (kept_of_eq_2_2 z26 (cacheStore_kept _ _ _ _ _ _ _ _ (upset_kept _ _ _ _ _ (kept_of_eq_2_2_2 z4 (clTranslate_kept _ _ _ _ _ h0)))))
  · rename_i z33
    exact kept_of_eq_2_2_2 z33 (clTranslate_kept _ _ _ _ _ h0)

theorem storeSplit_kept{b : State} : ∀ x0 x1 x2 x3 x4 x5 x6 x7, Kept b x0 → Kept b (storeSplit x0 x1 x2 x3 x4 x5 x6 x7).2 := by
  intro x0 x1 x2 x3 x4 x5 x6 x7 h0
  unfold storeSplit
  extract_lets +onlyGivenNames v0
  clear_value v0
  extract_lets +onlyGivenNames v1
  clear_value v1
  split
  rename_i z5
  extract_lets +onlyGivenNames v6
  clear_value v6
  refine kept_ite_2 ?_ ?_
  · exact kept_of_eq_2 z5 (storePiece_kept _ _ _ _ _ _ _ _ h0)
  · extract_lets +onlyGivenNames v7
    clear_value v7
    split
    rename_i z11
    extract_lets +onlyGivenNames v12
    clear_value v12
    refine kept_ite_2 ?_ ?_
    · exact kept_of_eq_2 z11 (storePiece_kept _ _ _ _ _ _ _ _ (kept_of_eq_2 z5 (storePiece_kept _ _ _ _ _ _ _ _ h0)))
    · extract_lets +onlyGivenNames v13
      clear_value v13
      split
      rename_i z17
      exact kept_of_eq_2 z17 (storePiece_kept _ _ _ _ _ _ _ _ (kept_of_eq_2 z11 (storePiece_kept _ _ _ _ _ _ _ _ (kept_of_eq_2 z5 (storePiece_kept _ _ _ _ _ _ _ _ h0)))))

theorem execStg_kept{b : State} : ∀ x0 x1 x2 x3, Kept b x3 → KeptO b (execStg x0 x1 x2 x3) := by
  intro x0 x1 x2 x3 h3
  unfold execStg
  refine issue_kept _ _ _ _ _ ?_ ?_
  · exact h3
  · intro y0 y1 k2
    extract_lets +onlyGivenNames v3
    clear_value v3
    extract_lets +onlyGivenNames v4
    clear_value v4
    extract_lets +onlyGivenNames v5
    clear_value v5
    refine kept_ite ?_ ?_
    · exact takeTrap_kept _ _ _ _ k2
    · refine kept_ite ?_ ?_
      · exact k2
      · extract_lets +onlyGivenNames v6
        clear_value v6
        split
        rename_i z10
        exact watched_kept _ _ _ (fin_kept _ _ _ (kept_of_eq_2 z10 (storeSplit_kept _ _ _ _ _ _ _ _ k2)))

theorem execStoreFault_kept{b : State} : ∀ x0 x1 x2 x3, Kept b x3 → KeptO b (execStoreFault x0 x1 x2 x3) := by
  intro x0 x1 x2 x3 h3
  unfold execStoreFault
  refine guardWf_kept _ _ ?_
  refine keptO_next ?_
  extract_lets +onlyGivenNames v0
  clear_value v0
  exact kept_ite (putThread_kept _ _ _ h3) h3

theorem execAtom_kept{b : State} : ∀ x0 x1 x2, Kept b x2 → KeptO b (execAtom x0 x1 x2) := by
  intro x0 x1 x2 h2
  unfold execAtom
  refine issue_kept _ _ _ _ _ ?_ ?_
  · exact h2
  · intro y0 y1 k2
    extract_lets +onlyGivenNames v3
    clear_value v3
    extract_lets +onlyGivenNames v4
    clear_value v4
    extract_lets +onlyGivenNames v5
    clear_value v5
    refine kept_ite ?_ ?_
    · exact takeTrap_kept _ _ _ _ k2
    · refine kept_ite ?_ ?_
      · exact k2
      · extract_lets +onlyGivenNames v6
        clear_value v6
        extract_lets +onlyGivenNames v7
        clear_value v7
        split
        · rename_i z12
          split
          · rename_i z17
            exact watched_kept _ _ _ (fin_kept _ _ _ (noteDegraded_kept _ _ _ (kept_of_eq_2_2_2 z17 (cacheAtomic_kept _ _ _ _ _ _ _ (kept_of_eq_2_2_2 z12 (clTranslate_kept _ _ _ _ _ k2))))))
          · rename_i z24
            exact takeTrap_kept _ _ _ _ (kept_of_eq_2_2_2 z24 (cacheAtomic_kept _ _ _ _ _ _ _ (kept_of_eq_2_2_2 z12 (clTranslate_kept _ _ _ _ _ k2))))
        · rename_i z31
          exact takeTrap_kept _ _ _ _ (kept_of_eq_2_2_2 z31 (clTranslate_kept _ _ _ _ _ k2))

theorem fenceRel_kept{b : State} : ∀ x0 x1 x2, Kept b x0 → Kept b (fenceRel x0 x1 x2) := by
  intro x0 x1 x2 h0
  unfold fenceRel
  refine kept_ite ?_ ?_
  · exact h0
  · extract_lets +onlyGivenNames v0
    clear_value v0
    exact wbCluster_kept _ _ _ _ h0

theorem fenceAcq_kept{b : State} : ∀ x0 x1 x2, Kept b x0 → Kept b (fenceAcq x0 x1 x2) := by
  intro x0 x1 x2 h0
  unfold fenceAcq
  extract_lets +onlyGivenNames v0
  clear_value v0
  extract_lets +onlyGivenNames v1
  have p2 : Kept b v1 := by
    unfold v1
    exact kept_ite (acquireCl_kept _ _ _ h0) h0
  clear_value v1
  exact kept_ite (acquireRdc_kept _ _ _ p2) p2

theorem execFenceRel_kept{b : State} : ∀ x0 x1 x2, Kept b x2 → KeptO b (execFenceRel x0 x1 x2) := by
  intro x0 x1 x2 h2
  unfold execFenceRel
  exact issue_kept _ _ _ _ _ h2 (fun y0 y1 k2 => withPend_kept _ _ _ _ k2 (fin_kept _ _ _ (fenceRel_kept _ _ _ k2)))

theorem execFenceAcq_kept{b : State} : ∀ x0 x1 x2, Kept b x2 → KeptO b (execFenceAcq x0 x1 x2) := by
  intro x0 x1 x2 h2
  unfold execFenceAcq
  exact issue_kept _ _ _ _ _ h2 (fun y0 y1 k2 => withPend_kept _ _ _ _ k2 (fin_kept _ _ _ (fenceAcq_kept _ _ _ k2)))

theorem execFenceFull_kept{b : State} : ∀ x0 x1 x2, Kept b x2 → KeptO b (execFenceFull x0 x1 x2) := by
  intro x0 x1 x2 h2
  unfold execFenceFull
  exact issue_kept _ _ _ _ _ h2 (fun y0 y1 k2 => withPend_kept _ _ _ _ k2 (fin_kept _ _ _ (fenceAcq_kept _ _ _ (fenceRel_kept _ _ _ k2))))

theorem execPref_kept{b : State} : ∀ x0 x1 x2, Kept b x2 → KeptO b (execPref x0 x1 x2) := by
  intro x0 x1 x2 h2
  unfold execPref
  refine issue_kept _ _ _ _ _ ?_ ?_
  · exact h2
  · intro y0 y1 k2
    extract_lets +onlyGivenNames v3
    clear_value v3
    extract_lets +onlyGivenNames v4
    clear_value v4
    refine kept_ite ?_ ?_
    · exact takeTrap_kept _ _ _ _ k2
    · extract_lets +onlyGivenNames v5
      clear_value v5
      extract_lets +onlyGivenNames v6
      clear_value v6
      exact fin_kept _ _ _ (prefetchRun_kept _ _ _ _ _ _ k2)

theorem execSpset_kept{b : State} : ∀ x0 x1 x2, Kept b x2 → KeptO b (execSpset x0 x1 x2) := by
  intro x0 x1 x2 h2
  unfold execSpset
  refine issue_kept _ _ _ _ _ ?_ ?_
  · exact h2
  · intro y0 y1 k2
    extract_lets +onlyGivenNames v3
    clear_value v3
    refine kept_ite ?_ ?_
    · exact takeTrap_kept _ _ _ _ k2
    · extract_lets +onlyGivenNames v4
      clear_value v4
      extract_lets +onlyGivenNames v5
      clear_value v5
      extract_lets +onlyGivenNames v6
      clear_value v6
      extract_lets +onlyGivenNames v7
      clear_value v7
      exact fin_kept _ _ _ (pfRun_kept _ _ _ _ _ (putPf_kept _ _ _ _ k2))

theorem execSpstop_kept{b : State} : ∀ x0 x1 x2, Kept b x2 → KeptO b (execSpstop x0 x1 x2) := by
  intro x0 x1 x2 h2
  unfold execSpstop
  refine issue_kept _ _ _ _ _ ?_ ?_
  · exact h2
  · intro y0 y1 k2
    extract_lets +onlyGivenNames v3
    clear_value v3
    extract_lets +onlyGivenNames v4
    clear_value v4
    exact fin_kept _ _ _ (putPf_kept _ _ _ _ k2)

theorem hubLoad_kept{b : State} : ∀ x0 x1 x2 x3, Kept b x0 → Kept b (hubLoad x0 x1 x2 x3).2.2 := by
  intro x0 x1 x2 x3 h0
  unfold hubLoad
  split
  · rename_i z4
    split
    · exact windowLoad_kept _ _ _ _ _ _ _ (kept_of_eq_2_2_2 z4 (hubTranslate_kept _ _ _ _ h0))
    · split
      rename_i z19
      dsimp only
      exact noteDegraded_kept _ _ _ (kept_of_eq_2_2_2 z19 (counterLoad_kept _ _ _ _ (kept_of_eq_2_2_2 z4 (hubTranslate_kept _ _ _ _ h0))))
    · split
      rename_i z28
      dsimp only
      exact noteDegraded_kept _ _ _ (kept_of_eq_2_2_2 z28 (lineReadN_kept _ _ _ _ _ (kept_of_eq_2_2_2 z4 (hubTranslate_kept _ _ _ _ h0))))
  · rename_i z35
    exact kept_of_eq_2_2_2 z35 (hubTranslate_kept _ _ _ _ h0)

theorem hubStore_kept{b : State} : ∀ x0 x1 x2 x3 x4, Kept b x0 → Kept b (hubStore x0 x1 x2 x3 x4).2 := by
  intro x0 x1 x2 x3 x4 h0
  unfold hubStore
  split
  · rename_i z4
    split
    · exact windowStore_kept _ _ _ _ _ _ _ _ (kept_of_eq_2_2_2 z4 (hubTranslate_kept _ _ _ _ h0))
    · split
      rename_i z18
      dsimp only
      exact noteDegraded_kept _ _ _ (kept_of_eq_2_2 z18 (counterStore_kept _ _ _ _ _ (kept_of_eq_2_2_2 z4 (hubTranslate_kept _ _ _ _ h0))))
    · split
      rename_i z26
      dsimp only
      exact noteDegraded_kept _ _ _ (kept_of_eq_2_2 z26 (partWrite_kept _ _ _ _ _ (kept_of_eq_2_2_2 z4 (hubTranslate_kept _ _ _ _ h0))))
  · rename_i z33
    exact kept_of_eq_2_2_2 z33 (hubTranslate_kept _ _ _ _ h0)

theorem onWait_kept{b : State} : ∀ x0 x1 x2 x3 x4, Kept b x0 → (∀ y0, Kept b (x4 y0)) → KeptO b (onWait x0 x1 x2 x3 x4) := by
  intro x0 x1 x2 x3 x4 h0 h4
  unfold onWait
  refine guardWf_kept _ _ ?_
  refine keptO_next ?_
  split
  · exact kept_ite (h4 _) h0
  · exact h0

theorem waitTest_kept{b : State} : ∀ x0 x1 x2 x3 x4, Kept b x0 → Kept b (waitTest x0 x1 x2 x3 x4) := by
  intro x0 x1 x2 x3 x4 h0
  unfold waitTest
  exact kept_ite (finishUnit_kept _ _ _ _ h0) (setOp_kept _ _ _ _ h0)

theorem execWaitCounter_kept{b : State} : ∀ x0 x1 x2, Kept b x2 → KeptO b (execWaitCounter x0 x1 x2) := by
  intro x0 x1 x2 h2
  unfold execWaitCounter
  refine onWait_kept _ _ _ _ _ ?_ ?_
  · exact h2
  · intro y0
    extract_lets +onlyGivenNames v1
    clear_value v1
    refine kept_ite ?_ ?_
    · exact finishUnit_kept _ _ _ _ h2
    · split
      · exact waitTest_kept _ _ _ _ _ h2
      · exact finishUnit_kept _ _ _ _ h2

theorem waitRead_kept{b : State} : ∀ x0 x1 x2 x3, Kept b x0 → Kept b (waitRead x0 x1 x2 x3) := by
  intro x0 x1 x2 x3 h0
  unfold waitRead
  extract_lets +onlyGivenNames v0
  clear_value v0
  refine kept_ite ?_ ?_
  · exact finishUnit_kept _ _ _ _ h0
  · split
    · rename_i z4
      exact waitTest_kept _ _ _ _ _ (kept_of_eq_2_2 z4 (hubLoad_kept _ _ _ _ h0))
    · rename_i z10
      exact finishUnit_kept _ _ _ _ (kept_of_eq_2_2 z10 (hubLoad_kept _ _ _ _ h0))

theorem execWaitWord_kept{b : State} : ∀ x0 x1 x2, Kept b x2 → KeptO b (execWaitWord x0 x1 x2) := by
  intro x0 x1 x2 h2
  unfold execWaitWord
  exact onWait_kept _ _ _ _ _ h2 (fun y0 => kept_ite (waitRead_kept _ _ _ _ h2) h2)

theorem execWaitWordPoll_kept{b : State} : ∀ x0 x1 x2, Kept b x2 → KeptO b (execWaitWordPoll x0 x1 x2) := by
  intro x0 x1 x2 h2
  unfold execWaitWordPoll
  exact onWait_kept _ _ _ _ _ h2 (fun y0 => kept_ite (waitRead_kept _ _ _ _ h2) h2)

theorem execWaitTimeout_kept{b : State} : ∀ x0 x1 x2, Kept b x2 → KeptO b (execWaitTimeout x0 x1 x2) := by
  intro x0 x1 x2 h2
  unfold execWaitTimeout
  refine guardWf_kept _ _ ?_
  refine keptO_next ?_
  split
  · exact h2
  · extract_lets +onlyGivenNames v5
    clear_value v5
    exact kept_ite h2 (finishUnit_kept _ _ _ _ (kept_mk (kept_eta h2)))

theorem onSignal_kept{b : State} : ∀ x0 x1 x2 x3 x4, Kept b x0 → (∀ y0, Kept b (x4 y0)) → KeptO b (onSignal x0 x1 x2 x3 x4) := by
  intro x0 x1 x2 x3 x4 h0 h4
  unfold onSignal
  exact onChosen_kept _ _ _ _ _ h0 (fun y0 => kept_ite h0 (kept_ite (finishUnit_kept _ _ _ _ h0) (h4 _)))

theorem execCounterAdd_kept{b : State} : ∀ x0 x1 x2, Kept b x2 → KeptO b (execCounterAdd x0 x1 x2) := by
  intro x0 x1 x2 h2
  unfold execCounterAdd
  refine onSignal_kept _ _ _ _ _ ?_ ?_
  · exact h2
  · intro y0
    extract_lets +onlyGivenNames v1
    clear_value v1
    split
    rename_i z7
    exact finishUnit_kept _ _ _ _ (noteDegraded_kept _ _ _ (kept_of_eq_2_2_2 z7 (atomicAt_kept _ _ _ _ _ _ h2)))

theorem execCounterSet_kept{b : State} : ∀ x0 x1 x2, Kept b x2 → KeptO b (execCounterSet x0 x1 x2) := by
  intro x0 x1 x2 h2
  unfold execCounterSet
  refine onSignal_kept _ _ _ _ _ ?_ ?_
  · exact h2
  · intro y0
    extract_lets +onlyGivenNames v1
    clear_value v1
    split
    rename_i z6
    exact finishUnit_kept _ _ _ _ (noteDegraded_kept _ _ _ (kept_of_eq_2_2 z6 (counterStore_kept _ _ _ _ _ h2)))

theorem execWrite64_kept{b : State} : ∀ x0 x1 x2, Kept b x2 → KeptO b (execWrite64 x0 x1 x2) := by
  intro x0 x1 x2 h2
  unfold execWrite64
  refine onSignal_kept _ _ _ _ _ ?_ ?_
  · exact h2
  · intro y0
    extract_lets +onlyGivenNames v1
    clear_value v1
    extract_lets +onlyGivenNames v2
    clear_value v2
    refine kept_ite ?_ ?_
    · exact finishUnit_kept _ _ _ _ h2
    · split
      rename_i z6
      exact finishUnit_kept _ _ _ _ (kept_of_eq_2 z6 (kept_ite_2 (hubHostWrite_kept _ _ _ _ _ h2) (hubStore_kept _ _ _ _ _ h2)))

theorem execSignalSqAdd_kept{b : State} : ∀ x0 x1 x2, Kept b x2 → KeptO b (execSignalSqAdd x0 x1 x2) := by
  intro x0 x1 x2 h2
  unfold execSignalSqAdd
  refine onSignal_kept _ _ _ _ _ ?_ ?_
  · exact h2
  · intro y0
    extract_lets +onlyGivenNames v1
    clear_value v1
    split
    · exact finishUnit_kept _ _ _ _ h2
    · exact kept_ite (finishUnit_kept _ _ _ _ h2) (kept_ite (finishUnit_kept _ _ _ _ h2) (finishUnit_kept _ _ _ _ (setRing_kept _ _ _ _ h2)))

theorem ringAcquire_kept{b : State} : ∀ x0 x1 x2 x3, Kept b x0 → Kept b (ringAcquire x0 x1 x2 x3) := by
  intro x0 x1 x2 x3 h0
  unfold ringAcquire
  extract_lets +onlyGivenNames v0
  have p1 : Kept b v0 := by
    unfold v0
    exact kept_foldl (fun f2 i2 p2 => acquireCl_kept _ _ _ p2) _ h0
  clear_value v0
  exact kept_ite (acquireRdc_kept _ _ _ p1) p1

theorem onFence_kept{b : State} : ∀ x0 x1 x2 x3 x4, Kept b x0 → (∀ y0, Kept b (x4 y0)) → KeptO b (onFence x0 x1 x2 x3 x4) := by
  intro x0 x1 x2 x3 x4 h0 h4
  unfold onFence
  exact onChosen_kept _ _ _ _ _ h0 (fun y0 => kept_ite (finishUnit_kept _ _ _ _ (h4 _)) h0)

theorem execFenceDescRel_kept{b : State} : ∀ x0 x1 x2, Kept b x2 → KeptO b (execFenceDescRel x0 x1 x2) := by
  intro x0 x1 x2 h2
  unfold execFenceDescRel
  exact onFence_kept _ _ _ _ _ h2 (fun y0 => h2)

theorem execFenceDescAcq_kept{b : State} : ∀ x0 x1 x2, Kept b x2 → KeptO b (execFenceDescAcq x0 x1 x2) := by
  intro x0 x1 x2 h2
  unfold execFenceDescAcq
  exact onFence_kept _ _ _ _ _ h2 (fun y0 => ringAcquire_kept _ _ _ _ h2)

theorem execFenceDescFull_kept{b : State} : ∀ x0 x1 x2, Kept b x2 → KeptO b (execFenceDescFull x0 x1 x2) := by
  intro x0 x1 x2 h2
  unfold execFenceDescFull
  exact onFence_kept _ _ _ _ _ h2 (fun y0 => ringAcquire_kept _ _ _ _ h2)

theorem execNopDescriptor_kept{b : State} : ∀ x0 x1 x2, Kept b x2 → KeptO b (execNopDescriptor x0 x1 x2) := by
  intro x0 x1 x2 h2
  unfold execNopDescriptor
  exact onChosen_kept _ _ _ _ _ h2 (fun y0 => finishUnit_kept _ _ _ _ h2)

end Sys2Proof.Machine
end

