-- ==== Sys2Proof/Laws/KeptCopies.lean ====
section
/-! SUPPORT. `f_kept` (Laws/Kept.lean) for the functions of copies and the state engine. -/
namespace Sys2Proof.Machine

theorem localDone_kept{b : State} : ∀ x0 x1 x2 x3 x4 x5, Kept b x0 → Kept b (localDone x0 x1 x2 x3 x4 x5) := by
  intro x0 x1 x2 x3 x4 x5 h0
  unfold localDone
  split
  · exact h0
  · extract_lets +onlyGivenNames v12
    clear_value v12
    extract_lets +onlyGivenNames v13
    clear_value v13
    extract_lets +onlyGivenNames v14
    clear_value v14
    split
    · exact h0
    · exact setCore_kept _ _ _ h0
    · exact setCore_kept _ _ _ h0
    · extract_lets +onlyGivenNames v34
      clear_value v34
      exact bumpLocal_kept _ _ _ (setCore_kept _ _ _ h0)

theorem request_kept{b : State} : ∀ x0 x1 x2 x3 x4, Kept b x3 → (∀ y0 y1 y2, Kept b y2 → Kept b (x4 y0 y1 y2)) → KeptO b (request x0 x1 x2 x3 x4) := by
  intro x0 x1 x2 x3 x4 h3 h4
  unfold request
  refine issue_kept _ _ _ _ _ ?_ ?_
  · exact h3
  · intro y0 y1 k2
    extract_lets +onlyGivenNames v3
    clear_value v3
    extract_lets +onlyGivenNames v4
    clear_value v4
    extract_lets +onlyGivenNames v5
    clear_value v5
    refine kept_ite ?_ ?_
    · exact takeTrap_kept _ _ _ _ k2
    · refine kept_ite ?_ ?_
      · exact k2
      · extract_lets +onlyGivenNames v6
        clear_value v6
        extract_lets +onlyGivenNames v7
        clear_value v7
        extract_lets +onlyGivenNames v8
        clear_value v8
        extract_lets +onlyGivenNames v9
        clear_value v9
        extract_lets +onlyGivenNames v10
        have p11 : Kept b v10 := by
          unfold v10
          exact fin_kept _ _ _ (kept_mk (kept_eta k2))
        clear_value v10
        extract_lets +onlyGivenNames v12
        clear_value v12
        extract_lets +onlyGivenNames v13
        have p14 : Kept b v13 := by
          unfold v13
          exact setCore_kept _ _ _ p11
        clear_value v13
        exact kept_ite (localDone_kept _ _ _ _ _ _ p14) (h4 _ _ _ p14)

theorem copyReadGa_kept{b : State} : ∀ x0 x1 x2 x3 x4 x5 x6, Kept b x0 → Kept b (copyReadGa x0 x1 x2 x3 x4 x5 x6).2.2.2 := by
  intro x0 x1 x2 x3 x4 x5 x6 h0
  unfold copyReadGa
  split
  · refine kept_ite_2_2_2 ?_ ?_
    · split
      rename_i z8
      exact kept_of_eq_2_2_2 z8 (lineRead_kept _ _ _ h0)
    · exact demandLoad_kept _ _ _ _ _ _ _ _ _ (upset_kept _ _ _ _ _ h0)
  · refine kept_ite_2_2_2 ?_ ?_
    · split
      rename_i z16
      exact kept_of_eq_2_2_2 z16 (lineRead_kept _ _ _ h0)
    · split
      rename_i z22
      exact kept_of_eq_2_2_2 z22 (partRead_kept _ _ _ _ _ _ _ (upset_kept _ _ _ _ _ h0))

theorem copyTranslate_kept{b : State} : ∀ x0 x1 x2 x3, Kept b x0 → Kept b (copyTranslate x0 x1 x2 x3).2.2.2 := by
  intro x0 x1 x2 x3 h0
  unfold copyTranslate
  split
  · exact clTranslate_kept _ _ _ _ _ h0
  · exact hubTranslate_kept _ _ _ _ h0

theorem copyRead_kept{b : State} : ∀ x0 x1 x2 x3 x4, Kept b x0 → Kept b (copyRead x0 x1 x2 x3 x4).2.2.2 := by
  intro x0 x1 x2 x3 x4 h0
  unfold copyRead
  split
  · split
    · rename_i z6
      exact copyReadGa_kept _ _ _ _ _ _ _ (kept_of_eq_2_2_2 z6 (copyTranslate_kept _ _ _ _ h0))
    · rename_i z13
      exact kept_of_eq_2_2_2 z13 (copyTranslate_kept _ _ _ _ h0)
  · split
    · exact h0
    · exact h0
  · split
    rename_i z30
    exact kept_of_eq_2_2 z30 (hubHostRead_kept _ _ _ _ h0)
  · exact copyReadGa_kept _ _ _ _ _ _ _ h0

theorem copyReadRun_kept{b : State} : ∀ x0 x1 x2 x3 x4 x5, Kept b x0 → Kept b (copyReadRun x0 x1 x2 x3 x4 x5).2.2.2 := by
  intro x0 x1 x2 x3 x4 x5
  induction x3 generalizing x0 x1 x2 x4 x5 with
  | zero =>
    intro h0
    unfold copyReadRun
    exact h0
  | succ n ih =>
    intro h0
    unfold copyReadRun
    refine kept_ite_2_2_2 ?_ ?_
    · exact h0
    · extract_lets +onlyGivenNames v0
      clear_value v0
      split
      · rename_i z5
        split
        rename_i z11
        exact kept_of_eq_2_2_2 z11 (ih _ _ _ _ _ (kept_of_eq_2_2_2 z5 (copyRead_kept _ _ _ _ _ h0)))
      · rename_i z18
        exact kept_of_eq_2_2_2 z18 (copyRead_kept _ _ _ _ _ h0)

theorem copyWrite_kept{b : State} : ∀ x0 x1 x2 x3, Kept b x0 → Kept b (copyWrite x0 x1 x2 x3).2.2.2.2 := by
  intro x0 x1 x2 x3 h0
  unfold copyWrite
  extract_lets +onlyGivenNames v0
  clear_value v0
  extract_lets +onlyGivenNames v1
  have p2 : ∀ y2000 y2001 y2002, Kept b y2000 → Kept b (v1 y2000 y2001 y2002).2.2.2.2 := by
    unfold v1
    intro y3 y4 y5 k6
    split
    rename_i z11
    exact kept_of_eq_2_2 z11 (lineWrite_kept _ _ _ _ _ k6)
  clear_value v1
  split
  · split
    · rename_i z18
      exact p2 _ _ _ (kept_of_eq_2_2_2 z18 (copyTranslate_kept _ _ _ _ h0))
    · rename_i z25
      exact kept_of_eq_2_2_2 z25 (copyTranslate_kept _ _ _ _ h0)
  · split
    · extract_lets +onlyGivenNames v31
      clear_value v31
      dsimp only
      exact setCore_kept _ _ _ h0
    · exact h0
  · split
    rename_i z42
    exact kept_of_eq_2 z42 (hubHostWrite_kept _ _ _ _ _ h0)
  · exact p2 _ _ _ h0

theorem encodeRun_kept{b : State} : ∀ x0 x1 x2 x3 x4, Kept b x0 → Kept b (encodeRun x0 x1 x2 x3 x4).2.2.2.2 := by
  intro x0 x1 x2 x3 x4
  induction x3 generalizing x0 x1 x2 x4 with
  | zero =>
    intro h0
    unfold encodeRun
    exact h0
  | succ n ih =>
    intro h0
    unfold encodeRun
    split
    · rename_i z4
      split
      split
      rename_i z15
      exact kept_of_eq_2_2_2_2 z15 (ih _ _ _ _ (kept_of_eq_2_2_2 z4 (copyReadRun_kept _ _ _ _ _ _ h0)))
    · rename_i z22
      exact kept_of_eq_2_2_2 z22 (copyReadRun_kept _ _ _ _ _ _ h0)

theorem decodeRun_kept{b : State} : ∀ x0 x1 x2 x3 x4, Kept b x0 → Kept b (decodeRun x0 x1 x2 x3 x4).2.2.2 := by
  intro x0 x1 x2 x3 x4
  induction x3 generalizing x0 x1 x2 x4 with
  | zero =>
    intro h0
    unfold decodeRun
    exact h0
  | succ n ih =>
    intro h0
    unfold decodeRun
    extract_lets +onlyGivenNames v0
    clear_value v0
    split
    · rename_i z5
      extract_lets +onlyGivenNames v6
      clear_value v6
      split
      rename_i z12
      exact kept_of_eq_2_2_2 z12 (ih _ _ _ _ (kept_of_eq_2_2_2 z5 (copyReadRun_kept _ _ _ _ _ _ h0)))
    · rename_i z19
      exact kept_of_eq_2_2_2 z19 (copyReadRun_kept _ _ _ _ _ _ h0)

theorem unitBytes_kept{b : State} : ∀ x0 x1 x2 x3, Kept b x0 → Kept b (unitBytes x0 x1 x2 x3).2.2.2.2 := by
  intro x0 x1 x2 x3 h0
  unfold unitBytes
  split
  split
  · extract_lets +onlyGivenNames v6
    clear_value v6
    split
    rename_i z13
    exact kept_of_eq_2_2_2_2 z13 (encodeRun_kept _ _ _ _ _ h0)
  · split
    rename_i z21
    exact kept_of_eq_2_2_2 z21 (decodeRun_kept _ _ _ _ _ h0)
  · split
    rename_i z30
    exact kept_of_eq_2_2_2 z30 (copyReadRun_kept _ _ _ _ _ _ h0)

theorem mdlRun_kept{b : State} : ∀ x0 x1 x2 x3, Kept b x0 → Kept b (mdlRun x0 x1 x2 x3).2 := by
  intro x0 x1 x2 x3
  induction x2 generalizing x0 x1 x3 with
  | zero =>
    intro h0
    unfold mdlRun
    exact h0
  | succ n ih =>
    intro h0
    unfold mdlRun
    split
    extract_lets +onlyGivenNames v4
    clear_value v4
    split
    · rename_i z10
      exact ih _ _ _ (kept_of_eq_2_2_2_2 z10 (copyWrite_kept _ _ _ _ (kept_mk (keptF_free _ (kept_eta h0)))))
    · rename_i z18
      exact kept_of_eq_2_2_2_2 z18 (copyWrite_kept _ _ _ _ (kept_mk (keptF_free _ (kept_eta h0))))

theorem mdlWrite_kept{b : State} : ∀ x0 x1, Kept b x0 → Kept b (mdlWrite x0 x1).2 := by
  intro x0 x1 h0
  unfold mdlWrite
  refine kept_ite_2 ?_ ?_
  · exact h0
  · extract_lets +onlyGivenNames v0
    clear_value v0
    exact mdlRun_kept _ _ _ _ h0

theorem settleCopy_kept{b : State} : ∀ x0 x1 x2 x3, Kept b x0 → Kept b (settleCopy x0 x1 x2 x3) := by
  intro x0 x1 x2 x3 h0
  unfold settleCopy
  refine kept_ite ?_ ?_
  · exact kept_mk (kept_eta h0)
  · extract_lets +onlyGivenNames v0
    have p1 : Kept b v0 := by
      unfold v0
      exact kept_mk (kept_eta h0)
    clear_value v0
    split
    extract_lets +onlyGivenNames v7
    have p8 : Kept b v7 := by
      unfold v7
      exact copyEvent_kept _ _ _ p1
    clear_value v7
    split
    · split
      · exact finishOp_kept _ _ _ _ _ _ (setOp_kept _ _ _ _ p8)
      · exact p8
    · exact localDone_kept _ _ _ _ _ _ p8

theorem noteUnit_kept{b : State} : ∀ x0 x1 x2 x3 x4 x5 x6 x7 x8, Kept b x0 → Kept b (noteUnit x0 x1 x2 x3 x4 x5 x6 x7 x8) := by
  intro x0 x1 x2 x3 x4 x5 x6 x7 x8 h0
  unfold noteUnit
  extract_lets +onlyGivenNames v0
  clear_value v0
  extract_lets +onlyGivenNames v1
  have p2 : Kept b v1 := by
    unfold v1
    split
    · exact setArr_kept _ _ _ _ h0
    · exact h0
  clear_value v1
  exact settleCopy_kept _ _ _ _ p2

theorem execCopyUnitAck.write_kept{b : State} : ∀ x0 x1 x2 x3 x4 x5, Kept b x0 → Kept b (execCopyUnitAck.write x0 x1 x2 x3 x4 x5) := by
  intro x0 x1 x2 x3 x4 x5 h0
  unfold execCopyUnitAck.write
  split
  · rename_i z5
    extract_lets +onlyGivenNames v6
    clear_value v6
    extract_lets +onlyGivenNames v7
    have p8 : Kept b v7 := by
      unfold v7
      exact kept_mk (keptF_free _ (kept_eta (kept_of_eq_2_2_2_2 z5 (unitBytes_kept _ _ _ _ h0))))
    clear_value v7
    split
    rename_i z15
    exact noteUnit_kept _ _ _ _ _ _ _ _ _ (kept_of_eq_2_2_2_2 z15 (copyWrite_kept _ _ _ _ p8))
  · rename_i z23
    exact noteUnit_kept _ _ _ _ _ _ _ _ _ (kept_of_eq_2_2_2_2 z23 (unitBytes_kept _ _ _ _ h0))

theorem execCopyUnitAck.segment_kept{b : State} : ∀ x0 x1 x2 x3 x4, Kept b x0 → Kept b (execCopyUnitAck.segment x0 x1 x2 x3 x4) := by
  intro x0 x1 x2 x3 x4 h0
  unfold execCopyUnitAck.segment
  split
  · exact kept_ite (noteUnit_kept _ _ _ _ _ _ _ _ _ h0) (noteUnit_kept _ _ _ _ _ _ _ _ _ h0)
  · exact noteUnit_kept _ _ _ _ _ _ _ _ _ h0

theorem execCopyUnitAck_kept{b : State} : ∀ x0 x1 x2 x3, Kept b x3 → KeptO b (execCopyUnitAck x0 x1 x2 x3) := by
  intro x0 x1 x2 x3 h3
  unfold execCopyUnitAck
  split
  · exact keptO_next h3
  · refine keptO_next ?_
    refine kept_ite ?_ ?_
    · exact h3
    · extract_lets +onlyGivenNames v5
      clear_value v5
      exact kept_ite (execCopyUnitAck.segment_kept _ _ _ _ _ (mdlWrite_kept _ _ h3)) (execCopyUnitAck.write_kept _ _ _ _ _ _ h3)

theorem sourcePrefix_kept{b : State} : ∀ x0 x1 x2 x3 x4, Kept b x0 → Kept b (sourcePrefix x0 x1 x2 x3 x4).2.2.2 := by
  intro x0 x1 x2 x3 x4
  induction x2 generalizing x0 x1 x3 x4 with
  | zero =>
    intro h0
    unfold sourcePrefix
    exact h0
  | succ n ih =>
    intro h0
    unfold sourcePrefix
    refine kept_ite_2_2_2 ?_ ?_
    · exact h0
    · extract_lets +onlyGivenNames v0
      clear_value v0
      split
      · rename_i z5
        split
        rename_i z11
        exact kept_of_eq_2_2_2 z11 (ih _ _ _ _ (kept_of_eq_2_2_2 z5 (copyRead_kept _ _ _ _ _ h0)))
      · rename_i z18
        exact kept_of_eq_2_2_2 z18 (copyRead_kept _ _ _ _ _ h0)

theorem formMdl_kept{b : State} : ∀ x0 x1, Kept b x0 → Kept b (formMdl x0 x1).2 := by
  intro x0 x1 h0
  unfold formMdl
  split
  rename_i z5
  split
  extract_lets +onlyGivenNames v11
  clear_value v11
  extract_lets +onlyGivenNames v12
  clear_value v12
  extract_lets +onlyGivenNames v13
  clear_value v13
  extract_lets +onlyGivenNames v14
  clear_value v14
  extract_lets +onlyGivenNames v15
  clear_value v15
  exact kept_of_eq_2_2_2 z5 (sourcePrefix_kept _ _ _ _ _ h0)

theorem startCopy_kept{b : State} : ∀ x0 x1 x2 x3 x4 x5 x6 x7, Kept b x0 → Kept b (startCopy x0 x1 x2 x3 x4 x5 x6 x7).2 := by
  intro x0 x1 x2 x3 x4 x5 x6 x7 h0
  unfold startCopy
  extract_lets +onlyGivenNames v0
  clear_value v0
  refine kept_ite_2 ?_ ?_
  · exact h0
  · refine kept_ite_2 ?_ ?_
    · exact h0
    · extract_lets +onlyGivenNames v1
      clear_value v1
      split
      rename_i z5
      exact kept_ite_2 h0 (kept_ite_2 (kept_of_eq_2 z5 (kept_ite_2 (formMdl_kept _ _ h0) h0)) (kept_mk (kept_eta (kept_of_eq_2 z5 (kept_ite_2 (formMdl_kept _ _ h0) h0)))))

theorem execCopy_kept{b : State} : ∀ x0 x1 x2, Kept b x2 → KeptO b (execCopy x0 x1 x2) := by
  intro x0 x1 x2 h2
  unfold execCopy
  refine onChosen_kept _ _ _ _ _ ?_ ?_
  · exact h2
  · intro y0
    extract_lets +onlyGivenNames v1
    clear_value v1
    extract_lets +onlyGivenNames v2
    clear_value v2
    extract_lets +onlyGivenNames v3
    have p4 : Kept b v3.2 := by
      unfold v3
      exact startCopy_kept _ _ _ _ _ _ _ _ (kept_mk (kept_eta h2))
    clear_value v3
    split
    · exact finishOp_kept _ _ _ _ _ _ p4
    · exact setOp_kept _ _ _ _ p4

theorem execCpreq_kept{b : State} : ∀ x0 x1 x2, Kept b x2 → KeptO b (execCpreq x0 x1 x2) := by
  intro x0 x1 x2 h2
  unfold execCpreq
  refine request_kept _ _ _ _ _ ?_ ?_
  · exact h2
  · intro y0 y1 y2 k3
    extract_lets +onlyGivenNames v4
    clear_value v4
    extract_lets +onlyGivenNames v5
    clear_value v5
    refine kept_ite ?_ ?_
    · exact localDone_kept _ _ _ _ _ _ k3
    · extract_lets +onlyGivenNames v6
      have p7 : Kept b v6.2 := by
        unfold v6
        exact startCopy_kept _ _ _ _ _ _ _ _ k3
      clear_value v6
      split
      · exact localDone_kept _ _ _ _ _ _ p7
      · exact p7

theorem addrEvent_kept{b : State} : ∀ x0 x1 x2 x3, Kept b x0 → Kept b (addrEvent x0 x1 x2 x3) := by
  intro x0 x1 x2 x3 h0
  unfold addrEvent
  exact emit_kept _ _ _ _ h0

theorem seAllowed_kept{b : State} : ∀ x0 x1 x2 x3 x4, Kept b x0 → Kept b (seAllowed x0 x1 x2 x3 x4).2 := by
  intro x0 x1 x2 x3 x4 h0
  unfold seAllowed
  extract_lets +onlyGivenNames v0
  clear_value v0
  extract_lets +onlyGivenNames v1
  clear_value v1
  extract_lets +onlyGivenNames v2
  clear_value v2
  refine kept_ite_2 ?_ ?_
  · dsimp only
    exact emit_kept _ _ _ _ h0
  · refine kept_ite_2 ?_ ?_
    · dsimp only
      exact denyRecord_kept _ _ _ _ _ _ h0
    · exact kept_ite_2 h0 h0

theorem countRead_kept{b : State} : ∀ x0 x1 x2, Kept b x0 → Kept b (countRead x0 x1 x2) := by
  intro x0 x1 x2 h0
  unfold countRead
  extract_lets +onlyGivenNames v0
  clear_value v0
  exact setStack_kept _ _ _ h0

theorem countWritten_kept{b : State} : ∀ x0 x1 x2, Kept b x0 → Kept b (countWritten x0 x1 x2) := by
  intro x0 x1 x2 h0
  unfold countWritten
  extract_lets +onlyGivenNames v0
  clear_value v0
  exact setStack_kept _ _ _ h0

theorem seRead_kept{b : State} : ∀ x0 x1 x2 x3 x4 x5, Kept b x0 → Kept b (seRead x0 x1 x2 x3 x4 x5).2.2 := by
  intro x0 x1 x2 x3 x4 x5
  induction x3 generalizing x0 x1 x2 x4 x5 with
  | zero =>
    intro h0
    unfold seRead
    exact h0
  | succ n ih =>
    intro h0
    unfold seRead
    refine kept_ite_2_2 ?_ ?_
    · exact h0
    · extract_lets +onlyGivenNames v0
      clear_value v0
      split
      · rename_i z3
        extract_lets +onlyGivenNames v4
        clear_value v4
        refine kept_ite_2_2 ?_ ?_
        · dsimp only
          exact foundUe_kept _ _ _ (kept_of_eq_2 z3 (seAllowed_kept _ _ _ _ _ h0))
        · extract_lets +onlyGivenNames v5
          clear_value v5
          split
          rename_i z10
          exact kept_of_eq_2_2 z10 (ih _ _ _ _ _ (countRead_kept _ _ _ (kept_of_eq_2 z3 (seAllowed_kept _ _ _ _ _ h0))))
      · rename_i z15
        exact kept_of_eq_2 z15 (seAllowed_kept _ _ _ _ _ h0)

theorem seWrite_kept{b : State} : ∀ x0 x1 x2 x3 x4 x5, Kept b x0 → Kept b (seWrite x0 x1 x2 x3 x4 x5).2 := by
  intro x0 x1 x2 x3 x4 x5
  induction x3 generalizing x0 x1 x2 x4 x5 with
  | zero =>
    intro h0
    unfold seWrite
    exact h0
  | succ n ih =>
    intro h0
    unfold seWrite
    refine kept_ite_2 ?_ ?_
    · exact h0
    · extract_lets +onlyGivenNames v0
      clear_value v0
      split
      · rename_i z3
        extract_lets +onlyGivenNames v4
        clear_value v4
        split
        · dsimp only
          exact foundUe_kept _ _ _ (kept_of_eq_2 z3 (seAllowed_kept _ _ _ _ _ h0))
        · rename_i z9
          exact ih _ _ _ _ _ (countWritten_kept _ _ _ (kept_mk (keptF_bwriteList _ _ (kept_eta (ueCover_kept z9 (kept_of_eq_2 z3 (seAllowed_kept _ _ _ _ _ h0)))))))
      · rename_i z14
        exact kept_of_eq_2 z14 (seAllowed_kept _ _ _ _ _ h0)

theorem pageEntry_kept{b : State} : ∀ x0 x1 x2 x3 x4, Kept b x0 → Kept b (pageEntry x0 x1 x2 x3 x4).2 := by
  intro x0 x1 x2 x3 x4 h0
  unfold pageEntry
  refine kept_ite_2 ?_ ?_
  · exact h0
  · split
    · rename_i z3
      extract_lets +onlyGivenNames v4
      clear_value v4
      extract_lets +onlyGivenNames v5
      clear_value v5
      exact kept_ite_2 (kept_of_eq_2_2 z3 (seRead_kept _ _ _ _ _ _ h0)) (kept_ite_2 (kept_of_eq_2_2 z3 (seRead_kept _ _ _ _ _ _ h0)) (kept_ite_2 (kept_of_eq_2_2 z3 (seRead_kept _ _ _ _ _ _ h0)) (kept_of_eq_2_2 z3 (seRead_kept _ _ _ _ _ _ h0))))
    · rename_i z11
      exact kept_of_eq_2_2 z11 (seRead_kept _ _ _ _ _ _ h0)

theorem pageOf_kept{b : State} : ∀ x0 x1 x2 x3 x4 x5, Kept b x0 → Kept b (pageOf x0 x1 x2 x3 x4 x5).2.2 := by
  intro x0 x1 x2 x3 x4 x5 h0
  unfold pageOf
  split
  · exact h0
  · split
    rename_i z8
    exact kept_of_eq_2 z8 (pageEntry_kept _ _ _ _ _ h0)

theorem seekPages_kept{b : State} : ∀ x0 x1 x2 x3 x4 x5, Kept b x0 → Kept b (seekPages x0 x1 x2 x3 x4 x5).2 := by
  intro x0 x1 x2 x3 x4 x5
  induction x5 generalizing x0 x1 x2 x3 x4 with
  | nil =>
    intro h0
    unfold seekPages
    exact h0
  | cons a l ih =>
    intro h0
    unfold seekPages
    split
    rename_i z4
    exact ih _ _ _ _ _ (kept_of_eq_2_2 z4 (pageOf_kept _ _ _ _ _ _ h0))

theorem gather_kept{β : Type} {b : State} : ∀ (x0 : State → Nat → Status × β × State) x1 x2 x3, (∀ y0 y1, Kept b y0 → Kept b (x0 y0 y1).2.2) → Kept b x1 → Kept b (gather x0 x1 x2 x3).2.2 := by
  intro x0 x1 x2 x3
  induction x3 generalizing x0 x1 x2 with
  | nil =>
    intro h0 h1
    unfold gather
    exact h1
  | cons a l ih =>
    intro h0 h1
    unfold gather
    split
    · rename_i z3
      split
      rename_i z8
      exact kept_of_eq_2_2 z8 (ih _ _ _ (fun y9 y10 k11 => h0 _ _ k11) (kept_of_eq_2_2 z3 (h0 _ _ h1)))
    · rename_i z17
      exact kept_of_eq_2_2 z17 (h0 _ _ h1)

theorem readOver_kept{β : Type} [Inhabited β] {b : State} : ∀ (x0 : Pages → State → Nat → Status × β × State) x1 x2 x3 x4 x5, (∀ y0 y1 y2, Kept b y1 → Kept b (x0 y0 y1 y2).2.2) → Kept b x1 → Kept b (readOver x0 x1 x2 x3 x4 x5).2.2 := by
  intro x0 x1 x2 x3 x4 x5 h0 h1
  unfold readOver
  split
  rename_i z3
  extract_lets +onlyGivenNames v4
  clear_value v4
  split
  · exact kept_of_eq_2 z3 (seekPages_kept _ _ _ _ _ _ h1)
  · refine gather_kept _ _ _ _ ?_ ?_
    · intro y10 y11 k12
      split
      · exact h0 _ _ _ k12
      · exact k12
    · exact kept_of_eq_2 z3 (seekPages_kept _ _ _ _ _ _ h1)

theorem seHead_kept{b : State} : ∀ x0 x1 x2 x3 x4 x5 x6 x7, Kept b x6 → Kept b (seHead x0 x1 x2 x3 x4 x5 x6 x7).2.2 := by
  intro x0 x1 x2 x3 x4 x5 x6 x7 h6
  unfold seHead
  extract_lets +onlyGivenNames v0
  clear_value v0
  exact seRead_kept _ _ _ _ _ _ h6

theorem seHeads_kept{b : State} : ∀ x0 x1 x2 x3 x4 x5 x6, Kept b x5 → Kept b (seHeads x0 x1 x2 x3 x4 x5 x6).2.2 := by
  intro x0 x1 x2 x3 x4 x5 x6 h5
  unfold seHeads
  split
  · rename_i z3
    split
    · rename_i z7
      exact kept_of_eq_2_2 z7 (seHead_kept _ _ _ _ _ _ _ _ (kept_of_eq_2_2 z3 (seHead_kept _ _ _ _ _ _ _ _ h5)))
    · rename_i z13
      exact kept_of_eq_2_2 z13 (seHead_kept _ _ _ _ _ _ _ _ (kept_of_eq_2_2 z3 (seHead_kept _ _ _ _ _ _ _ _ h5)))
  · rename_i z19
    exact kept_of_eq_2_2 z19 (seHead_kept _ _ _ _ _ _ _ _ h5)

theorem seToken_kept{b : State} : ∀ x0 x1 x2 x3 x4 x5, Kept b x4 → Kept b (seToken x0 x1 x2 x3 x4 x5).2.2 := by
  intro x0 x1 x2 x3 x4 x5 h4
  unfold seToken
  split
  rename_i z4
  exact kept_of_eq_2_2 z4 (gather_kept _ _ _ _ (fun y5 y6 k7 => seHead_kept _ _ _ _ _ _ _ _ k7) h4)

theorem storeToken_kept{b : State} : ∀ x0 x1 x2 x3 x4 x5 x6 x7, Kept b x0 → Kept b (storeToken x0 x1 x2 x3 x4 x5 x6 x7).2 := by
  intro x0 x1 x2 x3 x4 x5 x6 x7
  induction x6 generalizing x0 x1 x2 x3 x4 x5 x7 with
  | zero =>
    intro h0
    unfold storeToken
    exact h0
  | succ n ih =>
    intro h0
    unfold storeToken
    extract_lets +onlyGivenNames v0
    clear_value v0
    extract_lets +onlyGivenNames v1
    clear_value v1
    extract_lets +onlyGivenNames v2
    clear_value v2
    split
    · rename_i z5
      exact ih _ _ _ _ _ _ _ (kept_of_eq_2 z5 (seWrite_kept _ _ _ _ _ _ h0))
    · rename_i z10
      exact kept_of_eq_2 z10 (seWrite_kept _ _ _ _ _ _ h0)

theorem seInput_kept{b : State} : ∀ x0 x1 x2 x3 x4, Kept b x0 → Kept b (seInput x0 x1 x2 x3 x4).2.2 := by
  intro x0 x1 x2 x3 x4 h0
  unfold seInput
  extract_lets +onlyGivenNames v0
  clear_value v0
  refine kept_ite_2_2 ?_ ?_
  · exact h0
  · split
    · rename_i z4
      exact kept_of_eq_2_2 z4 (tvaReadList_kept _ _ _ _ _ h0)
    · rename_i z10
      dsimp only
      exact addrEvent_kept _ _ _ _ (kept_of_eq_2_2 z10 (tvaReadList_kept _ _ _ _ _ h0))

theorem setCtx_kept{b : State} : ∀ x0 x1 x2 x3, Kept b x0 → Kept b (setCtx x0 x1 x2 x3) := by
  intro x0 x1 x2 x3 h0
  unfold setCtx
  extract_lets +onlyGivenNames v0
  clear_value v0
  exact setStack_kept _ _ _ h0

theorem setLen_kept{b : State} : ∀ x0 x1 x2 x3, Kept b x0 → Kept b (setLen x0 x1 x2 x3) := by
  intro x0 x1 x2 x3 h0
  unfold setLen
  exact setCtx_kept _ _ _ _ h0

theorem runOpen_kept{b : State} : ∀ x0 x1 x2, Kept b x0 → Kept b (runOpen x0 x1 x2).2 := by
  intro x0 x1 x2 h0
  unfold runOpen
  extract_lets +onlyGivenNames v0
  clear_value v0
  extract_lets +onlyGivenNames v1
  clear_value v1
  split
  · exact h0
  · extract_lets +onlyGivenNames v6
    clear_value v6
    extract_lets +onlyGivenNames v7
    clear_value v7
    dsimp only
    exact setStack_kept _ _ _ h0

theorem runClose_kept{b : State} : ∀ x0 x1 x2 x3, Kept b x0 → Kept b (runClose x0 x1 x2 x3).2 := by
  intro x0 x1 x2 x3 h0
  unfold runClose
  extract_lets +onlyGivenNames v0
  clear_value v0
  extract_lets +onlyGivenNames v1
  have p2 : Kept b v1 := by
    unfold v1
    exact setCtx_kept _ _ _ _ h0
  clear_value v1
  extract_lets +onlyGivenNames v3
  clear_value v3
  dsimp only
  exact setStack_kept _ _ _ p2

theorem seQueryIn_kept{b : State} : ∀ x0 x1 x2 x3, Kept b x0 → Kept b (seQueryIn x0 x1 x2 x3).2.2 := by
  intro x0 x1 x2 x3 h0
  unfold seQueryIn
  extract_lets +onlyGivenNames v0
  clear_value v0
  extract_lets +onlyGivenNames v1
  clear_value v1
  split
  · rename_i z5
    exact kept_of_eq_2_2 z5 (seInput_kept _ _ _ _ _ h0)
  · rename_i z11
    exact kept_of_eq_2_2 z11 (seInput_kept _ _ _ _ _ h0)

theorem countKeys_kept{b : State} : ∀ x0 x1 x2, Kept b x0 → Kept b (countKeys x0 x1 x2) := by
  intro x0 x1 x2 h0
  unfold countKeys
  extract_lets +onlyGivenNames v0
  clear_value v0
  exact setStack_kept _ _ _ h0

theorem attendOver_kept{b : State} : ∀ x0 x1 x2 x3 x4 x5 x6 x7, Kept b x0 → Kept b (attendOver x0 x1 x2 x3 x4 x5 x6 x7).2 := by
  intro x0 x1 x2 x3 x4 x5 x6 x7 h0
  unfold attendOver
  split
  · rename_i z4
    dsimp only
    exact countKeys_kept _ _ _ (kept_of_eq_2_2 z4 (readOver_kept _ _ _ _ _ _ (fun y5 y6 y7 k8 => seHeads_kept _ _ _ _ _ _ _ k8) h0))
  · rename_i z12
    extract_lets +onlyGivenNames v13
    clear_value v13
    extract_lets +onlyGivenNames v14
    clear_value v14
    extract_lets +onlyGivenNames v15
    clear_value v15
    extract_lets +onlyGivenNames v16
    clear_value v16
    dsimp only
    exact countKeys_kept _ _ _ (kept_of_eq_2_2 z12 (readOver_kept _ _ _ _ _ _ (fun y17 y18 y19 k20 => seHeads_kept _ _ _ _ _ _ _ k20) h0))

theorem runAttend_kept{b : State} : ∀ x0 x1 x2 x3, Kept b x0 → Kept b (runAttend x0 x1 x2 x3).2 := by
  intro x0 x1 x2 x3 h0
  unfold runAttend
  extract_lets +onlyGivenNames v0
  clear_value v0
  split
  · rename_i z4
    exact attendOver_kept _ _ _ _ _ _ _ _ (kept_of_eq_2_2 z4 (seQueryIn_kept _ _ _ _ h0))
  · rename_i z10
    exact kept_of_eq_2_2 z10 (seQueryIn_kept _ _ _ _ h0)

theorem runSelect_kept{b : State} : ∀ x0 x1 x2 x3, Kept b x0 → Kept b (runSelect x0 x1 x2 x3).2 := by
  intro x0 x1 x2 x3 h0
  unfold runSelect
  extract_lets +onlyGivenNames v0
  clear_value v0
  extract_lets +onlyGivenNames v1
  clear_value v1
  split
  · rename_i z5
    split
    · rename_i z10
      dsimp only
      exact countKeys_kept _ _ _ (kept_of_eq_2_2 z10 (readOver_kept _ _ _ _ _ _ (fun y11 y12 y13 k14 => seHead_kept _ _ _ _ _ _ _ _ k14) (kept_of_eq_2_2 z5 (seQueryIn_kept _ _ _ _ h0))))
    · rename_i z18
      extract_lets +onlyGivenNames v19
      clear_value v19
      extract_lets +onlyGivenNames v20
      clear_value v20
      dsimp only
      exact countKeys_kept _ _ _ (kept_of_eq_2_2 z18 (readOver_kept _ _ _ _ _ _ (fun y21 y22 y23 k24 => seHead_kept _ _ _ _ _ _ _ _ k24) (kept_of_eq_2_2 z5 (seQueryIn_kept _ _ _ _ h0))))
  · rename_i z30
    exact kept_of_eq_2_2 z30 (seQueryIn_kept _ _ _ _ h0)

theorem seList_kept{b : State} : ∀ x0 x1 x2 x3 x4, Kept b x0 → Kept b (seList x0 x1 x2 x3 x4).2.2 := by
  intro x0 x1 x2 x3 x4 h0
  unfold seList
  split
  · rename_i z3
    exact kept_of_eq_2_2 z3 (seInput_kept _ _ _ _ _ h0)
  · rename_i z9
    exact kept_of_eq_2_2 z9 (seInput_kept _ _ _ _ _ h0)

theorem runAttendSel_kept{b : State} : ∀ x0 x1 x2 x3, Kept b x0 → Kept b (runAttendSel x0 x1 x2 x3).2 := by
  intro x0 x1 x2 x3 h0
  unfold runAttendSel
  extract_lets +onlyGivenNames v0
  clear_value v0
  split
  · rename_i z4
    split
    · exact kept_of_eq_2_2 z4 (seList_kept _ _ _ _ _ h0)
    · split
      · rename_i z14
        exact attendOver_kept _ _ _ _ _ _ _ _ (kept_of_eq_2_2 z14 (seQueryIn_kept _ _ _ _ (kept_of_eq_2_2 z4 (seList_kept _ _ _ _ _ h0))))
      · rename_i z20
        exact kept_of_eq_2_2 z20 (seQueryIn_kept _ _ _ _ (kept_of_eq_2_2 z4 (seList_kept _ _ _ _ _ h0)))
  · rename_i z26
    exact kept_of_eq_2_2 z26 (seList_kept _ _ _ _ _ h0)

theorem placeToken_kept{b : State} : ∀ x0 x1 x2 x3 x4 x5, Kept b x0 → Kept b (placeToken x0 x1 x2 x3 x4 x5).2.2 := by
  intro x0 x1 x2 x3 x4 x5 h0
  unfold placeToken
  extract_lets +onlyGivenNames v0
  clear_value v0
  split
  · rename_i z5
    split
    · rename_i z8
      extract_lets +onlyGivenNames v9
      clear_value v9
      dsimp only
      exact setCtx_kept _ _ _ _ (kept_of_eq_2 z8 (storeToken_kept _ _ _ _ _ _ _ _ (kept_of_eq_2_2 z5 (pageOf_kept _ _ _ _ _ _ h0))))
    · rename_i z14
      exact kept_of_eq_2 z14 (storeToken_kept _ _ _ _ _ _ _ _ (kept_of_eq_2_2 z5 (pageOf_kept _ _ _ _ _ _ h0)))
  · rename_i z18
    exact kept_of_eq_2_2 z18 (pageOf_kept _ _ _ _ _ _ h0)
  · rename_i z22
    exact kept_of_eq_2_2 z22 (pageOf_kept _ _ _ _ _ _ h0)
  · rename_i z26
    exact kept_of_eq_2_2 z26 (pageOf_kept _ _ _ _ _ _ h0)
  · rename_i z32
    exact kept_of_eq_2_2 z32 (pageOf_kept _ _ _ _ _ _ h0)

theorem placeRun_kept{b : State} : ∀ x0 x1 x2 x3 x4 x5 x6 x7, (∀ y0 y1, Kept b y0 → Kept b (x0 y0 y1).2.2) → Kept b x4 → Kept b (placeRun x0 x1 x2 x3 x4 x5 x6 x7).2.2.2 := by
  intro x0 x1 x2 x3 x4 x5 x6 x7
  induction x6 generalizing x0 x1 x2 x3 x4 x5 x7 with
  | zero =>
    intro h0 h4
    unfold placeRun
    exact h4
  | succ n ih =>
    intro h0 h4
    unfold placeRun
    split
    · rename_i z4
      split
      · rename_i z8
        split
        rename_i z14
        exact kept_of_eq_2_2_2 z14 (ih _ _ _ _ _ _ _ (fun y15 y16 k17 => h0 _ _ k17) (kept_of_eq_2_2 z8 (placeToken_kept _ _ _ _ _ _ (kept_of_eq_2_2 z4 (h0 _ _ h4)))))
      · rename_i z23
        exact kept_of_eq_2_2 z23 (placeToken_kept _ _ _ _ _ _ (kept_of_eq_2_2 z4 (h0 _ _ h4)))
    · rename_i z29
      exact kept_of_eq_2_2 z29 (h0 _ _ h4)

theorem appendToken_kept{b : State} : ∀ x0 x1 x2 x3 x4, Kept b x3 → Kept b (appendToken x0 x1 x2 x3 x4).2.2 := by
  intro x0 x1 x2 x3 x4 h3
  unfold appendToken
  extract_lets +onlyGivenNames v0
  clear_value v0
  split
  · rename_i z4
    extract_lets +onlyGivenNames v5
    clear_value v5
    exact kept_of_eq_2_2 z4 (seInput_kept _ _ _ _ _ h3)
  · rename_i z11
    exact kept_of_eq_2_2 z11 (seInput_kept _ _ _ _ _ h3)

theorem runAppend_kept{b : State} : ∀ x0 x1 x2 x3, Kept b x0 → Kept b (runAppend x0 x1 x2 x3).2 := by
  intro x0 x1 x2 x3 h0
  unfold runAppend
  extract_lets +onlyGivenNames v0
  clear_value v0
  extract_lets +onlyGivenNames v1
  clear_value v1
  split
  rename_i z7
  exact kept_of_eq_2_2_2 z7 (placeRun_kept _ _ _ _ _ _ _ _ (fun y8 y9 k10 => appendToken_kept _ _ _ _ _ k10) h0)

theorem clearEntries_kept{b : State} : ∀ x0 x1 x2 x3 x4, Kept b x0 → Kept b (clearEntries x0 x1 x2 x3 x4).2 := by
  intro x0 x1 x2 x3 x4 h0
  unfold clearEntries
  refine kept_ite_2 ?_ ?_
  · exact h0
  · extract_lets +onlyGivenNames v0
    clear_value v0
    extract_lets +onlyGivenNames v1
    clear_value v1
    extract_lets +onlyGivenNames v2
    clear_value v2
    extract_lets +onlyGivenNames v3
    clear_value v3
    split
    · exact seAllowed_kept _ _ _ _ _ h0
    · extract_lets +onlyGivenNames v7
      clear_value v7
      extract_lets +onlyGivenNames v8
      clear_value v8
      refine kept_ite_2 ?_ ?_
      · exact h0
      · dsimp only
        exact countWritten_kept _ _ _ (kept_mk (keptF_filter _ (kept_eta h0)))

theorem keepRun_kept{b : State} : ∀ x0 x1 x2 x3 x4 x5 x6, Kept b x0 → Kept b (keepRun x0 x1 x2 x3 x4 x5 x6).2.2 := by
  intro x0 x1 x2 x3 x4 x5 x6
  induction x6 generalizing x0 x1 x2 x3 x4 x5 with
  | nil =>
    intro h0
    unfold keepRun
    exact h0
  | cons a l ih =>
    intro h0
    unfold keepRun
    split
    rename_i z4
    split
    rename_i z9
    split
    · split
      · rename_i z17
        split
        · rename_i z20
          exact ih _ _ _ _ _ _ (kept_of_eq_2 z20 (storeToken_kept _ _ _ _ _ _ _ _ (kept_of_eq_2_2 z17 (seToken_kept _ _ _ _ _ _ (kept_of_eq_2_2 z9 (pageOf_kept _ _ _ _ _ _ (kept_of_eq_2_2 z4 (pageOf_kept _ _ _ _ _ _ h0))))))))
        · rename_i z25
          exact kept_of_eq_2 z25 (storeToken_kept _ _ _ _ _ _ _ _ (kept_of_eq_2_2 z17 (seToken_kept _ _ _ _ _ _ (kept_of_eq_2_2 z9 (pageOf_kept _ _ _ _ _ _ (kept_of_eq_2_2 z4 (pageOf_kept _ _ _ _ _ _ h0)))))))
      · rename_i z31
        exact kept_of_eq_2_2 z31 (seToken_kept _ _ _ _ _ _ (kept_of_eq_2_2 z9 (pageOf_kept _ _ _ _ _ _ (kept_of_eq_2_2 z4 (pageOf_kept _ _ _ _ _ _ h0)))))
    · exact kept_of_eq_2_2 z9 (pageOf_kept _ _ _ _ _ _ (kept_of_eq_2_2 z4 (pageOf_kept _ _ _ _ _ _ h0)))
    · exact kept_of_eq_2_2 z9 (pageOf_kept _ _ _ _ _ _ (kept_of_eq_2_2 z4 (pageOf_kept _ _ _ _ _ _ h0)))

theorem keepOver_kept{b : State} : ∀ x0 x1 x2 x3 x4, Kept b x0 → Kept b (keepOver x0 x1 x2 x3 x4).2 := by
  intro x0 x1 x2 x3 x4 h0
  unfold keepOver
  split
  rename_i z4
  extract_lets +onlyGivenNames v5
  have p6 : Kept b v5 := by
    unfold v5
    exact setLen_kept _ _ _ _ (kept_of_eq_2_2 z4 (keepRun_kept _ _ _ _ _ _ _ h0))
  clear_value v5
  split
  rename_i z10
  exact kept_of_eq_2 z10 (kept_ite_2 (clearEntries_kept _ _ _ _ _ p6) p6)

theorem runKeepList_kept{b : State} : ∀ x0 x1 x2 x3, Kept b x0 → Kept b (runKeepList x0 x1 x2 x3).2 := by
  intro x0 x1 x2 x3 h0
  unfold runKeepList
  split
  · rename_i z3
    exact kept_ite_2 (keepOver_kept _ _ _ _ _ (kept_of_eq_2_2 z3 (seList_kept _ _ _ _ _ h0))) (kept_of_eq_2_2 z3 (seList_kept _ _ _ _ _ h0))
  · rename_i z9
    exact kept_of_eq_2_2 z9 (seList_kept _ _ _ _ _ h0)

theorem runMoveOut_kept{b : State} : ∀ x0 x1 x2 x3, Kept b x0 → Kept b (runMoveOut x0 x1 x2 x3).2 := by
  intro x0 x1 x2 x3 h0
  unfold runMoveOut
  extract_lets +onlyGivenNames v0
  clear_value v0
  extract_lets +onlyGivenNames v1
  clear_value v1
  extract_lets +onlyGivenNames v2
  clear_value v2
  extract_lets +onlyGivenNames v3
  clear_value v3
  split
  · rename_i z8
    exact kept_of_eq_2_2 z8 (readOver_kept _ _ _ _ _ _ (fun y9 y10 y11 k12 => seToken_kept _ _ _ _ _ _ k12) h0)
  · rename_i z16
    extract_lets +onlyGivenNames v17
    clear_value v17
    extract_lets +onlyGivenNames v18
    clear_value v18
    split
    · exact kept_of_eq_2_2 z16 (readOver_kept _ _ _ _ _ _ (fun y21 y22 y23 k24 => seToken_kept _ _ _ _ _ _ k24) h0)
    · extract_lets +onlyGivenNames v28
      clear_value v28
      extract_lets +onlyGivenNames v29
      clear_value v29
      exact kept_of_eq_2_2 z16 (readOver_kept _ _ _ _ _ _ (fun y30 y31 y32 k33 => seToken_kept _ _ _ _ _ _ k33) h0)

theorem seInputPrefix_kept{b : State} : ∀ x0 x1 x2 x3 x4 x5, Kept b x0 → Kept b (seInputPrefix x0 x1 x2 x3 x4 x5).2.2 := by
  intro x0 x1 x2 x3 x4 x5
  induction x3 generalizing x0 x1 x2 x4 x5 with
  | zero =>
    intro h0
    unfold seInputPrefix
    exact h0
  | succ n ih =>
    intro h0
    unfold seInputPrefix
    refine kept_ite_2_2 ?_ ?_
    · exact h0
    · split
      · rename_i z3
        split
        rename_i z8
        exact kept_of_eq_2_2 z8 (ih _ _ _ _ _ (kept_of_eq_2_2 z3 (seInput_kept _ _ _ _ _ h0)))
      · rename_i z14
        exact kept_of_eq_2_2 z14 (seInput_kept _ _ _ _ _ h0)

theorem runMoveIn_kept{b : State} : ∀ x0 x1 x2 x3, Kept b x0 → Kept b (runMoveIn x0 x1 x2 x3).2 := by
  intro x0 x1 x2 x3 h0
  unfold runMoveIn
  split
  · rename_i z3
    extract_lets +onlyGivenNames v4
    clear_value v4
    extract_lets +onlyGivenNames v5
    clear_value v5
    extract_lets +onlyGivenNames v6
    clear_value v6
    refine kept_ite_2 ?_ ?_
    · exact kept_of_eq_2_2 z3 (seInput_kept _ _ _ _ _ h0)
    · split
      rename_i z11
      refine kept_ite_2 ?_ ?_
      · exact kept_of_eq_2_2 z11 (seInputPrefix_kept _ _ _ _ _ _ (kept_of_eq_2_2 z3 (seInput_kept _ _ _ _ _ h0)))
      · split
        extract_lets +onlyGivenNames v16
        have p17 : ∀ y17000 y17001, Kept b y17000 → Kept b (v16 y17000 y17001).2.2 := by
          unfold v16
          intro y18 y19 k20
          split
          · exact k20
          · exact k20
        clear_value v16
        split
        rename_i z31
        extract_lets +onlyGivenNames v32
        clear_value v32
        exact kept_of_eq_2_2_2 z31 (placeRun_kept _ _ _ _ _ _ _ _ (fun y33 y34 k35 => p17 _ _ k35) (kept_of_eq_2_2 z11 (seInputPrefix_kept _ _ _ _ _ _ (kept_of_eq_2_2 z3 (seInput_kept _ _ _ _ _ h0)))))
  · rename_i z41
    exact kept_of_eq_2_2 z41 (seInput_kept _ _ _ _ _ h0)

theorem runOn_kept{b : State} : ∀ x0 x1 x2 x3 x4, Kept b x0 → Kept b (runOn x0 x1 x2 x3 x4).2 := by
  intro x0 x1 x2 x3 x4 h0
  unfold runOn
  split
  · exact runClose_kept _ _ _ _ h0
  · exact runAttend_kept _ _ _ _ h0
  · exact runSelect_kept _ _ _ _ h0
  · exact runAttendSel_kept _ _ _ _ h0
  · exact runAppend_kept _ _ _ _ h0
  · exact keepOver_kept _ _ _ _ _ h0
  · exact runKeepList_kept _ _ _ _ h0
  · exact runMoveOut_kept _ _ _ _ h0
  · exact runMoveIn_kept _ _ _ _ h0
  · exact h0

theorem runSe_kept{b : State} : ∀ x0 x1 x2, Kept b x0 → Kept b (runSe x0 x1 x2).2 := by
  intro x0 x1 x2 h0
  unfold runSe
  split
  · exact h0
  · exact runOpen_kept _ _ _ h0
  · exact h0
  · split
    · exact h0
    · exact kept_ite_2 h0 (kept_ite_2 h0 (runOn_kept _ _ _ _ _ h0))

theorem admitSe_kept{b : State} : ∀ x0 x1 x2, Kept b x0 → Kept b (admitSe x0 x1 x2) := by
  intro x0 x1 x2
  induction x2 generalizing x0 x1 with
  | zero =>
    intro h0
    unfold admitSe
    exact h0
  | succ n ih =>
    intro h0
    unfold admitSe
    extract_lets +onlyGivenNames v0
    clear_value v0
    refine kept_ite ?_ ?_
    · exact h0
    · split
      · exact h0
      · split
        rename_i z10
        extract_lets +onlyGivenNames v11
        clear_value v11
        extract_lets +onlyGivenNames v12
        clear_value v12
        exact ih _ _ (setStack_kept _ _ _ (kept_of_eq_2 z10 (runSe_kept _ _ _ h0)))

theorem blockDone_kept{b : State} : ∀ x0 x1 x2 x3 x4 x5 x6 x7 x8, Kept b x0 → Kept b (blockDone x0 x1 x2 x3 x4 x5 x6 x7 x8) := by
  intro x0 x1 x2 x3 x4 x5 x6 x7 x8 h0
  unfold blockDone
  split
  · exact h0
  · extract_lets +onlyGivenNames v5
    clear_value v5
    extract_lets +onlyGivenNames v6
    clear_value v6
    split
    rename_i z10
    extract_lets +onlyGivenNames v11
    have p12 : Kept b v11 := by
      unfold v11
      exact kept_ite (kept_of_eq_2 z10 (tvaWrite_kept _ _ _ _ _ h0)) (emit_kept _ _ _ _ (kept_of_eq_2 z10 (tvaWrite_kept _ _ _ _ _ h0)))
    clear_value v11
    extract_lets +onlyGivenNames v13
    clear_value v13
    extract_lets +onlyGivenNames v14
    have p15 : Kept b v14 := by
      unfold v14
      exact setOp_kept _ _ _ _ p12
    clear_value v14
    extract_lets +onlyGivenNames v16
    clear_value v16
    refine kept_ite ?_ ?_
    · extract_lets +onlyGivenNames v17
      have p18 : Kept b v17 := by
        unfold v17
        exact endStopped_kept _ _ _ p15
      clear_value v17
      split
      · exact settleStep_kept _ _ _ p18
      · exact p18
    · refine kept_ite ?_ ?_
      · extract_lets +onlyGivenNames v24
        clear_value v24
        exact kept_ite (finishOp_kept _ _ _ _ _ _ p15) (finishOp_kept _ _ _ _ _ _ p15)
      · exact p15

theorem seComplete_kept{b : State} : ∀ x0 x1 x2 x3 x4 x5 x6, Kept b x0 → Kept b (seComplete x0 x1 x2 x3 x4 x5 x6) := by
  intro x0 x1 x2 x3 x4 x5 x6 h0
  unfold seComplete
  split
  · exact blockDone_kept _ _ _ _ _ _ _ _ _ h0
  · exact localDone_kept _ _ _ _ _ _ h0

theorem seResults_kept{b : State} : ∀ x0 x1 x2, Kept b x0 → Kept b (seResults x0 x1 x2).2 := by
  intro x0 x1 x2 h0
  unfold seResults
  extract_lets +onlyGivenNames v0
  clear_value v0
  refine kept_ite_2 ?_ ?_
  · split
    · rename_i z3
      exact kept_of_eq_2 z3 (tvaWriteList_kept _ _ _ _ _ h0)
    · rename_i z8
      dsimp only
      exact addrEvent_kept _ _ _ _ (kept_of_eq_2 z8 (tvaWriteList_kept _ _ _ _ _ h0))
  · split
    · exact kept_ite (setCore_kept _ _ _ h0) h0
    · exact h0

theorem execStateEngineRequestDone_kept{b : State} : ∀ x0 x1 x2, Kept b x2 → KeptO b (execStateEngineRequestDone x0 x1 x2) := by
  intro x0 x1 x2 h2
  unfold execStateEngineRequestDone
  refine keptO_next ?_
  split
  · exact h2
  · refine kept_ite ?_ ?_
    · exact h2
    · split
      rename_i z8
      extract_lets +onlyGivenNames v9
      clear_value v9
      extract_lets +onlyGivenNames v10
      have p11 : Kept b v10 := by
        unfold v10
        exact setStack_kept _ _ _ (kept_of_eq_2 z8 (seResults_kept _ _ _ h2))
      clear_value v10
      extract_lets +onlyGivenNames v12
      clear_value v12
      extract_lets +onlyGivenNames v13
      have p14 : Kept b v13 := by
        unfold v13
        exact seComplete_kept _ _ _ _ _ _ _ p11
      clear_value v13
      exact admitSe_kept _ _ _ p14

theorem dropStack_kept{b : State} : ∀ x0 x1, Kept b x0 → Kept b (dropStack x0 x1) := by
  intro x0 x1 h0
  unfold dropStack
  extract_lets +onlyGivenNames v0
  clear_value v0
  extract_lets +onlyGivenNames v1
  clear_value v1
  extract_lets +onlyGivenNames v2
  have p3 : Kept b v2 := by
    unfold v2
    exact setStack_kept _ _ _ h0
  clear_value v2
  exact kept_foldl (fun f4 i4 p4 => seComplete_kept _ _ _ _ _ _ _ p4) _ p3

theorem seArrive_kept{b : State} : ∀ x0 x1 x2 x3 x4, Kept b x0 → Kept b (seArrive x0 x1 x2 x3 x4) := by
  intro x0 x1 x2 x3 x4 h0
  unfold seArrive
  extract_lets +onlyGivenNames v0
  clear_value v0
  split
  · exact seComplete_kept _ _ _ _ _ _ _ h0
  · refine kept_ite ?_ ?_
    · exact seComplete_kept _ _ _ _ _ _ _ h0
    · extract_lets +onlyGivenNames v6
      clear_value v6
      split
      · extract_lets +onlyGivenNames v9
        clear_value v9
        exact admitSe_kept _ _ _ (setStack_kept _ _ _ h0)
      · exact seComplete_kept _ _ _ _ _ _ _ h0

theorem seThread_kept{b : State} : ∀ x0 x1 x2 x3, Kept b x3 → KeptO b (seThread x0 x1 x2 x3) := by
  intro x0 x1 x2 x3 h3
  unfold seThread
  extract_lets +onlyGivenNames v0
  clear_value v0
  extract_lets +onlyGivenNames v1
  clear_value v1
  exact keptO_ite (keptO_refused (.inr rfl)) (request_kept _ _ _ _ _ h3 (fun y2 y3 y4 k5 => seArrive_kept _ _ _ _ _ k5))

theorem seBatch_kept{b : State} : ∀ x0 x1 x2 x3 x4, Kept b x4 → KeptO b (seBatch x0 x1 x2 x3 x4) := by
  intro x0 x1 x2 x3 x4 h4
  unfold seBatch
  split
  · exact keptO_next h4
  · refine keptO_ite ?_ ?_
    · exact keptO_next h4
    · extract_lets +onlyGivenNames v5
      clear_value v5
      split
      · rename_i z9
        extract_lets +onlyGivenNames v10
        clear_value v10
        extract_lets +onlyGivenNames v11
        clear_value v11
        refine keptO_ite ?_ ?_
        · exact keptO_refused (.inr rfl)
        · extract_lets +onlyGivenNames v12
          have p13 : Kept b v12 := by
            unfold v12
            exact setOp_kept _ _ _ _ (kept_of_eq_2_2 z9 (tvaReadList_kept _ _ _ _ _ h4))
          clear_value v12
          exact keptO_ite (keptO_next (blockDone_kept _ _ _ _ _ _ _ _ _ p13)) (keptO_next (seArrive_kept _ _ _ _ _ p13))
      · rename_i z19
        exact keptO_next (blockDone_kept _ _ _ _ _ _ _ _ _ (setOp_kept _ _ _ _ (kept_of_eq_2_2 z19 (tvaReadList_kept _ _ _ _ _ h4))))

theorem seRow_kept{b : State} : ∀ x0 x1 x2, Kept b x2 → KeptO b (seRow x0 x1 x2) := by
  intro x0 x1 x2 h2
  unfold seRow
  split
  · exact seThread_kept _ _ _ _ h2
  · exact guardWf_kept _ _ (seBatch_kept _ _ _ _ _ h2)

theorem execSeOpen_kept{b : State} : ∀ x0 x1, Kept b x1 → KeptO b (execSeOpen x0 x1) := by
  intro x0 x1 h1
  unfold execSeOpen
  exact seRow_kept _ _ _ h1

theorem execSeClose_kept{b : State} : ∀ x0 x1, Kept b x1 → KeptO b (execSeClose x0 x1) := by
  intro x0 x1 h1
  unfold execSeClose
  exact seRow_kept _ _ _ h1

theorem execSeAttend_kept{b : State} : ∀ x0 x1, Kept b x1 → KeptO b (execSeAttend x0 x1) := by
  intro x0 x1 h1
  unfold execSeAttend
  exact seRow_kept _ _ _ h1

theorem execSeSelect_kept{b : State} : ∀ x0 x1, Kept b x1 → KeptO b (execSeSelect x0 x1) := by
  intro x0 x1 h1
  unfold execSeSelect
  exact seRow_kept _ _ _ h1

theorem execSeAttendSel_kept{b : State} : ∀ x0 x1, Kept b x1 → KeptO b (execSeAttendSel x0 x1) := by
  intro x0 x1 h1
  unfold execSeAttendSel
  exact seRow_kept _ _ _ h1

theorem execSeAppend_kept{b : State} : ∀ x0 x1, Kept b x1 → KeptO b (execSeAppend x0 x1) := by
  intro x0 x1 h1
  unfold execSeAppend
  exact seRow_kept _ _ _ h1

theorem execSeMoveKeepRange_kept{b : State} : ∀ x0 x1, Kept b x1 → KeptO b (execSeMoveKeepRange x0 x1) := by
  intro x0 x1 h1
  unfold execSeMoveKeepRange
  exact seRow_kept _ _ _ h1

theorem execSeMoveKeepList_kept{b : State} : ∀ x0 x1, Kept b x1 → KeptO b (execSeMoveKeepList x0 x1) := by
  intro x0 x1 h1
  unfold execSeMoveKeepList
  exact seRow_kept _ _ _ h1

theorem execSeMoveOut_kept{b : State} : ∀ x0 x1, Kept b x1 → KeptO b (execSeMoveOut x0 x1) := by
  intro x0 x1 h1
  unfold execSeMoveOut
  exact seRow_kept _ _ _ h1

theorem execSeMoveIn_kept{b : State} : ∀ x0 x1, Kept b x1 → KeptO b (execSeMoveIn x0 x1) := by
  intro x0 x1 h1
  unfold execSeMoveIn
  exact seRow_kept _ _ _ h1

theorem execSeStatsContext_kept{b : State} : ∀ x0 x1, Kept b x1 → KeptO b (execSeStatsContext x0 x1) := by
  intro x0 x1 h1
  unfold execSeStatsContext
  exact seRow_kept _ _ _ h1

theorem execSeStatsStack_kept{b : State} : ∀ x0 x1, Kept b x1 → KeptO b (execSeStatsStack x0 x1) := by
  intro x0 x1 h1
  unfold execSeStatsStack
  exact seRow_kept _ _ _ h1

theorem execSeCmd_kept{b : State} : ∀ x0 x1 x2, Kept b x2 → KeptO b (execSeCmd x0 x1 x2) := by
  intro x0 x1 x2 h2
  unfold execSeCmd
  refine onChosen_kept _ _ _ _ _ ?_ ?_
  · exact h2
  · intro y0
    extract_lets +onlyGivenNames v1
    clear_value v1
    exact kept_ite (finishOp_kept _ _ _ _ _ _ h2) (setOp_kept _ _ _ _ h2)

end Sys2Proof.Machine
end

