-- ==== Sys2Proof/Laws/KeptCollect.lean ====
section
/-! SUPPORT. `f_kept` (Laws/Kept.lean) for the functions of Currant and the collectives. -/
namespace Sys2Proof.Machine

theorem setTree_kept{b : State} : ∀ x0 x1 x2, Kept b x0 → Kept b (setTree x0 x1 x2) := by
  intro x0 x1 x2 h0
  unfold setTree
  exact kept_mk (kept_eta h0)

theorem setTreeOp_kept{b : State} : ∀ x0 x1 x2 x3, Kept b x0 → Kept b (setTreeOp x0 x1 x2 x3) := by
  intro x0 x1 x2 x3 h0
  unfold setTreeOp
  extract_lets +onlyGivenNames v0
  clear_value v0
  exact setTree_kept _ _ _ h0

theorem curPump_kept{b : State} : ∀ x0 x1 x2, Kept b x0 → Kept b (curPump x0 x1 x2) := by
  intro x0 x1 x2
  induction x2 generalizing x0 x1 with
  | zero =>
    intro h0
    unfold curPump
    exact h0
  | succ n ih =>
    intro h0
    unfold curPump
    extract_lets +onlyGivenNames v0
    clear_value v0
    split
    · exact h0
    · refine kept_ite ?_ ?_
      · exact h0
      · extract_lets +onlyGivenNames v7
        clear_value v7
        extract_lets +onlyGivenNames v8
        clear_value v8
        exact ih _ _ (setEng_kept _ _ _ h0)

theorem curTell_kept{b : State} : ∀ x0 x1 x2, Kept b x0 → Kept b (curTell x0 x1 x2) := by
  intro x0 x1 x2 h0
  unfold curTell
  extract_lets +onlyGivenNames v0
  clear_value v0
  exact kept_ite (setEng_kept _ _ _ h0) h0

theorem curSend_kept{b : State} : ∀ x0 x1 x2, Kept b x0 → Kept b (curSend x0 x1 x2) := by
  intro x0 x1 x2 h0
  unfold curSend
  extract_lets +onlyGivenNames v0
  clear_value v0
  extract_lets +onlyGivenNames v1
  clear_value v1
  extract_lets +onlyGivenNames v2
  have p3 : Kept b v2 := by
    unfold v2
    exact setEng_kept _ _ _ h0
  clear_value v2
  exact curPump_kept _ _ _ p3

theorem curAcked_kept{b : State} : ∀ x0 x1 x2, Kept b x0 → Kept b (curAcked x0 x1 x2) := by
  intro x0 x1 x2 h0
  unfold curAcked
  extract_lets +onlyGivenNames v0
  clear_value v0
  extract_lets +onlyGivenNames v1
  clear_value v1
  extract_lets +onlyGivenNames v2
  clear_value v2
  refine kept_ite ?_ ?_
  · extract_lets +onlyGivenNames v3
    clear_value v3
    extract_lets +onlyGivenNames v4
    have p5 : Kept b v4 := by
      unfold v4
      exact setEng_kept _ _ _ h0
    clear_value v4
    exact curPump_kept _ _ _ p5
  · exact h0

theorem execCurrantResend_kept{b : State} : ∀ x0 x1, Kept b x1 → KeptO b (execCurrantResend x0 x1) := by
  intro x0 x1 h1
  unfold execCurrantResend
  refine guardWf_kept _ _ ?_
  refine keptO_next ?_
  extract_lets +onlyGivenNames v0
  clear_value v0
  refine kept_ite ?_ ?_
  · exact h1
  · extract_lets +onlyGivenNames v1
    have p2 : Kept b v1 := by
      unfold v1
      exact kept_mk (kept_eta h1)
    clear_value v1
    extract_lets +onlyGivenNames v3
    clear_value v3
    extract_lets +onlyGivenNames v4
    clear_value v4
    exact setEng_kept _ _ _ p2

theorem treeDeliver_kept{b : State} : ∀ x0 x1 x2 x3 x4, Kept b x0 → Kept b (treeDeliver x0 x1 x2 x3 x4) := by
  intro x0 x1 x2 x3 x4 h0
  unfold treeDeliver
  extract_lets +onlyGivenNames v0
  clear_value v0
  extract_lets +onlyGivenNames v1
  clear_value v1
  split
  · extract_lets +onlyGivenNames v12
    clear_value v12
    refine kept_ite ?_ ?_
    · exact localDone_kept _ _ _ _ _ _ h0
    · extract_lets +onlyGivenNames v13
      have p14 : Kept b v13 := by
        unfold v13
        exact kept_ite (setCore_kept _ _ _ h0) h0
      clear_value v13
      exact localDone_kept _ _ _ _ _ _ p14
  · exact h0
  · split
    · exact h0
    · extract_lets +onlyGivenNames v30
      have p31 : Kept b v30 := by
        unfold v30
        exact collLeave_kept _ _ _ h0
      clear_value v30
      refine kept_ite ?_ ?_
      · exact finishOp_kept _ _ _ _ _ _ p31
      · split
        rename_i z35
        split
        · exact finishOp_kept _ _ _ _ _ _ (kept_of_eq_2 z35 (tvaWriteList_kept _ _ _ _ _ p31))
        · exact finishOp_kept _ _ _ _ _ _ (setOp_kept _ _ _ _ (kept_of_eq_2 z35 (tvaWriteList_kept _ _ _ _ _ p31)))
  · extract_lets +onlyGivenNames v44
    clear_value v44
    split
    · exact h0
    · exact kept_ite (setHub_kept _ _ _ h0) (finishOp_kept _ _ _ _ _ _ (collLeave_kept _ _ _ h0))

theorem treeEnd_kept{b : State} : ∀ x0 x1 x2 x3 x4 x5, Kept b x0 → Kept b (treeEnd x0 x1 x2 x3 x4 x5) := by
  intro x0 x1 x2 x3 x4 x5 h0
  unfold treeEnd
  split
  · exact h0
  · extract_lets +onlyGivenNames v5
    clear_value v5
    extract_lets +onlyGivenNames v6
    have p7 : Kept b v6 := by
      unfold v6
      exact setTree_kept _ _ _ h0
    clear_value v6
    exact kept_foldl (fun f8 i8 p8 => treeDeliver_kept _ _ _ _ _ p8) _ p7

theorem treeBreak_kept{b : State} : ∀ x0 x1, Kept b x0 → Kept b (treeBreak x0 x1) := by
  intro x0 x1 h0
  unfold treeBreak
  extract_lets +onlyGivenNames v0
  clear_value v0
  extract_lets +onlyGivenNames v1
  have p2 : Kept b v1 := by
    unfold v1
    exact setRbit_kept _ _ _ _ (setTree_kept _ _ _ h0)
  clear_value v1
  exact kept_foldl (fun f3 i3 p3 => treeDeliver_kept _ _ _ _ _ p3) _ p2

theorem treeSpread_kept{b : State} : ∀ x0 x1 x2 x3 x4 x5, Kept b x0 → Kept b (treeSpread x0 x1 x2 x3 x4 x5) := by
  intro x0 x1 x2 x3 x4 x5 h0
  unfold treeSpread
  extract_lets +onlyGivenNames v0
  clear_value v0
  extract_lets +onlyGivenNames v1
  clear_value v1
  exact kept_foldl (fun f2 i2 p2 => kept_ite (curSend_kept _ _ _ p2) p2) _ h0

theorem treeAbortOp_kept{b : State} : ∀ x0 x1 x2 x3 x4, Kept b x0 → Kept b (treeAbortOp x0 x1 x2 x3 x4) := by
  intro x0 x1 x2 x3 x4 h0
  unfold treeAbortOp
  extract_lets +onlyGivenNames v0
  clear_value v0
  exact treeBreak_kept _ _ (treeEnd_kept _ _ _ _ _ _ (treeSpread_kept _ _ _ _ _ _ h0))

theorem treeStep_kept{b : State} : ∀ x0 x1 x2, Kept b x0 → Kept b (treeStep x0 x1 x2) := by
  intro x0 x1 x2 h0
  unfold treeStep
  split
  · exact h0
  · refine kept_ite ?_ ?_
    · exact h0
    · split
      · extract_lets +onlyGivenNames v14
        clear_value v14
        extract_lets +onlyGivenNames v15
        clear_value v15
        split
        · exact curSend_kept _ _ _ (setTreeOp_kept _ _ _ _ h0)
        · extract_lets +onlyGivenNames v21
          have p22 : Kept b v21 := by
            unfold v21
            exact kept_foldl (fun f23 i23 p23 => curSend_kept _ _ _ p23) _ h0
          clear_value v21
          exact treeEnd_kept _ _ _ _ _ _ p22
      · exact treeAbortOp_kept _ _ _ _ _ h0

theorem treeOpen_kept{b : State} : ∀ x0 x1 x2, Kept b x0 → Kept b (treeOpen x0 x1 x2).2 := by
  intro x0 x1 x2 h0
  unfold treeOpen
  split
  · exact h0
  · extract_lets +onlyGivenNames v5
    clear_value v5
    extract_lets +onlyGivenNames v6
    have p7 : Kept b v6 := by
      unfold v6
      exact setRfld_kept _ _ _ _ _ (setTree_kept _ _ _ h0)
    clear_value v6
    split
    · dsimp only
      exact setTreeOp_kept _ _ _ _ p7
    · exact p7

theorem treeAdd_kept{b : State} : ∀ x0 x1 x2 x3, Kept b x0 → Kept b (treeAdd x0 x1 x2 x3) := by
  intro x0 x1 x2 x3 h0
  unfold treeAdd
  extract_lets +onlyGivenNames v0
  clear_value v0
  extract_lets +onlyGivenNames v1
  clear_value v1
  extract_lets +onlyGivenNames v2
  have p3 : Kept b v2 := by
    unfold v2
    exact setTree_kept _ _ _ h0
  clear_value v2
  split
  rename_i z7
  refine kept_ite ?_ ?_
  · exact treeBreak_kept _ _ (treeDeliver_kept _ _ _ _ _ (kept_of_eq_2 z7 (treeOpen_kept _ _ _ p3)))
  · split
    · exact kept_of_eq_2 z7 (treeOpen_kept _ _ _ p3)
    · exact treeStep_kept _ _ _ (setTreeOp_kept _ _ _ _ (kept_of_eq_2 z7 (treeOpen_kept _ _ _ p3)))

theorem treeDrain_kept{b : State} : ∀ x0 x1 x2, Kept b x0 → Kept b (treeDrain x0 x1 x2) := by
  intro x0 x1 x2
  induction x2 generalizing x0 x1 with
  | zero =>
    intro h0
    unfold treeDrain
    exact h0
  | succ n ih =>
    intro h0
    unfold treeDrain
    extract_lets +onlyGivenNames v0
    clear_value v0
    split
    · exact h0
    · exact ih _ _ (treeAdd_kept _ _ _ _ (setTree_kept _ _ _ h0))

theorem treeGoOn_kept{b : State} : ∀ x0 x1, Kept b x0 → Kept b (treeGoOn x0 x1) := by
  intro x0 x1 h0
  unfold treeGoOn
  exact treeDrain_kept _ _ _ h0

theorem treeJoin_kept{b : State} : ∀ x0 x1 x2 x3, Kept b x0 → Kept b (treeJoin x0 x1 x2 x3) := by
  intro x0 x1 x2 x3 h0
  unfold treeJoin
  refine kept_ite ?_ ?_
  · exact treeDeliver_kept _ _ _ _ _ h0
  · extract_lets +onlyGivenNames v0
    clear_value v0
    exact treeGoOn_kept _ _ (setTree_kept _ _ _ h0)

theorem curRequest_kept{b : State} : ∀ x0 x1 x2 x3, Kept b x0 → Kept b (curRequest x0 x1 x2 x3) := by
  intro x0 x1 x2 x3 h0
  unfold curRequest
  extract_lets +onlyGivenNames v0
  clear_value v0
  extract_lets +onlyGivenNames v1
  clear_value v1
  refine kept_ite ?_ ?_
  · exact localDone_kept _ _ _ _ _ _ h0
  · extract_lets +onlyGivenNames v2
    clear_value v2
    extract_lets +onlyGivenNames v3
    clear_value v3
    extract_lets +onlyGivenNames v4
    clear_value v4
    exact treeJoin_kept _ _ _ _ h0

theorem curReq_kept{b : State} : ∀ x0 x1 x2 x3, Kept b x3 → KeptO b (curReq x0 x1 x2 x3) := by
  intro x0 x1 x2 x3 h3
  unfold curReq
  extract_lets +onlyGivenNames v0
  clear_value v0
  extract_lets +onlyGivenNames v1
  clear_value v1
  extract_lets +onlyGivenNames v2
  clear_value v2
  extract_lets +onlyGivenNames v3
  clear_value v3
  exact keptO_ite (keptO_refused (.inr rfl)) (request_kept _ _ _ _ _ h3 (fun y4 y5 y6 k7 => curRequest_kept _ _ _ _ k7))

theorem execCurrantBarrier_kept{b : State} : ∀ x0 x1 x2, Kept b x2 → KeptO b (execCurrantBarrier x0 x1 x2) := by
  intro x0 x1 x2 h2
  unfold execCurrantBarrier
  exact curReq_kept _ _ _ _ h2

theorem execSmallAllReduce_kept{b : State} : ∀ x0 x1 x2, Kept b x2 → KeptO b (execSmallAllReduce x0 x1 x2) := by
  intro x0 x1 x2 h2
  unfold execSmallAllReduce
  exact curReq_kept _ _ _ _ h2

theorem execSmallBcast_kept{b : State} : ∀ x0 x1 x2, Kept b x2 → KeptO b (execSmallBcast x0 x1 x2) := by
  intro x0 x1 x2 h2
  unfold execSmallBcast
  exact curReq_kept _ _ _ _ h2

theorem treeUp_kept{b : State} : ∀ x0 x1 x2 x3, Kept b x0 → Kept b (treeUp x0 x1 x2 x3) := by
  intro x0 x1 x2 x3 h0
  unfold treeUp
  extract_lets +onlyGivenNames v0
  clear_value v0
  refine kept_ite ?_ ?_
  · exact h0
  · split
    rename_i z4
    refine kept_ite ?_ ?_
    · exact treeBreak_kept _ _ (kept_of_eq_2 z4 (treeOpen_kept _ _ _ h0))
    · split
      · exact kept_of_eq_2 z4 (treeOpen_kept _ _ _ h0)
      · exact treeStep_kept _ _ _ (setTreeOp_kept _ _ _ _ (kept_of_eq_2 z4 (treeOpen_kept _ _ _ h0)))

theorem treeDown_kept{b : State} : ∀ x0 x1 x2 x3, Kept b x0 → Kept b (treeDown x0 x1 x2 x3) := by
  intro x0 x1 x2 x3 h0
  unfold treeDown
  split
  · exact h0
  · refine kept_ite ?_ ?_
    · exact h0
    · extract_lets +onlyGivenNames v5
      have p6 : Kept b v5 := by
        unfold v5
        exact kept_foldl (fun f7 i7 p7 => curSend_kept _ _ _ p7) _ h0
      clear_value v5
      exact treeEnd_kept _ _ _ _ _ _ p6

theorem treeStop_kept{b : State} : ∀ x0 x1 x2 x3, Kept b x0 → Kept b (treeStop x0 x1 x2 x3) := by
  intro x0 x1 x2 x3 h0
  unfold treeStop
  exact kept_ite h0 (treeAbortOp_kept _ _ _ _ _ h0)

theorem treeTake_kept{b : State} : ∀ x0 x1 x2, Kept b x0 → Kept b (treeTake x0 x1 x2) := by
  intro x0 x1 x2 h0
  unfold treeTake
  split
  · exact h0
  · refine kept_ite ?_ ?_
    · exact h0
    · extract_lets +onlyGivenNames v5
      have p6 : Kept b v5 := by
        unfold v5
        split
        · exact treeUp_kept _ _ _ _ h0
        · exact treeDown_kept _ _ _ _ h0
        · exact treeStop_kept _ _ _ _ h0
        · exact h0
      clear_value v5
      exact treeGoOn_kept _ _ p6

theorem rxCurrant_kept{b : State} : ∀ x0 x1 x2, Kept b x0 → Kept b (rxCurrant x0 x1 x2) := by
  intro x0 x1 x2 h0
  unfold rxCurrant
  extract_lets +onlyGivenNames v0
  clear_value v0
  refine kept_ite ?_ ?_
  · exact h0
  · refine kept_ite ?_ ?_
    · exact curTell_kept _ _ _ h0
    · extract_lets +onlyGivenNames v1
      have p2 : Kept b v1 := by
        unfold v1
        exact curAcked_kept _ _ _ h0
      clear_value v1
      refine kept_ite ?_ ?_
      · exact p2
      · extract_lets +onlyGivenNames v3
        clear_value v3
        exact kept_ite (curTell_kept _ _ _ p2) (curTell_kept _ _ _ (treeTake_kept _ _ _ (setEng_kept _ _ _ p2)))

theorem execUp_kept{b : State} : ∀ x0 x1, Kept b x1 → KeptO b (execUp x0 x1) := by
  intro x0 x1 h2
  unfold execUp
  exact guardWf_kept _ _ (keptO_next (rxCurrant_kept _ _ _ h2))

theorem execDown_kept{b : State} : ∀ x0 x1, Kept b x1 → KeptO b (execDown x0 x1) := by
  intro x0 x1 h2
  unfold execDown
  exact guardWf_kept _ _ (keptO_next (rxCurrant_kept _ _ _ h2))

theorem execTreeAbort_kept{b : State} : ∀ x0 x1, Kept b x1 → KeptO b (execTreeAbort x0 x1) := by
  intro x0 x1 h2
  unfold execTreeAbort
  exact guardWf_kept _ _ (keptO_next (rxCurrant_kept _ _ _ h2))

theorem execCurrantAck_kept{b : State} : ∀ x0 x1 x2, Kept b x2 → KeptO b (execCurrantAck x0 x1 x2) := by
  intro x0 x1 x2 h2
  unfold execCurrantAck
  exact guardWf_kept _ _ (keptO_next (rxCurrant_kept _ _ _ h2))

theorem execCurrantTreeTimeout_kept{b : State} : ∀ x0 x1 x2, Kept b x2 → KeptO b (execCurrantTreeTimeout x0 x1 x2) := by
  intro x0 x1 x2 h2
  unfold execCurrantTreeTimeout
  refine guardWf_kept _ _ ?_
  refine keptO_next ?_
  split
  · exact h2
  · extract_lets +onlyGivenNames v5
    have p6 : Kept b v5 := by
      unfold v5
      exact kept_mk (kept_eta h2)
    clear_value v5
    exact treeBreak_kept _ _ (treeEnd_kept _ _ _ _ _ _ p6)

theorem treesMoved_kept{b : State} : ∀ x0 x1, Kept b x0 → Kept b (treesMoved x0 x1) := by
  intro x0 x1 h0
  unfold treesMoved
  extract_lets +onlyGivenNames v0
  clear_value v0
  exact kept_foldl (fun f1 i1 p1 => treeBreak_kept _ _ (kept_foldl (fun f2 i2 p2 => treeEnd_kept _ _ _ _ _ _ p2) _ p1)) _ h0

theorem treeWrite0_kept{b : State} : ∀ x0 x1 x2, Kept b x0 → Kept b (treeWrite0 x0 x1 x2) := by
  intro x0 x1 x2 h0
  unfold treeWrite0
  extract_lets +onlyGivenNames v0
  clear_value v0
  refine kept_ite ?_ ?_
  · exact h0
  · extract_lets +onlyGivenNames v1
    clear_value v1
    extract_lets +onlyGivenNames v2
    have p3 : Kept b v2 := by
      unfold v2
      exact writeReg_kept _ _ _ h0
    clear_value v2
    refine kept_ite ?_ ?_
    · exact setTree_kept _ _ _ (setRfld_kept _ _ _ _ _ (setRbit_kept _ _ _ _ p3))
    · refine kept_ite ?_ ?_
      · extract_lets +onlyGivenNames v4
        clear_value v4
        extract_lets +onlyGivenNames v5
        have p6 : Kept b v5 := by
          unfold v5
          exact kept_foldl (fun f7 i7 p7 => treeEnd_kept _ _ _ _ _ _ p7) _ p3
        clear_value v5
        exact kept_foldl (fun f8 i8 p8 => treeDeliver_kept _ _ _ _ _ p8) _ (setTree_kept _ _ _ p6)
      · exact p3

theorem execCurTreeValidSet_kept{b : State} : ∀ x0 x1 x2 x3, Kept b x3 → KeptO b (execCurTreeValidSet x0 x1 x2 x3) := by
  intro x0 x1 x2 x3 h3
  unfold execCurTreeValidSet
  exact guardWf_kept _ _ (adminCmd_kept _ _ _ _ h3 (fun y0 k1 => treeWrite0_kept _ _ _ k1))

theorem execCurTreeValidClear_kept{b : State} : ∀ x0 x1 x2 x3, Kept b x3 → KeptO b (execCurTreeValidClear x0 x1 x2 x3) := by
  intro x0 x1 x2 x3 h3
  unfold execCurTreeValidClear
  exact guardWf_kept _ _ (adminCmd_kept _ _ _ _ h3 (fun y0 k1 => treeWrite0_kept _ _ _ k1))

theorem setColl_kept{b : State} : ∀ x0 x1 x2 x3, Kept b x0 → Kept b (setColl x0 x1 x2 x3) := by
  intro x0 x1 x2 x3 h0
  unfold setColl
  extract_lets +onlyGivenNames v0
  clear_value v0
  exact setHub_kept _ _ _ h0

theorem readSrc_kept{b : State} : ∀ x0 x1 x2 x3 x4, Kept b x0 → Kept b (readSrc x0 x1 x2 x3 x4).2.2 := by
  intro x0 x1 x2 x3 x4 h0
  unfold readSrc
  split
  · exact h0
  · exact tvaReadList_kept _ _ _ _ _ h0

theorem memberWords_kept{b : State} : ∀ x0 x1 x2 x3 x4, Kept b x0 → Kept b (memberWords x0 x1 x2 x3 x4).2 := by
  intro x0 x1 x2 x3 x4 h0
  unfold memberWords
  split
  split
  · rename_i z7
    exact kept_of_eq_2_2 z7 (readSrc_kept _ _ _ _ _ h0)
  · rename_i z13
    exact kept_of_eq_2_2 z13 (readSrc_kept _ _ _ _ _ h0)

theorem collVal_kept{b : State} : ∀ x0 x1 x2 x3 x4 x5, Kept b x5 → Kept b (collVal x0 x1 x2 x3 x4 x5).2 := by
  intro x0 x1 x2 x3 x4 x5
  induction x3 generalizing x0 x1 x2 x4 x5 with
  | zero =>
    intro h5
    unfold collVal
    split
    · exact h5
    · split
      · exact memberWords_kept _ _ _ _ _ h5
      · exact h5
  | succ n ih =>
    intro h5
    unfold collVal
    split
    · exact h5
    · extract_lets +onlyGivenNames v16
      have p17 : Kept b v16.2.2 := by
        unfold v16
        refine kept_foldl_2_2 (fun f18 i18 p18 => ?_) _ ?_
        · split
          · exact p18
          · split
            · rename_i z27
              exact kept_of_eq_2 z27 (ih _ _ _ _ _ p18)
            · rename_i z32
              exact kept_of_eq_2 z32 (ih _ _ _ _ _ p18)
        · exact h5
      clear_value v16
      split
      · exact p17
      · exact p17

theorem collFail_kept{b : State} : ∀ x0 x1 x2 x3 x4, Kept b x0 → Kept b (collFail x0 x1 x2 x3 x4) := by
  intro x0 x1 x2 x3 x4 h0
  unfold collFail
  split
  · exact h0
  · extract_lets +onlyGivenNames v5
    have p6 : Kept b v5 := by
      unfold v5
      exact spoilOut_kept _ _ _ (collAborts_kept _ _ _ _ _ h0)
    clear_value v5
    extract_lets +onlyGivenNames v7
    have p8 : Kept b v7 := by
      unfold v7
      exact collLeave_kept _ _ _ p6
    clear_value v7
    extract_lets +onlyGivenNames v9
    have p10 : Kept b v9 := by
      unfold v9
      split
      · refine kept_ite ?_ ?_
        · extract_lets +onlyGivenNames v14
          clear_value v14
          exact kept_ite (treeAbortOp_kept _ _ _ _ _ p8) p8
        · exact p8
      · exact p8
    clear_value v9
    exact finishOp_kept _ _ _ _ _ _ p10

theorem collDone_kept{b : State} : ∀ x0 x1 x2, Kept b x0 → Kept b (collDone x0 x1 x2) := by
  intro x0 x1 x2 h0
  unfold collDone
  exact finishOp_kept _ _ _ _ _ _ (collLeave_kept _ _ _ h0)

theorem collFlags_kept{b : State} : ∀ x0 x1 x2 x3, Kept b x0 → Kept b (collFlags x0 x1 x2 x3) := by
  intro x0 x1 x2 x3 h0
  unfold collFlags
  split
  · exact setOp_kept _ _ _ _ h0
  · exact h0

theorem giveAll_kept{b : State} : ∀ x0 x1 x2 x3, Kept b x0 → (∀ y0 y1, Kept b y1 → Kept b (x3 y0 y1).2.2) → Kept b (giveAll x0 x1 x2 x3).2 := by
  intro x0 x1 x2 x3 h0 h3
  unfold giveAll
  refine kept_foldl_2 (fun f0 i0 p0 => ?_) _ ?_
  · split
    · exact p0
    · split
      · rename_i z9
        split
        · dsimp only
          exact setColl_kept _ _ _ _ (kept_of_eq_2_2 z9 (h3 _ _ p0))
        · exact kept_of_eq_2_2 z9 (h3 _ _ p0)
      · rename_i z20
        exact kept_of_eq_2_2 z20 (h3 _ _ p0)
  · exact h0

theorem handOff_kept{b : State} : ∀ x0 x1 x2, Kept b x0 → Kept b (handOff x0 x1 x2).2 := by
  intro x0 x1 x2 h0
  unfold handOff
  refine kept_foldl_2 (fun f0 i0 p0 => ?_) _ ?_
  · split
    · exact p0
    · refine kept_ite_2 ?_ ?_
      · split
        · rename_i z9
          exact giveAll_kept _ _ _ _ (kept_of_eq_2 z9 (memberWords_kept _ _ _ _ _ p0)) (fun y10 y11 k12 => k12)
        · rename_i z17
          exact kept_of_eq_2 z17 (memberWords_kept _ _ _ _ _ p0)
        · rename_i z23
          exact kept_of_eq_2 z23 (memberWords_kept _ _ _ _ _ p0)
      · refine giveAll_kept _ _ _ _ ?_ ?_
        · exact p0
        · intro y24 y25 k26
          extract_lets +onlyGivenNames v27
          clear_value v27
          refine kept_ite_2_2 ?_ ?_
          · exact k26
          · extract_lets +onlyGivenNames v28
            have p29 : Kept b v28.2.2 := by
              unfold v28
              exact readSrc_kept _ _ _ _ _ k26
            clear_value v28
            exact p29
  · exact h0

theorem writeDst_kept{b : State} : ∀ x0 x1 x2 x3 x4 x5, Kept b x0 → Kept b (writeDst x0 x1 x2 x3 x4 x5).2 := by
  intro x0 x1 x2 x3 x4 x5 h0
  unfold writeDst
  split
  · exact h0
  · split
    · rename_i z7
      exact kept_of_eq_2 z7 (tvaWriteList_kept _ _ _ _ _ h0)
    · rename_i z12
      dsimp only
      exact collFail_kept _ _ _ _ _ (kept_of_eq_2 z12 (tvaWriteList_kept _ _ _ _ _ h0))

theorem outChunk_kept{b : State} : ∀ x0 x1 x2 x3 x4, Kept b x0 → Kept b (outChunk x0 x1 x2 x3 x4).2.2 := by
  intro x0 x1 x2 x3 x4 h0
  unfold outChunk
  refine kept_ite_2_2 ?_ ?_
  · split
    refine kept_ite_2_2 ?_ ?_
    · exact h0
    · split
      · rename_i z7
        exact kept_of_eq_2 z7 (collVal_kept _ _ _ _ _ _ h0)
      · rename_i z12
        dsimp only
        exact collFail_kept _ _ _ _ _ (kept_of_eq_2 z12 (collVal_kept _ _ _ _ _ _ h0))
      · rename_i z16
        extract_lets +onlyGivenNames v17
        clear_value v17
        extract_lets +onlyGivenNames v18
        clear_value v18
        extract_lets +onlyGivenNames v19
        clear_value v19
        extract_lets +onlyGivenNames v20
        clear_value v20
        extract_lets +onlyGivenNames v21
        have p22 : Kept b v21 := by
          unfold v21
          exact collFlags_kept _ _ _ _ (kept_of_eq_2 z16 (collVal_kept _ _ _ _ _ _ h0))
        clear_value v21
        split
        rename_i z26
        exact kept_of_eq_2 z26 (writeDst_kept _ _ _ _ _ _ p22)
  · extract_lets +onlyGivenNames v27
    clear_value v27
    refine kept_ite_2_2 ?_ ?_
    · exact h0
    · refine kept_foldl_2_2 (fun f28 i28 p28 => ?_) _ ?_
      · refine kept_ite_2_2 ?_ ?_
        · exact p28
        · split
          rename_i z32
          exact kept_of_eq_2 z32 (writeDst_kept _ _ _ _ _ _ p28)
      · exact h0

theorem collAdvance_kept{b : State} : ∀ x0 x1 x2, Kept b x0 → Kept b (collAdvance x0 x1 x2) := by
  intro x0 x1 x2 h0
  unfold collAdvance
  split
  · exact h0
  · extract_lets +onlyGivenNames v5
    clear_value v5
    refine kept_ite ?_ ?_
    · exact h0
    · refine kept_ite ?_ ?_
      · exact kept_ite (collDone_kept _ _ _ h0) h0
      · refine kept_ite ?_ ?_
        · exact h0
        · extract_lets +onlyGivenNames v6
          clear_value v6
          extract_lets +onlyGivenNames v7
          clear_value v7
          refine kept_ite ?_ ?_
          · exact h0
          · extract_lets +onlyGivenNames v8
            clear_value v8
            extract_lets +onlyGivenNames v9
            have p10 : Kept b v9 := by
              unfold v9
              refine kept_ite ?_ ?_
              · exact h0
              · refine kept_foldl (fun f11 i11 p11 => ?_) _ ?_
                · split
                  · rename_i z14
                    exact kept_of_eq_2 z14 (handOff_kept _ _ _ p11)
                  · rename_i z18
                    exact collFail_kept _ _ _ _ _ (kept_of_eq_2 z18 (handOff_kept _ _ _ p11))
                · exact h0
            clear_value v9
            extract_lets +onlyGivenNames v19
            have p20 : Kept b v19.2 := by
              unfold v19
              refine kept_foldl_2 (fun f21 i21 p21 => ?_) _ ?_
              · refine kept_ite_2 ?_ ?_
                · exact p21
                · split
                  · exact p21
                  · split
                    rename_i z31
                    split
                    · dsimp only
                      exact setColl_kept _ _ _ _ (kept_of_eq_2_2 z31 (outChunk_kept _ _ _ _ _ p21))
                    · exact kept_of_eq_2_2 z31 (outChunk_kept _ _ _ _ _ p21)
              · exact p10
            clear_value v19
            split
            · exact kept_ite (collDone_kept _ _ _ p20) p20
            · exact p20

theorem collPass_kept{b : State} : ∀ x0 x1, Kept b x0 → Kept b (collPass x0 x1) := by
  intro x0 x1 h0
  unfold collPass
  extract_lets +onlyGivenNames v0
  clear_value v0
  exact kept_foldl (fun f1 i1 p1 => kept_foldl (fun f2 i2 p2 => collAdvance_kept _ _ _ p2) _ p1) _ h0

theorem takeJoin_kept{b : State} : ∀ x0 x1 x2 x3, Kept b x0 → Kept b (takeJoin x0 x1 x2 x3) := by
  intro x0 x1 x2 x3 h0
  unfold takeJoin
  split
  · exact h0
  · exact kept_ite (collFail_kept _ _ _ _ _ h0) (kept_ite h0 (setColl_kept _ _ _ _ h0))

theorem collBegin_kept{b : State} : ∀ x0 x1 x2, Kept b x0 → Kept b (collBegin x0 x1 x2) := by
  intro x0 x1 x2 h0
  unfold collBegin
  extract_lets +onlyGivenNames v0
  clear_value v0
  extract_lets +onlyGivenNames v1
  clear_value v1
  extract_lets +onlyGivenNames v2
  clear_value v2
  extract_lets +onlyGivenNames v3
  clear_value v3
  extract_lets +onlyGivenNames v4
  clear_value v4
  extract_lets +onlyGivenNames v5
  have p6 : Kept b v5 := by
    unfold v5
    exact setHub_kept _ _ _ h0
  clear_value v5
  extract_lets +onlyGivenNames v7
  have p8 : Kept b v7 := by
    unfold v7
    exact kept_foldl (fun f9 i9 p9 => takeJoin_kept _ _ _ _ p9) _ p6
  clear_value v7
  extract_lets +onlyGivenNames v10
  have p11 : Kept b v10 := by
    unfold v10
    exact kept_foldl (fun f12 i12 p12 => takeJoin_kept _ _ _ _ (takeJoin_kept _ _ _ _ p12)) _ p8
  clear_value v10
  exact collPass_kept _ _ p11

theorem collStart_kept{b : State} : ∀ x0 x1 x2 x3 x4, Kept b x0 → Kept b (collStart x0 x1 x2 x3 x4) := by
  intro x0 x1 x2 x3 x4 h0
  unfold collStart
  refine kept_ite ?_ ?_
  · exact finishOp_kept _ _ _ _ _ _ h0
  · extract_lets +onlyGivenNames v0
    have p1 : Kept b v0 := by
      unfold v0
      exact setOp_kept _ _ _ _ h0
    clear_value v0
    extract_lets +onlyGivenNames v2
    clear_value v2
    split
    · refine kept_ite ?_ ?_
      · extract_lets +onlyGivenNames v6
        clear_value v6
        extract_lets +onlyGivenNames v7
        have p8 : Kept b v7 := by
          unfold v7
          exact setHub_kept _ _ _ p1
        clear_value v7
        extract_lets +onlyGivenNames v9
        clear_value v9
        split
        · rename_i z13
          exact kept_ite (finishOp_kept _ _ _ _ _ _ (collLeave_kept _ _ _ (kept_of_eq_2_2 z13 (readSrc_kept _ _ _ _ _ p8)))) (treeJoin_kept _ _ _ _ (kept_of_eq_2_2 z13 (readSrc_kept _ _ _ _ _ p8)))
        · rename_i z19
          exact collFail_kept _ _ _ _ _ (kept_of_eq_2_2 z19 (readSrc_kept _ _ _ _ _ p8))
      · exact collBegin_kept _ _ _ p1
    · exact collBegin_kept _ _ _ p1

theorem collNormal_kept{b : State} : ∀ x0 x1 x2 x3, Kept b x0 → Kept b (collNormal x0 x1 x2 x3) := by
  intro x0 x1 x2 x3 h0
  unfold collNormal
  extract_lets +onlyGivenNames v0
  clear_value v0
  extract_lets +onlyGivenNames v1
  clear_value v1
  extract_lets +onlyGivenNames v2
  clear_value v2
  extract_lets +onlyGivenNames v3
  have p4 : ∀ y4000, Kept b y4000 → Kept b (v3 y4000) := by
    unfold v3
    exact fun y5 k6 => finishOp_kept _ _ _ _ _ _ k6
  clear_value v3
  refine kept_ite ?_ ?_
  · exact p4 _ h0
  · split
    · rename_i z10
      extract_lets +onlyGivenNames v11
      clear_value v11
      extract_lets +onlyGivenNames v12
      clear_value v12
      refine kept_ite ?_ ?_
      · exact p4 _ (kept_of_eq_2_2 z10 (tvaReadList_kept _ _ _ _ _ h0))
      · extract_lets +onlyGivenNames v13
        clear_value v13
        exact collStart_kept _ _ _ _ _ (kept_of_eq_2_2 z10 (tvaReadList_kept _ _ _ _ _ h0))
    · rename_i z19
      exact finishOp_kept _ _ _ _ _ _ (kept_of_eq_2_2 z19 (tvaReadList_kept _ _ _ _ _ h0))

theorem collComm_kept{b : State} : ∀ x0 x1 x2 x3 x4, Kept b x0 → Kept b (collComm x0 x1 x2 x3 x4) := by
  intro x0 x1 x2 x3 x4 h0
  unfold collComm
  extract_lets +onlyGivenNames v0
  clear_value v0
  extract_lets +onlyGivenNames v1
  clear_value v1
  extract_lets +onlyGivenNames v2
  clear_value v2
  refine kept_ite ?_ ?_
  · exact finishOp_kept _ _ _ _ _ _ h0
  · extract_lets +onlyGivenNames v3
    clear_value v3
    exact collStart_kept _ _ _ _ _ h0

theorem coll_kept{b : State} : ∀ x0 x1 x2 x3, Kept b x3 → KeptO b (coll x0 x1 x2 x3) := by
  intro x0 x1 x2 x3 h3
  unfold coll
  refine onChosen_kept _ _ _ _ _ ?_ ?_
  · exact h3
  · intro y0
    refine kept_ite ?_ ?_
    · exact h3
    · extract_lets +onlyGivenNames v1
      clear_value v1
      exact kept_ite (collComm_kept _ _ _ _ _ h3) (collNormal_kept _ _ _ _ h3)

theorem execAllReduce_kept{b : State} : ∀ x0 x1 x2, Kept b x2 → KeptO b (execAllReduce x0 x1 x2) := by
  intro x0 x1 x2 h2
  unfold execAllReduce
  exact coll_kept _ _ _ _ h2

theorem execReduceScatter_kept{b : State} : ∀ x0 x1 x2, Kept b x2 → KeptO b (execReduceScatter x0 x1 x2) := by
  intro x0 x1 x2 h2
  unfold execReduceScatter
  exact coll_kept _ _ _ _ h2

theorem execAllGather_kept{b : State} : ∀ x0 x1 x2, Kept b x2 → KeptO b (execAllGather x0 x1 x2) := by
  intro x0 x1 x2 h2
  unfold execAllGather
  exact coll_kept _ _ _ _ h2

theorem execBroadcast_kept{b : State} : ∀ x0 x1 x2, Kept b x2 → KeptO b (execBroadcast x0 x1 x2) := by
  intro x0 x1 x2 h2
  unfold execBroadcast
  exact coll_kept _ _ _ _ h2

theorem execAllToAll_kept{b : State} : ∀ x0 x1 x2, Kept b x2 → KeptO b (execAllToAll x0 x1 x2) := by
  intro x0 x1 x2 h2
  unfold execAllToAll
  exact coll_kept _ _ _ _ h2

theorem execReduce_kept{b : State} : ∀ x0 x1 x2, Kept b x2 → KeptO b (execReduce x0 x1 x2) := by
  intro x0 x1 x2 h2
  unfold execReduce
  exact coll_kept _ _ _ _ h2

theorem execBarrier_kept{b : State} : ∀ x0 x1 x2, Kept b x2 → KeptO b (execBarrier x0 x1 x2) := by
  intro x0 x1 x2 h2
  unfold execBarrier
  exact coll_kept _ _ _ _ h2

theorem arrived_kept{b : State} : ∀ x0 x1, Kept b x0 → Kept b (arrived x0 x1) := by
  intro x0 x1 h0
  unfold arrived
  exact kept_mk (kept_eta h0)

theorem execCollectiveJoin_kept{b : State} : ∀ x0 x1 x2, Kept b x2 → KeptO b (execCollectiveJoin x0 x1 x2) := by
  intro x0 x1 x2 h2
  unfold execCollectiveJoin
  refine guardWf_kept _ _ ?_
  refine keptO_next ?_
  refine kept_ite ?_ ?_
  · exact h2
  · extract_lets +onlyGivenNames v0
    have p1 : Kept b v0 := by
      unfold v0
      exact arrived_kept _ _ h2
    clear_value v0
    split
    · exact collPass_kept _ _ (takeJoin_kept _ _ _ _ p1)
    · extract_lets +onlyGivenNames v8
      clear_value v8
      extract_lets +onlyGivenNames v9
      clear_value v9
      exact setHub_kept _ _ _ p1

theorem takeData_kept{b : State} : ∀ x0 x1 x2 x3 x4, Kept b x0 → Kept b (takeData x0 x1 x2 x3 x4) := by
  intro x0 x1 x2 x3 x4 h0
  unfold takeData
  split
  · exact h0
  · extract_lets +onlyGivenNames v5
    clear_value v5
    exact collPass_kept _ _ (setColl_kept _ _ _ _ h0)

theorem nearPacket_kept{b : State} : ∀ x0 x1 x2 x3 x4 x5, Kept b x0 → Kept b (nearPacket x0 x1 x2 x3 x4 x5) := by
  intro x0 x1 x2 x3 x4 x5 h0
  unfold nearPacket
  split
  · exact h0
  · split
    · exact h0
    · extract_lets +onlyGivenNames v12
      clear_value v12
      refine kept_ite ?_ ?_
      · exact collFail_kept _ _ _ _ _ h0
      · extract_lets +onlyGivenNames v13
        have p14 : Kept b v13 := by
          unfold v13
          exact kept_ite (collFlags_kept _ _ _ _ (collFlags_kept _ _ _ _ h0)) h0
        clear_value v13
        refine kept_ite ?_ ?_
        · split
          · rename_i z18
            exact takeData_kept _ _ _ _ _ (kept_of_eq_2 z18 (collVal_kept _ _ _ _ _ _ p14))
          · rename_i z23
            exact collFail_kept _ _ _ _ _ (kept_of_eq_2 z23 (collVal_kept _ _ _ _ _ _ p14))
          · rename_i z26
            exact kept_of_eq_2 z26 (collVal_kept _ _ _ _ _ _ p14)
        · extract_lets +onlyGivenNames v27
          clear_value v27
          refine kept_ite ?_ ?_
          · exact p14
          · split
            · rename_i z31
              exact takeData_kept _ _ _ _ _ (kept_of_eq_2_2 z31 (readSrc_kept _ _ _ _ _ p14))
            · rename_i z37
              exact collFail_kept _ _ _ _ _ (kept_of_eq_2_2 z37 (readSrc_kept _ _ _ _ _ p14))

theorem execCollectivePacket_kept{b : State} : ∀ x0 x1 x2, Kept b x2 → KeptO b (execCollectivePacket x0 x1 x2) := by
  intro x0 x1 x2 h2
  unfold execCollectivePacket
  refine guardWf_kept _ _ ?_
  refine keptO_next ?_
  refine kept_ite ?_ ?_
  · exact h2
  · split
    · exact h2
    · refine kept_ite ?_ ?_
      · exact h2
      · split
        · exact kept_ite (nearPacket_kept _ _ _ _ _ _ h2) h2
        · extract_lets +onlyGivenNames v12
          clear_value v12
          exact kept_ite (takeData_kept _ _ _ _ _ h2) h2

theorem execCollectiveAbort_kept{b : State} : ∀ x0 x1 x2, Kept b x2 → KeptO b (execCollectiveAbort x0 x1 x2) := by
  intro x0 x1 x2 h2
  unfold execCollectiveAbort
  refine guardWf_kept _ _ ?_
  refine keptO_next ?_
  extract_lets +onlyGivenNames v0
  have p1 : Kept b v0 := by
    unfold v0
    exact arrived_kept _ _ h2
  clear_value v0
  split
  · exact collFail_kept _ _ _ _ _ p1
  · exact p1

theorem execCollectiveTimeout_kept{b : State} : ∀ x0 x1 x2, Kept b x2 → KeptO b (execCollectiveTimeout x0 x1 x2) := by
  intro x0 x1 x2 h2
  unfold execCollectiveTimeout
  refine guardWf_kept _ _ ?_
  refine keptO_next ?_
  split
  · exact h2
  · extract_lets +onlyGivenNames v5
    have p6 : Kept b v5 := by
      unfold v5
      exact kept_mk (kept_eta h2)
    clear_value v5
    extract_lets +onlyGivenNames v7
    clear_value v7
    extract_lets +onlyGivenNames v8
    clear_value v8
    extract_lets +onlyGivenNames v9
    clear_value v9
    exact finishOp_kept _ _ _ _ _ _ (collLeave_kept _ _ _ (spoilOut_kept _ _ _ p6))

theorem collResumeOne_kept{b : State} : ∀ x0 x1 x2, Kept b x0 → Kept b (collResumeOne x0 x1 x2) := by
  intro x0 x1 x2 h0
  unfold collResumeOne
  split
  · exact h0
  · split
    · refine kept_ite ?_ ?_
      · exact h0
      · extract_lets +onlyGivenNames v11
        have p12 : Kept b v11 := by
          unfold v11
          exact setColl_kept _ _ _ _ h0
        clear_value v11
        exact kept_ite (treeJoin_kept _ _ _ _ p12) (collAdvance_kept _ _ _ p12)
    · exact collAdvance_kept _ _ _ h0

theorem collResume_kept{b : State} : ∀ x0, Kept b x0 → Kept b (collResume x0) := by
  intro x0 h0
  unfold collResume
  exact kept_foldl (fun f0 i0 p0 => kept_foldl (fun f1 i1 p1 => collResumeOne_kept _ _ _ p1) _ p0) _ h0

end Sys2Proof.Machine
end

