-- ==== Sys2Proof/Laws/KeptNet.lean ====
section
/-! SUPPORT. `f_kept` (Laws/Kept.lean) for the functions of the hub network, Melux, Quince and the general ports. -/
namespace Sys2Proof.Machine

theorem setRing'_kept{b : State} : ∀ x0 x1 x2 x3 x4, Kept b x0 → Kept b (setRing' x0 x1 x2 x3 x4) := by
  intro x0 x1 x2 x3 x4 h0
  unfold setRing'
  exact kept_mk (kept_eta h0)

theorem setStop_kept{b : State} : ∀ x0 x1 x2 x3 x4, Kept b x0 → Kept b (setStop x0 x1 x2 x3 x4) := by
  intro x0 x1 x2 x3 x4 h0
  unfold setStop
  exact kept_mk (kept_eta h0)

theorem brWait_kept{b : State} : ∀ x0 x1 x2 x3 x4, Kept b x0 → Kept b (brWait x0 x1 x2 x3 x4) := by
  intro x0 x1 x2 x3 x4 h0
  unfold brWait
  extract_lets +onlyGivenNames v0
  clear_value v0
  exact setStop_kept _ _ _ _ _ h0

theorem brInject_kept{b : State} : ∀ x0 x1, Kept b x0 → Kept b (brInject x0 x1) := by
  intro x0 x1 h0
  unfold brInject
  split
  · exact h0
  · extract_lets +onlyGivenNames v6
    clear_value v6
    extract_lets +onlyGivenNames v7
    clear_value v7
    extract_lets +onlyGivenNames v8
    clear_value v8
    extract_lets +onlyGivenNames v9
    clear_value v9
    extract_lets +onlyGivenNames v10
    clear_value v10
    extract_lets +onlyGivenNames v11
    clear_value v11
    extract_lets +onlyGivenNames v12
    have p13 : Kept b v12 := by
      unfold v12
      exact setRing'_kept _ _ _ _ _ h0
    clear_value v12
    extract_lets +onlyGivenNames v14
    have p15 : Kept b v14 := by
      unfold v14
      exact setStop_kept _ _ _ _ _ p13
    clear_value v14
    extract_lets +onlyGivenNames v16
    have p17 : Kept b v16 := by
      unfold v16
      exact kept_ite (kept_mk (kept_eta p15)) p15
    clear_value v16
    refine kept_ite ?_ ?_
    · extract_lets +onlyGivenNames v18
      clear_value v18
      extract_lets +onlyGivenNames v19
      clear_value v19
      exact setStop_kept _ _ _ _ _ p17
    · exact p17

theorem brReturn_kept{b : State} : ∀ x0 x1, Kept b x0 → Kept b (brReturn x0 x1) := by
  intro x0 x1 h0
  unfold brReturn
  extract_lets +onlyGivenNames v0
  clear_value v0
  extract_lets +onlyGivenNames v1
  clear_value v1
  exact setRing'_kept _ _ _ _ _ (setStop_kept _ _ _ _ _ h0)

theorem brMark_kept{b : State} : ∀ x0 x1 x2, Kept b x0 → Kept b (brMark x0 x1 x2) := by
  intro x0 x1 x2 h0
  unfold brMark
  extract_lets +onlyGivenNames v0
  clear_value v0
  extract_lets +onlyGivenNames v1
  clear_value v1
  extract_lets +onlyGivenNames v2
  have p3 : Kept b v2 := by
    unfold v2
    exact setStop_kept _ _ _ _ _ h0
  clear_value v2
  extract_lets +onlyGivenNames v4
  clear_value v4
  exact kept_ite (setRing'_kept _ _ _ _ _ p3) p3

theorem brToken_kept{b : State} : ∀ x0 x1 x2, Kept b x0 → Kept b (brToken x0 x1 x2) := by
  intro x0 x1 x2 h0
  unfold brToken
  extract_lets +onlyGivenNames v0
  have p1 : Kept b v0 := by
    unfold v0
    exact brReturn_kept _ _ h0
  clear_value v0
  refine kept_ite ?_ ?_
  · exact p1
  · refine kept_ite ?_ ?_
    · extract_lets +onlyGivenNames v2
      clear_value v2
      exact brInject_kept _ _ (setRing'_kept _ _ _ _ _ p1)
    · exact brMark_kept _ _ _ p1

theorem execBrambleToken_kept{b : State} : ∀ x0 x1 x2, Kept b x2 → KeptO b (execBrambleToken x0 x1 x2) := by
  intro x0 x1 x2 h2
  unfold execBrambleToken
  refine guardWf_kept _ _ ?_
  refine keptO_next ?_
  refine kept_ite ?_ ?_
  · exact h2
  · split
    · exact brToken_kept _ _ _ h2
    · extract_lets +onlyGivenNames v3
      clear_value v3
      exact brToken_kept _ _ _ (brWait_kept _ _ _ _ _ h2)

theorem brFree_kept{b : State} : ∀ x0 x1 x2, Kept b x0 → Kept b (brFree x0 x1 x2) := by
  intro x0 x1 x2 h0
  unfold brFree
  extract_lets +onlyGivenNames v0
  clear_value v0
  extract_lets +onlyGivenNames v1
  have p2 : Kept b v1 := by
    unfold v1
    exact setRing'_kept _ _ _ _ _ h0
  clear_value v1
  extract_lets +onlyGivenNames v3
  clear_value v3
  exact setStop_kept _ _ _ _ _ p2

theorem brEject_kept{b : State} : ∀ x0 x1 x2 x3, Kept b x0 → Kept b (brEject x0 x1 x2 x3) := by
  intro x0 x1 x2 x3 h0
  unfold brEject
  extract_lets +onlyGivenNames v0
  have p1 : Kept b v0 := by
    unfold v0
    exact brFree_kept _ _ _ h0
  clear_value v0
  extract_lets +onlyGivenNames v2
  clear_value v2
  extract_lets +onlyGivenNames v3
  have p4 : Kept b v3 := by
    unfold v3
    exact setStop_kept _ _ _ _ _ p1
  clear_value v3
  refine kept_ite ?_ ?_
  · extract_lets +onlyGivenNames v5
    clear_value v5
    exact brWait_kept _ _ _ _ _ p4
  · exact p4

theorem brStay_kept{b : State} : ∀ x0 x1 x2 x3, Kept b x0 → Kept b (brStay x0 x1 x2 x3) := by
  intro x0 x1 x2 x3 h0
  unfold brStay
  extract_lets +onlyGivenNames v0
  clear_value v0
  exact setRing'_kept _ _ _ _ _ h0

theorem brReach_kept{b : State} : ∀ x0 x1 x2 x3, Kept b x0 → Kept b (brReach x0 x1 x2 x3) := by
  intro x0 x1 x2 x3 h0
  unfold brReach
  extract_lets +onlyGivenNames v0
  clear_value v0
  extract_lets +onlyGivenNames v1
  clear_value v1
  extract_lets +onlyGivenNames v2
  clear_value v2
  refine kept_ite ?_ ?_
  · exact kept_ite (brEject_kept _ _ _ _ h0) (brStay_kept _ _ _ _ h0)
  · refine kept_ite ?_ ?_
    · exact brEject_kept _ _ _ _ h0
    · extract_lets +onlyGivenNames v3
      refine kept_ite ?_ ?_
      · exact brStay_kept _ _ _ _ h0
      · extract_lets +onlyGivenNames v4
        have p5 : Kept b v4 := by
          unfold v4
          exact brStay_kept _ _ _ _ h0
        clear_value v4
        exact setStop_kept _ _ _ _ _ p5

theorem brRelease_kept{b : State} : ∀ x0 x1 x2, Kept b x0 → Kept b (brRelease x0 x1 x2) := by
  intro x0 x1 x2 h0
  unfold brRelease
  exact kept_mk (kept_eta h0)

theorem brCutOut_kept{b : State} : ∀ x0 x1 x2 x3, Kept b x0 → Kept b (brCutOut x0 x1 x2 x3) := by
  intro x0 x1 x2 x3 h0
  unfold brCutOut
  refine kept_ite ?_ ?_
  · extract_lets +onlyGivenNames v0
    clear_value v0
    exact brStay_kept _ _ _ _ (setStop_kept _ _ _ _ _ h0)
  · extract_lets +onlyGivenNames v1
    have p2 : Kept b v1 := by
      unfold v1
      exact brFree_kept _ _ _ h0
    clear_value v1
    exact kept_ite (brRelease_kept _ _ _ p2) p2

theorem execBrambleArrival_kept{b : State} : ∀ x0 x1 x2 x3, Kept b x3 → KeptO b (execBrambleArrival x0 x1 x2 x3) := by
  intro x0 x1 x2 x3 h3
  unfold execBrambleArrival
  refine guardWf_kept _ _ ?_
  refine keptO_next ?_
  split
  · exact h3
  · refine kept_ite ?_ ?_
    · exact h3
    · refine kept_ite ?_ ?_
      · exact emit_kept _ _ _ _ (brFree_kept _ _ _ h3)
      · refine kept_ite ?_ ?_
        · exact h3
        · extract_lets +onlyGivenNames v5
          clear_value v5
          exact kept_ite (brCutOut_kept _ _ _ _ h3) (brReach_kept _ _ _ _ h3)

theorem brTake_kept{b : State} : ∀ x0 x1 x2 x3 x4, Kept b x0 → Kept b (brTake x0 x1 x2 x3 x4) := by
  intro x0 x1 x2 x3 x4 h0
  unfold brTake
  extract_lets +onlyGivenNames v0
  clear_value v0
  split
  · exact kept_ite (brWait_kept _ _ _ _ _ (setStop_kept _ _ _ _ _ h0)) h0
  · exact setStop_kept _ _ _ _ _ h0
  · exact kept_ite (brRelease_kept _ _ _ h0) h0
  · exact h0

theorem brDrainStop_kept{b : State} : ∀ x0 x1, Kept b x0 → Kept b (brDrainStop x0 x1) := by
  intro x0 x1 h0
  unfold brDrainStop
  extract_lets +onlyGivenNames v0
  clear_value v0
  extract_lets +onlyGivenNames v1
  clear_value v1
  extract_lets +onlyGivenNames v2
  clear_value v2
  refine kept_ite ?_ ?_
  · exact h0
  · extract_lets +onlyGivenNames v3
    clear_value v3
    extract_lets +onlyGivenNames v4
    clear_value v4
    extract_lets +onlyGivenNames v5
    clear_value v5
    extract_lets +onlyGivenNames v6
    have p7 : Kept b v6 := by
      unfold v6
      exact setStop_kept _ _ _ _ _ h0
    clear_value v6
    extract_lets +onlyGivenNames v8
    have p9 : Kept b v8 := by
      unfold v8
      exact kept_foldl (fun f10 i10 p10 => brTake_kept _ _ _ _ _ p10) _ p7
    clear_value v8
    exact setStop_kept _ _ _ _ _ p9

theorem brDrain_kept{b : State} : ∀ x0, Kept b x0 → Kept b (brDrain x0) := by
  intro x0 h0
  unfold brDrain
  exact kept_foldl (fun f0 i0 p0 => brDrainStop_kept _ _ p0) _ h0

theorem netAnswer_kept{b : State} : ∀ x0 x1 x2, Kept b x0 → Kept b (netAnswer x0 x1 x2) := by
  intro x0 x1 x2 h0
  unfold netAnswer
  extract_lets +onlyGivenNames v0
  clear_value v0
  exact setHub_kept _ _ _ h0

theorem vcSet_kept{b : State} : ∀ x0 x1 x2 x3 x4 x5, Kept b x0 → Kept b (vcSet x0 x1 x2 x3 x4 x5) := by
  intro x0 x1 x2 x3 x4 x5 h0
  unfold vcSet
  extract_lets +onlyGivenNames v0
  clear_value v0
  extract_lets +onlyGivenNames v1
  clear_value v1
  exact setHub_kept _ _ _ h0

theorem vcFree_kept{b : State} : ∀ x0 x1 x2, Kept b x0 → Kept b (vcFree x0 x1 x2) := by
  intro x0 x1 x2 h0
  unfold vcFree
  split
  · exact kept_ite h0 (vcSet_kept _ _ _ _ _ _ h0)
  · exact h0

theorem noteOut_kept{b : State} : ∀ x0 x1 x2 x3, Kept b x0 → Kept b (noteOut x0 x1 x2 x3) := by
  intro x0 x1 x2 x3 h0
  unfold noteOut
  extract_lets +onlyGivenNames v0
  clear_value v0
  exact setHub_kept _ _ _ h0

theorem dropNote_kept{b : State} : ∀ x0 x1 x2, Kept b x0 → Kept b (dropNote x0 x1 x2) := by
  intro x0 x1 x2 h0
  unfold dropNote
  extract_lets +onlyGivenNames v0
  clear_value v0
  exact setHub_kept _ _ _ h0

theorem noteArrived_kept{b : State} : ∀ x0 x1 x2, Kept b x0 → Kept b (noteArrived x0 x1 x2) := by
  intro x0 x1 x2 h0
  unfold noteArrived
  split
  · exact noteOut_kept _ _ _ _ h0
  · exact h0

theorem dropTrack_kept{b : State} : ∀ x0 x1, Kept b x0 → Kept b (dropTrack x0 x1) := by
  intro x0 x1 h0
  unfold dropTrack
  exact kept_foldl (fun f0 i0 p0 => kept_ite (noteArrived_kept _ _ _ p0) (dropNote_kept _ _ _ p0)) _ h0

theorem degrade_kept{b : State} : ∀ x0 x1 x2 x3, Kept b x0 → Kept b (degrade x0 x1 x2 x3) := by
  intro x0 x1 x2 x3 h0
  unfold degrade
  split
  · split
    · extract_lets +onlyGivenNames v7
      clear_value v7
      exact setHub_kept _ _ _ h0
    · exact h0
  · exact h0

theorem sendGp_kept{b : State} : ∀ x0 x1 x2 x3 x4 x5, Kept b x0 → Kept b (sendGp x0 x1 x2 x3 x4 x5) := by
  intro x0 x1 x2 x3 x4 x5 h0
  unfold sendGp
  extract_lets +onlyGivenNames v0
  clear_value v0
  extract_lets +onlyGivenNames v1
  have p2 : Kept b v1 := by
    unfold v1
    exact setHub_kept _ _ _ h0
  clear_value v1
  extract_lets +onlyGivenNames v3
  have p4 : ∀ y4000, Kept b (v3 y4000) := by
    unfold v3
    exact fun y5 => leaf_kept _ _ _ (emit_kept _ _ _ _ (netAnswer_kept _ _ _ p2))
  clear_value v3
  split
  · exact p4 _
  · refine kept_ite ?_ ?_
    · exact p4 _
    · extract_lets +onlyGivenNames v11
      have p12 : Kept b v11 := by
        unfold v11
        exact kept_ite (noteOut_kept _ _ _ _ h0) h0
      clear_value v11
      extract_lets +onlyGivenNames v13
      clear_value v13
      exact gpSend_kept _ _ _ (setConn_kept _ _ _ _ p12)

theorem transit_kept{b : State} : ∀ x0 x1 x2, Kept b x0 → Kept b (transit x0 x1 x2).2 := by
  intro x0 x1 x2 h0
  unfold transit
  refine kept_ite_2 ?_ ?_
  · exact h0
  · refine kept_ite_2 ?_ ?_
    · extract_lets +onlyGivenNames v0
      clear_value v0
      dsimp only
      exact setHub_kept _ _ _ h0
    · exact h0

theorem sendOn_kept{b : State} : ∀ x0 x1 x2 x3 x4 x5 x6, Kept b x0 → Kept b (sendOn x0 x1 x2 x3 x4 x5 x6) := by
  intro x0 x1 x2 x3 x4 x5 x6 h0
  unfold sendOn
  extract_lets +onlyGivenNames v0
  clear_value v0
  extract_lets +onlyGivenNames v1
  have p2 : Kept b v1 := by
    unfold v1
    exact dropNote_kept _ _ _ (degrade_kept _ _ _ _ h0)
  clear_value v1
  extract_lets +onlyGivenNames v3
  clear_value v3
  extract_lets +onlyGivenNames v4
  have p5 : Kept b v4 := by
    unfold v4
    exact setHub_kept _ _ _ p2
  clear_value v4
  refine kept_ite ?_ ?_
  · extract_lets +onlyGivenNames v6
    have p7 : Kept b v6 := by
      unfold v6
      exact vcSet_kept _ _ _ _ _ _ p5
    clear_value v6
    exact kept_ite (noteOut_kept _ _ _ _ p7) p7
  · split
    · rename_i z10
      exact dropTrack_kept _ _ (kept_of_eq_2 z10 (transit_kept _ _ _ p5))
    · rename_i z14
      extract_lets +onlyGivenNames v15
      have p16 : Kept b v15 := by
        unfold v15
        exact dropTrack_kept _ _ (kept_ite (noteOut_kept _ _ _ _ (kept_of_eq_2 z14 (transit_kept _ _ _ p5))) (kept_of_eq_2 z14 (transit_kept _ _ _ p5)))
      clear_value v15
      refine kept_ite ?_ ?_
      · extract_lets +onlyGivenNames v17
        clear_value v17
        extract_lets +onlyGivenNames v18
        clear_value v18
        exact engSend_kept _ _ (setEng_kept _ _ _ p16)
      · exact sendGp_kept _ _ _ _ _ _ p16

theorem routeFails_kept{b : State} : ∀ x0 x1 x2 x3 x4, Kept b x0 → Kept b (routeFails x0 x1 x2 x3 x4) := by
  intro x0 x1 x2 x3 x4 h0
  unfold routeFails
  exact netAnswer_kept _ _ _ (dropTrack_kept _ _ (kept_ite (noRoute_kept _ _ _ _ h0) h0))

theorem routePacket_kept{b : State} : ∀ x0 x1 x2 x3, Kept b x0 → Kept b (routePacket x0 x1 x2 x3) := by
  intro x0 x1 x2 x3 h0
  unfold routePacket
  extract_lets +onlyGivenNames v0
  clear_value v0
  extract_lets +onlyGivenNames v1
  clear_value v1
  extract_lets +onlyGivenNames v2
  have p3 : ∀ y3000, Kept b (v2 y3000) := by
    unfold v2
    exact fun y4 => noteOut_kept _ _ _ _ (degrade_kept _ _ _ _ h0)
  clear_value v2
  split
  · exact kept_ite (routeFails_kept _ _ _ _ _ h0) (routeFails_kept _ _ _ _ _ h0)
  · exact p3 _
  · exact kept_ite (routeFails_kept _ _ _ _ _ h0) (kept_ite (p3 _) (sendOn_kept _ _ _ _ _ _ _ h0))

theorem deliver'_kept{b : State} : ∀ x0 x1 x2, Kept b x0 → Kept b (deliver' x0 x1 x2) := by
  intro x0 x1 x2 h0
  unfold deliver'
  exact netAnswer_kept _ _ _ (dropTrack_kept _ _ h0)

theorem gpXoff_kept{b : State} : ∀ x0 x1 x2, Kept b x0 → Kept b (gpXoff x0 x1 x2) := by
  intro x0 x1 x2 h0
  unfold gpXoff
  extract_lets +onlyGivenNames v0
  clear_value v0
  extract_lets +onlyGivenNames v1
  clear_value v1
  exact setRbit_kept _ _ _ _ h0

theorem takeGp_kept{b : State} : ∀ x0 x1 x2, Kept b x0 → Kept b (takeGp x0 x1 x2) := by
  intro x0 x1 x2 h0
  unfold takeGp
  split
  · exact h0
  · split
    · exact h0
    · extract_lets +onlyGivenNames v11
      have p12 : Kept b v11 := by
        unfold v11
        exact setConn_kept _ _ _ _ h0
      clear_value v11
      exact gpXoff_kept _ _ _ (kept_mk (kept_eta p12))

theorem takeEng_kept{b : State} : ∀ x0 x1 x2, Kept b x0 → Kept b (takeEng x0 x1 x2) := by
  intro x0 x1 x2 h0
  unfold takeEng
  split
  · exact h0
  · split
    · exact h0
    · exact setEng_kept _ _ _ h0

theorem takeIn_kept{b : State} : ∀ x0 x1, Kept b x0 → Kept b (takeIn x0 x1) := by
  intro x0 x1 h0
  unfold takeIn
  exact kept_ite (kept_ite (takeGp_kept _ _ _ h0) (takeEng_kept _ _ _ h0)) h0

theorem execHubRoute_kept{b : State} : ∀ x0 x1 x2, Kept b x2 → KeptO b (execHubRoute x0 x1 x2) := by
  intro x0 x1 x2 h2
  unfold execHubRoute
  refine guardWf_kept _ _ ?_
  refine keptO_next ?_
  refine kept_ite ?_ ?_
  · exact h2
  · extract_lets +onlyGivenNames v0
    clear_value v0
    extract_lets +onlyGivenNames v1
    have p2 : Kept b v1 := by
      unfold v1
      exact vcFree_kept _ _ _ (takeIn_kept _ _ h2)
    clear_value v1
    extract_lets +onlyGivenNames v3
    have p4 : Kept b v3 := by
      unfold v3
      split
      · exact dropNote_kept _ _ _ p2
      · exact p2
    clear_value v3
    extract_lets +onlyGivenNames v10
    clear_value v10
    refine kept_ite ?_ ?_
    · exact deliver'_kept _ _ _ p4
    · extract_lets +onlyGivenNames v11
      clear_value v11
      exact routePacket_kept _ _ _ _ (setHub_kept _ _ _ p4)

theorem retryHeld_kept{b : State} : ∀ x0 x1 x2, Kept b x0 → Kept b (retryHeld x0 x1 x2) := by
  intro x0 x1 x2 h0
  unfold retryHeld
  extract_lets +onlyGivenNames v0
  have p1 : Kept b v0 := by
    unfold v0
    exact routePacket_kept _ _ _ _ (dropNote_kept _ _ _ h0)
  clear_value v0
  extract_lets +onlyGivenNames v2
  clear_value v2
  split
  · exact kept_ite (setHub_kept _ _ _ p1) p1
  · exact p1

theorem execRouteFailover_kept{b : State} : ∀ x0 x1 x2, Kept b x2 → KeptO b (execRouteFailover x0 x1 x2) := by
  intro x0 x1 x2 h2
  unfold execRouteFailover
  exact guardWf_kept _ _ (keptO_next (kept_foldl (fun f0 i0 p0 => retryHeld_kept _ _ _ p0) _ h2))

theorem unqueue_kept{b : State} : ∀ x0 x1 x2, Kept b x0 → Kept b (unqueue x0 x1 x2) := by
  intro x0 x1 x2 h0
  unfold unqueue
  extract_lets +onlyGivenNames v0
  clear_value v0
  exact kept_mk (kept_eta h0)

theorem failReq_kept{b : State} : ∀ x0 x1 x2 x3, Kept b x0 → Kept b (failReq x0 x1 x2 x3) := by
  intro x0 x1 x2 x3 h0
  unfold failReq
  extract_lets +onlyGivenNames v0
  clear_value v0
  extract_lets +onlyGivenNames v1
  have p2 : Kept b v1 := by
    unfold v1
    exact netAnswer_kept _ _ _ (setHub_kept _ _ _ (unqueue_kept _ _ _ h0))
  clear_value v1
  split
  · exact p2
  · split
    · exact collFail_kept _ _ _ _ _ p2
    · exact p2

theorem loseNote_kept{b : State} : ∀ x0 x1 x2 x3, Kept b x0 → Kept b (loseNote x0 x1 x2 x3) := by
  intro x0 x1 x2 x3 h0
  unfold loseNote
  exact kept_ite (failReq_kept _ _ _ _ h0) (dropNote_kept _ _ _ h0)

theorem ringTimeout_kept{b : State} : ∀ x0 x1 x2 x3 x4, Kept b x0 → Kept b (ringTimeout x0 x1 x2 x3 x4) := by
  intro x0 x1 x2 x3 x4 h0
  unfold ringTimeout
  extract_lets +onlyGivenNames v0
  clear_value v0
  split
  · exact h0
  · extract_lets +onlyGivenNames v6
    have p7 : Kept b v6 := by
      unfold v6
      exact kept_mk (kept_eta h0)
    clear_value v6
    exact setStop_kept _ _ _ _ _ p7

theorem execLinkTimeout_kept{b : State} : ∀ x0 x1 x2, Kept b x2 → KeptO b (execLinkTimeout x0 x1 x2) := by
  intro x0 x1 x2 h2
  unfold execLinkTimeout
  refine guardWf_kept _ _ ?_
  refine keptO_next ?_
  split
  · exact kept_ite (ringTimeout_kept _ _ _ _ _ h2) h2
  · split
    · exact h2
    · extract_lets +onlyGivenNames v12
      have p13 : Kept b v12 := by
        unfold v12
        exact kept_mk (kept_eta h2)
      clear_value v12
      extract_lets +onlyGivenNames v14
      have p15 : Kept b v14 := by
        unfold v14
        exact kept_ite (noRoute_kept _ _ _ _ p13) p13
      clear_value v14
      exact loseNote_kept _ _ _ _ p15

theorem dropUnrouted_kept{b : State} : ∀ x0 x1, Kept b x0 → Kept b (dropUnrouted x0 x1) := by
  intro x0 x1 h0
  unfold dropUnrouted
  exact discardRdc_kept _ _ _ h0

theorem egressDown_kept{b : State} : ∀ x0 x1 x2, Kept b x0 → Kept b (egressDown x0 x1 x2) := by
  intro x0 x1 x2 h0
  unfold egressDown
  extract_lets +onlyGivenNames v0
  have p1 : Kept b v0 := by
    unfold v0
    exact emit_kept _ _ _ _ h0
  clear_value v0
  extract_lets +onlyGivenNames v2
  have p3 : Kept b v2 := by
    unfold v2
    exact dropUnrouted_kept _ _ p1
  clear_value v2
  exact kept_foldl (fun f4 i4 p4 => loseNote_kept _ _ _ _ p4) _ p3

theorem hubLinkDown_kept{b : State} : ∀ x0 x1 x2, Kept b x0 → Kept b (hubLinkDown x0 x1 x2) := by
  intro x0 x1 x2 h0
  unfold hubLinkDown
  extract_lets +onlyGivenNames v0
  have p1 : ∀ y1000 y1001 y1002, Kept b y1000 → Kept b (v0 y1000 y1001 y1002) := by
    unfold v0
    exact fun y2 y3 y4 k5 => kept_ite (egressDown_kept _ _ _ (setRbit_kept _ _ _ _ k5)) k5
  clear_value v0
  exact p1 _ _ _ (p1 _ _ _ h0)

theorem gpFalls_kept{b : State} : ∀ x0 x1, Kept b x0 → Kept b (gpFalls x0 x1) := by
  intro x0 x1 h0
  unfold gpFalls
  exact kept_ite h0 (kept_foldl (fun f0 i0 p0 => dropUnrouted_kept _ _ p0) _ (leaf_kept _ _ _ (setRbit_kept _ _ _ _ h0)))

theorem optLinkDown_kept{b : State} : ∀ x0 x1 x2, Kept b x0 → Kept b (optLinkDown x0 x1 x2) := by
  intro x0 x1 x2 h0
  unfold optLinkDown
  refine kept_ite ?_ ?_
  · exact h0
  · extract_lets +onlyGivenNames v0
    clear_value v0
    exact kept_foldl (fun f1 i1 p1 => egressDown_kept _ _ _ p1) _ (setRbit_kept _ _ _ _ h0)

theorem onEng_kept{b : State} : ∀ x0 x1 x2 x3, Kept b x0 → Kept b x3 → KeptO b (onEng x0 x1 x2 x3) := by
  intro x0 x1 x2 x3 h0 h3
  unfold onEng
  exact guardWf_kept _ _ (keptO_next (kept_ite h3 h0))

theorem lineGoesOn_kept{b : State} : ∀ x0 x1, Kept b x0 → Kept b (lineGoesOn x0 x1) := by
  intro x0 x1 h0
  unfold lineGoesOn
  extract_lets +onlyGivenNames v0
  have p1 : Kept b v0 := by
    unfold v0
    exact engSend_kept _ _ h0
  clear_value v0
  exact curTell_kept _ _ _ (curPump_kept _ _ _ p1)

theorem replay_kept{b : State} : ∀ x0 x1, Kept b x0 → Kept b (replay x0 x1) := by
  intro x0 x1 h0
  unfold replay
  exact resend_kept _ _ (mlxCount_kept _ _ _ _ h0)

theorem headerAck_kept{b : State} : ∀ x0 x1 x2, Kept b x0 → Kept b (headerAck x0 x1 x2) := by
  intro x0 x1 x2 h0
  unfold headerAck
  extract_lets +onlyGivenNames v0
  clear_value v0
  extract_lets +onlyGivenNames v1
  clear_value v1
  extract_lets +onlyGivenNames v2
  clear_value v2
  extract_lets +onlyGivenNames v3
  clear_value v3
  extract_lets +onlyGivenNames v4
  clear_value v4
  extract_lets +onlyGivenNames v5
  clear_value v5
  extract_lets +onlyGivenNames v6
  have p7 : Kept b v6 := by
    unfold v6
    exact kept_ite (replay_kept _ _ (setEng_kept _ _ _ h0)) (setEng_kept _ _ _ h0)
  clear_value v6
  exact engSend_kept _ _ p7

theorem setNak_kept{b : State} : ∀ x0 x1, Kept b x0 → Kept b (setNak x0 x1) := by
  intro x0 x1 h0
  unfold setNak
  extract_lets +onlyGivenNames v0
  clear_value v0
  exact kept_ite h0 (setEng_kept _ _ _ h0)

theorem acceptData_kept{b : State} : ∀ x0 x1 x2 x3, Kept b x0 → Kept b (acceptData x0 x1 x2 x3) := by
  intro x0 x1 x2 x3 h0
  unfold acceptData
  extract_lets +onlyGivenNames v0
  clear_value v0
  refine kept_ite ?_ ?_
  · extract_lets +onlyGivenNames v1
    clear_value v1
    extract_lets +onlyGivenNames v2
    clear_value v2
    exact setEng_kept _ _ _ h0
  · exact setNak_kept _ _ h0

theorem execReplayTimeout_kept{b : State} : ∀ x0 x1, Kept b x1 → KeptO b (execReplayTimeout x0 x1) := by
  intro x0 x1 h1
  unfold execReplayTimeout
  refine onEng_kept _ _ _ _ ?_ ?_
  · exact h1
  · extract_lets +onlyGivenNames v0
    clear_value v0
    refine kept_ite ?_ ?_
    · exact h1
    · extract_lets +onlyGivenNames v1
      have p2 : Kept b v1 := by
        unfold v1
        exact kept_mk (kept_eta h1)
      clear_value v1
      exact replay_kept _ _ (setEng_kept _ _ _ p2)

theorem execNakRepeat_kept{b : State} : ∀ x0 x1, Kept b x1 → KeptO b (execNakRepeat x0 x1) := by
  intro x0 x1 h1
  unfold execNakRepeat
  refine onEng_kept _ _ _ _ ?_ ?_
  · exact h1
  · extract_lets +onlyGivenNames v0
    clear_value v0
    refine kept_ite ?_ ?_
    · exact h1
    · extract_lets +onlyGivenNames v1
      have p2 : Kept b v1 := by
        unfold v1
        exact kept_mk (kept_eta h1)
      clear_value v1
      exact setEng_kept _ _ _ p2

theorem takeCredit_kept{b : State} : ∀ x0 x1 x2, Kept b x0 → Kept b (takeCredit x0 x1 x2) := by
  intro x0 x1 x2 h0
  unfold takeCredit
  exact kept_ite (engSend_kept _ _ (setEng_kept _ _ _ h0)) h0

theorem execCredit_kept{b : State} : ∀ x0 x1 x2, Kept b x2 → KeptO b (execCredit x0 x1 x2) := by
  intro x0 x1 x2 h2
  unfold execCredit
  exact onEng_kept _ _ _ _ h2 (takeCredit_kept _ _ _ h2)

theorem setOma_kept{b : State} : ∀ x0 x1 x2 x3, Kept b x0 → Kept b (setOma x0 x1 x2 x3) := by
  intro x0 x1 x2 x3 h0
  unfold setOma
  exact setRfld_kept _ _ _ _ _ h0

theorem takePower_kept{b : State} : ∀ x0 x1 x2, Kept b x0 → Kept b (takePower x0 x1 x2) := by
  intro x0 x1 x2 h0
  unfold takePower
  extract_lets +onlyGivenNames v0
  have p1 : Kept b v0 := by
    unfold v0
    exact kept_foldl (fun f2 i2 p2 => setOma_kept _ _ _ _ p2) _ h0
  clear_value v0
  exact setEng_kept _ _ _ p1

theorem execRxPower_kept{b : State} : ∀ x0 x1 x2, Kept b x2 → KeptO b (execRxPower x0 x1 x2) := by
  intro x0 x1 x2 h2
  unfold execRxPower
  exact onEng_kept _ _ _ _ h2 (takePower_kept _ _ _ h2)

theorem execOmaMeasurement_kept{b : State} : ∀ x0 x1 x2 x3, Kept b x3 → KeptO b (execOmaMeasurement x0 x1 x2 x3) := by
  intro x0 x1 x2 x3 h3
  unfold execOmaMeasurement
  refine onEng_kept _ _ _ _ ?_ ?_
  · exact h3
  · extract_lets +onlyGivenNames v0
    clear_value v0
    extract_lets +onlyGivenNames v1
    clear_value v1
    exact setEng_kept _ _ _ h3

theorem execRxOmaPublish_kept{b : State} : ∀ x0 x1, Kept b x1 → KeptO b (execRxOmaPublish x0 x1) := by
  intro x0 x1 h1
  unfold execRxOmaPublish
  refine onEng_kept _ _ _ _ ?_ ?_
  · exact h1
  · extract_lets +onlyGivenNames v0
    clear_value v0
    extract_lets +onlyGivenNames v1
    have p2 : Kept b v1 := by
      unfold v1
      refine kept_foldl (fun f3 i3 p3 => ?_) _ ?_
      · extract_lets +onlyGivenNames v4
        clear_value v4
        extract_lets +onlyGivenNames v5
        clear_value v5
        exact setOma_kept _ _ _ _ p3
      · exact h1
    clear_value v1
    exact setEng_kept _ _ _ p2

theorem takeAnn_kept{b : State} : ∀ x0 x1 x2 x3, Kept b x0 → Kept b (takeAnn x0 x1 x2 x3) := by
  intro x0 x1 x2 x3 h0
  unfold takeAnn
  exact setEng_kept _ _ _ h0

theorem execSteerAnn_kept{b : State} : ∀ x0 x1 x2 x3, Kept b x3 → KeptO b (execSteerAnn x0 x1 x2 x3) := by
  intro x0 x1 x2 x3 h3
  unfold execSteerAnn
  exact onEng_kept _ _ _ _ h3 (takeAnn_kept _ _ _ _ h3)

theorem execControlMessageSend_kept{b : State} : ∀ x0 x1 x2, Kept b x2 → KeptO b (execControlMessageSend x0 x1 x2) := by
  intro x0 x1 x2 h2
  unfold execControlMessageSend
  refine onEng_kept _ _ _ _ ?_ ?_
  · exact h2
  · extract_lets +onlyGivenNames v0
    clear_value v0
    extract_lets +onlyGivenNames v1
    clear_value v1
    refine kept_ite ?_ ?_
    · exact h2
    · extract_lets +onlyGivenNames v2
      clear_value v2
      extract_lets +onlyGivenNames v3
      have p4 : Kept b v3 := by
        unfold v3
        exact sendCtl_kept _ _ _ h2
      clear_value v3
      extract_lets +onlyGivenNames v5
      clear_value v5
      extract_lets +onlyGivenNames v6
      clear_value v6
      exact kept_ite (setEng_kept _ _ _ (kept_mk (keptF_free _ (kept_eta p4)))) (setEng_kept _ _ _ p4)

theorem adoptMap_kept{b : State} : ∀ x0 x1 x2 x3 x4, Kept b x0 → Kept b (adoptMap x0 x1 x2 x3 x4) := by
  intro x0 x1 x2 x3 x4 h0
  unfold adoptMap
  extract_lets +onlyGivenNames v0
  have p1 : Kept b v0 := by
    unfold v0
    exact kept_foldl (fun f2 i2 p2 => putRole_kept _ _ _ _ _ p2) _ h0
  clear_value v0
  extract_lets +onlyGivenNames v3
  clear_value v3
  exact refreshEng_kept _ _ (onDir_kept _ _ _ _ p1)

theorem announce_kept{b : State} : ∀ x0 x1 x2 x3 x4 x5 x6 x7, Kept b x0 → Kept b (announce x0 x1 x2 x3 x4 x5 x6 x7) := by
  intro x0 x1 x2 x3 x4 x5 x6 x7 h0
  unfold announce
  extract_lets +onlyGivenNames v0
  clear_value v0
  extract_lets +onlyGivenNames v1
  clear_value v1
  extract_lets +onlyGivenNames v2
  clear_value v2
  extract_lets +onlyGivenNames v3
  clear_value v3
  extract_lets +onlyGivenNames v4
  clear_value v4
  extract_lets +onlyGivenNames v5
  clear_value v5
  exact sendCtl_kept _ _ _ (onDir_kept _ _ _ _ h0)

theorem replaceWave_kept{b : State} : ∀ x0 x1 x2 x3, Kept b x0 → Kept b (replaceWave x0 x1 x2 x3) := by
  intro x0 x1 x2 x3 h0
  unfold replaceWave
  split
  · exact announce_kept _ _ _ _ _ _ _ _ h0
  · exact announce_kept _ _ _ _ _ _ _ _ h0

theorem unsay_kept{b : State} : ∀ x0 x1, Kept b x0 → Kept b (unsay x0 x1) := by
  intro x0 x1 h0
  unfold unsay
  split
  · exact h0
  · exact sendCtl_kept _ _ _ (onDir_kept _ _ _ _ h0)

theorem endCal_kept{b : State} : ∀ x0 x1 x2, Kept b x0 → Kept b (endCal x0 x1 x2) := by
  intro x0 x1 x2 h0
  unfold endCal
  extract_lets +onlyGivenNames v0
  clear_value v0
  split
  · exact h0
  · extract_lets +onlyGivenNames v6
    have p7 : Kept b v6 := by
      unfold v6
      refine kept_ite ?_ ?_
      · split
        · exact putRole_kept _ _ _ _ _ (putRole_kept _ _ _ _ _ h0)
        · exact putRole_kept _ _ _ _ _ h0
      · exact h0
    clear_value v6
    exact onDir_kept _ _ _ _ (kept_ite (unsay_kept _ _ p7) p7)

theorem laneLost_kept{b : State} : ∀ x0 x1 x2 x3 x4, Kept b x0 → Kept b (laneLost x0 x1 x2 x3 x4) := by
  intro x0 x1 x2 x3 x4 h0
  unfold laneLost
  exact leaf_kept _ _ _ (emit_kept _ _ _ _ h0)

theorem nakNow_kept{b : State} : ∀ x0 x1, Kept b x0 → Kept b (nakNow x0 x1) := by
  intro x0 x1 h0
  unfold nakNow
  exact setEng_kept _ _ _ h0

theorem lostWave_kept{b : State} : ∀ x0 x1 x2, Kept b x0 → Kept b (lostWave x0 x1 x2) := by
  intro x0 x1 x2 h0
  unfold lostWave
  extract_lets +onlyGivenNames v0
  clear_value v0
  extract_lets +onlyGivenNames v1
  clear_value v1
  refine kept_ite ?_ ?_
  · extract_lets +onlyGivenNames v2
    have p3 : Kept b v2 := by
      unfold v2
      exact putRole_kept _ _ _ _ _ h0
    clear_value v2
    split
    · extract_lets +onlyGivenNames v7
      have p8 : Kept b v7 := by
        unfold v7
        exact onDir_kept _ _ _ _ p3
      clear_value v7
      exact refreshEng_kept _ _ (replaceWave_kept _ _ _ _ (nakNow_kept _ _ p8))
    · exact refreshEng_kept _ _ p3
  · refine kept_ite ?_ ?_
    · exact h0
    · extract_lets +onlyGivenNames v11
      clear_value v11
      refine kept_ite ?_ ?_
      · exact refreshEng_kept _ _ (putRole_kept _ _ _ _ _ (laneLost_kept _ _ _ _ _ (endCal_kept _ _ _ (setNak_kept _ _ h0))))
      · extract_lets +onlyGivenNames v12
        have p13 : Kept b v12 := by
          unfold v12
          exact kept_ite (endCal_kept _ _ _ h0) h0
        clear_value v12
        exact refreshEng_kept _ _ (replaceWave_kept _ _ _ _ (nakNow_kept _ _ p13))

theorem codeword_kept{b : State} : ∀ x0 x1 x2, Kept b x1 → Kept b (codeword x0 x1 x2) := by
  intro x0 x1 x2 h1
  unfold codeword
  extract_lets +onlyGivenNames v0
  refine kept_ite ?_ ?_
  · exact h1
  · refine kept_ite ?_ ?_
    · exact mlxCount_kept _ _ _ _ h1
    · extract_lets +onlyGivenNames v1
      clear_value v1
      extract_lets +onlyGivenNames v2
      clear_value v2
      extract_lets +onlyGivenNames v3
      clear_value v3
      extract_lets +onlyGivenNames v4
      have p5 : Kept b v4 := by
        unfold v4
        exact mlxCount_kept _ _ _ _ (setEng_kept _ _ _ h1)
      clear_value v4
      exact kept_ite (lostWave_kept _ _ _ p5) p5

theorem setLight_kept{b : State} : ∀ x0 x1 x2, Kept b x0 → Kept b (setLight x0 x1 x2) := by
  intro x0 x1 x2 h0
  unfold setLight
  exact kept_ite (setRbit_kept _ _ _ _ h0) h0

theorem execWavelengthLoss_kept{b : State} : ∀ x0 x1 x2, Kept b x2 → KeptO b (execWavelengthLoss x0 x1 x2) := by
  intro x0 x1 x2 h2
  unfold execWavelengthLoss
  refine onEng_kept _ _ _ _ ?_ ?_
  · exact h2
  · extract_lets +onlyGivenNames v0
    clear_value v0
    refine kept_ite ?_ ?_
    · exact lostWave_kept _ _ _ h2
    · refine kept_ite ?_ ?_
      · extract_lets +onlyGivenNames v1
        clear_value v1
        extract_lets +onlyGivenNames v2
        clear_value v2
        extract_lets +onlyGivenNames v3
        have p4 : Kept b v3 := by
          unfold v3
          exact setEng_kept _ _ _ h2
        clear_value v3
        exact kept_ite (setLinkState_kept _ _ _ (setLight_kept _ _ _ p4)) p4
      · exact h2

theorem execAlignmentMarker_kept{b : State} : ∀ x0 x1 x2 x3 x4, Kept b x4 → KeptO b (execAlignmentMarker x0 x1 x2 x3 x4) := by
  intro x0 x1 x2 x3 x4 h3
  unfold execAlignmentMarker
  refine onEng_kept _ _ _ _ ?_ ?_
  · exact h3
  · split
    · exact h3
    · exact kept_ite h3 (kept_ite (lostWave_kept _ _ _ h3) (setEng_kept _ _ _ h3))

theorem applyChange_kept{b : State} : ∀ x0 x1 x2 x3, Kept b x2 → Kept b (applyChange x0 x1 x2 x3) := by
  intro x0 x1 x2 x3 h2
  unfold applyChange
  extract_lets +onlyGivenNames v0
  clear_value v0
  extract_lets +onlyGivenNames v1
  have p2 : ∀ y2000 y2001, Kept b y2001 → Kept b (v1 y2000 y2001) := by
    unfold v1
    exact fun y3 y4 k5 => onDir_kept _ _ _ _ k5
  clear_value v1
  extract_lets +onlyGivenNames v6
  have p7 : ∀ y7000, Kept b y7000 → Kept b (v6 y7000) := by
    unfold v6
    exact fun y8 k9 => onDir_kept _ _ _ _ k9
  clear_value v6
  extract_lets +onlyGivenNames v10
  have p11 : Kept b v10 := by
    unfold v10
    split
    · exact p7 _ (p2 _ _ (putRole_kept _ _ _ _ _ (putRole_kept _ _ _ _ _ h2)))
    · exact p2 _ _ (putRole_kept _ _ _ _ _ (putRole_kept _ _ _ _ _ h2))
    · exact p7 _ (p2 _ _ (putRole_kept _ _ _ _ _ h2))
    · exact p2 _ _ (putRole_kept _ _ _ _ _ h2)
    · exact laneLost_kept _ _ _ _ _ (mlxCount_kept _ _ _ _ (putRole_kept _ _ _ _ _ (putRole_kept _ _ _ _ _ h2)))
    · exact putRole_kept _ _ _ _ _ (putRole_kept _ _ _ _ _ h2)
    · exact laneLost_kept _ _ _ _ _ (mlxCount_kept _ _ _ _ (putRole_kept _ _ _ _ _ h2))
    · exact h2
  clear_value v10
  exact onDir_kept _ _ _ _ p11

theorem setNoSpare_kept{b : State} : ∀ x0 x1 x2 x3, Kept b x0 → Kept b (setNoSpare x0 x1 x2 x3) := by
  intro x0 x1 x2 x3 h0
  unfold setNoSpare
  extract_lets +onlyGivenNames v0
  have p1 : Kept b v0 := by
    unfold v0
    exact setRbit_kept _ _ _ _ h0
  clear_value v0
  exact kept_ite (leaf_kept _ _ _ p1) p1

theorem setPort'_kept{b : State} : ∀ x0 x1 x2, Kept b x0 → Kept b (setPort' x0 x1 x2) := by
  intro x0 x1 x2 h0
  unfold setPort'
  exact setRfld_kept _ _ _ _ _ h0

theorem sparePort_kept{b : State} : ∀ x0 x1, Kept b x0 → Kept b (sparePort x0 x1) := by
  intro x0 x1 h0
  unfold sparePort
  extract_lets +onlyGivenNames v0
  clear_value v0
  extract_lets +onlyGivenNames v1
  clear_value v1
  refine kept_ite ?_ ?_
  · exact h0
  · extract_lets +onlyGivenNames v2
    have p3 : Kept b v2 := by
      unfold v2
      exact setRbit_kept _ _ _ _ (setLight_kept _ _ _ h0)
    clear_value v2
    extract_lets +onlyGivenNames v4
    have p5 : Kept b v4 := by
      unfold v4
      exact kept_mk (kept_eta p3)
    clear_value v4
    extract_lets +onlyGivenNames v6
    clear_value v6
    extract_lets +onlyGivenNames v7
    have p8 : Kept b v7 := by
      unfold v7
      split
      · exact setLinkState_kept _ _ _ (setPort'_kept _ _ _ p5)
      · exact setNoSpare_kept _ _ _ _ (setLinkState_kept _ _ _ (setPort'_kept _ _ _ p5))
    clear_value v7
    extract_lets +onlyGivenNames v12
    clear_value v12
    extract_lets +onlyGivenNames v13
    have p14 : Kept b v13 := by
      unfold v13
      exact setEng_kept _ _ _ p8
    clear_value v13
    exact leaf_kept _ _ _ (emit_kept _ _ _ _ p14)

theorem linkFalls_kept{b : State} : ∀ x0 x1, Kept b x0 → Kept b (linkFalls x0 x1) := by
  intro x0 x1 h0
  unfold linkFalls
  extract_lets +onlyGivenNames v0
  clear_value v0
  extract_lets +onlyGivenNames v1
  have p2 : Kept b v1 := by
    unfold v1
    exact mlxCount_kept _ _ _ _ (setEng_kept _ _ _ h0)
  clear_value v1
  extract_lets +onlyGivenNames v3
  have p4 : Kept b v3 := by
    unfold v3
    exact setLinkState_kept _ _ _ p2
  clear_value v3
  extract_lets +onlyGivenNames v5
  have p6 : Kept b v5 := by
    unfold v5
    exact leaf_kept _ _ _ (emit_kept _ _ _ _ p4)
  clear_value v5
  exact kept_foldl (fun f7 i7 p7 => egressDown_kept _ _ _ p7) _ p6

theorem returnHeld_kept{b : State} : ∀ x0 x1, Kept b x0 → Kept b (returnHeld x0 x1) := by
  intro x0 x1 h0
  unfold returnHeld
  extract_lets +onlyGivenNames v0
  clear_value v0
  extract_lets +onlyGivenNames v1
  clear_value v1
  extract_lets +onlyGivenNames v2
  have p3 : Kept b v2 := by
    unfold v2
    exact setEng_kept _ _ _ h0
  clear_value v2
  refine kept_foldl (fun f4 i4 p4 => ?_) _ ?_
  · extract_lets +onlyGivenNames v5
    clear_value v5
    exact routePacket_kept _ _ _ _ (setHub_kept _ _ _ p4)
  · exact p3

theorem peerGone_kept{b : State} : ∀ x0 x1, Kept b x0 → Kept b (peerGone x0 x1) := by
  intro x0 x1 h0
  unfold peerGone
  extract_lets +onlyGivenNames v0
  clear_value v0
  extract_lets +onlyGivenNames v1
  have p2 : Kept b v1 := by
    unfold v1
    exact mlxCount_kept _ _ _ _ h0
  clear_value v1
  extract_lets +onlyGivenNames v3
  clear_value v3
  extract_lets +onlyGivenNames v4
  have p5 : Kept b v4 := by
    unfold v4
    exact setEng_kept _ _ _ p2
  clear_value v4
  exact returnHeld_kept _ _ (setLinkState_kept _ _ _ (setLight_kept _ _ _ p5))

theorem linkDownNow_kept{b : State} : ∀ x0 x1, Kept b x0 → Kept b (linkDownNow x0 x1) := by
  intro x0 x1 h0
  unfold linkDownNow
  extract_lets +onlyGivenNames v0
  clear_value v0
  extract_lets +onlyGivenNames v1
  clear_value v1
  exact kept_ite (peerGone_kept _ _ h0) (health_kept _ (sparePort_kept _ _ (linkFalls_kept _ _ h0)))

theorem execLinkDown_kept{b : State} : ∀ x0 x1, Kept b x1 → KeptO b (execLinkDown x0 x1) := by
  intro x0 x1 h1
  unfold execLinkDown
  exact onEng_kept _ _ _ _ h1 (kept_ite (linkDownNow_kept _ _ h1) h1)

theorem execRetrain_kept{b : State} : ∀ x0 x1, Kept b x1 → KeptO b (execRetrain x0 x1) := by
  intro x0 x1 h1
  unfold execRetrain
  exact onEng_kept _ _ _ _ h1 (kept_ite (setLinkState_kept _ _ _ (setLight_kept _ _ _ h1)) h1)

theorem freeNoSpare_kept{b : State} : ∀ x0 x1 x2, Kept b x0 → Kept b (freeNoSpare x0 x1 x2) := by
  intro x0 x1 x2 h0
  unfold freeNoSpare
  extract_lets +onlyGivenNames v0
  clear_value v0
  extract_lets +onlyGivenNames v1
  clear_value v1
  exact kept_ite h0 (setNoSpare_kept _ _ _ _ h0)

theorem freePlanes_kept{b : State} : ∀ x0 x1, Kept b x0 → Kept b (freePlanes x0 x1) := by
  intro x0 x1 h0
  unfold freePlanes
  exact kept_foldl (fun f0 i0 p0 => freeNoSpare_kept _ _ _ p0) _ h0

theorem execPortSpareTimeout_kept{b : State} : ∀ x0 x1, Kept b x1 → KeptO b (execPortSpareTimeout x0 x1) := by
  intro x0 x1 h1
  unfold execPortSpareTimeout
  refine onEng_kept _ _ _ _ ?_ ?_
  · exact h1
  · split
    · exact h1
    · refine kept_ite ?_ ?_
      · exact h1
      · extract_lets +onlyGivenNames v6
        clear_value v6
        extract_lets +onlyGivenNames v7
        have p8 : Kept b v7 := by
          unfold v7
          exact setLight_kept _ _ _ h1
        clear_value v7
        extract_lets +onlyGivenNames v9
        have p10 : Kept b v9 := by
          unfold v9
          exact kept_mk (kept_eta p8)
        clear_value v9
        extract_lets +onlyGivenNames v11
        clear_value v11
        extract_lets +onlyGivenNames v12
        have p13 : Kept b v12 := by
          unfold v12
          exact setPort'_kept _ _ _ (setEng_kept _ _ _ (setRbit_kept _ _ _ _ p10))
        clear_value v12
        exact health_kept _ (setLinkState_kept _ _ _ (freeNoSpare_kept _ _ _ p13))

theorem toBlock_kept{b : State} : ∀ x0 x1 x2 x3, Kept b x0 → Kept b (toBlock x0 x1 x2 x3) := by
  intro x0 x1 x2 x3 h0
  unfold toBlock
  refine kept_ite ?_ ?_
  · extract_lets +onlyGivenNames v0
    have p1 : Kept b v0 := by
      unfold v0
      exact onLine_kept _ _ _ h0
    clear_value v0
    exact kept_mk (kept_eta p1)
  · extract_lets +onlyGivenNames v2
    clear_value v2
    extract_lets +onlyGivenNames v3
    clear_value v3
    extract_lets +onlyGivenNames v4
    have p5 : Kept b v4 := by
      unfold v4
      exact kept_mk (kept_eta h0)
    clear_value v4
    exact setEng_kept _ _ _ p5

theorem execLaneChangeBoundary_kept{b : State} : ∀ x0 x1 x2, Kept b x2 → KeptO b (execLaneChangeBoundary x0 x1 x2) := by
  intro x0 x1 x2 h2
  unfold execLaneChangeBoundary
  refine onEng_kept _ _ _ _ ?_ ?_
  · exact h2
  · split
    · exact h2
    · extract_lets +onlyGivenNames v5
      have p6 : Kept b v5 := by
        unfold v5
        exact toBlock_kept _ _ _ _ h2
      clear_value v5
      extract_lets +onlyGivenNames v7
      clear_value v7
      extract_lets +onlyGivenNames v8
      clear_value v8
      extract_lets +onlyGivenNames v9
      have p10 : Kept b v9 := by
        unfold v9
        exact kept_foldl (fun f11 i11 p11 => applyChange_kept _ _ _ _ p11) _ p6
      clear_value v9
      extract_lets +onlyGivenNames v12
      have p13 : Kept b v12 := by
        unfold v12
        exact onDir_kept _ _ _ _ p10
      clear_value v12
      extract_lets +onlyGivenNames v14
      clear_value v14
      extract_lets +onlyGivenNames v15
      have p16 : Kept b v15 := by
        unfold v15
        exact kept_ite (setEng_kept _ _ _ p13) p13
      clear_value v15
      extract_lets +onlyGivenNames v17
      have p18 : Kept b v17 := by
        unfold v17
        exact refreshEng_kept _ _ p16
      clear_value v17
      exact kept_ite (linkDownNow_kept _ _ p18) (lineGoesOn_kept _ _ p18)

theorem execCodewordLockRegained_kept{b : State} : ∀ x0 x1, Kept b x1 → KeptO b (execCodewordLockRegained x0 x1) := by
  intro x0 x1 h1
  unfold execCodewordLockRegained
  refine onEng_kept _ _ _ _ ?_ ?_
  · exact h1
  · extract_lets +onlyGivenNames v0
    clear_value v0
    exact kept_ite h1 (sendCtl_kept _ _ _ (setEng_kept _ _ _ h1))

theorem linkUpNow_kept{b : State} : ∀ x0 x1, Kept b x0 → Kept b (linkUpNow x0 x1) := by
  intro x0 x1 h0
  unfold linkUpNow
  split
  rename_i z3
  extract_lets +onlyGivenNames v4
  clear_value v4
  extract_lets +onlyGivenNames v5
  clear_value v5
  extract_lets +onlyGivenNames v6
  have p7 : Kept b v6 := by
    unfold v6
    exact setLinkState_kept _ _ _ (setEng_kept _ _ _ (kept_of_eq_2 z3 (freshWord_kept _ h0)))
  clear_value v6
  exact lineGoesOn_kept _ _ (refreshEng_kept _ _ (kept_foldl (fun f8 i8 p8 => lostWave_kept _ _ _ p8) _ p7))

theorem execLinkTraining_kept{b : State} : ∀ x0 x1 x2 x3, Kept b x3 → KeptO b (execLinkTraining x0 x1 x2 x3) := by
  intro x0 x1 x2 x3 h3
  unfold execLinkTraining
  refine onEng_kept _ _ _ _ ?_ ?_
  · exact h3
  · extract_lets +onlyGivenNames v0
    clear_value v0
    refine kept_ite ?_ ?_
    · exact h3
    · refine kept_ite ?_ ?_
      · extract_lets +onlyGivenNames v1
        clear_value v1
        extract_lets +onlyGivenNames v2
        have p3 : Kept b v2 := by
          unfold v2
          exact setLight_kept _ _ _ (setEng_kept _ _ _ h3)
        clear_value v2
        exact kept_ite (introduce_kept _ _ (setLinkState_kept _ _ _ p3)) (setLinkState_kept _ _ _ p3)
      · exact kept_ite (setLinkState_kept _ _ _ h3) (kept_ite (introduce_kept _ _ (setLinkState_kept _ _ _ (setEng_kept _ _ _ h3))) h3)

theorem takeId_kept{b : State} : ∀ x0 x1 x2, Kept b x0 → Kept b (takeId x0 x1 x2) := by
  intro x0 x1 x2 h0
  unfold takeId
  extract_lets +onlyGivenNames v0
  clear_value v0
  refine kept_ite ?_ ?_
  · exact h0
  · extract_lets +onlyGivenNames v1
    clear_value v1
    extract_lets +onlyGivenNames v2
    have p3 : Kept b v2 := by
      unfold v2
      exact setRbit_kept _ _ _ _ (setRfld_kept _ _ _ _ _ h0)
    clear_value v2
    extract_lets +onlyGivenNames v4
    clear_value v4
    extract_lets +onlyGivenNames v5
    have p6 : Kept b v5 := by
      unfold v5
      exact setEng_kept _ _ _ p3
    clear_value v5
    exact kept_ite (linkUpNow_kept _ _ p6) p6

theorem execLinkId_kept{b : State} : ∀ x0 x1 x2, Kept b x2 → KeptO b (execLinkId x0 x1 x2) := by
  intro x0 x1 x2 h2
  unfold execLinkId
  exact onEng_kept _ _ _ _ h2 (takeId_kept _ _ _ h2)

theorem takeMap_kept{b : State} : ∀ x0 x1 x2 x3, Kept b x0 → Kept b (takeMap x0 x1 x2 x3) := by
  intro x0 x1 x2 x3 h0
  unfold takeMap
  extract_lets +onlyGivenNames v0
  clear_value v0
  extract_lets +onlyGivenNames v1
  clear_value v1
  refine kept_ite ?_ ?_
  · exact h0
  · refine kept_ite ?_ ?_
    · extract_lets +onlyGivenNames v2
      have p3 : Kept b v2 := by
        unfold v2
        exact adoptMap_kept _ _ _ _ _ h0
      clear_value v2
      extract_lets +onlyGivenNames v4
      clear_value v4
      extract_lets +onlyGivenNames v5
      have p6 : Kept b v5 := by
        unfold v5
        exact setEng_kept _ _ _ p3
      clear_value v5
      exact kept_ite (linkUpNow_kept _ _ p6) p6
    · exact kept_ite (adoptMap_kept _ _ _ _ _ h0) h0

theorem execRoleMap_kept{b : State} : ∀ x0 x1 x2 x3, Kept b x3 → KeptO b (execRoleMap x0 x1 x2 x3) := by
  intro x0 x1 x2 x3 h3
  unfold execRoleMap
  exact onEng_kept _ _ _ _ h3 (takeMap_kept _ _ _ _ h3)

theorem markPlanes_kept{b : State} : ∀ x0 x1 x2, Kept b x0 → Kept b (markPlanes x0 x1 x2) := by
  intro x0 x1 x2 h0
  unfold markPlanes
  exact kept_foldl (fun f0 i0 p0 => setNoSpare_kept _ _ _ _ p0) _ h0

theorem showPoints_kept{b : State} : ∀ x0 x1, Kept b x0 → Kept b (showPoints x0 x1) := by
  intro x0 x1 h0
  unfold showPoints
  extract_lets +onlyGivenNames v0
  clear_value v0
  exact setRfld_kept _ _ _ _ _ (setRfld_kept _ _ _ _ _ h0)

theorem sayCal_kept{b : State} : ∀ x0 x1, Kept b x0 → Kept b (sayCal x0 x1) := by
  intro x0 x1 h0
  unfold sayCal
  extract_lets +onlyGivenNames v0
  clear_value v0
  split
  · exact h0
  · extract_lets +onlyGivenNames v6
    have p7 : ∀ y7000 y7001, Kept b (v6 y7000 y7001) := by
      unfold v6
      intro y8 y9
      extract_lets +onlyGivenNames v10
      clear_value v10
      exact sendCtl_kept _ _ _ (onDir_kept _ _ _ _ h0)
    clear_value v6
    split
    · exact kept_ite h0 (p7 _ _)
    · exact p7 _ _
    · exact h0

theorem pointAt_kept{b : State} : ∀ x0 x1 x2 x3 x4, Kept b x3 → Kept b (pointAt x0 x1 x2 x3 x4) := by
  intro x0 x1 x2 x3 x4 h3
  unfold pointAt
  extract_lets +onlyGivenNames v0
  clear_value v0
  extract_lets +onlyGivenNames v1
  clear_value v1
  extract_lets +onlyGivenNames v2
  have p3 : Kept b v2 := by
    unfold v2
    exact kept_ite h3 (sayCal_kept _ _ (unsay_kept _ _ (onDir_kept _ _ _ _ h3)))
  clear_value v2
  exact kept_ite (sendCtl_kept _ _ _ p3) p3

theorem steerRequest_kept{b : State} : ∀ x0 x1 x2 x3 x4, Kept b x0 → Kept b (steerRequest x0 x1 x2 x3 x4).2 := by
  intro x0 x1 x2 x3 x4 h0
  unfold steerRequest
  split
  · extract_lets +onlyGivenNames v2
    clear_value v2
    extract_lets +onlyGivenNames v3
    clear_value v3
    extract_lets +onlyGivenNames v4
    clear_value v4
    extract_lets +onlyGivenNames v5
    clear_value v5
    extract_lets +onlyGivenNames v6
    clear_value v6
    extract_lets +onlyGivenNames v7
    have p8 : Kept b v7 := by
      unfold v7
      exact setOpt_kept _ _ _ h0
    clear_value v7
    extract_lets +onlyGivenNames v9
    have p10 : Kept b v9 := by
      unfold v9
      refine kept_foldl (fun f11 i11 p11 => ?_) _ ?_
      · extract_lets +onlyGivenNames v12
        clear_value v12
        exact pointAt_kept _ _ _ _ _ p11
      · exact p8
    clear_value v9
    dsimp only
    exact showPoints_kept _ _ p10
  · exact h0

theorem steerCmdWrite_kept{b : State} : ∀ x0 x1 x2, Kept b x0 → Kept b (steerCmdWrite x0 x1 x2) := by
  intro x0 x1 x2 h0
  unfold steerCmdWrite
  extract_lets +onlyGivenNames v0
  have p1 : Kept b v0 := by
    unfold v0
    exact writeReg_kept _ _ _ h0
  clear_value v0
  refine kept_ite ?_ ?_
  · exact p1
  · split
    rename_i z5
    exact setRfld_kept _ _ _ _ _ (kept_of_eq_2 z5 (steerRequest_kept _ _ _ _ _ p1))

theorem execSteeringRequest_kept{b : State} : ∀ x0 x1, Kept b x1 → KeptO b (execSteeringRequest x0 x1) := by
  intro x0 x1 h1
  unfold execSteeringRequest
  split
  · exact guardWf_kept _ _ (adminCmd_kept _ _ _ _ h1 (fun y4 k5 => steerCmdWrite_kept _ _ _ k5))
  · exact guardWf_kept _ _ (keptO_next (kept_ite (steerRequest_kept _ _ _ _ _ h1) h1))

theorem moveEngine_kept{b : State} : ∀ x0 x1 x2, Kept b x0 → Kept b (moveEngine x0 x1 x2) := by
  intro x0 x1 x2 h0
  unfold moveEngine
  extract_lets +onlyGivenNames v0
  have p1 : Kept b v0 := by
    unfold v0
    exact treesMoved_kept _ _ h0
  clear_value v0
  extract_lets +onlyGivenNames v2
  have p3 : Kept b v2 := by
    unfold v2
    exact endCal_kept _ _ _ (endCal_kept _ _ _ p1)
  clear_value v2
  extract_lets +onlyGivenNames v4
  clear_value v4
  extract_lets +onlyGivenNames v5
  have p6 : Kept b v5 := by
    unfold v5
    exact mlxCount_kept _ _ _ _ p3
  clear_value v5
  extract_lets +onlyGivenNames v7
  clear_value v7
  extract_lets +onlyGivenNames v8
  clear_value v8
  extract_lets +onlyGivenNames v9
  clear_value v9
  extract_lets +onlyGivenNames v10
  have p11 : Kept b v10 := by
    unfold v10
    exact setEng_kept _ _ _ p6
  clear_value v10
  extract_lets +onlyGivenNames v12
  have p13 : Kept b v12 := by
    unfold v12
    exact setLight_kept _ _ _ p11
  clear_value v12
  extract_lets +onlyGivenNames v14
  have p15 : Kept b v14 := by
    unfold v14
    exact setLinkState_kept _ _ _ (setPort'_kept _ _ _ p13)
  clear_value v14
  extract_lets +onlyGivenNames v16
  have p17 : Kept b v16 := by
    unfold v16
    exact refreshEng_kept _ _ p15
  clear_value v16
  exact kept_ite (returnHeld_kept _ _ p17) (introduce_kept _ _ p17)

theorem execSteeringPoint_kept{b : State} : ∀ x0 x1, Kept b x1 → KeptO b (execSteeringPoint x0 x1) := by
  intro x0 x1 h1
  unfold execSteeringPoint
  refine guardWf_kept _ _ ?_
  refine keptO_next ?_
  extract_lets +onlyGivenNames v0
  clear_value v0
  split
  · exact h1
  · refine kept_ite ?_ ?_
    · exact h1
    · extract_lets +onlyGivenNames v7
      have p8 : Kept b v7 := by
        unfold v7
        exact setOpt_kept _ _ _ (kept_mk (kept_eta h1))
      clear_value v7
      split
      extract_lets +onlyGivenNames v13
      clear_value v13
      extract_lets +onlyGivenNames v14
      have p15 : Kept b v14 := by
        unfold v14
        exact markPlanes_kept _ _ _ p8
      clear_value v14
      extract_lets +onlyGivenNames v16
      have p17 : Kept b v16 := by
        unfold v16
        exact kept_foldl (fun f18 i18 p18 => moveEngine_kept _ _ _ p18) _ p15
      clear_value v16
      extract_lets +onlyGivenNames v19
      have p20 : Kept b v19 := by
        unfold v19
        exact setRfld_kept _ _ _ _ _ p17
      clear_value v19
      extract_lets +onlyGivenNames v21
      have p22 : Kept b v21 := by
        unfold v21
        exact setRfld_kept _ _ _ _ _ p20
      clear_value v21
      extract_lets +onlyGivenNames v23
      clear_value v23
      extract_lets +onlyGivenNames v24
      have p25 : Kept b v24 := by
        unfold v24
        exact setRfld_kept _ _ _ _ _ p22
      clear_value v24
      exact health_kept _ (leaf_kept _ _ _ (showPoints_kept _ _ p25))

theorem execRelockDone_kept{b : State} : ∀ x0 x1 x2, Kept b x2 → KeptO b (execRelockDone x0 x1 x2) := by
  intro x0 x1 x2 h2
  unfold execRelockDone
  refine onEng_kept _ _ _ _ ?_ ?_
  · exact h2
  · refine kept_ite ?_ ?_
    · exact h2
    · extract_lets +onlyGivenNames v0
      clear_value v0
      extract_lets +onlyGivenNames v1
      clear_value v1
      extract_lets +onlyGivenNames v2
      have p3 : Kept b v2 := by
        unfold v2
        exact setRbit_kept _ _ _ _ h2
      clear_value v2
      refine kept_ite ?_ ?_
      · exact collResume_kept _ (linkUpNow_kept _ _ (setEng_kept _ _ _ p3))
      · extract_lets +onlyGivenNames v4
        have p5 : Kept b v4 := by
          unfold v4
          exact setLinkState_kept _ _ _ (setEng_kept _ _ _ p3)
        clear_value v4
        extract_lets +onlyGivenNames v6
        have p7 : Kept b v6 := by
          unfold v6
          exact setRbit_kept _ _ _ _ p5
        clear_value v6
        exact leaf_kept _ _ _ (emit_kept _ _ _ _ p7)

theorem calStart_kept{b : State} : ∀ x0 x1 x2, Kept b x0 → Kept b (calStart x0 x1 x2) := by
  intro x0 x1 x2
  induction x2 generalizing x0 x1 with
  | zero =>
    intro h0
    unfold calStart
    exact h0
  | succ n ih =>
    intro h0
    unfold calStart
    extract_lets +onlyGivenNames v0
    clear_value v0
    extract_lets +onlyGivenNames v1
    clear_value v1
    split
    · extract_lets +onlyGivenNames v8
      clear_value v8
      extract_lets +onlyGivenNames v9
      have p10 : Kept b v9 := by
        unfold v9
        exact onDir_kept _ _ _ _ h0
      clear_value v9
      extract_lets +onlyGivenNames v11
      have p12 : ∀ y12000, Kept b (v11 y12000) := by
        unfold v11
        exact fun y13 => sayCal_kept _ _ (refreshEng_kept _ _ (onDir_kept _ _ _ _ p10))
      clear_value v11
      refine kept_ite ?_ ?_
      · exact p12 _
      · refine kept_ite ?_ ?_
        · exact ih _ _ p10
        · split
          · exact p12 _
          · exact kept_ite (p12 _) (ih _ _ p10)
    · exact h0

theorem calNext_kept{b : State} : ∀ x0 x1, Kept b x0 → Kept b (calNext x0 x1) := by
  intro x0 x1 h0
  unfold calNext
  exact lineGoesOn_kept _ _ (calStart_kept _ _ _ (refreshEng_kept _ _ (onDir_kept _ _ _ _ (unsay_kept _ _ h0))))

theorem takeChg_kept{b : State} : ∀ x0 x1 x2, Kept b x0 → Kept b (takeChg x0 x1 x2) := by
  intro x0 x1 x2 h0
  unfold takeChg
  refine kept_ite ?_ ?_
  · exact h0
  · refine kept_ite ?_ ?_
    · extract_lets +onlyGivenNames v0
      clear_value v0
      exact onDir_kept _ _ _ _ (onDir_kept _ _ _ _ h0)
    · extract_lets +onlyGivenNames v1
      have p2 : Kept b v1 := by
        unfold v1
        exact kept_ite (calNext_kept _ _ (endCal_kept _ _ _ h0)) h0
      clear_value v1
      exact onDir_kept _ _ _ _ p2

theorem execLaneChg_kept{b : State} : ∀ x0 x1 x2, Kept b x2 → KeptO b (execLaneChg x0 x1 x2) := by
  intro x0 x1 x2 h2
  unfold execLaneChg
  exact onEng_kept _ _ _ _ h2 (takeChg_kept _ _ _ h2)

theorem onCal_kept{b : State} : ∀ x0 x1 x2 x3, Kept b x0 → (∀ y0, Kept b (x3 y0)) → KeptO b (onCal x0 x1 x2 x3) := by
  intro x0 x1 x2 x3 h0 h3
  unfold onCal
  refine onEng_kept _ _ _ _ ?_ ?_
  · exact h0
  · split
    · exact kept_ite (h3 _) h0
    · exact h0

theorem execCalibrationPeriod_kept{b : State} : ∀ x0 x1 x2, Kept b x2 → KeptO b (execCalibrationPeriod x0 x1 x2) := by
  intro x0 x1 x2 h2
  unfold execCalibrationPeriod
  refine onEng_kept _ _ _ _ ?_ ?_
  · exact h2
  · refine kept_ite ?_ ?_
    · exact h2
    · extract_lets +onlyGivenNames v0
      clear_value v0
      extract_lets +onlyGivenNames v1
      have p2 : Kept b v1 := by
        unfold v1
        exact kept_mk (kept_eta h2)
      clear_value v1
      exact calStart_kept _ _ _ (onDir_kept _ _ _ _ p2)

theorem takeCalReq_kept{b : State} : ∀ x0 x1 x2, Kept b x0 → Kept b (takeCalReq x0 x1 x2) := by
  intro x0 x1 x2 h0
  unfold takeCalReq
  exact kept_ite h0 (calStart_kept _ _ _ (onDir_kept _ _ _ _ h0))

theorem execCalReq_kept{b : State} : ∀ x0 x1 x2, Kept b x2 → KeptO b (execCalReq x0 x1 x2) := by
  intro x0 x1 x2 h2
  unfold execCalReq
  exact onEng_kept _ _ _ _ h2 (takeCalReq_kept _ _ _ h2)

theorem atSwap_kept{b : State} : ∀ x0 x1 x2, Kept b x0 → Kept b (atSwap x0 x1 x2) := by
  intro x0 x1 x2 h0
  unfold atSwap
  extract_lets +onlyGivenNames v0
  have p1 : Kept b v0 := by
    unfold v0
    split
    · exact toBlock_kept _ _ _ _ h0
    · exact h0
  clear_value v0
  exact kept_mk (kept_eta p1)

theorem nextGen_kept{b : State} : ∀ x0 x1 x2, Kept b x0 → Kept b (nextGen x0 x1 x2) := by
  intro x0 x1 x2 h0
  unfold nextGen
  exact refreshEng_kept _ _ (onDir_kept _ _ _ _ h0)

theorem peerChange_kept{b : State} : ∀ x0 x1 x2, Kept b x0 → Kept b (peerChange x0 x1 x2) := by
  intro x0 x1 x2 h0
  unfold peerChange
  split
  · exact h0
  · extract_lets +onlyGivenNames v5
    have p6 : Kept b v5 := by
      unfold v5
      exact applyChange_kept _ _ _ _ (toBlock_kept _ _ _ _ h0)
    clear_value v5
    exact refreshEng_kept _ _ (onDir_kept _ _ _ _ p6)

theorem onSwap_kept{b : State} : ∀ x0 x1 x2 x3 x4, Kept b x0 → (∀ y0, Kept b (x4 y0)) → KeptO b (onSwap x0 x1 x2 x3 x4) := by
  intro x0 x1 x2 x3 x4 h0 h4
  unfold onSwap
  exact keptO_ite (onCal_kept _ _ _ _ h0 (fun y0 => h4 _)) (onEng_kept _ _ _ _ h0 (kept_ite (peerChange_kept _ _ _ h0) h0))

theorem calGone_kept{b : State} : ∀ x0 x1 x2, Kept b x0 → Kept b (calGone x0 x1 x2) := by
  intro x0 x1 x2 h0
  unfold calGone
  exact lineGoesOn_kept _ _ (onDir_kept _ _ _ _ (nextGen_kept _ _ _ h0))

theorem execSwapOut_kept{b : State} : ∀ x0 x1 x2, Kept b x2 → KeptO b (execSwapOut x0 x1 x2) := by
  intro x0 x1 x2 h2
  unfold execSwapOut
  refine onSwap_kept _ _ _ _ _ ?_ ?_
  · exact h2
  · intro y0
    split
    · extract_lets +onlyGivenNames v7
      have p8 : Kept b v7 := by
        unfold v7
        exact atSwap_kept _ _ _ h2
      clear_value v7
      exact kept_ite (calNext_kept _ _ (onDir_kept _ _ _ _ p8)) (calGone_kept _ _ _ (putRole_kept _ _ _ _ _ (putRole_kept _ _ _ _ _ p8)))
    · exact h2

theorem calFail_kept{b : State} : ∀ x0 x1 x2, Kept b x0 → Kept b (calFail x0 x1 x2) := by
  intro x0 x1 x2 h0
  unfold calFail
  extract_lets +onlyGivenNames v0
  have p1 : Kept b v0 := by
    unfold v0
    exact kept_ite h0 (mapChanged_kept _ _ (leaf_kept _ _ _ (emit_kept _ _ _ _ (putRole_kept _ _ _ _ _ h0))))
  clear_value v0
  exact calNext_kept _ _ p1

theorem peerRetune_kept{b : State} : ∀ x0 x1 x2, Kept b x0 → Kept b (peerRetune x0 x1 x2) := by
  intro x0 x1 x2 h0
  unfold peerRetune
  split
  · exact h0
  · exact kept_ite h0 (refreshEng_kept _ _ (onDir_kept _ _ _ _ (putRole_kept _ _ _ _ _ h0)))

theorem execRetuneEnd_kept{b : State} : ∀ x0 x1 x2 x3, Kept b x3 → KeptO b (execRetuneEnd x0 x1 x2 x3) := by
  intro x0 x1 x2 x3 h3
  unfold execRetuneEnd
  refine onEng_kept _ _ _ _ ?_ ?_
  · exact h3
  · refine kept_ite ?_ ?_
    · exact peerRetune_kept _ _ _ h3
    · split
      · exact h3
      · exact kept_ite h3 (kept_ite (calFail_kept _ _ _ h3) (kept_ite (calNext_kept _ _ (kept_ite (mapChanged_kept _ _ (putRole_kept _ _ _ _ _ h3)) h3)) (sayCal_kept _ _ (onDir_kept _ _ _ _ h3))))

theorem execSwapBack_kept{b : State} : ∀ x0 x1 x2, Kept b x2 → KeptO b (execSwapBack x0 x1 x2) := by
  intro x0 x1 x2 h2
  unfold execSwapBack
  refine onSwap_kept _ _ _ _ _ ?_ ?_
  · exact h2
  · intro y0
    split
    · extract_lets +onlyGivenNames v7
      have p8 : Kept b v7 := by
        unfold v7
        exact atSwap_kept _ _ _ h2
      clear_value v7
      extract_lets +onlyGivenNames v9
      have p10 : Kept b v9 := by
        unfold v9
        exact putRole_kept _ _ _ _ _ (putRole_kept _ _ _ _ _ p8)
      clear_value v9
      exact calNext_kept _ _ (nextGen_kept _ _ _ p10)
    · exact h2

theorem execSparelessOut_kept{b : State} : ∀ x0 x1 x2, Kept b x2 → KeptO b (execSparelessOut x0 x1 x2) := by
  intro x0 x1 x2 h2
  unfold execSparelessOut
  refine onSwap_kept _ _ _ _ _ ?_ ?_
  · exact h2
  · intro y0
    split
    · extract_lets +onlyGivenNames v8
      have p9 : Kept b v8 := by
        unfold v8
        exact atSwap_kept _ _ _ h2
      clear_value v8
      exact kept_ite (calNext_kept _ _ p9) (calGone_kept _ _ _ (putRole_kept _ _ _ _ _ p9))
    · exact h2

theorem execSparelessReturn_kept{b : State} : ∀ x0 x1 x2 x3, Kept b x3 → KeptO b (execSparelessReturn x0 x1 x2 x3) := by
  intro x0 x1 x2 x3 h3
  unfold execSparelessReturn
  refine onSwap_kept _ _ _ _ _ ?_ ?_
  · exact h3
  · intro y0
    split
    · exact h3
    · extract_lets +onlyGivenNames v12
      have p13 : Kept b v12 := by
        unfold v12
        split
        · exact atSwap_kept _ _ _ h3
        · exact h3
      clear_value v12
      exact kept_ite (calNext_kept _ _ (nextGen_kept _ _ _ (putRole_kept _ _ _ _ _ p13))) (calFail_kept _ _ _ p13)
    · exact h3

theorem sparelessDue_kept{b : State} : ∀ x0 x1, Kept b x0 → Kept b (sparelessDue x0 x1) := by
  intro x0 x1 h0
  unfold sparelessDue
  split
  · exact h0
  · exact kept_ite (sayCal_kept _ _ (onDir_kept _ _ _ _ h0)) h0

theorem waveGone_kept{b : State} : ∀ x0 x1 x2 x3, Kept b x0 → Kept b (waveGone x0 x1 x2 x3) := by
  intro x0 x1 x2 x3 h0
  unfold waveGone
  extract_lets +onlyGivenNames v0
  clear_value v0
  extract_lets +onlyGivenNames v1
  clear_value v1
  refine kept_ite ?_ ?_
  · exact mapChanged_kept _ _ (calNext_kept _ _ (putRole_kept _ _ _ _ _ (endCal_kept _ _ _ h0)))
  · refine kept_ite ?_ ?_
    · exact calFail_kept _ _ _ h0
    · refine kept_ite ?_ ?_
      · exact mapChanged_kept _ _ (refreshEng_kept _ _ (putRole_kept _ _ _ _ _ h0))
      · refine kept_ite ?_ ?_
        · exact h0
        · refine kept_ite ?_ ?_
          · refine kept_ite ?_ ?_
            · exact h0
            · extract_lets +onlyGivenNames v2
              have p3 : Kept b v2 := by
                unfold v2
                exact kept_ite (endCal_kept _ _ _ h0) h0
              clear_value v2
              split
              · exact announce_kept _ _ _ _ _ _ _ _ p3
              · exact p3
          · extract_lets +onlyGivenNames v9
            have p10 : Kept b v9 := by
              unfold v9
              exact putRole_kept _ _ _ _ _ h0
            clear_value v9
            extract_lets +onlyGivenNames v11
            have p12 : Kept b v11 := by
              unfold v11
              split
              · exact putRole_kept _ _ _ _ _ p10
              · exact p10
            clear_value v11
            exact refreshEng_kept _ _ (mapChanged_kept _ _ p12)

theorem loseLaser_kept{b : State} : ∀ x0 x1 x2 x3 x4, Kept b x0 → Kept b (loseLaser x0 x1 x2 x3 x4) := by
  intro x0 x1 x2 x3 x4 h0
  unfold loseLaser
  extract_lets +onlyGivenNames v0
  have p1 : Kept b v0 := by
    unfold v0
    exact setRbit_kept _ _ _ _ h0
  clear_value v0
  extract_lets +onlyGivenNames v2
  have p3 : Kept b v2 := by
    unfold v2
    exact leaf_kept _ _ _ (emit_kept _ _ _ _ p1)
  clear_value v2
  exact health_kept _ (kept_foldl (fun f4 i4 p4 => waveGone_kept _ _ _ _ p4) _ p3)

theorem execLaserFailure_kept{b : State} : ∀ x0 x1 x2 x3, Kept b x3 → KeptO b (execLaserFailure x0 x1 x2 x3) := by
  intro x0 x1 x2 x3 h3
  unfold execLaserFailure
  exact guardWf_kept _ _ (keptO_next (kept_ite (loseLaser_kept _ _ _ _ _ h3) h3))

theorem execLaserBiasControl_kept{b : State} : ∀ x0 x1 x2 x3, Kept b x3 → KeptO b (execLaserBiasControl x0 x1 x2 x3) := by
  intro x0 x1 x2 x3 h3
  unfold execLaserBiasControl
  refine guardWf_kept _ _ ?_
  refine keptO_next ?_
  refine kept_ite ?_ ?_
  · exact h3
  · split
    · exact h3
    · extract_lets +onlyGivenNames v5
      clear_value v5
      extract_lets +onlyGivenNames v6
      clear_value v6
      extract_lets +onlyGivenNames v7
      clear_value v7
      extract_lets +onlyGivenNames v8
      clear_value v8
      extract_lets +onlyGivenNames v9
      clear_value v9
      extract_lets +onlyGivenNames v10
      have p11 : Kept b v10 := by
        unfold v10
        exact kept_ite h3 (setOpt_kept _ _ _ h3)
      clear_value v10
      extract_lets +onlyGivenNames v12
      clear_value v12
      extract_lets +onlyGivenNames v13
      have p14 : Kept b v13 := by
        unfold v13
        exact setRfld_kept _ _ _ _ _ p11
      clear_value v13
      extract_lets +onlyGivenNames v15
      have p16 : Kept b v15 := by
        unfold v15
        exact setRbit_kept _ _ _ _ p14
      clear_value v15
      extract_lets +onlyGivenNames v17
      have p18 : Kept b v17 := by
        unfold v17
        exact health_kept _ (leaf_kept _ _ _ (emit_kept _ _ _ _ (setRbit_kept _ _ _ _ p16)))
      clear_value v17
      extract_lets +onlyGivenNames v19
      have p20 : Kept b v19 := by
        unfold v19
        exact kept_ite (kept_mk (kept_eta p18)) p16
      clear_value v19
      exact kept_ite (loseLaser_kept _ _ _ _ _ p20) p20

theorem setGrpWord_kept{b : State} : ∀ x0 x1 x2 x3 x4, Kept b x0 → Kept b (setGrpWord x0 x1 x2 x3 x4) := by
  intro x0 x1 x2 x3 x4 h0
  unfold setGrpWord
  extract_lets +onlyGivenNames v0
  clear_value v0
  extract_lets +onlyGivenNames v1
  clear_value v1
  exact setHub_kept _ _ _ h0

theorem grpRefuse_kept{b : State} : ∀ x0 x1 x2 x3, Kept b x0 → Kept b (grpRefuse x0 x1 x2 x3) := by
  intro x0 x1 x2 x3 h0
  unfold grpRefuse
  exact setGrpWord_kept _ _ _ _ _ h0

theorem armGroup_kept{b : State} : ∀ x0 x1 x2, Kept b x0 → Kept b (armGroup x0 x1 x2) := by
  intro x0 x1 x2 h0
  unfold armGroup
  extract_lets +onlyGivenNames v0
  clear_value v0
  extract_lets +onlyGivenNames v1
  clear_value v1
  refine kept_ite ?_ ?_
  · exact grpRefuse_kept _ _ _ _ h0
  · split
    · exact h0
    · split
      · rename_i z11
        extract_lets +onlyGivenNames v12
        clear_value v12
        refine kept_ite ?_ ?_
        · exact grpRefuse_kept _ _ _ _ (kept_of_eq_2_2 z11 (tvaReadList_kept _ _ _ _ _ h0))
        · extract_lets +onlyGivenNames v13
          have p14 : Kept b v13 := by
            unfold v13
            exact setGrpWord_kept _ _ _ _ _ (kept_of_eq_2_2 z11 (tvaReadList_kept _ _ _ _ _ h0))
          clear_value v13
          extract_lets +onlyGivenNames v15
          clear_value v15
          exact setHub_kept _ _ _ p14
      · rename_i z21
        exact grpRefuse_kept _ _ _ _ (kept_of_eq_2_2 z21 (tvaReadList_kept _ _ _ _ _ h0))

theorem disarmGroup_kept{b : State} : ∀ x0 x1 x2, Kept b x0 → Kept b (disarmGroup x0 x1 x2) := by
  intro x0 x1 x2 h0
  unfold disarmGroup
  extract_lets +onlyGivenNames v0
  clear_value v0
  extract_lets +onlyGivenNames v1
  clear_value v1
  exact kept_ite (settleGroup_kept _ _ _ (setHub_kept _ _ _ h0)) h0

theorem grpWrite_kept{b : State} : ∀ x0 x1 x2 x3, Kept b x0 → Kept b (grpWrite x0 x1 x2 x3) := by
  intro x0 x1 x2 x3 h0
  unfold grpWrite
  extract_lets +onlyGivenNames v0
  clear_value v0
  extract_lets +onlyGivenNames v1
  clear_value v1
  refine kept_ite ?_ ?_
  · exact h0
  · refine kept_ite ?_ ?_
    · extract_lets +onlyGivenNames v2
      have p3 : Kept b v2 := by
        unfold v2
        exact setGrpWord_kept _ _ _ _ _ h0
      clear_value v2
      exact kept_ite (armGroup_kept _ _ _ p3) (disarmGroup_kept _ _ _ p3)
    · refine kept_ite ?_ ?_
      · exact h0
      · extract_lets +onlyGivenNames v4
        clear_value v4
        exact setGrpWord_kept _ _ _ _ _ h0

theorem execGroupReady_kept{b : State} : ∀ x0 x1 x2 x3, Kept b x3 → KeptO b (execGroupReady x0 x1 x2 x3) := by
  intro x0 x1 x2 x3 h3
  unfold execGroupReady
  exact guardWf_kept _ _ (adminCmd_kept _ _ _ _ h3 (fun y0 k1 => grpWrite_kept _ _ _ _ k1))

theorem execGroupDisarm_kept{b : State} : ∀ x0 x1 x2 x3, Kept b x3 → KeptO b (execGroupDisarm x0 x1 x2 x3) := by
  intro x0 x1 x2 x3 h3
  unfold execGroupDisarm
  exact guardWf_kept _ _ (adminCmd_kept _ _ _ _ h3 (fun y0 k1 => grpWrite_kept _ _ _ _ k1))

theorem steerTries_kept{b : State} : ∀ x0 x1 x2 x3 x4 x5, Kept b x0 → Kept b (steerTries x0 x1 x2 x3 x4 x5).2.2 := by
  intro x0 x1 x2 x3 x4 x5
  induction x4 generalizing x0 x1 x2 x3 x5 with
  | zero =>
    intro h0
    unfold steerTries
    exact h0
  | succ n ih =>
    intro h0
    unfold steerTries
    refine kept_ite_2_2 ?_ ?_
    · exact h0
    · split
      · rename_i z2
        exact kept_of_eq_2 z2 (steerRequest_kept _ _ _ _ _ h0)
      · rename_i z7
        exact kept_ite_2_2 (ih _ _ _ _ _ (kept_of_eq_2 z7 (steerRequest_kept _ _ _ _ _ h0))) (kept_of_eq_2 z7 (steerRequest_kept _ _ _ _ _ h0))

theorem execPhaseBoundary_kept{b : State} : ∀ x0 x1 x2, Kept b x2 → KeptO b (execPhaseBoundary x0 x1 x2) := by
  intro x0 x1 x2 h2
  unfold execPhaseBoundary
  refine guardWf_kept _ _ ?_
  refine keptO_next ?_
  split
  · exact h2
  · split
    · extract_lets +onlyGivenNames v17
      clear_value v17
      refine kept_ite ?_ ?_
      · exact h2
      · extract_lets +onlyGivenNames v18
        clear_value v18
        extract_lets +onlyGivenNames v19
        clear_value v19
        extract_lets +onlyGivenNames v20
        have p21 : Kept b v20.2.2 := by
          unfold v20
          refine kept_foldl_2_2 (fun f22 i22 p22 => ?_) _ ?_
          · split
            · rename_i z26
              exact kept_of_eq_2_2 z26 (steerTries_kept _ _ _ _ _ _ p22)
            · rename_i z32
              exact kept_of_eq_2_2 z32 (steerTries_kept _ _ _ _ _ _ p22)
          · exact h2
        clear_value v20
        extract_lets +onlyGivenNames v33
        have p34 : Kept b v33 := by
          unfold v33
          split
          · exact emit_kept _ _ _ _ p21
          · exact p21
        clear_value v33
        refine kept_foldl (fun f40 i40 p40 => ?_) _ ?_
        · extract_lets +onlyGivenNames v41
          have p42 : Kept b v41 := by
            unfold v41
            exact kept_ite (collFlags_kept _ _ _ _ p40) p40
          clear_value v41
          exact setColl_kept _ _ _ _ p42
        · exact p34
    · exact h2

theorem onGp_kept{b : State} : ∀ x0 x1 x2 x3, Kept b x0 → Kept b x3 → KeptO b (onGp x0 x1 x2 x3) := by
  intro x0 x1 x2 x3 h0 h3
  unfold onGp
  exact guardWf_kept _ _ (keptO_next (kept_ite h3 h0))

theorem gpAcked_kept{b : State} : ∀ x0 x1 x2 x3, Kept b x0 → Kept b (gpAcked x0 x1 x2 x3) := by
  intro x0 x1 x2 x3 h0
  unfold gpAcked
  extract_lets +onlyGivenNames v0
  clear_value v0
  extract_lets +onlyGivenNames v1
  clear_value v1
  extract_lets +onlyGivenNames v2
  clear_value v2
  exact kept_ite (gpSend_kept _ _ _ (setConn_kept _ _ _ _ h0)) h0

theorem failConn_kept{b : State} : ∀ x0 x1 x2 x3, Kept b x0 → Kept b (failConn x0 x1 x2 x3) := by
  intro x0 x1 x2 x3 h0
  unfold failConn
  exact kept_foldl (fun f0 i0 p0 => kept_foldl (fun f1 i1 p1 => failReq_kept _ _ _ _ p1) _ p0) _ h0

theorem gpAck_kept{b : State} : ∀ x0 x1 x2, Kept b x0 → Kept b (gpAck x0 x1 x2) := by
  intro x0 x1 x2 h0
  unfold gpAck
  exact gpSignal_kept _ _ _ _ (setConn_kept _ _ _ _ h0)

theorem gpTake_kept{b : State} : ∀ x0 x1 x2 x3, Kept b x2 → Kept b (gpTake x0 x1 x2 x3) := by
  intro x0 x1 x2 x3 h2
  unfold gpTake
  refine kept_ite ?_ ?_
  · exact gpCount_kept _ _ _ _ h2
  · extract_lets +onlyGivenNames v0
    clear_value v0
    extract_lets +onlyGivenNames v1
    clear_value v1
    exact setConn_kept _ _ _ _ (kept_mk (kept_eta h2))

theorem gpData_kept{b : State} : ∀ x0 x1 x2, Kept b x0 → Kept b (gpData x0 x1 x2) := by
  intro x0 x1 x2 h0
  unfold gpData
  extract_lets +onlyGivenNames v0
  clear_value v0
  refine kept_ite ?_ ?_
  · exact gpCount_kept _ _ _ _ h0
  · extract_lets +onlyGivenNames v1
    have p2 : Kept b v1 := by
      unfold v1
      exact gpAcked_kept _ _ _ _ h0
    clear_value v1
    extract_lets +onlyGivenNames v3
    clear_value v3
    refine kept_ite ?_ ?_
    · exact gpSignal_kept _ _ _ _ p2
    · extract_lets +onlyGivenNames v4
      have p5 : Kept b v4 := by
        unfold v4
        exact setRfld_kept _ _ _ _ _ (gpCount_kept _ _ _ _ p2)
      clear_value v4
      extract_lets +onlyGivenNames v6
      have p7 : Kept b v6 := by
        unfold v6
        exact gpXoff_kept _ _ _ (kept_foldl (fun f8 i8 p8 => gpTake_kept _ _ _ _ p8) _ p5)
      clear_value v6
      extract_lets +onlyGivenNames v9
      clear_value v9
      extract_lets +onlyGivenNames v10
      have p11 : Kept b v10 := by
        unfold v10
        exact setConn_kept _ _ _ _ p7
      clear_value v10
      exact kept_ite (gpAck_kept _ _ _ p11) p11

theorem gpReceive_kept{b : State} : ∀ x0 x1 x2, Kept b x0 → Kept b (gpReceive x0 x1 x2) := by
  intro x0 x1 x2 h0
  unfold gpReceive
  extract_lets +onlyGivenNames v0
  clear_value v0
  split
  · exact gpCount_kept _ _ _ _ h0
  · split
    · exact gpData_kept _ _ _ h0
    · exact gpAcked_kept _ _ _ _ (gpCount_kept _ _ _ _ h0)
    · extract_lets +onlyGivenNames v12
      have p13 : Kept b v12 := by
        unfold v12
        exact gpAcked_kept _ _ _ _ (gpCount_kept _ _ _ _ h0)
      clear_value v12
      exact gpResend_kept _ _ _ (setConn_kept _ _ _ _ p13)
    · exact failConn_kept _ _ _ _ (setRfld_kept _ _ _ _ _ (gpCount_kept _ _ _ _ h0))

theorem execGpData_kept{b : State} : ∀ x0 x1 x2, Kept b x2 → KeptO b (execGpData x0 x1 x2) := by
  intro x0 x1 x2 h2
  unfold execGpData
  exact onGp_kept _ _ _ _ h2 (gpReceive_kept _ _ _ h2)

theorem execGpAck_kept{b : State} : ∀ x0 x1 x2, Kept b x2 → KeptO b (execGpAck x0 x1 x2) := by
  intro x0 x1 x2 h2
  unfold execGpAck
  exact onGp_kept _ _ _ _ h2 (gpReceive_kept _ _ _ h2)

theorem execGpNak_kept{b : State} : ∀ x0 x1 x2, Kept b x2 → KeptO b (execGpNak x0 x1 x2) := by
  intro x0 x1 x2 h2
  unfold execGpNak
  exact onGp_kept _ _ _ _ h2 (gpReceive_kept _ _ _ h2)

theorem execGpSync_kept{b : State} : ∀ x0 x1 x2, Kept b x2 → KeptO b (execGpSync x0 x1 x2) := by
  intro x0 x1 x2 h2
  unfold execGpSync
  exact onGp_kept _ _ _ _ h2 (gpReceive_kept _ _ _ h2)

theorem execGpRto_kept{b : State} : ∀ x0 x1 x2, Kept b x2 → KeptO b (execGpRto x0 x1 x2) := by
  intro x0 x1 x2 h2
  unfold execGpRto
  refine onGp_kept _ _ _ _ ?_ ?_
  · exact h2
  · extract_lets +onlyGivenNames v0
    clear_value v0
    refine kept_ite ?_ ?_
    · exact h2
    · extract_lets +onlyGivenNames v1
      have p2 : Kept b v1 := by
        unfold v1
        exact kept_mk (kept_eta h2)
      clear_value v1
      refine kept_ite ?_ ?_
      · exact gpResend_kept _ _ _ (setConn_kept _ _ _ _ p2)
      · extract_lets +onlyGivenNames v3
        have p4 : Kept b v3 := by
          unfold v3
          exact setConn_kept _ _ _ _ p2
        clear_value v3
        extract_lets +onlyGivenNames v5
        have p6 : Kept b v5 := by
          unfold v5
          exact setRbit_kept _ _ _ _ p4
        clear_value v5
        extract_lets +onlyGivenNames v7
        clear_value v7
        extract_lets +onlyGivenNames v8
        have p9 : Kept b v8 := by
          unfold v8
          exact setRfld_kept _ _ _ _ _ p6
        clear_value v8
        extract_lets +onlyGivenNames v10
        have p11 : Kept b v10 := by
          unfold v10
          exact leaf_kept _ _ _ (emit_kept _ _ _ _ p9)
        clear_value v10
        exact failConn_kept _ _ _ _ p11

theorem gpSendAll_kept{b : State} : ∀ x0 x1, Kept b x0 → Kept b (gpSendAll x0 x1) := by
  intro x0 x1 h0
  unfold gpSendAll
  exact kept_foldl (fun f0 i0 p0 => gpSend_kept _ _ _ p0) _ h0

theorem execPfcFrame_kept{b : State} : ∀ x0 x1 x2 x3, Kept b x3 → KeptO b (execPfcFrame x0 x1 x2 x3) := by
  intro x0 x1 x2 x3 h3
  unfold execPfcFrame
  exact onGp_kept _ _ _ _ h3 (gpSendAll_kept _ _ (setRbit_kept _ _ _ _ h3))

theorem connWrite0_kept{b : State} : ∀ x0 x1 x2 x3, Kept b x0 → Kept b (connWrite0 x0 x1 x2 x3) := by
  intro x0 x1 x2 x3 h0
  unfold connWrite0
  extract_lets +onlyGivenNames v0
  clear_value v0
  refine kept_ite ?_ ?_
  · exact kept_ite h0 (setConn_kept _ _ _ _ (writeReg_kept _ _ _ h0))
  · refine kept_ite ?_ ?_
    · extract_lets +onlyGivenNames v1
      have p2 : Kept b v1 := by
        unfold v1
        exact setConn_kept _ _ _ _ (setReg_kept _ _ _ (writeReg_kept _ _ _ h0))
      clear_value v1
      exact kept_ite (gpSignal_kept _ _ _ _ p2) p2
    · exact writeReg_kept _ _ _ h0

theorem execGpConnValidSet_kept{b : State} : ∀ x0 x1 x2 x3 x4, Kept b x4 → KeptO b (execGpConnValidSet x0 x1 x2 x3 x4) := by
  intro x0 x1 x2 x3 x4 h4
  unfold execGpConnValidSet
  exact guardWf_kept _ _ (adminCmd_kept _ _ _ _ h4 (fun y0 k1 => connWrite0_kept _ _ _ _ k1))

theorem execGpLinkDown_kept{b : State} : ∀ x0 x1, Kept b x1 → KeptO b (execGpLinkDown x0 x1) := by
  intro x0 x1 h1
  unfold execGpLinkDown
  exact onGp_kept _ _ _ _ h1 (kept_ite h1 (health_kept _ (gpFalls_kept _ _ h1)))

theorem execGpLinkUp_kept{b : State} : ∀ x0 x1, Kept b x1 → KeptO b (execGpLinkUp x0 x1) := by
  intro x0 x1 h1
  unfold execGpLinkUp
  exact onGp_kept _ _ _ _ h1 (kept_ite h1 (gpSendAll_kept _ _ (health_kept _ (setRbit_kept _ _ _ _ h1))))

theorem gpTick_kept{b : State} : ∀ x0, Kept b x0 → Kept b (gpTick x0) := by
  intro x0 h0
  unfold gpTick
  exact kept_foldl (fun f0 i0 p0 => kept_ite (gpAck_kept _ _ _ p0) p0) _ h0

end Sys2Proof.Machine
end

