-- ==== Sys2Proof/Laws/KeptKernels.lean ====
section
/-! SUPPORT. `f_kept` (Laws/Kept.lean) for the functions of dispatch, kernels, power, epochs and field tests. -/
namespace Sys2Proof.Machine

theorem readSlot_kept{b : State} : ∀ x0 x1 x2 x3, Kept b x0 → Kept b (readSlot x0 x1 x2 x3).2.2 := by
  intro x0 x1 x2 x3 h0
  unfold readSlot
  extract_lets +onlyGivenNames v0
  clear_value v0
  split
  rename_i z5
  exact kept_of_eq_2_2 z5 (kindRead_kept _ _ _ _ _ h0)

theorem noteCommit_kept{b : State} : ∀ x0 x1 x2 x3, Kept b x0 → Kept b (noteCommit x0 x1 x2 x3) := by
  intro x0 x1 x2 x3 h0
  unfold noteCommit
  split
  · exact h0
  · split
    · exact h0
    · exact kept_ite (setStep_kept _ _ _ _ h0) h0

theorem fetchDescs_kept{b : State} : ∀ x0 x1 x2 x3, Kept b x0 → Kept b (fetchDescs x0 x1 x2 x3) := by
  intro x0 x1 x2 x3
  induction x3 generalizing x0 x1 x2 with
  | zero =>
    intro h0
    unfold fetchDescs
    exact h0
  | succ n ih =>
    intro h0
    unfold fetchDescs
    extract_lets +onlyGivenNames v0
    clear_value v0
    refine kept_ite ?_ ?_
    · exact h0
    · split
      · rename_i z4
        extract_lets +onlyGivenNames v5
        clear_value v5
        extract_lets +onlyGivenNames v6
        clear_value v6
        extract_lets +onlyGivenNames v7
        have p8 : Kept b v7 := by
          unfold v7
          exact setRing_kept _ _ _ _ (kept_of_eq_2_2 z4 (readSlot_kept _ _ _ _ h0))
        clear_value v7
        exact ih _ _ _ (noteCommit_kept _ _ _ _ p8)
      · rename_i z14
        exact ringError_kept _ _ _ _ (kept_of_eq_2_2 z14 (readSlot_kept _ _ _ _ h0))

theorem execDescriptorFetch_kept{b : State} : ∀ x0 x1 x2 x3, Kept b x3 → KeptO b (execDescriptorFetch x0 x1 x2 x3) := by
  intro x0 x1 x2 x3 h3
  unfold execDescriptorFetch
  exact guardWf_kept _ _ (keptO_next (kept_ite (refreshHead_kept _ _ _ (fetchDescs_kept _ _ _ _ h3)) h3))

theorem noteSince_kept{b : State} : ∀ x0 x1 x2, Kept b x0 → Kept b (noteSince x0 x1 x2) := by
  intro x0 x1 x2 h0
  unfold noteSince
  extract_lets +onlyGivenNames v0
  clear_value v0
  extract_lets +onlyGivenNames v1
  clear_value v1
  exact setHub_kept _ _ _ h0

theorem forgetSince_kept{b : State} : ∀ x0 x1 x2, Kept b x0 → Kept b (forgetSince x0 x1 x2) := by
  intro x0 x1 x2 h0
  unfold forgetSince
  extract_lets +onlyGivenNames v0
  clear_value v0
  exact setHub_kept _ _ _ h0

theorem startDesc_kept{b : State} : ∀ x0 x1 x2 x3, Kept b x0 → Kept b (startDesc x0 x1 x2 x3) := by
  intro x0 x1 x2 x3 h0
  unfold startDesc
  extract_lets +onlyGivenNames v0
  clear_value v0
  extract_lets +onlyGivenNames v1
  clear_value v1
  extract_lets +onlyGivenNames v2
  clear_value v2
  extract_lets +onlyGivenNames v3
  clear_value v3
  extract_lets +onlyGivenNames v4
  clear_value v4
  extract_lets +onlyGivenNames v5
  clear_value v5
  extract_lets +onlyGivenNames v6
  clear_value v6
  extract_lets +onlyGivenNames v7
  have p8 : Kept b v7 := by
    unfold v7
    exact setHub_kept _ _ _ h0
  clear_value v7
  extract_lets +onlyGivenNames v9
  have p10 : Kept b v9 := by
    unfold v9
    exact setRing_kept _ _ _ _ p8
  clear_value v9
  extract_lets +onlyGivenNames v11
  have p12 : Kept b v11 := by
    unfold v11
    split
    · exact p10
    · extract_lets +onlyGivenNames v18
      clear_value v18
      exact setStep_kept _ _ _ _ p10
  clear_value v11
  extract_lets +onlyGivenNames v19
  clear_value v19
  split
  · exact finishUnit_kept _ _ _ _ p12
  · exact kept_ite (finishUnit_kept _ _ _ _ p12) p12

theorem dispatch_kept{b : State} : ∀ x0 x1, Kept b x0 → Kept b (dispatch x0 x1) := by
  intro x0 x1 h0
  unfold dispatch
  extract_lets +onlyGivenNames v0
  clear_value v0
  extract_lets +onlyGivenNames v1
  have p2 : Kept b v1 := by
    unfold v1
    exact noteSince_kept _ _ _ h0
  clear_value v1
  extract_lets +onlyGivenNames v3
  clear_value v3
  extract_lets +onlyGivenNames v4
  clear_value v4
  extract_lets +onlyGivenNames v5
  clear_value v5
  refine kept_ite ?_ ?_
  · exact p2
  · extract_lets +onlyGivenNames v6
    clear_value v6
    extract_lets +onlyGivenNames v7
    clear_value v7
    extract_lets +onlyGivenNames v8
    clear_value v8
    extract_lets +onlyGivenNames v9
    clear_value v9
    extract_lets +onlyGivenNames v10
    clear_value v10
    split
    · exact p2
    · exact startDesc_kept _ _ _ _ p2

theorem execDispatch_kept{b : State} : ∀ x0 x1, Kept b x1 → KeptO b (execDispatch x0 x1) := by
  intro x0 x1 h1
  unfold execDispatch
  exact guardWf_kept _ _ (keptO_next (kept_ite (dispatch_kept _ _ h1) h1))

theorem execEnergyGateStarvation_kept{b : State} : ∀ x0 x1 x2, Kept b x2 → KeptO b (execEnergyGateStarvation x0 x1 x2) := by
  intro x0 x1 x2 h2
  unfold execEnergyGateStarvation
  refine guardWf_kept _ _ ?_
  refine keptO_next ?_
  split
  · exact kept_mk (kept_eta h2)
  · exact h2

theorem execKernel_kept{b : State} : ∀ x0 x1 x2, Kept b x2 → KeptO b (execKernel x0 x1 x2) := by
  intro x0 x1 x2 h2
  unfold execKernel
  refine onChosen_kept _ _ _ _ _ ?_ ?_
  · exact h2
  · intro y0
    refine kept_ite ?_ ?_
    · exact finishOp_kept _ _ _ _ _ _ h2
    · refine kept_ite ?_ ?_
      · exact finishOp_kept _ _ _ _ _ _ h2
      · extract_lets +onlyGivenNames v1
        clear_value v1
        extract_lets +onlyGivenNames v2
        clear_value v2
        extract_lets +onlyGivenNames v3
        have p4 : Kept b v3 := by
          unfold v3
          exact setOp_kept _ _ _ _ h2
        clear_value v3
        refine kept_foldl (fun f5 i5 p5 => ?_) _ ?_
        · extract_lets +onlyGivenNames v6
          clear_value v6
          exact setCore_kept _ _ _ p5
        · exact p4

theorem swapCore_kept{b : State} : ∀ x0 x1, Kept b x0 → Kept b (swapCore x0 x1) := by
  intro x0 x1 h0
  unfold swapCore
  extract_lets +onlyGivenNames v0
  clear_value v0
  refine kept_ite ?_ ?_
  · exact h0
  · extract_lets +onlyGivenNames v1
    clear_value v1
    extract_lets +onlyGivenNames v2
    clear_value v2
    split
    · exact h0
    · extract_lets +onlyGivenNames v8
      have p9 : Kept b v8 := by
        unfold v8
        exact kept_mk (kept_eta h0)
      clear_value v8
      exact capSpares_kept _ _ (setCore_kept _ _ _ p9)

theorem gatherCore_kept{b : State} : ∀ x0 x1, Kept b x0 → Kept b (gatherCore x0 x1) := by
  intro x0 x1 h0
  unfold gatherCore
  extract_lets +onlyGivenNames v0
  clear_value v0
  split
  · exact h0
  · extract_lets +onlyGivenNames v6
    have p7 : Kept b v6 := by
      unfold v6
      split
      · exact setOp_kept _ _ _ _ h0
      · exact h0
    clear_value v6
    exact swapCore_kept _ _ (setCore_kept _ _ _ p7)

theorem markCores_kept{b : State} : ∀ x0 x1, Kept b x0 → Kept b (markCores x0 x1) := by
  intro x0 x1 h0
  unfold markCores
  refine kept_foldl (fun f0 i0 p0 => ?_) _ ?_
  · refine kept_ite ?_ ?_
    · split
      · split
        · exact setOp_kept _ _ _ _ p0
        · exact p0
      · exact p0
    · exact p0
  · exact h0

theorem markThrottled_kept{b : State} : ∀ x0 x1, Kept b x0 → Kept b (markThrottled x0 x1) := by
  intro x0 x1 h0
  unfold markThrottled
  exact markCores_kept _ _ h0

theorem markGated_kept{b : State} : ∀ x0, Kept b x0 → Kept b (markGated x0) := by
  intro x0 h0
  unfold markGated
  exact markCores_kept _ _ h0

theorem startLaunch_kept{b : State} : ∀ x0 x1, Kept b x0 → Kept b (startLaunch x0 x1) := by
  intro x0 x1 h0
  unfold startLaunch
  extract_lets +onlyGivenNames v0
  clear_value v0
  refine kept_ite ?_ ?_
  · exact h0
  · split
    · exact h0
    · extract_lets +onlyGivenNames v7
      have p8 : Kept b v7 := by
        unfold v7
        exact gatherCore_kept _ _ h0
      clear_value v7
      extract_lets +onlyGivenNames v9
      clear_value v9
      extract_lets +onlyGivenNames v10
      clear_value v10
      extract_lets +onlyGivenNames v11
      have p12 : Kept b v11 := by
        unfold v11
        exact setCore_kept _ _ _ p8
      clear_value v11
      extract_lets +onlyGivenNames v13
      have p14 : Kept b v13 := by
        unfold v13
        split
        · exact setOp_kept _ _ _ _ p12
        · exact p12
      clear_value v13
      extract_lets +onlyGivenNames v20
      clear_value v20
      exact markThrottled_kept _ _ (setCl_kept _ _ _ p14)

theorem execLaunchStart_kept{b : State} : ∀ x0 x1, Kept b x1 → KeptO b (execLaunchStart x0 x1) := by
  intro x0 x1 h1
  unfold execLaunchStart
  exact guardWf_kept _ _ (keptO_next (kept_ite (startLaunch_kept _ _ h1) h1))

theorem completeKernel_kept{b : State} : ∀ x0 x1 x2, Kept b x0 → Kept b (completeKernel x0 x1 x2) := by
  intro x0 x1 x2 h0
  unfold completeKernel
  split
  · exact h0
  · refine kept_ite ?_ ?_
    · exact h0
    · extract_lets +onlyGivenNames v5
      have p6 : Kept b v5 := by
        unfold v5
        exact kept_foldl (fun f7 i7 p7 => kept_ite (gatherCore_kept _ _ p7) p7) _ h0
      clear_value v5
      extract_lets +onlyGivenNames v8
      have p9 : Kept b v8 := by
        unfold v8
        exact kept_foldl (fun f10 i10 p10 => wbCluster_kept _ _ _ _ p10) _ p6
      clear_value v8
      split
      · exact p9
      · split
        exact finishOp_kept _ _ _ _ _ _ p9

theorem execKernelComplete_kept{b : State} : ∀ x0 x1 x2, Kept b x2 → KeptO b (execKernelComplete x0 x1 x2) := by
  intro x0 x1 x2 h2
  unfold execKernelComplete
  exact guardWf_kept _ _ (keptO_next (completeKernel_kept _ _ _ h2))

theorem execKernelTimeout_kept{b : State} : ∀ x0 x1 x2, Kept b x2 → KeptO b (execKernelTimeout x0 x1 x2) := by
  intro x0 x1 x2 h2
  unfold execKernelTimeout
  refine guardWf_kept _ _ ?_
  refine keptO_next ?_
  split
  · exact h2
  · extract_lets +onlyGivenNames v5
    clear_value v5
    refine kept_ite ?_ ?_
    · exact h2
    · extract_lets +onlyGivenNames v6
      have p7 : Kept b v6 := by
        unfold v6
        exact kept_mk (kept_eta h2)
      clear_value v6
      exact completeKernel_kept _ _ _ (stopOp_kept _ _ _ _ p7)

theorem faultThread_kept{b : State} : ∀ x0 x1, Kept b x0 → Kept b (faultThread x0 x1) := by
  intro x0 x1 h0
  unfold faultThread
  extract_lets +onlyGivenNames v0
  clear_value v0
  split
  · exact h0
  · extract_lets +onlyGivenNames v5
    have p6 : Kept b v5 := by
      unfold v5
      exact takeTrap_kept _ _ _ _ h0
    clear_value v5
    exact putThread_kept _ _ _ p6
  · exact takeTrap_kept _ _ _ _ h0

theorem faultCore_kept{b : State} : ∀ x0 x1, Kept b x0 → Kept b (faultCore x0 x1) := by
  intro x0 x1 h0
  unfold faultCore
  exact kept_ite h0 (kept_foldl (fun f0 i0 p0 => faultThread_kept _ _ p0) _ h0)

theorem refuseWaiting_kept{b : State} : ∀ x0 x1, Kept b x0 → Kept b (refuseWaiting x0 x1) := by
  intro x0 x1 h0
  unfold refuseWaiting
  extract_lets +onlyGivenNames v0
  clear_value v0
  exact kept_foldl (fun f1 i1 p1 => completeKernel_kept _ _ _ (stopOp_kept _ _ _ _ p1)) _ h0

theorem cutCluster_kept{b : State} : ∀ x0 x1 x2 x3, Kept b x0 → Kept b (cutCluster x0 x1 x2 x3).2 := by
  intro x0 x1 x2 x3 h0
  unfold cutCluster
  extract_lets +onlyGivenNames v0
  clear_value v0
  extract_lets +onlyGivenNames v1
  clear_value v1
  extract_lets +onlyGivenNames v2
  have p3 : Kept b v2 := by
    unfold v2
    exact kept_ite h0 (wbCluster_kept _ _ _ _ h0)
  clear_value v2
  extract_lets +onlyGivenNames v4
  have p5 : Kept b v4 := by
    unfold v4
    refine kept_foldl (fun f6 i6 p6 => ?_) _ ?_
    · extract_lets +onlyGivenNames v7
      clear_value v7
      extract_lets +onlyGivenNames v8
      have p9 : Kept b v8 := by
        unfold v8
        exact gatherCore_kept _ _ (setCore_kept _ _ _ p6)
      clear_value v8
      exact setCore_kept _ _ _ p9
    · exact p3
  clear_value v4
  extract_lets +onlyGivenNames v10
  clear_value v10
  extract_lets +onlyGivenNames v11
  have p12 : Kept b v11 := by
    unfold v11
    exact setCl_kept _ _ _ p5
  clear_value v11
  extract_lets +onlyGivenNames v13
  clear_value v13
  extract_lets +onlyGivenNames v14
  have p15 : Kept b v14 := by
    unfold v14
    exact kept_mk (kept_eta p12)
  clear_value v14
  split
  · exact kept_mk (kept_eta p15)
  · exact kept_mk (kept_eta p15)

theorem cutFailed_kept{b : State} : ∀ x0 x1 x2, Kept b x0 → Kept b (cutFailed x0 x1 x2) := by
  intro x0 x1 x2 h0
  unfold cutFailed
  extract_lets +onlyGivenNames v0
  clear_value v0
  extract_lets +onlyGivenNames v1
  have p2 : Kept b v1 := by
    unfold v1
    exact kept_foldl (fun f3 i3 p3 => faultCore_kept _ _ p3) _ h0
  clear_value v1
  split
  rename_i z7
  extract_lets +onlyGivenNames v8
  have p9 : Kept b v8 := by
    unfold v8
    exact emit_kept _ _ _ _ (kept_of_eq_2 z7 (cutCluster_kept _ _ _ _ p2))
  clear_value v8
  exact health_kept _ (capSpares_kept _ _ (kept_ite p9 (refuseWaiting_kept _ _ p9)))

theorem execClusterCutout_kept{b : State} : ∀ x0 x1 x2, Kept b x2 → KeptO b (execClusterCutout x0 x1 x2) := by
  intro x0 x1 x2 h2
  unfold execClusterCutout
  refine guardWf_kept _ _ ?_
  refine keptO_next ?_
  extract_lets +onlyGivenNames v0
  clear_value v0
  exact kept_ite (cutFailed_kept _ _ _ h2) h2

theorem execCoreFault_kept{b : State} : ∀ x0 x1, Kept b x1 → KeptO b (execCoreFault x0 x1) := by
  intro x0 x1 h1
  unfold execCoreFault
  refine guardWf_kept _ _ ?_
  refine keptO_next ?_
  extract_lets +onlyGivenNames v0
  clear_value v0
  extract_lets +onlyGivenNames v1
  clear_value v1
  extract_lets +onlyGivenNames v2
  clear_value v2
  extract_lets +onlyGivenNames v3
  clear_value v3
  refine kept_ite ?_ ?_
  · exact h1
  · extract_lets +onlyGivenNames v4
    clear_value v4
    extract_lets +onlyGivenNames v5
    have p6 : Kept b v5 := by
      unfold v5
      exact kept_mk (kept_eta h1)
    clear_value v5
    extract_lets +onlyGivenNames v7
    have p8 : Kept b v7 := by
      unfold v7
      exact emit_kept _ _ _ _ p6
    clear_value v7
    extract_lets +onlyGivenNames v9
    have p10 : Kept b v9 := by
      unfold v9
      exact faultCore_kept _ _ p8
    clear_value v9
    refine kept_ite ?_ ?_
    · exact cutFailed_kept _ _ _ p10
    · extract_lets +onlyGivenNames v11
      clear_value v11
      extract_lets +onlyGivenNames v12
      have p13 : Kept b v12 := by
        unfold v12
        exact setCore_kept _ _ _ p10
      clear_value v12
      exact health_kept _ (kept_ite (swapCore_kept _ _ p13) p13)

theorem addHint_kept{b : State} : ∀ x0 x1 x2, Kept b x0 → Kept b (addHint x0 x1 x2) := by
  intro x0 x1 x2 h0
  unfold addHint
  extract_lets +onlyGivenNames v0
  clear_value v0
  exact setHub_kept _ _ _ h0

theorem execHint_kept{b : State} : ∀ x0 x1 x2, Kept b x2 → KeptO b (execHint x0 x1 x2) := by
  intro x0 x1 x2 h2
  unfold execHint
  exact onChosen_kept _ _ _ _ _ h2 (fun y0 => kept_ite (finishUnit_kept _ _ _ _ h2) (finishUnit_kept _ _ _ _ (addHint_kept _ _ _ h2)))

theorem execPhint_kept{b : State} : ∀ x0 x1 x2, Kept b x2 → KeptO b (execPhint x0 x1 x2) := by
  intro x0 x1 x2 h2
  unfold execPhint
  refine issue_kept _ _ _ _ _ ?_ ?_
  · exact h2
  · intro y0 y1 k2
    extract_lets +onlyGivenNames v3
    clear_value v3
    extract_lets +onlyGivenNames v4
    have p5 : Kept b v4 := by
      unfold v4
      exact fin_kept _ _ _ k2
    clear_value v4
    exact kept_ite (addHint_kept _ _ _ p5) (leaf_kept _ _ _ (setRfld_kept _ _ _ _ _ p5))

theorem execHintRampStart_kept{b : State} : ∀ x0 x1 x2, Kept b x2 → KeptO b (execHintRampStart x0 x1 x2) := by
  intro x0 x1 x2 h2
  unfold execHintRampStart
  refine guardWf_kept _ _ ?_
  refine keptO_next ?_
  extract_lets +onlyGivenNames v0
  clear_value v0
  split
  · exact h2
  · extract_lets +onlyGivenNames v6
    clear_value v6
    exact kept_ite h2 (setHub_kept _ _ _ (kept_mk (kept_eta h2)))

theorem execHintEnd_kept{b : State} : ∀ x0 x1 x2, Kept b x2 → KeptO b (execHintEnd x0 x1 x2) := by
  intro x0 x1 x2 h2
  unfold execHintEnd
  refine guardWf_kept _ _ ?_
  refine keptO_next ?_
  extract_lets +onlyGivenNames v0
  clear_value v0
  split
  · exact h2
  · extract_lets +onlyGivenNames v6
    clear_value v6
    extract_lets +onlyGivenNames v7
    have p8 : Kept b v7 := by
      unfold v7
      exact kept_mk (kept_eta h2)
    clear_value v7
    extract_lets +onlyGivenNames v9
    clear_value v9
    exact setHub_kept _ _ _ p8

theorem partEstimate_kept{b : State} : ∀ x0 x1 x2, Kept b x0 → Kept b (partEstimate x0 x1 x2) := by
  intro x0 x1 x2 h0
  unfold partEstimate
  extract_lets +onlyGivenNames v0
  clear_value v0
  extract_lets +onlyGivenNames v1
  clear_value v1
  extract_lets +onlyGivenNames v2
  clear_value v2
  extract_lets +onlyGivenNames v3
  clear_value v3
  extract_lets +onlyGivenNames v4
  clear_value v4
  extract_lets +onlyGivenNames v5
  clear_value v5
  extract_lets +onlyGivenNames v6
  clear_value v6
  extract_lets +onlyGivenNames v7
  have p8 : Kept b v7 := by
    unfold v7
    exact setHub_kept _ _ _ h0
  clear_value v7
  exact setRfld_kept _ _ _ _ _ p8

theorem execPowerEstimate_kept{b : State} : ∀ x0 x1, Kept b x1 → KeptO b (execPowerEstimate x0 x1) := by
  intro x0 x1 h1
  unfold execPowerEstimate
  refine guardWf_kept _ _ ?_
  refine keptO_next ?_
  refine kept_ite ?_ ?_
  · exact h1
  · extract_lets +onlyGivenNames v0
    clear_value v0
    extract_lets +onlyGivenNames v1
    clear_value v1
    extract_lets +onlyGivenNames v2
    clear_value v2
    extract_lets +onlyGivenNames v3
    have p4 : Kept b v3 := by
      unfold v3
      exact kept_foldl (fun f5 i5 p5 => partEstimate_kept _ _ _ p5) _ h1
    clear_value v3
    extract_lets +onlyGivenNames v6
    clear_value v6
    extract_lets +onlyGivenNames v7
    clear_value v7
    extract_lets +onlyGivenNames v8
    clear_value v8
    extract_lets +onlyGivenNames v9
    have p10 : Kept b v9 := by
      unfold v9
      exact kept_mk (kept_eta p4)
    clear_value v9
    extract_lets +onlyGivenNames v11
    have p12 : Kept b v11 := by
      unfold v11
      exact setRfld_kept _ _ _ _ _ p10
    clear_value v11
    exact kept_ite (setRfld_kept _ _ _ _ _ p12) p12

theorem execKUpdate_kept{b : State} : ∀ x0 x1, Kept b x1 → KeptO b (execKUpdate x0 x1) := by
  intro x0 x1 h1
  unfold execKUpdate
  refine keptO_next ?_
  refine kept_ite ?_ ?_
  · exact h1
  · extract_lets +onlyGivenNames v0
    clear_value v0
    extract_lets +onlyGivenNames v1
    clear_value v1
    extract_lets +onlyGivenNames v2
    clear_value v2
    extract_lets +onlyGivenNames v3
    clear_value v3
    extract_lets +onlyGivenNames v4
    clear_value v4
    extract_lets +onlyGivenNames v5
    have p6 : Kept b v5 := by
      unfold v5
      exact setRfld_kept _ _ _ _ _ (setRfld_kept _ _ _ _ _ h1)
    clear_value v5
    exact setRbit_kept _ _ _ _ (kept_mk (kept_eta p6))

theorem execPmbusLost_kept{b : State} : ∀ x0, Kept b x0 → KeptO b (execPmbusLost x0) := by
  intro x0 h0
  unfold execPmbusLost
  refine keptO_next ?_
  refine kept_ite ?_ ?_
  · exact h0
  · extract_lets +onlyGivenNames v0
    have p1 : Kept b v0 := by
      unfold v0
      exact kept_mk (kept_eta h0)
    clear_value v0
    exact leaf_kept _ _ _ (emit_kept _ _ _ _ (setRbit_kept _ _ _ _ p1))

theorem execPmbAlert_kept{b : State} : ∀ x0 x1 x2, Kept b x2 → KeptO b (execPmbAlert x0 x1 x2) := by
  intro x0 x1 x2 h2
  unfold execPmbAlert
  exact guardWf_kept _ _ (keptO_next (kept_ite h2 (kept_foldl (fun f0 i0 p0 => emit_kept _ _ _ _ p0) _ h2)))

theorem execAllowance_kept{b : State} : ∀ x0, Kept b x0 → KeptO b (execAllowance x0) := by
  intro x0 h0
  unfold execAllowance
  refine keptO_next ?_
  refine kept_ite ?_ ?_
  · exact h0
  · extract_lets +onlyGivenNames v0
    clear_value v0
    extract_lets +onlyGivenNames v1
    clear_value v1
    extract_lets +onlyGivenNames v2
    clear_value v2
    extract_lets +onlyGivenNames v3
    clear_value v3
    extract_lets +onlyGivenNames v4
    clear_value v4
    extract_lets +onlyGivenNames v5
    clear_value v5
    extract_lets +onlyGivenNames v6
    clear_value v6
    extract_lets +onlyGivenNames v7
    have p8 : Kept b v7 := by
      unfold v7
      exact kept_mk (kept_eta h0)
    clear_value v7
    extract_lets +onlyGivenNames v9
    have p10 : Kept b v9 := by
      unfold v9
      refine kept_foldl (fun f11 i11 p11 => ?_) _ ?_
      · extract_lets +onlyGivenNames v12
        clear_value v12
        extract_lets +onlyGivenNames v13
        clear_value v13
        extract_lets +onlyGivenNames v14
        clear_value v14
        extract_lets +onlyGivenNames v15
        have p16 : Kept b v15 := by
          unfold v15
          exact setHub_kept _ _ _ p11
        clear_value v15
        exact setRfld_kept _ _ _ _ _ p16
      · exact p8
    clear_value v9
    exact setRbit_kept _ _ _ _ (setRbit_kept _ _ _ _ p10)

theorem execVin48Sample_kept{b : State} : ∀ x0 x1, Kept b x1 → KeptO b (execVin48Sample x0 x1) := by
  intro x0 x1 h1
  unfold execVin48Sample
  refine keptO_next ?_
  extract_lets +onlyGivenNames v0
  clear_value v0
  extract_lets +onlyGivenNames v1
  clear_value v1
  extract_lets +onlyGivenNames v2
  have p3 : Kept b v2 := by
    unfold v2
    exact kept_mk (kept_eta h1)
  clear_value v2
  exact kept_ite p3 (kept_mk (kept_eta p3))

theorem raiseGp_kept{b : State} : ∀ x0 x1 x2, Kept b x0 → Kept b (raiseGp x0 x1 x2) := by
  intro x0 x1 x2 h0
  unfold raiseGp
  exact kept_foldl (fun f0 i0 p0 => markThrottled_kept _ _ (setGp_kept _ _ _ p0)) _ h0

theorem lowerGp_kept{b : State} : ∀ x0 x1, Kept b x0 → Kept b (lowerGp x0 x1) := by
  intro x0 x1 h0
  unfold lowerGp
  exact kept_foldl (fun f0 i0 p0 => setGp_kept _ _ _ p0) _ h0

theorem setBallast_kept{b : State} : ∀ x0 x1, Kept b x0 → Kept b (setBallast x0 x1) := by
  intro x0 x1 h0
  unfold setBallast
  extract_lets +onlyGivenNames v0
  clear_value v0
  refine kept_foldl (fun f1 i1 p1 => ?_) _ ?_
  · extract_lets +onlyGivenNames v2
    clear_value v2
    extract_lets +onlyGivenNames v3
    clear_value v3
    exact kept_ite p1 (setCl_kept _ _ _ p1)
  · exact h0

theorem execPauseLevelUpdate_kept{b : State} : ∀ x0 x1, Kept b x1 → KeptO b (execPauseLevelUpdate x0 x1) := by
  intro x0 x1 h1
  unfold execPauseLevelUpdate
  refine guardWf_kept _ _ ?_
  refine keptO_next ?_
  refine kept_ite ?_ ?_
  · exact h1
  · extract_lets +onlyGivenNames v0
    clear_value v0
    extract_lets +onlyGivenNames v1
    clear_value v1
    extract_lets +onlyGivenNames v2
    clear_value v2
    extract_lets +onlyGivenNames v3
    clear_value v3
    extract_lets +onlyGivenNames v4
    clear_value v4
    extract_lets +onlyGivenNames v5
    have p6 : Kept b v5 := by
      unfold v5
      exact kept_mk (keptF_free _ (kept_eta h1))
    clear_value v5
    extract_lets +onlyGivenNames v7
    have p8 : Kept b v7 := by
      unfold v7
      exact kept_ite (raiseGp_kept _ _ _ p6) (raiseGp_kept _ _ _ (raiseGp_kept _ _ _ p6))
    clear_value v7
    extract_lets +onlyGivenNames v9
    clear_value v9
    extract_lets +onlyGivenNames v10
    clear_value v10
    extract_lets +onlyGivenNames v11
    clear_value v11
    extract_lets +onlyGivenNames v12
    have p13 : Kept b v12 := by
      unfold v12
      exact kept_ite h1 (kept_ite (setHub_kept _ _ _ p8) (lowerGp_kept _ _ h1))
    clear_value v12
    extract_lets +onlyGivenNames v14
    clear_value v14
    extract_lets +onlyGivenNames v15
    clear_value v15
    exact setBallast_kept _ _ (setHub_kept _ _ _ p13)

theorem moveOp_kept{b : State} : ∀ x0 x1 x2, Kept b x0 → Kept b (moveOp x0 x1 x2) := by
  intro x0 x1 x2 h0
  unfold moveOp
  exact setCl_kept _ _ _ h0

theorem settleOps_kept{b : State} : ∀ x0 x1, Kept b x0 → Kept b (settleOps x0 x1) := by
  intro x0 x1 h0
  unfold settleOps
  refine kept_foldl (fun f0 i0 p0 => ?_) _ ?_
  · extract_lets +onlyGivenNames v1
    clear_value v1
    extract_lets +onlyGivenNames v2
    clear_value v2
    exact kept_ite p0 (moveOp_kept _ _ _ p0)
  · exact h0

theorem pwrCtlWrite_kept{b : State} : ∀ x0 x1, Kept b x0 → Kept b (pwrCtlWrite x0 x1) := by
  intro x0 x1 h0
  unfold pwrCtlWrite
  extract_lets +onlyGivenNames v0
  have p1 : Kept b v0 := by
    unfold v0
    exact writeReg_kept _ _ _ h0
  clear_value v0
  exact kept_ite p1 (kept_foldl (fun f2 i2 p2 => settleOps_kept _ _ p2) _ p1)

theorem execOperatingPointChange_kept{b : State} : ∀ x0 x1 x2, Kept b x2 → KeptO b (execOperatingPointChange x0 x1 x2) := by
  intro x0 x1 x2 h2
  unfold execOperatingPointChange
  refine guardWf_kept _ _ ?_
  refine keptO_next ?_
  extract_lets +onlyGivenNames v0
  clear_value v0
  extract_lets +onlyGivenNames v1
  clear_value v1
  exact kept_ite (moveOp_kept _ _ _ h2) h2

theorem execOpAutoMove_kept{b : State} : ∀ x0 x1, Kept b x1 → KeptO b (execOpAutoMove x0 x1) := by
  intro x0 x1 h1
  unfold execOpAutoMove
  refine guardWf_kept _ _ ?_
  refine keptO_next ?_
  extract_lets +onlyGivenNames v0
  clear_value v0
  extract_lets +onlyGivenNames v1
  clear_value v1
  extract_lets +onlyGivenNames v2
  clear_value v2
  extract_lets +onlyGivenNames v3
  clear_value v3
  extract_lets +onlyGivenNames v4
  clear_value v4
  refine kept_ite ?_ ?_
  · exact h1
  · refine kept_ite ?_ ?_
    · split
      · exact setCl_kept _ _ _ h1
      · exact h1
    · refine kept_ite ?_ ?_
      · split
        · exact setCl_kept _ _ _ h1
        · exact h1
      · exact h1

theorem execOscillatorCheck_kept{b : State} : ∀ x0 x1 x2, Kept b x2 → KeptO b (execOscillatorCheck x0 x1 x2) := by
  intro x0 x1 x2 h2
  unfold execOscillatorCheck
  refine guardWf_kept _ _ ?_
  refine keptO_next ?_
  extract_lets +onlyGivenNames v0
  clear_value v0
  extract_lets +onlyGivenNames v1
  clear_value v1
  exact kept_ite (setCl_kept _ _ _ h2) h2

theorem setEpochState_kept{b : State} : ∀ x0 x1, Kept b x0 → Kept b (setEpochState x0 x1) := by
  intro x0 x1 h0
  unfold setEpochState
  exact setRfld_kept _ _ _ _ _ h0

theorem epochResult_kept{b : State} : ∀ x0 x1, Kept b x0 → Kept b (epochResult x0 x1) := by
  intro x0 x1 h0
  unfold epochResult
  exact setRfld_kept _ _ _ _ _ h0

theorem settlePrepare_kept{b : State} : ∀ x0, Kept b x0 → Kept b (settlePrepare x0) := by
  intro x0 h0
  unfold settlePrepare
  exact kept_ite (epochResult_kept _ _ (setEpochState_kept _ _ h0)) h0

theorem dropPrepared_kept{b : State} : ∀ x0, Kept b x0 → Kept b (dropPrepared x0) := by
  intro x0 h0
  unfold dropPrepared
  exact kept_mk (kept_eta h0)

theorem abortEpoch_kept{b : State} : ∀ x0 x1 x2, Kept b x0 → Kept b (abortEpoch x0 x1 x2) := by
  intro x0 x1 x2 h0
  unfold abortEpoch
  extract_lets +onlyGivenNames v0
  have p1 : Kept b v0 := by
    unfold v0
    exact epochResult_kept _ _ (setRfld_kept _ _ _ _ _ (setRbit_kept _ _ _ _ (setEpochState_kept _ _ (dropPrepared_kept _ h0))))
  clear_value v0
  exact leaf_kept _ _ _ (emit_kept _ _ _ _ p1)

theorem epochLeave_kept{b : State} : ∀ x0 x1, Kept b x0 → Kept b (epochLeave x0 x1) := by
  intro x0 x1 h0
  unfold epochLeave
  split
  · exact h0
  · extract_lets +onlyGivenNames v5
    clear_value v5
    extract_lets +onlyGivenNames v6
    have p7 : Kept b v6 := by
      unfold v6
      exact kept_mk (kept_eta h0)
    clear_value v6
    extract_lets +onlyGivenNames v8
    clear_value v8
    extract_lets +onlyGivenNames v9
    clear_value v9
    extract_lets +onlyGivenNames v10
    have p11 : Kept b v10 := by
      unfold v10
      exact kept_ite (setHub_kept _ _ _ p7) (setOpt_kept _ _ _ p7)
    clear_value v10
    exact settlePrepare_kept _ (setRbit_kept _ _ _ _ p11)

theorem hubSwitch_kept{b : State} : ∀ x0 x1 x2, Kept b x0 → Kept b (hubSwitch x0 x1 x2) := by
  intro x0 x1 x2 h0
  unfold hubSwitch
  extract_lets +onlyGivenNames v0
  clear_value v0
  exact settleOps_kept _ _ (setHub_kept _ _ _ h0)

theorem optSwitch_kept{b : State} : ∀ x0 x1 x2, Kept b x0 → Kept b (optSwitch x0 x1 x2) := by
  intro x0 x1 x2 h0
  unfold optSwitch
  exact setOpt_kept _ _ _ h0

theorem hubReturns_kept{b : State} : ∀ x0 x1, Kept b x0 → Kept b (hubReturns x0 x1) := by
  intro x0 x1 h0
  unfold hubReturns
  split
  · exact h0
  · extract_lets +onlyGivenNames v5
    have p6 : Kept b v5 := by
      unfold v5
      exact kept_mk (kept_eta h0)
    clear_value v5
    exact kept_ite p6 (kept_ite (hubSwitch_kept _ _ _ p6) (emit_kept _ _ _ _ p6))

theorem optReturns_kept{b : State} : ∀ x0 x1, Kept b x0 → Kept b (optReturns x0 x1) := by
  intro x0 x1 h0
  unfold optReturns
  split
  · exact h0
  · extract_lets +onlyGivenNames v5
    have p6 : Kept b v5 := by
      unfold v5
      exact kept_mk (kept_eta h0)
    clear_value v5
    exact kept_ite p6 (kept_ite (optSwitch_kept _ _ _ p6) (emit_kept _ _ _ _ p6))

theorem prepareWrite_kept{b : State} : ∀ x0 x1, Kept b x0 → Kept b (prepareWrite x0 x1) := by
  intro x0 x1 h0
  unfold prepareWrite
  refine kept_ite ?_ ?_
  · exact epochResult_kept _ _ h0
  · extract_lets +onlyGivenNames v0
    have p1 : Kept b v0 := by
      unfold v0
      exact setRbit_kept _ _ _ _ (setEpochState_kept _ _ h0)
    clear_value v0
    extract_lets +onlyGivenNames v2
    have p3 : Kept b v2 := by
      unfold v2
      exact setRfld_kept _ _ _ _ _ p1
    clear_value v2
    exact settlePrepare_kept _ (kept_mk (kept_eta p3))

theorem execEpochPrepare_kept{b : State} : ∀ x0 x1 x2, Kept b x2 → KeptO b (execEpochPrepare x0 x1 x2) := by
  intro x0 x1 x2 h2
  unfold execEpochPrepare
  exact adminCmd_kept _ _ _ _ h2 (fun y0 k1 => prepareWrite_kept _ _ k1)

theorem execEpochAck_kept{b : State} : ∀ x0 x1, Kept b x1 → KeptO b (execEpochAck x0 x1) := by
  intro x0 x1 h1
  unfold execEpochAck
  split
  · exact keptO_refused (.inl rfl)
  · refine keptO_next ?_
    refine kept_ite ?_ ?_
    · exact h1
    · refine kept_ite ?_ ?_
      · extract_lets +onlyGivenNames v5
        clear_value v5
        exact kept_ite (settlePrepare_kept _ (setRbit_kept _ _ _ _ (setHub_kept _ _ _ h1))) (abortEpoch_kept _ _ _ h1)
      · extract_lets +onlyGivenNames v6
        clear_value v6
        exact kept_ite (settlePrepare_kept _ (setRbit_kept _ _ _ _ (setOpt_kept _ _ _ h1))) (abortEpoch_kept _ _ _ h1)

theorem execEpochPrepareTimeout_kept{b : State} : ∀ x0, Kept b x0 → KeptO b (execEpochPrepareTimeout x0) := by
  intro x0 h0
  unfold execEpochPrepareTimeout
  refine keptO_next ?_
  split
  · exact abortEpoch_kept _ _ _ (kept_mk (kept_eta h0))
  · exact h0

theorem commitWrite_kept{b : State} : ∀ x0 x1, Kept b x0 → Kept b (commitWrite x0 x1) := by
  intro x0 x1 h0
  unfold commitWrite
  refine kept_ite ?_ ?_
  · exact h0
  · refine kept_ite ?_ ?_
    · exact epochResult_kept _ _ h0
    · extract_lets +onlyGivenNames v0
      have p1 : Kept b v0 := by
        unfold v0
        exact epochResult_kept _ _ (setEpochState_kept _ _ h0)
      clear_value v0
      exact kept_mk (kept_eta p1)

theorem execEpochCommit_kept{b : State} : ∀ x0 x1 x2, Kept b x2 → KeptO b (execEpochCommit x0 x1 x2) := by
  intro x0 x1 x2 h2
  unfold execEpochCommit
  exact adminCmd_kept _ _ _ _ h2 (fun y0 k1 => commitWrite_kept _ _ k1)

theorem markOld_kept{b : State} : ∀ x0 x1, Kept b x0 → Kept b (markOld x0 x1) := by
  intro x0 x1 h0
  unfold markOld
  extract_lets +onlyGivenNames v0
  clear_value v0
  exact kept_mk (kept_eta h0)

theorem execEpochBoundary_kept{b : State} : ∀ x0, Kept b x0 → KeptO b (execEpochBoundary x0) := by
  intro x0 h0
  unfold execEpochBoundary
  refine keptO_next ?_
  refine kept_ite ?_ ?_
  · exact h0
  · extract_lets +onlyGivenNames v0
    clear_value v0
    extract_lets +onlyGivenNames v1
    have p2 : Kept b v1 := by
      unfold v1
      exact markOld_kept _ _ (kept_mk (kept_eta h0))
    clear_value v1
    extract_lets +onlyGivenNames v3
    have p4 : Kept b v3 := by
      unfold v3
      exact kept_foldl (fun f5 i5 p5 => kept_ite (hubSwitch_kept _ _ _ p5) (optSwitch_kept _ _ _ p5)) _ p2
    clear_value v3
    extract_lets +onlyGivenNames v6
    have p7 : Kept b v6 := by
      unfold v6
      exact setRfld_kept _ _ _ _ _ p4
    clear_value v6
    exact leaf_kept _ _ _ (setEpochState_kept _ _ (setReg_kept _ _ _ p7))

theorem execEpochDrainDone_kept{b : State} : ∀ x0, Kept b x0 → KeptO b (execEpochDrainDone x0) := by
  intro x0 h0
  unfold execEpochDrainDone
  refine keptO_next ?_
  refine kept_ite ?_ ?_
  · exact h0
  · extract_lets +onlyGivenNames v0
    have p1 : Kept b v0 := by
      unfold v0
      exact markOld_kept _ _ h0
    clear_value v0
    exact setEpochState_kept _ _ (kept_mk (kept_eta p1))

theorem drainCut_kept{b : State} : ∀ x0, Kept b x0 → Kept b (drainCut x0) := by
  intro x0 h0
  unfold drainCut
  split
  · exact h0
  · refine kept_ite ?_ ?_
    · exact h0
    · extract_lets +onlyGivenNames v6
      clear_value v6
      split
      rename_i z10
      exact health_kept _ (capSpares_kept _ _ (kept_mk (kept_eta (kept_of_eq_2 z10 (cutCluster_kept _ _ _ _ h0)))))

theorem execFieldTest_kept{b : State} : ∀ x0 x1 x2, Kept b x2 → KeptO b (execFieldTest x0 x1 x2) := by
  intro x0 x1 x2 h2
  unfold execFieldTest
  refine onChosen_kept _ _ _ _ _ ?_ ?_
  · exact h2
  · intro y0
    extract_lets +onlyGivenNames v1
    clear_value v1
    extract_lets +onlyGivenNames v2
    clear_value v2
    extract_lets +onlyGivenNames v3
    clear_value v3
    refine kept_ite ?_ ?_
    · exact finishOp_kept _ _ _ _ _ _ h2
    · refine kept_ite ?_ ?_
      · exact finishOp_kept _ _ _ _ _ _ h2
      · extract_lets +onlyGivenNames v4
        have p5 : Kept b v4 := by
          unfold v4
          exact setOp_kept _ _ _ _ h2
        clear_value v4
        exact drainCut_kept _ (beginTest_kept _ (kept_mk (kept_eta p5)))

theorem execFieldTestDrainTimeout_kept{b : State} : ∀ x0, Kept b x0 → KeptO b (execFieldTestDrainTimeout x0) := by
  intro x0 h0
  unfold execFieldTestDrainTimeout
  refine keptO_next ?_
  split
  · exact h0
  · split
    · extract_lets +onlyGivenNames v11
      have p12 : Kept b v11 := by
        unfold v11
        exact kept_mk (kept_eta h0)
      clear_value v11
      extract_lets +onlyGivenNames v13
      have p14 : Kept b v13 := by
        unfold v13
        refine kept_foldl (fun f15 i15 p15 => ?_) _ ?_
        · extract_lets +onlyGivenNames v16
          clear_value v16
          exact completeKernel_kept _ _ _ (stopOp_kept _ _ _ _ p15)
        · exact p12
      clear_value v13
      exact drainCut_kept _ p14
    · exact h0

theorem softFuse_kept{b : State} : ∀ x0 x1 x2 x3, Kept b x0 → Kept b (softFuse x0 x1 x2 x3) := by
  intro x0 x1 x2 x3 h0
  unfold softFuse
  extract_lets +onlyGivenNames v0
  have p1 : Kept b v0 := by
    unfold v0
    exact kept_mk (kept_eta h0)
  clear_value v0
  split
  · exact p1
  · split
    · exact p1
    · exact kept_mk (kept_eta p1)

theorem endTest_kept{b : State} : ∀ x0, Kept b x0 → Kept b (endTest x0) := by
  intro x0 h0
  unfold endTest
  exact drainCut_kept _ (beginTest_kept _ (kept_mk (kept_eta h0)))

theorem execFieldTestResult_kept{b : State} : ∀ x0 x1, Kept b x1 → KeptO b (execFieldTestResult x0 x1) := by
  intro x0 x1 h1
  unfold execFieldTestResult
  refine guardWf_kept _ _ ?_
  refine keptO_next ?_
  extract_lets +onlyGivenNames v0
  have p1 : Kept b v0 := by
    unfold v0
    exact drainCut_kept _ h1
  clear_value v0
  split
  · exact p1
  · split
    · exact p1
    · extract_lets +onlyGivenNames v14
      clear_value v14
      extract_lets +onlyGivenNames v15
      clear_value v15
      refine kept_ite ?_ ?_
      · exact finishOp_kept _ _ _ _ _ _ (endTest_kept _ (health_kept _ (returnCluster_kept _ _ p1)))
      · extract_lets +onlyGivenNames v16
        clear_value v16
        extract_lets +onlyGivenNames v17
        clear_value v17
        extract_lets +onlyGivenNames v18
        have p19 : Kept b v18 := by
          unfold v18
          exact kept_mk (kept_eta p1)
        clear_value v18
        extract_lets +onlyGivenNames v20
        have p21 : Kept b v20 := by
          unfold v20
          exact kept_ite (kept_ite p19 (refuseWaiting_kept _ _ (kept_mk (kept_eta p19)))) (returnCluster_kept _ _ (kept_foldl (fun f22 i22 p22 => softFuse_kept _ _ _ _ p22) _ p1))
        clear_value v20
        extract_lets +onlyGivenNames v23
        have p24 : Kept b v23 := by
          unfold v23
          exact capSpares_kept _ _ p21
        clear_value v23
        extract_lets +onlyGivenNames v25
        have p26 : Kept b v25 := by
          unfold v25
          exact kept_mk (kept_eta p24)
        clear_value v25
        extract_lets +onlyGivenNames v27
        clear_value v27
        extract_lets +onlyGivenNames v28
        clear_value v28
        extract_lets +onlyGivenNames v29
        have p30 : Kept b v29 := by
          unfold v29
          exact emit_kept _ _ _ _ p26
        clear_value v29
        exact finishOp_kept _ _ _ _ _ _ (endTest_kept _ (health_kept _ p30))

theorem addIdle_kept{b : State} : ∀ x0 x1 x2, Kept b x0 → Kept b (addIdle x0 x1 x2) := by
  intro x0 x1 x2 h0
  unfold addIdle
  extract_lets +onlyGivenNames v0
  clear_value v0
  extract_lets +onlyGivenNames v1
  have p2 : Kept b v1 := by
    unfold v1
    exact setReg_kept _ _ _ h0
  clear_value v1
  split
  · exact p2
  · exact kept_mk (kept_eta p2)

theorem execIdlePublication_kept{b : State} : ∀ x0 x1 x2, Kept b x2 → KeptO b (execIdlePublication x0 x1 x2) := by
  intro x0 x1 x2 h2
  unfold execIdlePublication
  exact guardWf_kept _ _ (keptO_next (kept_ite h2 (kept_foldl (fun f0 i0 p0 => addIdle_kept _ _ _ p0) _ (kept_mk (kept_eta h2)))))

theorem countRings_kept{b : State} : ∀ x0 x1, Kept b x0 → Kept b (countRings x0 x1) := by
  intro x0 x1 h0
  unfold countRings
  extract_lets +onlyGivenNames v0
  clear_value v0
  exact setRfld_kept _ _ _ _ _ h0

theorem ringResult_kept{b : State} : ∀ x0 x1 x2, Kept b x0 → Kept b (ringResult x0 x1 x2) := by
  intro x0 x1 x2 h0
  unfold ringResult
  exact setRbit_kept _ _ _ _ (setRfld_kept _ _ _ _ _ h0)

theorem createRing_kept{b : State} : ∀ x0 x1 x2, Kept b x0 → Kept b (createRing x0 x1 x2) := by
  intro x0 x1 x2 h0
  unfold createRing
  split
  · extract_lets +onlyGivenNames v2
    clear_value v2
    extract_lets +onlyGivenNames v3
    clear_value v3
    extract_lets +onlyGivenNames v4
    clear_value v4
    extract_lets +onlyGivenNames v5
    clear_value v5
    extract_lets +onlyGivenNames v6
    clear_value v6
    extract_lets +onlyGivenNames v7
    clear_value v7
    extract_lets +onlyGivenNames v8
    have p9 : Kept b v8 := by
      unfold v8
      exact setHub_kept _ _ _ h0
    clear_value v8
    extract_lets +onlyGivenNames v10
    have p11 : Kept b v10 := by
      unfold v10
      exact kept_ite (setRfld_kept _ _ _ _ _ p9) p9
    clear_value v10
    exact ringResult_kept _ _ _ (countRings_kept _ _ (setRfld_kept _ _ _ _ _ p11))
  · exact ringResult_kept _ _ _ h0

theorem queryRing_kept{b : State} : ∀ x0 x1 x2, Kept b x0 → Kept b (queryRing x0 x1 x2) := by
  intro x0 x1 x2 h0
  unfold queryRing
  split
  · exact ringResult_kept _ _ _ h0
  · extract_lets +onlyGivenNames v6
    clear_value v6
    extract_lets +onlyGivenNames v7
    have p8 : Kept b v7 := by
      unfold v7
      exact setRfld_kept _ _ _ _ _ h0
    clear_value v7
    extract_lets +onlyGivenNames v9
    have p10 : Kept b v9 := by
      unfold v9
      exact setReg_kept _ _ _ p8
    clear_value v9
    extract_lets +onlyGivenNames v11
    have p12 : Kept b v11 := by
      unfold v11
      exact setReg_kept _ _ _ p10
    clear_value v11
    exact ringResult_kept _ _ _ p12

theorem closeRing_kept{b : State} : ∀ x0 x1 x2 x3 x4 x5, Kept b x0 → Kept b (closeRing x0 x1 x2 x3 x4 x5) := by
  intro x0 x1 x2 x3 x4 x5 h0
  unfold closeRing
  extract_lets +onlyGivenNames v0
  clear_value v0
  extract_lets +onlyGivenNames v1
  have p2 : Kept b v1 := by
    unfold v1
    exact setRing_kept _ _ _ _ h0
  clear_value v1
  extract_lets +onlyGivenNames v3
  have p4 : Kept b v3 := by
    unfold v3
    split
    · exact abortStep_kept _ _ _ _ p2
    · exact p2
  clear_value v3
  extract_lets +onlyGivenNames v10
  clear_value v10
  extract_lets +onlyGivenNames v11
  have p12 : Kept b v11 := by
    unfold v11
    exact setRing_kept _ _ _ _ p4
  clear_value v11
  exact stopOps_kept _ _ _ _ (forgetSince_kept _ _ _ p12)

theorem beginClose_kept{b : State} : ∀ x0 x1 x2 x3, Kept b x0 → Kept b (beginClose x0 x1 x2 x3) := by
  intro x0 x1 x2 x3 h0
  unfold beginClose
  split
  · exact ringResult_kept _ _ _ h0
  · exact kept_ite (ringResult_kept _ _ _ h0) (closeRing_kept _ _ _ _ _ _ (setRbit_kept _ _ _ _ h0))

theorem freeRing_kept{b : State} : ∀ x0 x1 x2, Kept b x0 → Kept b (freeRing x0 x1 x2) := by
  intro x0 x1 x2 h0
  unfold freeRing
  extract_lets +onlyGivenNames v0
  clear_value v0
  extract_lets +onlyGivenNames v1
  clear_value v1
  extract_lets +onlyGivenNames v2
  have p3 : Kept b v2 := by
    unfold v2
    exact setHub_kept _ _ _ h0
  clear_value v2
  exact countRings_kept _ _ p3

theorem endClose_kept{b : State} : ∀ x0 x1 x2, Kept b x0 → Kept b (endClose x0 x1 x2) := by
  intro x0 x1 x2 h0
  unfold endClose
  extract_lets +onlyGivenNames v0
  clear_value v0
  split
  · exact h0
  · refine kept_ite ?_ ?_
    · exact h0
    · extract_lets +onlyGivenNames v7
      have p8 : Kept b v7 := by
        unfold v7
        exact kept_ite h0 (kept_mk (kept_eta h0))
      clear_value v7
      extract_lets +onlyGivenNames v9
      have p10 : Kept b v9 := by
        unfold v9
        exact setRing_kept _ _ _ _ p8
      clear_value v9
      extract_lets +onlyGivenNames v11
      have p12 : Kept b v11 := by
        unfold v11
        exact kept_ite (kept_ite p10 (headWb_kept _ _ _ p10)) (freeRing_kept _ _ _ p8)
      clear_value v11
      exact ringResult_kept _ _ _ p12

theorem ringCmdWrite_kept{b : State} : ∀ x0 x1 x2, Kept b x0 → Kept b (ringCmdWrite x0 x1 x2) := by
  intro x0 x1 x2 h0
  unfold ringCmdWrite
  refine kept_ite ?_ ?_
  · exact h0
  · extract_lets +onlyGivenNames v0
    have p1 : Kept b v0 := by
      unfold v0
      exact setRfld_kept _ _ _ _ _ h0
    clear_value v0
    extract_lets +onlyGivenNames v2
    clear_value v2
    refine kept_ite ?_ ?_
    · exact p1
    · split
      · exact createRing_kept _ _ _ p1
      · exact beginClose_kept _ _ _ _ p1
      · exact beginClose_kept _ _ _ _ p1
      · exact queryRing_kept _ _ _ p1
      · exact ringResult_kept _ _ _ p1

theorem ringCmd_kept{b : State} : ∀ x0 x1 x2 x3, Kept b x3 → KeptO b (ringCmd x0 x1 x2 x3) := by
  intro x0 x1 x2 x3 h3
  unfold ringCmd
  exact guardWf_kept _ _ (adminCmd_kept _ _ _ _ h3 (fun y0 k1 => ringCmdWrite_kept _ _ _ k1))

theorem execRingCreate_kept{b : State} : ∀ x0 x1 x2 x3, Kept b x3 → KeptO b (execRingCreate x0 x1 x2 x3) := by
  intro x0 x1 x2 x3 h3
  unfold execRingCreate
  exact ringCmd_kept _ _ _ _ h3

theorem execRingDestroy_kept{b : State} : ∀ x0 x1 x2 x3, Kept b x3 → KeptO b (execRingDestroy x0 x1 x2 x3) := by
  intro x0 x1 x2 x3 h3
  unfold execRingDestroy
  exact ringCmd_kept _ _ _ _ h3

theorem execRingReset_kept{b : State} : ∀ x0 x1 x2 x3, Kept b x3 → KeptO b (execRingReset x0 x1 x2 x3) := by
  intro x0 x1 x2 x3 h3
  unfold execRingReset
  exact ringCmd_kept _ _ _ _ h3

theorem execRingQuery_kept{b : State} : ∀ x0 x1 x2 x3, Kept b x3 → KeptO b (execRingQuery x0 x1 x2 x3) := by
  intro x0 x1 x2 x3 h3
  unfold execRingQuery
  exact ringCmd_kept _ _ _ _ h3

theorem execRingClosingDone_kept{b : State} : ∀ x0 x1 x2, Kept b x2 → KeptO b (execRingClosingDone x0 x1 x2) := by
  intro x0 x1 x2 h2
  unfold execRingClosingDone
  exact guardWf_kept _ _ (keptO_next (endClose_kept _ _ _ h2))

theorem noteThresh_kept{b : State} : ∀ x0 x1, Kept b x1 → Kept b (noteThresh x0 x1) := by
  intro x0 x1 h1
  unfold noteThresh
  exact kept_ite (leaf_kept _ _ _ h1) h1

theorem evtFail_kept{b : State} : ∀ x0 x1, Kept b x0 → Kept b (evtFail x0 x1) := by
  intro x0 x1 h0
  unfold evtFail
  refine leaf_kept _ _ _ ?_
  extract_lets +onlyGivenNames v0
  have p1 : Kept b v0 := by
    unfold v0
    exact setRbit_kept _ _ _ _ h0
  clear_value v0
  exact kept_mk (kept_eta p1)

theorem sendRecord_kept{b : State} : ∀ x0 x1 x2, Kept b x0 → Kept b (sendRecord x0 x1 x2) := by
  intro x0 x1 x2 h0
  unfold sendRecord
  extract_lets +onlyGivenNames v0
  clear_value v0
  extract_lets +onlyGivenNames v1
  clear_value v1
  extract_lets +onlyGivenNames v2
  clear_value v2
  refine kept_ite ?_ ?_
  · exact evtFail_kept _ _ h0
  · split
    · rename_i z5
      exact noteThresh_kept _ _ (setRfld_kept _ _ _ _ _ (kept_of_eq_2 z5 (hostWrite_kept _ _ _ _ _ _ h0)))
    · rename_i z10
      exact evtFail_kept _ _ (kept_of_eq_2 z10 (hostWrite_kept _ _ _ _ _ _ h0))

theorem formRecord_kept{b : State} : ∀ x0 x1 x2, Kept b x0 → Kept b (formRecord x0 x1 x2) := by
  intro x0 x1 x2 h0
  unfold formRecord
  extract_lets +onlyGivenNames v0
  clear_value v0
  extract_lets +onlyGivenNames v1
  have p2 : Kept b v1 := by
    unfold v1
    exact kept_mk (kept_eta h0)
  clear_value v1
  extract_lets +onlyGivenNames v3
  have p4 : Kept b v3 := by
    unfold v3
    exact setRfld_kept _ _ _ _ _ p2
  clear_value v3
  exact kept_ite (sendRecord_kept _ _ _ p4) (kept_ite (kept_mk (kept_eta p4)) p4)

theorem nextRecord_kept{b : State} : ∀ x0 x1, Kept b x0 → Kept b (nextRecord x0 x1) := by
  intro x0 x1 h0
  unfold nextRecord
  refine kept_ite ?_ ?_
  · exact h0
  · refine kept_ite ?_ ?_
    · exact formRecord_kept _ _ _ h0
    · extract_lets +onlyGivenNames v0
      have p1 : Kept b v0 := by
        unfold v0
        exact kept_ite (kept_mk (kept_eta h0)) h0
      clear_value v0
      split
      · exact formRecord_kept _ _ _ (kept_mk (kept_eta p1))
      · split
        · exact formRecord_kept _ _ _ (kept_mk (kept_eta p1))
        · exact p1

theorem resumeRecord_kept{b : State} : ∀ x0 x1 x2, Kept b x0 → Kept b (resumeRecord x0 x1 x2) := by
  intro x0 x1 x2 h0
  unfold resumeRecord
  refine kept_ite ?_ ?_
  · exact h0
  · extract_lets +onlyGivenNames v0
    clear_value v0
    extract_lets +onlyGivenNames v1
    have p2 : Kept b v1 := by
      unfold v1
      exact kept_mk (kept_eta h0)
    clear_value v1
    refine kept_ite ?_ ?_
    · extract_lets +onlyGivenNames v3
      have p4 : Kept b v3 := by
        unfold v3
        exact sendRecord_kept _ _ _ p2
      clear_value v3
      exact kept_ite (kept_mk (kept_eta p4)) p4
    · exact p2

theorem execEventRecordWrite_kept{b : State} : ∀ x0 x1, Kept b x1 → KeptO b (execEventRecordWrite x0 x1) := by
  intro x0 x1 h1
  unfold execEventRecordWrite
  refine keptO_next ?_
  refine kept_ite ?_ ?_
  · exact h1
  · split
    · exact kept_ite (nextRecord_kept _ _ (kept_mk (kept_eta h1))) (resumeRecord_kept _ _ _ h1)
    · exact nextRecord_kept _ _ h1

theorem execEventArrival_kept{b : State} : ∀ x0 x1 x2 x3, Kept b x3 → KeptO b (execEventArrival x0 x1 x2 x3) := by
  intro x0 x1 x2 x3 h3
  unfold execEventArrival
  exact keptO_next (kept_ite (emitEv_kept _ _ h3) h3)

theorem evtCtlWrite_kept{b : State} : ∀ x0 x1, Kept b x0 → Kept b (evtCtlWrite x0 x1) := by
  intro x0 x1 h0
  unfold evtCtlWrite
  extract_lets +onlyGivenNames v0
  clear_value v0
  extract_lets +onlyGivenNames v1
  clear_value v1
  extract_lets +onlyGivenNames v2
  clear_value v2
  refine kept_ite ?_ ?_
  · exact noteThresh_kept _ _ (setReg_kept _ _ _ h0)
  · extract_lets +onlyGivenNames v3
    have p4 : Kept b v3 := by
      unfold v3
      exact setReg_kept _ _ _ h0
    clear_value v3
    refine kept_ite ?_ ?_
    · extract_lets +onlyGivenNames v5
      have p6 : Kept b v5 := by
        unfold v5
        exact setReg_kept _ _ _ (setReg_kept _ _ _ p4)
      clear_value v5
      exact kept_mk (kept_eta p6)
    · exact kept_mk (kept_eta p4)

theorem execEvtCtlWrite_kept{b : State} : ∀ x0 x1 x2, Kept b x2 → KeptO b (execEvtCtlWrite x0 x1 x2) := by
  intro x0 x1 x2 h2
  unfold execEvtCtlWrite
  exact adminCmd_kept _ _ _ _ h2 (fun y0 k1 => evtCtlWrite_kept _ _ k1)

theorem evtHeadWrite_kept{b : State} : ∀ x0 x1, Kept b x0 → Kept b (evtHeadWrite x0 x1) := by
  intro x0 x1 h0
  unfold evtHeadWrite
  extract_lets +onlyGivenNames v0
  clear_value v0
  extract_lets +onlyGivenNames v1
  clear_value v1
  extract_lets +onlyGivenNames v2
  clear_value v2
  exact kept_ite h0 (setReg_kept _ _ _ h0)

theorem execEvtHeadWrite_kept{b : State} : ∀ x0 x1 x2, Kept b x2 → KeptO b (execEvtHeadWrite x0 x1 x2) := by
  intro x0 x1 x2 h2
  unfold execEvtHeadWrite
  exact adminCmd_kept _ _ _ _ h2 (fun y0 k1 => evtHeadWrite_kept _ _ k1)

theorem execNotifyClear_kept{b : State} : ∀ x0 x1 x2 x3, Kept b x3 → KeptO b (execNotifyClear x0 x1 x2 x3) := by
  intro x0 x1 x2 x3 h3
  unfold execNotifyClear
  exact guardWf_kept _ _ (keptO_next (kept_ite h3 (setReg_kept _ _ _ h3)))

end Sys2Proof.Machine
end

