-- ==== Sys2Proof/Laws/KeptHub.lean ====
section
/-! SUPPORT. `f_kept` (Laws/Kept.lean) for the functions of ports, partitions, links, debug, firmware, flits and the hub. -/
namespace Sys2Proof.Machine

theorem releaseLock_kept{b : State} : ∀ x0, Kept b x0 → Kept b (releaseLock x0) := by
  intro x0 h0
  unfold releaseLock
  extract_lets +onlyGivenNames v0
  have p1 : Kept b v0 := by
    unfold v0
    exact setRbit_kept _ _ _ _ (setRfld_kept _ _ _ _ _ h0)
  clear_value v0
  exact setRfld_kept _ _ _ _ _ p1

theorem giveLock_kept{b : State} : ∀ x0 x1, Kept b x0 → Kept b (giveLock x0 x1) := by
  intro x0 x1 h0
  unfold giveLock
  extract_lets +onlyGivenNames v0
  have p1 : Kept b v0 := by
    unfold v0
    exact setRfld_kept _ _ _ _ _ h0
  clear_value v0
  exact setRfld_kept _ _ _ _ _ p1

theorem ownerLockWrite_kept{b : State} : ∀ x0 x1 x2, Kept b x0 → Kept b (ownerLockWrite x0 x1 x2) := by
  intro x0 x1 x2 h0
  unfold ownerLockWrite
  extract_lets +onlyGivenNames v0
  have p1 : Kept b v0 := by
    unfold v0
    exact setReg_kept _ _ _ h0
  clear_value v0
  extract_lets +onlyGivenNames v2
  have p3 : Kept b v2 := by
    unfold v2
    exact renewLease_kept _ p1
  clear_value v2
  exact kept_ite (releaseLock_kept _ p3) p3

theorem lockWrite_kept{b : State} : ∀ x0 x1 x2 x3, Kept b x0 → Kept b (lockWrite x0 x1 x2 x3) := by
  intro x0 x1 x2 x3 h0
  unfold lockWrite
  exact kept_ite h0 (kept_ite (ownerLockWrite_kept _ _ _ h0) (kept_ite h0 (kept_ite h0 (kept_ite (ownerLockWrite_kept _ _ _ (giveLock_kept _ _ h0)) h0))))

theorem lockCmd_kept{b : State} : ∀ x0 x1 x2, Kept b x2 → KeptO b (lockCmd x0 x1 x2) := by
  intro x0 x1 x2 h2
  unfold lockCmd
  exact guardWf_kept _ _ (keptO_next (lockWrite_kept _ _ _ _ h2))

theorem execLockTake_kept{b : State} : ∀ x0 x1 x2, Kept b x2 → KeptO b (execLockTake x0 x1 x2) := by
  intro x0 x1 x2 h2
  unfold execLockTake
  exact lockCmd_kept _ _ _ h2

theorem execLockRelease_kept{b : State} : ∀ x0 x1 x2, Kept b x2 → KeptO b (execLockRelease x0 x1 x2) := by
  intro x0 x1 x2 h2
  unfold execLockRelease
  exact lockCmd_kept _ _ _ h2

theorem execLockRenew_kept{b : State} : ∀ x0 x1 x2, Kept b x2 → KeptO b (execLockRenew x0 x1 x2) := by
  intro x0 x1 x2 h2
  unfold execLockRenew
  exact lockCmd_kept _ _ _ h2

theorem execLeaseExpiry_kept{b : State} : ∀ x0, Kept b x0 → KeptO b (execLeaseExpiry x0) := by
  intro x0 h0
  unfold execLeaseExpiry
  refine keptO_next ?_
  extract_lets +onlyGivenNames v0
  clear_value v0
  exact kept_ite h0 (setRbit_kept _ _ _ _ (kept_mk (kept_eta h0)))

theorem flrBegin_kept{b : State} : ∀ x0 x1, Kept b x0 → Kept b (flrBegin x0 x1) := by
  intro x0 x1 h0
  unfold flrBegin
  refine kept_ite ?_ ?_
  · exact h0
  · extract_lets +onlyGivenNames v0
    have p1 : Kept b v0 := by
      unfold v0
      exact setRbit_kept _ _ _ _ h0
    clear_value v0
    exact kept_foldl (fun f2 i2 p2 => closeRing_kept _ _ _ _ _ _ p2) _ p1

theorem portLock_kept{b : State} : ∀ x0 x1, Kept b x0 → Kept b (portLock x0 x1) := by
  intro x0 x1 h0
  unfold portLock
  exact kept_ite (releaseLock_kept _ h0) h0

theorem execFlr_kept{b : State} : ∀ x0 x1, Kept b x1 → KeptO b (execFlr x0 x1) := by
  intro x0 x1 h1
  unfold execFlr
  exact guardWf_kept _ _ (keptO_next (kept_ite h1 (kept_ite (portLock_kept _ _ (kept_foldl (fun f0 i0 p0 => flrBegin_kept _ _ p0) _ h1)) (flrBegin_kept _ _ h1))))

theorem flrFree_kept{b : State} : ∀ x0 x1, Kept b x0 → Kept b (flrFree x0 x1) := by
  intro x0 x1 h0
  unfold flrFree
  extract_lets +onlyGivenNames v0
  clear_value v0
  extract_lets +onlyGivenNames v1
  have p2 : Kept b v1 := by
    unfold v1
    exact freeRing_kept _ _ _ h0
  clear_value v1
  exact kept_ite (ringResult_kept _ _ _ p2) p2

theorem clearPage_kept{b : State} : ∀ x0 x1, Kept b x0 → Kept b (clearPage x0 x1) := by
  intro x0 x1 h0
  unfold clearPage
  extract_lets +onlyGivenNames v0
  have p1 : Kept b v0 := by
    unfold v0
    exact kept_foldl (fun f2 i2 p2 => setReg_kept _ _ _ p2) _ h0
  clear_value v0
  exact kept_mk (kept_eta p1)

theorem execFlrDone_kept{b : State} : ∀ x0 x1, Kept b x1 → KeptO b (execFlrDone x0 x1) := by
  intro x0 x1 h1
  unfold execFlrDone
  refine guardWf_kept _ _ ?_
  refine keptO_next ?_
  extract_lets +onlyGivenNames v0
  clear_value v0
  refine kept_ite ?_ ?_
  · exact h1
  · extract_lets +onlyGivenNames v1
    have p2 : Kept b v1 := by
      unfold v1
      exact clearPage_kept _ _ (kept_foldl (fun f3 i3 p3 => flrFree_kept _ _ p3) _ h1)
    clear_value v1
    extract_lets +onlyGivenNames v4
    have p5 : Kept b v4 := by
      unfold v4
      exact emit_kept _ _ _ _ p2
    clear_value v4
    exact setRbit_kept _ _ _ _ (leaf_kept _ _ _ p5)

theorem setPerst_kept{b : State} : ∀ x0 x1 x2, Kept b x0 → Kept b (setPerst x0 x1 x2) := by
  intro x0 x1 x2 h0
  unfold setPerst
  exact kept_mk (kept_eta h0)

theorem setRefPin_kept{b : State} : ∀ x0 x1 x2, Kept b x0 → Kept b (setRefPin x0 x1 x2) := by
  intro x0 x1 x2 h0
  unfold setRefPin
  exact kept_mk (kept_eta h0)

theorem portTrain_kept{b : State} : ∀ x0 x1, Kept b x0 → Kept b (portTrain x0 x1) := by
  intro x0 x1 h0
  unfold portTrain
  exact kept_ite (setPort_kept _ _ _ h0) h0

theorem portLinkDown_kept{b : State} : ∀ x0 x1, Kept b x0 → Kept b (portLinkDown x0 x1) := by
  intro x0 x1 h0
  unfold portLinkDown
  extract_lets +onlyGivenNames v0
  clear_value v0
  refine kept_ite ?_ ?_
  · exact h0
  · extract_lets +onlyGivenNames v1
    have p2 : Kept b v1 := by
      unfold v1
      exact leaf_kept _ _ _ (setPort_kept _ _ _ h0)
    clear_value v1
    exact kept_ite (leaf_kept _ _ _ (setRbit_kept _ _ _ _ p2)) p2

theorem portReset_kept{b : State} : ∀ x0 x1, Kept b x0 → Kept b (portReset x0 x1) := by
  intro x0 x1 h0
  unfold portReset
  extract_lets +onlyGivenNames v0
  have p1 : Kept b v0 := by
    unfold v0
    exact portLinkDown_kept _ _ h0
  clear_value v0
  extract_lets +onlyGivenNames v2
  clear_value v2
  extract_lets +onlyGivenNames v3
  have p4 : Kept b v3 := by
    unfold v3
    exact setPort_kept _ _ _ p1
  clear_value v3
  exact kept_ite (portLock_kept _ _ (kept_foldl (fun f5 i5 p5 => flrBegin_kept _ _ p5) _ p4)) p4

theorem execPerstNAssert_kept{b : State} : ∀ x0 x1, Kept b x1 → KeptO b (execPerstNAssert x0 x1) := by
  intro x0 x1 h1
  unfold execPerstNAssert
  exact guardWf_kept _ _ (keptO_next (kept_ite h1 (portReset_kept _ _ (setPerst_kept _ _ _ h1))))

theorem execPerstNDeassert_kept{b : State} : ∀ x0 x1, Kept b x1 → KeptO b (execPerstNDeassert x0 x1) := by
  intro x0 x1 h1
  unfold execPerstNDeassert
  exact guardWf_kept _ _ (keptO_next (kept_ite h1 (portTrain_kept _ _ (setPerst_kept _ _ _ h1))))

theorem execPcieLinkDown_kept{b : State} : ∀ x0 x1, Kept b x1 → KeptO b (execPcieLinkDown x0 x1) := by
  intro x0 x1 h1
  unfold execPcieLinkDown
  exact guardWf_kept _ _ (keptO_next (portLinkDown_kept _ _ h1))

theorem execPcieConfigRequest_kept{b : State} : ∀ x0 x1 x2 x3, Kept b x3 → KeptO b (execPcieConfigRequest x0 x1 x2 x3) := by
  intro x0 x1 x2 x3 h3
  unfold execPcieConfigRequest
  refine guardWf_kept _ _ ?_
  refine keptO_next ?_
  refine kept_ite ?_ ?_
  · exact kept_ite (setPort_kept _ _ _ h3) h3
  · refine kept_ite ?_ ?_
    · exact h3
    · extract_lets +onlyGivenNames v0
      clear_value v0
      extract_lets +onlyGivenNames v1
      clear_value v1
      exact setPort_kept _ _ _ h3

theorem execPcieEarlyBarAccess_kept{b : State} : ∀ x0 x1 x2, Kept b x2 → KeptO b (execPcieEarlyBarAccess x0 x1 x2) := by
  intro x0 x1 x2 h2
  unfold execPcieEarlyBarAccess
  exact guardWf_kept _ _ (keptO_next (kept_ite (setPort_kept _ _ _ h2) h2))

theorem execAtsInvalidation_kept{b : State} : ∀ x0 x1 x2 x3, Kept b x3 → KeptO b (execAtsInvalidation x0 x1 x2 x3) := by
  intro x0 x1 x2 x3 h3
  unfold execAtsInvalidation
  refine guardWf_kept _ _ ?_
  refine keptO_next ?_
  extract_lets +onlyGivenNames v0
  clear_value v0
  exact setPort_kept _ _ _ h3

theorem refSwitch_kept{b : State} : ∀ x0 x1, Kept b x0 → Kept b (refSwitch x0 x1) := by
  intro x0 x1 h0
  unfold refSwitch
  extract_lets +onlyGivenNames v0
  have p1 : Kept b v0 := by
    unfold v0
    exact setRbit_kept _ _ _ _ (setRbit_kept _ _ _ _ (setRfld_kept _ _ _ _ _ h0))
  clear_value v0
  exact leaf_kept _ _ _ (emit_kept _ _ _ _ p1)

theorem execRefclkLoss_kept{b : State} : ∀ x0 x1, Kept b x1 → KeptO b (execRefclkLoss x0 x1) := by
  intro x0 x1 h1
  unfold execRefclkLoss
  refine guardWf_kept _ _ ?_
  refine keptO_next ?_
  extract_lets +onlyGivenNames v0
  have p1 : Kept b v0 := by
    unfold v0
    exact setRefPin_kept _ _ _ h1
  clear_value v0
  refine kept_ite ?_ ?_
  · exact portReset_kept _ _ p1
  · refine kept_ite ?_ ?_
    · exact p1
    · extract_lets +onlyGivenNames v2
      have p3 : Kept b v2 := by
        unfold v2
        exact setRbit_kept _ _ _ _ p1
      clear_value v2
      extract_lets +onlyGivenNames v4
      have p5 : Kept b v4 := by
        unfold v4
        exact kept_ite (portReset_kept _ _ p3) p3
      clear_value v4
      extract_lets +onlyGivenNames v6
      have p7 : Kept b v6 := by
        unfold v6
        exact kept_ite p5 (setRbit_kept _ _ _ _ p5)
      clear_value v6
      exact kept_ite p7 (leaf_kept _ _ _ (emit_kept _ _ _ _ p7))

theorem execRefclkSwitchover_kept{b : State} : ∀ x0, Kept b x0 → KeptO b (execRefclkSwitchover x0) := by
  intro x0 h0
  unfold execRefclkSwitchover
  refine keptO_next ?_
  extract_lets +onlyGivenNames v0
  clear_value v0
  exact kept_ite h0 (refSwitch_kept _ _ h0)

theorem execRefclkGood_kept{b : State} : ∀ x0 x1, Kept b x1 → KeptO b (execRefclkGood x0 x1) := by
  intro x0 x1 h1
  unfold execRefclkGood
  refine guardWf_kept _ _ ?_
  refine keptO_next ?_
  extract_lets +onlyGivenNames v0
  have p1 : Kept b v0 := by
    unfold v0
    exact setRefPin_kept _ _ _ h1
  clear_value v0
  refine kept_ite ?_ ?_
  · exact portTrain_kept _ _ p1
  · refine kept_ite ?_ ?_
    · exact p1
    · extract_lets +onlyGivenNames v2
      have p3 : Kept b v2 := by
        unfold v2
        exact portTrain_kept _ _ (setRbit_kept _ _ _ _ p1)
      clear_value v2
      extract_lets +onlyGivenNames v4
      have p5 : Kept b v4 := by
        unfold v4
        exact kept_mk (kept_eta p3)
      clear_value v4
      exact kept_ite p5 (kept_ite (setRbit_kept _ _ _ _ p5) (refSwitch_kept _ _ p5))

theorem preferWrite_kept{b : State} : ∀ x0 x1, Kept b x0 → Kept b (preferWrite x0 x1) := by
  intro x0 x1 h0
  unfold preferWrite
  extract_lets +onlyGivenNames v0
  have p1 : Kept b v0 := by
    unfold v0
    exact writeReg_kept _ _ _ h0
  clear_value v0
  extract_lets +onlyGivenNames v2
  clear_value v2
  extract_lets +onlyGivenNames v3
  clear_value v3
  exact kept_ite (refSwitch_kept _ _ p1) p1

theorem execRefclkPreferWrite_kept{b : State} : ∀ x0 x1 x2, Kept b x2 → KeptO b (execRefclkPreferWrite x0 x1 x2) := by
  intro x0 x1 x2 h2
  unfold execRefclkPreferWrite
  exact adminCmd_kept _ _ _ _ h2 (fun y0 k1 => preferWrite_kept _ _ k1)

theorem saleyBack_kept{b : State} : ∀ x0, Kept b x0 → Kept b (saleyBack x0) := by
  intro x0 h0
  unfold saleyBack
  exact kept_ite (kept_foldl (fun f0 i0 p0 => releaseEv_kept _ _ p0) _ (kept_mk (kept_eta h0))) h0

theorem setSaleyLink_kept{b : State} : ∀ x0 x1 x2, Kept b x0 → Kept b (setSaleyLink x0 x1 x2) := by
  intro x0 x1 x2 h0
  unfold setSaleyLink
  exact setRbit_kept _ _ _ _ h0

theorem quietCores_kept{b : State} : ∀ x0 x1, Kept b x0 → Kept b (quietCores x0 x1) := by
  intro x0 x1 h0
  unfold quietCores
  exact kept_mk (kept_eta h0)

theorem endRest_kept{b : State} : ∀ x0 x1 x2, Kept b x0 → Kept b (endRest x0 x1 x2) := by
  intro x0 x1 x2 h0
  unfold endRest
  split
  · exact h0
  · extract_lets +onlyGivenNames v5
    have p6 : Kept b v5 := by
      unfold v5
      exact kept_foldl (fun f7 i7 p7 => kept_ite (gatherCore_kept _ _ p7) p7) _ h0
    clear_value v5
    split
    · exact p6
    · split
      exact finishRaw_kept _ _ _ _ _ _ p6

theorem endWork_kept{b : State} : ∀ x0 x1 x2, Kept b x0 → Kept b (endWork x0 x1 x2) := by
  intro x0 x1 x2 h0
  unfold endWork
  extract_lets +onlyGivenNames v0
  have p1 : Kept b v0 := by
    unfold v0
    exact kept_ite (kept_foldl (fun f2 i2 p2 => closeRing_kept _ _ _ _ _ _ p2) _ h0) (stopOps_kept _ _ _ _ h0)
  clear_value v0
  extract_lets +onlyGivenNames v3
  have p4 : Kept b v3 := by
    unfold v3
    exact quietCores_kept _ _ p1
  clear_value v3
  extract_lets +onlyGivenNames v5
  have p6 : Kept b v5 := by
    unfold v5
    exact kept_ite (kept_foldl (fun f7 i7 p7 => completeKernel_kept _ _ _ p7) _ p4) p4
  clear_value v5
  exact kept_foldl (fun f8 i8 p8 => endRest_kept _ _ _ p8) _ p6

theorem cutHub_kept{b : State} : ∀ x0 x1, Kept b x0 → Kept b (cutHub x0 x1) := by
  intro x0 x1 h0
  unfold cutHub
  extract_lets +onlyGivenNames v0
  clear_value v0
  extract_lets +onlyGivenNames v1
  have p2 : Kept b v1 := by
    unfold v1
    refine kept_foldl (fun f3 i3 p3 => ?_) _ ?_
    · extract_lets +onlyGivenNames v4
      have p5 : Kept b v4 := by
        unfold v4
        exact discardRdc_kept _ _ _ p3
      clear_value v4
      exact kept_ite (egressDown_kept _ _ _ (setRbit_kept _ _ _ _ p5)) p5
    · exact h0
  clear_value v1
  extract_lets +onlyGivenNames v6
  clear_value v6
  exact kept_mk (kept_eta p2)

theorem resetBlock_kept{b : State} : ∀ x0 x1, Kept b x0 → Kept b (resetBlock x0 x1) := by
  intro x0 x1 h0
  unfold resetBlock
  extract_lets +onlyGivenNames v0
  have p1 : Kept b v0 := by
    unfold v0
    exact kept_mk (keptF_regFilter _ (kept_eta h0))
  clear_value v0
  exact setReg_kept _ _ _ p1

theorem clearLeaves_kept{b : State} : ∀ x0 x1, Kept b x0 → Kept b (clearLeaves x0 x1) := by
  intro x0 x1 h0
  unfold clearLeaves
  refine kept_foldl (fun f0 i0 p0 => ?_) _ ?_
  · extract_lets +onlyGivenNames v1
    clear_value v1
    extract_lets +onlyGivenNames v2
    clear_value v2
    exact kept_foldl (fun f3 i3 p3 => setRbit_kept _ _ _ _ p3) _ p0
  · exact h0

theorem setValid_kept{b : State} : ∀ x0 x1 x2, Kept b x0 → Kept b (setValid x0 x1 x2) := by
  intro x0 x1 x2 h0
  unfold setValid
  exact kept_ite h0 (capChange_kept _ _ _ (setRbit_kept _ _ _ _ h0))

theorem wipePart_kept{b : State} : ∀ x0 x1, Kept b x0 → Kept b (wipePart x0 x1) := by
  intro x0 x1 h0
  unfold wipePart
  extract_lets +onlyGivenNames v0
  clear_value v0
  extract_lets +onlyGivenNames v1
  have p2 : Kept b v1 := by
    unfold v1
    exact clearLeaves_kept _ _ h0
  clear_value v1
  extract_lets +onlyGivenNames v3
  have p4 : Kept b v3 := by
    unfold v3
    exact kept_foldl (fun f5 i5 p5 => setStack_kept _ _ _ (dropStack_kept _ _ p5)) _ p2
  clear_value v3
  extract_lets +onlyGivenNames v6
  have p7 : Kept b v6 := by
    unfold v6
    exact setHub_kept _ _ _ p4
  clear_value v6
  extract_lets +onlyGivenNames v8
  have p9 : Kept b v8 := by
    unfold v8
    exact kept_foldl (fun f10 i10 p10 => countRings_kept _ _ p10) _ p7
  clear_value v8
  extract_lets +onlyGivenNames v11
  clear_value v11
  exact resetBlock_kept _ _ (kept_mk (keptF_filter _ (kept_eta p9)))

theorem holdPart_kept{b : State} : ∀ x0 x1 x2, Kept b x0 → Kept b (holdPart x0 x1 x2) := by
  intro x0 x1 x2 h0
  unfold holdPart
  exact kept_ite h0 (leaf_kept _ _ _ (kept_mk (kept_eta h0)))

theorem partitionDown_kept{b : State} : ∀ x0 x1 x2 x3, Kept b x0 → Kept b (partitionDown x0 x1 x2 x3) := by
  intro x0 x1 x2 x3 h0
  unfold partitionDown
  extract_lets +onlyGivenNames v0
  have p1 : Kept b v0 := by
    unfold v0
    exact endWork_kept _ _ _ h0
  clear_value v0
  extract_lets +onlyGivenNames v2
  have p3 : Kept b v2 := by
    unfold v2
    exact setRbit_kept _ _ _ _ (kept_mk (kept_eta p1))
  clear_value v2
  extract_lets +onlyGivenNames v4
  have p5 : Kept b v4 := by
    unfold v4
    exact kept_foldl (fun f6 i6 p6 => kept_ite (treeBreak_kept _ _ p6) p6) _ p3
  clear_value v4
  extract_lets +onlyGivenNames v7
  have p8 : Kept b v7 := by
    unfold v7
    exact wipePart_kept _ _ (cutHub_kept _ _ p5)
  clear_value v7
  extract_lets +onlyGivenNames v9
  have p10 : Kept b v9 := by
    unfold v9
    exact kept_foldl (fun f11 i11 p11 => setValid_kept _ _ _ p11) _ p8
  clear_value v9
  extract_lets +onlyGivenNames v12
  have p13 : Kept b v12 := by
    unfold v12
    exact epochLeave_kept _ _ p10
  clear_value v12
  exact health_kept _ (kept_ite p13 (leaf_kept _ _ _ p13))

theorem identEvent_kept{b : State} : ∀ x0 x1, Kept b x0 → Kept b (identEvent x0 x1) := by
  intro x0 x1 h0
  unfold identEvent
  exact emit_kept _ _ _ _ h0

theorem partIdents_kept{b : State} : ∀ x0 x1, Kept b x0 → Kept b (partIdents x0 x1).2 := by
  intro x0 x1 h0
  unfold partIdents
  extract_lets +onlyGivenNames v0
  clear_value v0
  exact kept_foldl (fun f1 i1 p1 => identEvent_kept _ _ p1) _ h0

theorem trainStack_kept{b : State} : ∀ x0 x1 x2 x3, Kept b x0 → Kept b (trainStack x0 x1 x2 x3) := by
  intro x0 x1 x2 x3 h0
  unfold trainStack
  extract_lets +onlyGivenNames v0
  clear_value v0
  extract_lets +onlyGivenNames v1
  clear_value v1
  extract_lets +onlyGivenNames v2
  clear_value v2
  extract_lets +onlyGivenNames v3
  have p4 : Kept b v3 := by
    unfold v3
    exact kept_foldl (fun f5 i5 p5 => emit_kept _ _ _ _ p5) _ h0
  clear_value v3
  exact setReg_kept _ _ _ (kept_mk (kept_eta p4))

theorem trainPart_kept{b : State} : ∀ x0 x1 x2, Kept b x0 → Kept b (trainPart x0 x1 x2).2 := by
  intro x0 x1 x2 h0
  unfold trainPart
  extract_lets +onlyGivenNames v0
  have p1 : Kept b v0 := by
    unfold v0
    exact kept_foldl (fun f2 i2 p2 => trainStack_kept _ _ _ _ p2) _ h0
  clear_value v0
  extract_lets +onlyGivenNames v3
  clear_value v3
  dsimp only
  exact setReg_kept _ _ _ p1

theorem checkReady_kept{b : State} : ∀ x0, Kept b x0 → Kept b (checkReady x0) := by
  intro x0 h0
  unfold checkReady
  extract_lets +onlyGivenNames v0
  clear_value v0
  exact kept_ite h0 (setRfld_kept _ _ _ _ _ (setRbit_kept _ _ _ _ h0))

theorem partitionUp_kept{b : State} : ∀ x0 x1, Kept b x0 → Kept b (partitionUp x0 x1) := by
  intro x0 x1 h0
  unfold partitionUp
  extract_lets +onlyGivenNames v0
  have p1 : Kept b v0 := by
    unfold v0
    exact setRbit_kept _ _ _ _ (kept_mk (kept_eta h0))
  clear_value v0
  extract_lets +onlyGivenNames v2
  have p3 : Kept b v2 := by
    unfold v2
    exact kept_foldl (fun f4 i4 p4 => kept_ite (setRbit_kept _ _ _ _ (setRbit_kept _ _ _ _ p4)) p4) _ p1
  clear_value v2
  extract_lets +onlyGivenNames v5
  have p6 : Kept b v5 := by
    unfold v5
    exact kept_foldl (fun f7 i7 p7 => kept_ite (setRbit_kept _ _ _ _ p7) p7) _ p3
  clear_value v5
  extract_lets +onlyGivenNames v8
  have p9 : Kept b v8 := by
    unfold v8
    exact kept_ite (setSaleyLink_kept _ _ _ p6) p6
  clear_value v8
  extract_lets +onlyGivenNames v10
  have p11 : Kept b v10 := by
    unfold v10
    exact kept_ite p9 (kept_foldl (fun f12 i12 p12 => moveOp_kept _ _ _ p12) _ p9)
  clear_value v10
  exact checkReady_kept _ (health_kept _ (saleyBack_kept _ p11))

theorem rstResult_kept{b : State} : ∀ x0 x1, Kept b x0 → Kept b (rstResult x0 x1) := by
  intro x0 x1 h0
  unfold rstResult
  exact setRfld_kept _ _ _ _ _ h0

theorem rstFields_kept{b : State} : ∀ x0 x1, Kept b x0 → Kept b (rstFields x0 x1) := by
  intro x0 x1 h0
  unfold rstFields
  exact setReg_kept _ _ _ h0

theorem resetStart_kept{b : State} : ∀ x0 x1 x2, Kept b x0 → Kept b (resetStart x0 x1 x2) := by
  intro x0 x1 x2 h0
  unfold resetStart
  exact kept_ite (rstResult_kept _ _ h0) (kept_ite (writeRefused_kept _ _ _ (rstResult_kept _ _ h0)) (partIdents_kept _ _ (partitionDown_kept _ _ _ _ (setRbit_kept _ _ _ _ h0))))

theorem resetEnds_kept{b : State} : ∀ x0 x1 x2, Kept b x0 → Kept b (resetEnds x0 x1 x2) := by
  intro x0 x1 x2 h0
  unfold resetEnds
  exact kept_ite (setRbit_kept _ _ _ _ (rstResult_kept _ _ h0)) h0

theorem resetDone_kept{b : State} : ∀ x0 x1 x2, Kept b x0 → Kept b (resetDone x0 x1 x2) := by
  intro x0 x1 x2 h0
  unfold resetDone
  extract_lets +onlyGivenNames v0
  clear_value v0
  extract_lets +onlyGivenNames v1
  have p2 : ∀ y2000 y2001, Kept b y2000 → Kept b (v1 y2000 y2001) := by
    unfold v1
    exact fun y3 y4 k5 => health_kept _ (resetEnds_kept _ _ _ (leaf_kept _ _ _ (kept_mk (kept_eta k5))))
  clear_value v1
  refine kept_ite ?_ ?_
  · exact p2 _ _ h0
  · split
    rename_i z9
    extract_lets +onlyGivenNames v10
    have p11 : Kept b v10 := by
      unfold v10
      exact kept_foldl (fun f12 i12 p12 => capChange_kept _ _ _ p12) _ (kept_of_eq_2 z9 (trainPart_kept _ _ _ h0))
    clear_value v10
    refine kept_ite ?_ ?_
    · exact p2 _ _ p11
    · extract_lets +onlyGivenNames v13
      have p14 : Kept b v13 := by
        unfold v13
        exact kept_foldl (fun f15 i15 p15 => setValid_kept _ _ _ p15) _ p11
      clear_value v13
      exact resetEnds_kept _ _ _ (leaf_kept _ _ _ (hubReturns_kept _ _ (partitionUp_kept _ _ p14)))

theorem execPartitionResetDone_kept{b : State} : ∀ x0 x1 x2, Kept b x2 → KeptO b (execPartitionResetDone x0 x1 x2) := by
  intro x0 x1 x2 h2
  unfold execPartitionResetDone
  exact guardWf_kept _ _ (keptO_next (kept_ite h2 (resetDone_kept _ _ _ h2)))

theorem execPartitionReady_kept{b : State} : ∀ x0 x1, Kept b x1 → KeptO b (execPartitionReady x0 x1) := by
  intro x0 x1 h1
  unfold execPartitionReady
  exact guardWf_kept _ _ (keptO_next (kept_ite h1 (partitionUp_kept _ _ h1)))

theorem linkLost_kept{b : State} : ∀ x0 x1, Kept b x0 → Kept b (linkLost x0 x1) := by
  intro x0 x1 h0
  unfold linkLost
  refine kept_ite ?_ ?_
  · extract_lets +onlyGivenNames v0
    clear_value v0
    exact kept_ite (partitionDown_kept _ _ _ _ h0) (kept_ite h0 (holdPart_kept _ _ _ h0))
  · exact kept_ite (hubLinkDown_kept _ _ _ h0) (kept_ite (optLinkDown_kept _ _ _ h0) (setSaleyLink_kept _ _ _ h0))

theorem execUcieModuleRetrain_kept{b : State} : ∀ x0 x1 x2 x3 x4, Kept b x4 → KeptO b (execUcieModuleRetrain x0 x1 x2 x3 x4) := by
  intro x0 x1 x2 x3 x4 h4
  unfold execUcieModuleRetrain
  refine guardWf_kept _ _ ?_
  refine keptO_next ?_
  extract_lets +onlyGivenNames v0
  clear_value v0
  refine kept_ite ?_ ?_
  · exact h4
  · extract_lets +onlyGivenNames v1
    have p2 : Kept b v1 := by
      unfold v1
      exact kept_mk (kept_eta h4)
    clear_value v1
    extract_lets +onlyGivenNames v3
    have p4 : Kept b v3 := by
      unfold v3
      exact emit_kept _ _ _ _ p2
    clear_value v3
    exact health_kept _ (kept_ite (linkLost_kept _ _ p4) p4)

theorem execPartUnreachable_kept{b : State} : ∀ x0 x1 x2 x3 x4, Kept b x4 → KeptO b (execPartUnreachable x0 x1 x2 x3 x4) := by
  intro x0 x1 x2 x3 x4 h4
  unfold execPartUnreachable
  exact guardWf_kept _ _ (keptO_next (kept_ite h4 (kept_ite (writeRefused_kept _ _ _ h4) (kept_ite (noteUnreach_kept _ _ _ _ _ h4) h4))))

theorem setLocked_kept{b : State} : ∀ x0 x1, Kept b x0 → Kept b (setLocked x0 x1) := by
  intro x0 x1 h0
  unfold setLocked
  extract_lets +onlyGivenNames v0
  clear_value v0
  extract_lets +onlyGivenNames v1
  have p2 : Kept b v1 := by
    unfold v1
    exact setRbit_kept _ _ _ _ h0
  clear_value v1
  extract_lets +onlyGivenNames v3
  have p4 : Kept b v3 := by
    unfold v3
    exact kept_ite (setRbit_kept _ _ _ _ p2) p2
  clear_value v3
  exact kept_ite (leaf_kept _ _ _ p4) p4

theorem align_kept{b : State} : ∀ x0 x1, Kept b x0 → Kept b (align x0 x1) := by
  intro x0 x1 h0
  unfold align
  extract_lets +onlyGivenNames v0
  clear_value v0
  extract_lets +onlyGivenNames v1
  have p2 : Kept b v1 := by
    unfold v1
    exact setRfld_kept _ _ _ _ _ (kept_mk (kept_eta h0))
  clear_value v1
  extract_lets +onlyGivenNames v3
  clear_value v3
  refine kept_ite ?_ ?_
  · extract_lets +onlyGivenNames v4
    have p5 : Kept b v4 := by
      unfold v4
      exact kept_mk (kept_eta p2)
    clear_value v4
    extract_lets +onlyGivenNames v6
    have p7 : Kept b v6 := by
      unfold v6
      exact kept_mk (kept_eta p5)
    clear_value v6
    exact setLocked_kept _ _ (emit_kept _ _ _ _ p7)
  · extract_lets +onlyGivenNames v8
    clear_value v8
    extract_lets +onlyGivenNames v9
    have p10 : Kept b v9 := by
      unfold v9
      exact kept_ite (leaf_kept _ _ _ (emit_kept _ _ _ _ (setRbit_kept _ _ _ _ p2))) p2
    clear_value v9
    exact setLocked_kept _ _ (kept_mk (kept_eta p10))

theorem takeSync_kept{b : State} : ∀ x0 x1, Kept b x0 → Kept b (takeSync x0 x1) := by
  intro x0 x1 h0
  unfold takeSync
  refine kept_ite ?_ ?_
  · exact h0
  · extract_lets +onlyGivenNames v0
    clear_value v0
    extract_lets +onlyGivenNames v1
    clear_value v1
    extract_lets +onlyGivenNames v2
    clear_value v2
    extract_lets +onlyGivenNames v3
    clear_value v3
    extract_lets +onlyGivenNames v4
    clear_value v4
    extract_lets +onlyGivenNames v5
    extract_lets +onlyGivenNames v6
    clear_value v6
    extract_lets +onlyGivenNames v7
    clear_value v7
    extract_lets +onlyGivenNames v8
    clear_value v8
    extract_lets +onlyGivenNames v9
    clear_value v9
    extract_lets +onlyGivenNames v10
    have p11 : Kept b v10 := by
      unfold v10
      exact setEng_kept _ _ _ h0
    clear_value v10
    extract_lets +onlyGivenNames v12
    have p13 : Kept b v12 := by
      unfold v12
      exact setRfld_kept _ _ _ _ _ p11
    clear_value v12
    extract_lets +onlyGivenNames v14
    have p15 : Kept b v14 := by
      unfold v14
      split
      · exact emit_kept _ _ _ _ p13
      · exact p13
    clear_value v14
    refine kept_ite ?_ ?_
    · exact p15
    · split
      · exact kept_ite (align_kept _ _ p15) p15
      · exact p15

theorem execTsSync_kept{b : State} : ∀ x0 x1, Kept b x1 → KeptO b (execTsSync x0 x1) := by
  intro x0 x1 h1
  unfold execTsSync
  exact guardWf_kept _ _ (keptO_next (takeSync_kept _ _ h1))

theorem execTbLockLoss_kept{b : State} : ∀ x0, Kept b x0 → KeptO b (execTbLockLoss x0) := by
  intro x0 h0
  unfold execTbLockLoss
  refine keptO_next ?_
  refine kept_ite ?_ ?_
  · exact h0
  · extract_lets +onlyGivenNames v0
    have p1 : Kept b v0 := by
      unfold v0
      exact kept_mk (kept_eta h0)
    clear_value v0
    extract_lets +onlyGivenNames v2
    clear_value v2
    exact setLocked_kept _ _ (kept_mk (kept_eta p1))

theorem tickTime_kept{b : State} : ∀ x0, Kept b x0 → Kept b (tickTime x0) := by
  intro x0 h0
  unfold tickTime
  extract_lets +onlyGivenNames v0
  clear_value v0
  extract_lets +onlyGivenNames v1
  clear_value v1
  extract_lets +onlyGivenNames v2
  clear_value v2
  exact kept_mk (kept_eta h0)

theorem annDue_kept{b : State} : ∀ x0 x1, Kept b x0 → Kept b (annDue x0 x1) := by
  intro x0 x1 h0
  unfold annDue
  extract_lets +onlyGivenNames v0
  clear_value v0
  split
  · exact kept_ite h0 (kept_ite (peerGone_kept _ _ h0) (setEng_kept _ _ _ h0))
  · exact h0

theorem sentFar_kept{b : State} : ∀ x0, Kept b x0 → Kept b (sentFar x0) := by
  intro x0 h0
  unfold sentFar
  exact kept_mk (kept_eta h0)

theorem tick_kept{b : State} : ∀ x0, Kept b x0 → Kept b (tick x0) := by
  intro x0 h0
  unfold tick
  refine kept_ite ?_ ?_
  · exact h0
  · extract_lets +onlyGivenNames v0
    have p1 : Kept b v0 := by
      unfold v0
      exact kept_ite (tickTime_kept _ h0) h0
    clear_value v0
    extract_lets +onlyGivenNames v2
    have p3 : Kept b v2 := by
      unfold v2
      exact gpTick_kept _ (sentFar_kept _ (brDrain_kept _ p1))
    clear_value v2
    extract_lets +onlyGivenNames v4
    have p5 : Kept b v4 := by
      unfold v4
      exact kept_foldl (fun f6 i6 p6 => lineTick_kept _ _ (engSend_kept _ _ (sparelessDue_kept _ _ (annDue_kept _ _ p6)))) _ p3
    clear_value v4
    exact collResume_kept _ p5

theorem tapLoad_kept{b : State} : ∀ x0 x1, Kept b x0 → Kept b (tapLoad x0 x1) := by
  intro x0 x1 h0
  unfold tapLoad
  exact kept_ite (kept_mk (kept_eta h0)) h0

theorem execTapReset_kept{b : State} : ∀ x0, Kept b x0 → KeptO b (execTapReset x0) := by
  intro x0 h0
  unfold execTapReset
  exact keptO_next (tapLoad_kept _ _ h0)

theorem execExtest_kept{b : State} : ∀ x0 x1, Kept b x1 → KeptO b (execExtest x0 x1) := by
  intro x0 x1 h1
  unfold execExtest
  exact keptO_next (kept_ite h1 (kept_ite (kept_mk (kept_eta h1)) (tapLoad_kept _ _ h1)))

theorem execIdcode_kept{b : State} : ∀ x0, Kept b x0 → KeptO b (execIdcode x0) := by
  intro x0 h0
  unfold execIdcode
  exact keptO_next (tapLoad_kept _ _ h0)

theorem execSamplePreload_kept{b : State} : ∀ x0 x1, Kept b x1 → KeptO b (execSamplePreload x0 x1) := by
  intro x0 x1 h1
  unfold execSamplePreload
  exact keptO_next (kept_ite (kept_mk (kept_eta h1)) h1)

theorem execBypass_kept{b : State} : ∀ x0, Kept b x0 → KeptO b (execBypass x0) := by
  intro x0 h0
  unfold execBypass
  exact keptO_next (tapLoad_kept _ _ h0)

theorem dbgClear_kept{b : State} : ∀ x0, Kept b x0 → Kept b (dbgClear x0) := by
  intro x0 h0
  unfold dbgClear
  exact kept_mk (kept_eta h0)

theorem dbgCtlSet_kept{b : State} : ∀ x0 x1, Kept b x0 → Kept b (dbgCtlSet x0 x1) := by
  intro x0 x1 h0
  unfold dbgCtlSet
  extract_lets +onlyGivenNames v0
  clear_value v0
  extract_lets +onlyGivenNames v1
  have p2 : Kept b v1 := by
    unfold v1
    exact writeReg_kept _ _ _ h0
  clear_value v1
  extract_lets +onlyGivenNames v3
  have p4 : Kept b v3 := by
    unfold v3
    exact setRbit_kept _ _ _ _ p2
  clear_value v3
  exact kept_ite (dbgClear_kept _ p4) p4

theorem execDbgCtlWrite_kept{b : State} : ∀ x0 x1 x2, Kept b x2 → KeptO b (execDbgCtlWrite x0 x1 x2) := by
  intro x0 x1 x2 h2
  unfold execDbgCtlWrite
  exact adminCmd_kept _ _ _ _ h2 (fun y0 k1 => dbgCtlSet_kept _ _ k1)

theorem dbgRun_kept{b : State} : ∀ x0 x1 x2, Kept b x1 → (∀ y0, Kept b y0 → Kept b (x2 y0).2) → KeptO b (dbgRun x0 x1 x2) := by
  intro x0 x1 x2 h1 h2
  unfold dbgRun
  refine guardWf_kept _ _ ?_
  refine keptO_next ?_
  refine kept_ite ?_ ?_
  · exact h1
  · split
    rename_i z3
    exact kept_mk (kept_eta (kept_of_eq_2 z3 (kept_ite_2 (h2 _ h1) h1)))

theorem dbgThread_kept{b : State} : ∀ x0 x1 x2 x3, Kept b x1 → (∀ y0 y1 y2, Kept b y0 → Kept b (x3 y0 y1 y2).2.2) → KeptO b (dbgThread x0 x1 x2 x3) := by
  intro x0 x1 x2 x3 h1 h3
  unfold dbgThread
  refine dbgRun_kept _ _ _ ?_ ?_
  · exact h1
  · intro y0 k1
    extract_lets +onlyGivenNames v2
    clear_value v2
    refine kept_ite_2 ?_ ?_
    · split
      rename_i z6
      extract_lets +onlyGivenNames v7
      clear_value v7
      exact kept_mk (keptF_free _ (kept_eta (kept_of_eq_2 z6 (remoteStatus_kept _ k1))))
    · refine kept_ite_2 ?_ ?_
      · exact k1
      · refine kept_ite_2 ?_ ?_
        · exact k1
        · extract_lets +onlyGivenNames v8
          clear_value v8
          extract_lets +onlyGivenNames v9
          clear_value v9
          refine kept_ite_2 ?_ ?_
          · exact k1
          · refine kept_ite_2 ?_ ?_
            · exact k1
            · split
              rename_i z14
              exact kept_of_eq_2_2 z14 (h3 _ _ _ k1)

theorem dbgSet_kept{b : State} : ∀ x0 x1 x2 x3, Kept b x1 → Kept b (dbgSet x0 x1 x2 x3).2.2 := by
  intro x0 x1 x2 x3 h1
  unfold dbgSet
  dsimp only
  exact setCore_kept _ _ _ h1

theorem execDbgHalt_kept{b : State} : ∀ x0 x1, Kept b x1 → KeptO b (execDbgHalt x0 x1) := by
  intro x0 x1 h1
  unfold execDbgHalt
  exact dbgThread_kept _ _ _ _ h1 (fun y0 y1 y2 k3 => dbgSet_kept _ _ _ _ k3)

theorem execDbgResume_kept{b : State} : ∀ x0 x1, Kept b x1 → KeptO b (execDbgResume x0 x1) := by
  intro x0 x1 h1
  unfold execDbgResume
  exact dbgThread_kept _ _ _ _ h1 (fun y0 y1 y2 k3 => dbgSet_kept _ _ _ _ k3)

theorem execDbgStep_kept{b : State} : ∀ x0 x1, Kept b x1 → KeptO b (execDbgStep x0 x1) := by
  intro x0 x1 h1
  unfold execDbgStep
  exact dbgThread_kept _ _ _ _ h1 (fun y0 y1 y2 k3 => dbgSet_kept _ _ _ _ k3)

theorem execDbgRegRead_kept{b : State} : ∀ x0 x1, Kept b x1 → KeptO b (execDbgRegRead x0 x1) := by
  intro x0 x1 h1
  unfold execDbgRegRead
  refine dbgThread_kept _ _ _ _ ?_ ?_
  · exact h1
  · intro y0 y1 y2 k3
    extract_lets +onlyGivenNames v4
    clear_value v4
    extract_lets +onlyGivenNames v5
    clear_value v5
    exact kept_ite_2_2 k3 (kept_ite_2_2 k3 (kept_ite_2_2 k3 (kept_ite_2_2 k3 (kept_ite_2_2 k3 k3))))

theorem execDbgRegWrite_kept{b : State} : ∀ x0 x1, Kept b x1 → KeptO b (execDbgRegWrite x0 x1) := by
  intro x0 x1 h1
  unfold execDbgRegWrite
  refine dbgThread_kept _ _ _ _ ?_ ?_
  · exact h1
  · intro y0 y1 y2 k3
    extract_lets +onlyGivenNames v4
    clear_value v4
    extract_lets +onlyGivenNames v5
    clear_value v5
    refine kept_ite_2_2 ?_ ?_
    · exact k3
    · refine kept_ite_2_2 ?_ ?_
      · exact dbgSet_kept _ _ _ _ k3
      · refine kept_ite_2_2 ?_ ?_
        · exact dbgSet_kept _ _ _ _ k3
        · refine kept_ite_2_2 ?_ ?_
          · exact dbgSet_kept _ _ _ _ k3
          · refine kept_ite_2_2 ?_ ?_
            · exact k3
            · dsimp only
              exact setCore_kept _ _ _ k3

theorem execDbgLsRead_kept{b : State} : ∀ x0 x1, Kept b x1 → KeptO b (execDbgLsRead x0 x1) := by
  intro x0 x1 h1
  unfold execDbgLsRead
  exact dbgThread_kept _ _ _ _ h1 (fun y0 y1 y2 k3 => k3)

theorem execDbgLsWrite_kept{b : State} : ∀ x0 x1, Kept b x1 → KeptO b (execDbgLsWrite x0 x1) := by
  intro x0 x1 h1
  unfold execDbgLsWrite
  refine dbgThread_kept _ _ _ _ ?_ ?_
  · exact h1
  · intro y0 y1 y2 k3
    dsimp only
    exact setCore_kept _ _ _ k3

theorem execDbgBpSet_kept{b : State} : ∀ x0 x1, Kept b x1 → KeptO b (execDbgBpSet x0 x1) := by
  intro x0 x1 h1
  unfold execDbgBpSet
  refine dbgThread_kept _ _ _ _ ?_ ?_
  · exact h1
  · intro y0 y1 y2 k3
    dsimp only
    exact setCore_kept _ _ _ k3

theorem execDbgBpClr_kept{b : State} : ∀ x0 x1, Kept b x1 → KeptO b (execDbgBpClr x0 x1) := by
  intro x0 x1 h1
  unfold execDbgBpClr
  refine dbgThread_kept _ _ _ _ ?_ ?_
  · exact h1
  · intro y0 y1 y2 k3
    dsimp only
    exact setCore_kept _ _ _ k3

theorem execDbgWpSet_kept{b : State} : ∀ x0 x1, Kept b x1 → KeptO b (execDbgWpSet x0 x1) := by
  intro x0 x1 h1
  unfold execDbgWpSet
  refine dbgThread_kept _ _ _ _ ?_ ?_
  · exact h1
  · intro y0 y1 y2 k3
    extract_lets +onlyGivenNames v4
    clear_value v4
    extract_lets +onlyGivenNames v5
    clear_value v5
    extract_lets +onlyGivenNames v6
    clear_value v6
    refine kept_ite_2_2 ?_ ?_
    · exact k3
    · dsimp only
      exact setCore_kept _ _ _ k3

theorem execDbgWpClr_kept{b : State} : ∀ x0 x1, Kept b x1 → KeptO b (execDbgWpClr x0 x1) := by
  intro x0 x1 h1
  unfold execDbgWpClr
  refine dbgThread_kept _ _ _ _ ?_ ?_
  · exact h1
  · intro y0 y1 y2 k3
    dsimp only
    exact setCore_kept _ _ _ k3

theorem execDbgStatus_kept{b : State} : ∀ x0 x1, Kept b x1 → KeptO b (execDbgStatus x0 x1) := by
  intro x0 x1 h1
  unfold execDbgStatus
  exact dbgThread_kept _ _ _ _ h1 (fun y0 y1 y2 k3 => k3)

theorem execDbgAddr_kept{b : State} : ∀ x0 x1, Kept b x1 → KeptO b (execDbgAddr x0 x1) := by
  intro x0 x1 h1
  unfold execDbgAddr
  exact dbgRun_kept _ _ _ h1 (fun y0 k1 => kept_mk (kept_eta k1))

theorem execDbgMemRead_kept{b : State} : ∀ x0 x1, Kept b x1 → KeptO b (execDbgMemRead x0 x1) := by
  intro x0 x1 h1
  unfold execDbgMemRead
  refine keptO_ite ?_ ?_
  · exact keptO_next h1
  · refine dbgRun_kept _ _ _ ?_ ?_
    · exact h1
    · intro y0 k1
      extract_lets +onlyGivenNames v2
      clear_value v2
      extract_lets +onlyGivenNames v3
      clear_value v3
      refine kept_ite_2 ?_ ?_
      · exact k1
      · split
        · split
          rename_i z13
          exact kept_of_eq_2_2 z13 (windowLoad_kept _ _ _ _ _ _ _ k1)
        · split
          rename_i z23
          exact kept_of_eq_2_2_2 z23 (counterLoad_kept _ _ _ _ k1)
        · split
          rename_i z32
          exact kept_of_eq_2_2_2 z32 (lineRead_kept _ _ _ k1)

theorem execDbgMemWrite_kept{b : State} : ∀ x0 x1, Kept b x1 → KeptO b (execDbgMemWrite x0 x1) := by
  intro x0 x1 h1
  unfold execDbgMemWrite
  refine keptO_ite ?_ ?_
  · exact keptO_next h1
  · refine dbgRun_kept _ _ _ ?_ ?_
    · exact h1
    · intro y0 k1
      extract_lets +onlyGivenNames v2
      clear_value v2
      extract_lets +onlyGivenNames v3
      clear_value v3
      refine kept_ite_2 ?_ ?_
      · exact k1
      · split
        · split
          rename_i z12
          exact kept_of_eq_2 z12 (windowStore_kept _ _ _ _ _ _ _ _ k1)
        · split
          rename_i z21
          exact kept_of_eq_2_2 z21 (counterStore_kept _ _ _ _ _ k1)
        · split
          rename_i z29
          exact kept_of_eq_2_2 z29 (lineWrite_kept _ _ _ _ _ k1)

theorem setImage_kept{b : State} : ∀ x0 x1 x2, Kept b x0 → Kept b (setImage x0 x1 x2) := by
  intro x0 x1 x2 h0
  unfold setImage
  exact kept_ite (kept_mk (kept_eta h0)) (kept_mk (kept_eta h0))

theorem fwShow_kept{b : State} : ∀ x0, Kept b x0 → Kept b (fwShow x0) := by
  intro x0 h0
  unfold fwShow
  exact setRfld_kept _ _ _ _ _ h0

theorem fwCheck_kept{b : State} : ∀ x0, Kept b x0 → Kept b (fwCheck x0) := by
  intro x0 h0
  unfold fwCheck
  exact setRbit_kept _ _ _ _ (setRbit_kept _ _ _ _ h0)

theorem fwEnd_kept{b : State} : ∀ x0 x1, Kept b x0 → Kept b (fwEnd x0 x1) := by
  intro x0 x1 h0
  unfold fwEnd
  exact leaf_kept _ _ _ (setRbit_kept _ _ _ _ (setRfld_kept _ _ _ _ _ h0))

theorem stageGo_kept{b : State} : ∀ x0, Kept b x0 → Kept b (stageGo x0) := by
  intro x0 h0
  unfold stageGo
  exact setRfld_kept _ _ _ _ _ (setRbit_kept _ _ _ _ (setImage_kept _ _ _ h0))

theorem execFwStageDone_kept{b : State} : ∀ x0 x1, Kept b x1 → KeptO b (execFwStageDone x0 x1) := by
  intro x0 x1 h1
  unfold execFwStageDone
  refine keptO_next ?_
  refine kept_ite ?_ ?_
  · exact h1
  · extract_lets +onlyGivenNames v0
    have p1 : Kept b v0 := by
      unfold v0
      exact setImage_kept _ _ _ h1
    clear_value v0
    extract_lets +onlyGivenNames v2
    clear_value v2
    exact health_kept _ (fwEnd_kept _ _ (fwShow_kept _ (fwCheck_kept _ p1)))

theorem restartBegin_kept{b : State} : ∀ x0 x1 x2, Kept b x0 → Kept b (restartBegin x0 x1 x2) := by
  intro x0 x1 x2 h0
  unfold restartBegin
  extract_lets +onlyGivenNames v0
  clear_value v0
  extract_lets +onlyGivenNames v1
  have p2 : Kept b v1 := by
    unfold v1
    exact kept_mk (kept_eta h0)
  clear_value v1
  extract_lets +onlyGivenNames v3
  have p4 : Kept b v3 := by
    unfold v3
    split
    · exact kept_ite (stopOps_kept _ _ _ _ p2) p2
    · exact p2
  clear_value v3
  exact kept_ite (abortEpoch_kept _ _ _ p4) p4

theorem activateGo_kept{b : State} : ∀ x0, Kept b x0 → Kept b (activateGo x0) := by
  intro x0 h0
  unfold activateGo
  extract_lets +onlyGivenNames v0
  clear_value v0
  exact kept_ite (fwEnd_kept _ _ h0) (restartBegin_kept _ _ _ (setRbit_kept _ _ _ _ h0))

theorem commitGo_kept{b : State} : ∀ x0, Kept b x0 → Kept b (commitGo x0) := by
  intro x0 h0
  unfold commitGo
  refine kept_ite ?_ ?_
  · exact fwEnd_kept _ _ h0
  · extract_lets +onlyGivenNames v0
    clear_value v0
    extract_lets +onlyGivenNames v1
    clear_value v1
    extract_lets +onlyGivenNames v2
    have p3 : Kept b v2 := by
      unfold v2
      exact kept_mk (kept_eta h0)
    clear_value v2
    exact fwEnd_kept _ _ (fwShow_kept _ (setRfld_kept _ _ _ _ _ p3))

theorem fwCmdWrite_kept{b : State} : ∀ x0 x1, Kept b x0 → Kept b (fwCmdWrite x0 x1) := by
  intro x0 x1 h0
  unfold fwCmdWrite
  refine kept_ite ?_ ?_
  · exact h0
  · extract_lets +onlyGivenNames v0
    have p1 : Kept b v0 := by
      unfold v0
      exact setRfld_kept _ _ _ _ _ h0
    clear_value v0
    refine kept_ite ?_ ?_
    · exact p1
    · split
      · exact stageGo_kept _ p1
      · exact activateGo_kept _ p1
      · exact commitGo_kept _ p1
      · exact restartBegin_kept _ _ _ (setRbit_kept _ _ _ _ p1)
      · exact fwEnd_kept _ _ p1

theorem fwCmd_kept{b : State} : ∀ x0 x1 x2, Kept b x2 → KeptO b (fwCmd x0 x1 x2) := by
  intro x0 x1 x2 h2
  unfold fwCmd
  exact adminCmd_kept _ _ _ _ h2 (fun y0 k1 => fwCmdWrite_kept _ _ k1)

theorem execFwStage_kept{b : State} : ∀ x0 x1 x2, Kept b x2 → KeptO b (execFwStage x0 x1 x2) := by
  intro x0 x1 x2 h2
  unfold execFwStage
  exact fwCmd_kept _ _ _ h2

theorem execFwActivate_kept{b : State} : ∀ x0 x1 x2, Kept b x2 → KeptO b (execFwActivate x0 x1 x2) := by
  intro x0 x1 x2 h2
  unfold execFwActivate
  exact fwCmd_kept _ _ _ h2

theorem execFwCommit_kept{b : State} : ∀ x0 x1 x2, Kept b x2 → KeptO b (execFwCommit x0 x1 x2) := by
  intro x0 x1 x2 h2
  unfold execFwCommit
  exact fwCmd_kept _ _ _ h2

theorem execFwRevert_kept{b : State} : ∀ x0 x1 x2, Kept b x2 → KeptO b (execFwRevert x0 x1 x2) := by
  intro x0 x1 x2 h2
  unfold execFwRevert
  exact fwCmd_kept _ _ _ h2

theorem execSaleyReattach_kept{b : State} : ∀ x0, Kept b x0 → KeptO b (execSaleyReattach x0) := by
  intro x0 h0
  unfold execSaleyReattach
  refine keptO_next ?_
  extract_lets +onlyGivenNames v0
  clear_value v0
  refine kept_ite ?_ ?_
  · exact h0
  · extract_lets +onlyGivenNames v1
    clear_value v1
    extract_lets +onlyGivenNames v2
    have p3 : Kept b v2 := by
      unfold v2
      exact kept_mk (kept_eta h0)
    clear_value v2
    extract_lets +onlyGivenNames v4
    have p5 : Kept b v4 := by
      unfold v4
      exact setRfld_kept _ _ _ _ _ (setRfld_kept _ _ _ _ _ (fwShow_kept _ p3))
    clear_value v4
    extract_lets +onlyGivenNames v6
    have p7 : Kept b v6 := by
      unfold v6
      exact kept_ite (fwEnd_kept _ _ p5) p5
    clear_value v6
    extract_lets +onlyGivenNames v8
    have p9 : Kept b v8 := by
      unfold v8
      exact leaf_kept _ _ _ (emit_kept _ _ _ _ p7)
    clear_value v8
    exact beginTest_kept _ (saleyBack_kept _ p9)

theorem execMgmtWatchdog_kept{b : State} : ∀ x0, Kept b x0 → KeptO b (execMgmtWatchdog x0) := by
  intro x0 h0
  unfold execMgmtWatchdog
  refine keptO_next ?_
  refine kept_ite ?_ ?_
  · exact h0
  · extract_lets +onlyGivenNames v0
    clear_value v0
    extract_lets +onlyGivenNames v1
    clear_value v1
    exact kept_mk (kept_eta h0)

theorem execTrialTimeout_kept{b : State} : ∀ x0, Kept b x0 → KeptO b (execTrialTimeout x0) := by
  intro x0 h0
  unfold execTrialTimeout
  refine keptO_next ?_
  refine kept_ite ?_ ?_
  · exact h0
  · extract_lets +onlyGivenNames v0
    clear_value v0
    exact restartBegin_kept _ _ _ (kept_mk (kept_eta h0))

theorem showCal_kept{b : State} : ∀ x0 x1, Kept b x0 → Kept b (showCal x0 x1) := by
  intro x0 x1 h0
  unfold showCal
  exact setRfld_kept _ _ _ _ _ (setRfld_kept _ _ _ _ _ h0)

theorem execCalRecordWrite_kept{b : State} : ∀ x0, Kept b x0 → KeptO b (execCalRecordWrite x0) := by
  intro x0 h0
  unfold execCalRecordWrite
  refine keptO_next ?_
  refine kept_ite ?_ ?_
  · exact h0
  · extract_lets +onlyGivenNames v0
    clear_value v0
    extract_lets +onlyGivenNames v1
    clear_value v1
    refine kept_ite ?_ ?_
    · exact h0
    · refine kept_ite ?_ ?_
      · exact h0
      · split
        extract_lets +onlyGivenNames v6
        clear_value v6
        exact showCal_kept _ _ (kept_mk (kept_eta h0))

theorem tearCal_kept{b : State} : ∀ x0, Kept b x0 → Kept b (tearCal x0) := by
  intro x0 h0
  unfold tearCal
  refine kept_ite ?_ ?_
  · exact h0
  · split
    extract_lets +onlyGivenNames v4
    clear_value v4
    extract_lets +onlyGivenNames v5
    have p6 : Kept b v5 := by
      unfold v5
      exact kept_mk (keptF_free _ (kept_eta h0))
    clear_value v5
    exact kept_ite p6 (kept_ite (kept_mk (kept_eta p6)) (kept_mk (kept_eta p6)))

theorem takeMsg_kept{b : State} : ∀ x0 x1 x2, Kept b x1 → Kept b (takeMsg x0 x1 x2) := by
  intro x0 x1 x2 h1
  unfold takeMsg
  split
  · exact takeCredit_kept _ _ _ h1
  · exact kept_ite (takePower_kept _ _ _ h1) h1
  · exact takeSync_kept _ _ h1
  · exact kept_ite (takeAnn_kept _ _ _ _ h1) h1
  · exact takeChg_kept _ _ _ h1
  · exact takeMap_kept _ _ _ _ h1
  · exact takeCalReq_kept _ _ _ h1
  · exact takeId_kept _ _ _ h1

theorem upFlit_kept{b : State} : ∀ x0 x1 x2, Kept b x0 → Kept b (upFlit x0 x1 x2) := by
  intro x0 x1 x2 h0
  unfold upFlit
  refine kept_ite ?_ ?_
  · exact setNak_kept _ _ (mlxCount_kept _ _ _ _ h0)
  · extract_lets +onlyGivenNames v0
    clear_value v0
    extract_lets +onlyGivenNames v1
    have p2 : Kept b v1 := by
      unfold v1
      exact headerAck_kept _ _ _ h0
    clear_value v1
    split
    · exact p2
    · exact acceptData_kept _ _ _ _ p2
    · exact kept_foldl (fun f10 i10 p10 => takeMsg_kept _ _ _ p10) _ p2

theorem rxFlit_kept{b : State} : ∀ x0 x1 x2, Kept b x0 → Kept b (rxFlit x0 x1 x2) := by
  intro x0 x1 x2 h0
  unfold rxFlit
  extract_lets +onlyGivenNames v0
  clear_value v0
  refine kept_ite ?_ ?_
  · extract_lets +onlyGivenNames v1
    have p2 : Kept b v1 := by
      unfold v1
      exact kept_foldl (fun f3 i3 p3 => codeword_kept _ _ _ p3) _ h0
    clear_value v1
    exact kept_ite (upFlit_kept _ _ _ p2) p2
  · exact kept_ite (kept_ite (mlxCount_kept _ _ _ _ h0) (kept_ite (kept_foldl (fun f4 i4 p4 => takeMsg_kept _ _ _ p4) _ h0) h0)) h0

theorem execDataFlit_kept{b : State} : ∀ x0 x1 x2, Kept b x2 → KeptO b (execDataFlit x0 x1 x2) := by
  intro x0 x1 x2 h2
  unfold execDataFlit
  exact onEng_kept _ _ _ _ h2 (rxFlit_kept _ _ _ h2)

theorem execIdleFlit_kept{b : State} : ∀ x0 x1 x2, Kept b x2 → KeptO b (execIdleFlit x0 x1 x2) := by
  intro x0 x1 x2 h2
  unfold execIdleFlit
  exact onEng_kept _ _ _ _ h2 (rxFlit_kept _ _ _ h2)

theorem answer_kept{b : State} : ∀ x0 x1 x2, Kept b x0 → Kept b (answer x0 x1 x2) := by
  intro x0 x1 x2 h0
  unfold answer
  exact setHub_kept _ _ _ h0

theorem homeEcc_kept{b : State} : ∀ x0 x1 x2, Kept b x0 → Kept b (homeEcc x0 x1 x2) := by
  intro x0 x1 x2 h0
  unfold homeEcc
  split
  · exact foundCe_kept _ _ _ h0
  · exact foundUe_kept _ _ _ h0
  · exact h0

theorem hubReq_kept{b : State} : ∀ x0 x1 x2, Kept b x1 → Kept b x2 → KeptO b (hubReq x0 x1 x2) := by
  intro x0 x1 x2 h1 h2
  unfold hubReq
  exact guardWf_kept _ _ (keptO_next (kept_ite h1 h2))

theorem execHubLineRead_kept{b : State} : ∀ x0 x1 x2, Kept b x2 → KeptO b (execHubLineRead x0 x1 x2) := by
  intro x0 x1 x2 h2
  unfold execHubLineRead
  refine hubReq_kept _ _ _ ?_ ?_
  · exact h2
  · extract_lets +onlyGivenNames v0
    clear_value v0
    extract_lets +onlyGivenNames v1
    clear_value v1
    split
    · split
      rename_i z11
      exact answer_kept _ _ _ (kept_of_eq_2_2 z11 (windowLoad_kept _ _ _ _ _ _ _ h2))
    · split
      rename_i z21
      exact answer_kept _ _ _ (kept_of_eq_2_2_2 z21 (counterLoad_kept _ _ _ _ h2))
    · extract_lets +onlyGivenNames v25
      have p26 : Kept b v25 := by
        unfold v25
        exact kept_ite (homeEcc_kept _ _ _ h2) h2
      clear_value v25
      split
      rename_i z32
      exact answer_kept _ _ _ (kept_of_eq_2_2_2 z32 (lineRead_kept _ _ _ p26))

theorem execHubLineWrite_kept{b : State} : ∀ x0 x1 x2 x3, Kept b x3 → KeptO b (execHubLineWrite x0 x1 x2 x3) := by
  intro x0 x1 x2 x3 h3
  unfold execHubLineWrite
  refine hubReq_kept _ _ _ ?_ ?_
  · exact h3
  · extract_lets +onlyGivenNames v0
    clear_value v0
    extract_lets +onlyGivenNames v1
    clear_value v1
    extract_lets +onlyGivenNames v2
    clear_value v2
    split
    · split
      rename_i z11
      exact answer_kept _ _ _ (kept_of_eq_2 z11 (windowStore_kept _ _ _ _ _ _ _ _ h3))
    · split
      rename_i z18
      exact answer_kept _ _ _ (kept_of_eq_2_2 z18 (lineWrite_kept _ _ _ _ _ h3))

theorem execHubAtomic_kept{b : State} : ∀ x0 x1 x2 x3 x4, Kept b x4 → KeptO b (execHubAtomic x0 x1 x2 x3 x4) := by
  intro x0 x1 x2 x3 x4 h4
  unfold execHubAtomic
  refine guardWf_kept _ _ ?_
  refine hubReq_kept _ _ _ ?_ ?_
  · exact h4
  · split
    rename_i z5
    exact answer_kept _ _ _ (kept_of_eq_2_2_2 z5 (atomicAt_kept _ _ _ _ _ _ h4))

theorem execAccessDeniedWindowClose_kept{b : State} : ∀ x0 x1 x2, Kept b x2 → KeptO b (execAccessDeniedWindowClose x0 x1 x2) := by
  intro x0 x1 x2 h2
  unfold execAccessDeniedWindowClose
  refine guardWf_kept _ _ ?_
  refine keptO_next ?_
  extract_lets +onlyGivenNames v0
  clear_value v0
  split
  · exact h2
  · extract_lets +onlyGivenNames v6
    have p7 : Kept b v6 := by
      unfold v6
      exact setHub_kept _ _ _ h2
    clear_value v6
    extract_lets +onlyGivenNames v8
    have p9 : Kept b v8 := by
      unfold v8
      exact kept_mk (kept_eta p7)
    clear_value v8
    exact emitEv_kept _ _ p9

theorem tlbInvWrite_kept{b : State} : ∀ x0 x1 x2, Kept b x0 → Kept b (tlbInvWrite x0 x1 x2) := by
  intro x0 x1 x2 h0
  unfold tlbInvWrite
  refine kept_ite ?_ ?_
  · exact h0
  · extract_lets +onlyGivenNames v0
    have p1 : Kept b v0 := by
      unfold v0
      exact writeReg_kept _ _ _ h0
    clear_value v0
    refine kept_ite ?_ ?_
    · exact p1
    · extract_lets +onlyGivenNames v2
      clear_value v2
      extract_lets +onlyGivenNames v3
      have p4 : Kept b v3 := by
        unfold v3
        exact invalidate_kept _ _ _ _ _ p1
      clear_value v3
      exact setHub_kept _ _ _ (setRbit_kept _ _ _ _ p4)

theorem execTlbInv_kept{b : State} : ∀ x0 x1 x2 x3, Kept b x3 → KeptO b (execTlbInv x0 x1 x2 x3) := by
  intro x0 x1 x2 x3 h3
  unfold execTlbInv
  exact guardWf_kept _ _ (adminCmd_kept _ _ _ _ h3 (fun y0 k1 => tlbInvWrite_kept _ _ _ k1))

theorem execTlbInvDone_kept{b : State} : ∀ x0 x1, Kept b x1 → KeptO b (execTlbInvDone x0 x1) := by
  intro x0 x1 h1
  unfold execTlbInvDone
  refine guardWf_kept _ _ ?_
  refine keptO_next ?_
  split
  · exact h1
  · extract_lets +onlyGivenNames v7
    have p8 : Kept b v7 := by
      unfold v7
      exact invalidate_kept _ _ _ _ _ h1
    clear_value v7
    exact setRbit_kept _ _ _ _ (setHub_kept _ _ _ p8)

theorem segModeWrite_kept{b : State} : ∀ x0 x1 x2 x3, Kept b x0 → Kept b (segModeWrite x0 x1 x2 x3) := by
  intro x0 x1 x2 x3 h0
  unfold segModeWrite
  exact setHub_kept _ _ _ h0

theorem execHbmSegModeWrite_kept{b : State} : ∀ x0 x1 x2 x3 x4, Kept b x4 → KeptO b (execHbmSegModeWrite x0 x1 x2 x3 x4) := by
  intro x0 x1 x2 x3 x4 h4
  unfold execHbmSegModeWrite
  exact guardWf_kept _ _ (adminCmd_kept _ _ _ _ h4 (fun y0 k1 => segModeWrite_kept _ _ _ _ k1))

theorem execHbmSegModeApply_kept{b : State} : ∀ x0 x1 x2, Kept b x2 → KeptO b (execHbmSegModeApply x0 x1 x2) := by
  intro x0 x1 x2 h2
  unfold execHbmSegModeApply
  exact guardWf_kept _ _ (keptO_next (segApply_kept _ _ _ h2))

theorem rdcCtlWrite_kept{b : State} : ∀ x0 x1 x2, Kept b x0 → Kept b (rdcCtlWrite x0 x1 x2) := by
  intro x0 x1 x2 h0
  unfold rdcCtlWrite
  extract_lets +onlyGivenNames v0
  have p1 : Kept b v0 := by
    unfold v0
    exact setRbit_kept _ _ _ _ (writeReg_kept _ _ _ h0)
  clear_value v0
  exact kept_ite (discardRdc_kept _ _ _ p1) p1

theorem execRdcInv_kept{b : State} : ∀ x0 x1 x2 x3, Kept b x3 → KeptO b (execRdcInv x0 x1 x2 x3) := by
  intro x0 x1 x2 x3 h3
  unfold execRdcInv
  exact guardWf_kept _ _ (adminCmd_kept _ _ _ _ h3 (fun y0 k1 => rdcCtlWrite_kept _ _ _ k1))

theorem execHbmChannelTrainingLoss_kept{b : State} : ∀ x0 x1 x2 x3 x4, Kept b x4 → KeptO b (execHbmChannelTrainingLoss x0 x1 x2 x3 x4) := by
  intro x0 x1 x2 x3 x4 h4
  unfold execHbmChannelTrainingLoss
  exact guardWf_kept _ _ (keptO_next (kept_ite (fenceChannel_kept _ _ _ _ _ h4) h4))

end Sys2Proof.Machine
end

