-- ==== Sys2Proof/Laws/KeptPackage.lean ====
section
/-! SUPPORT. `f_kept` (Laws/Kept.lean) for the functions of the package, the matrix and vector rows and register writes. -/
namespace Sys2Proof.Machine

theorem drainLog_kept{b : State} : ∀ x0 x1, Kept b x0 → Kept b (drainLog x0 x1) := by
  intro x0 x1
  induction x1 generalizing x0 with
  | zero =>
    intro h0
    unfold drainLog
    exact h0
  | succ n ih =>
    intro h0
    unfold drainLog
    exact kept_ite (ih _ (nextRecord_kept _ _ h0)) h0

theorem pf1Writes_kept{b : State} : ∀ x0, Kept b x0 → Kept b (pf1Writes x0) := by
  intro x0 h0
  unfold pf1Writes
  refine kept_ite ?_ ?_
  · exact h0
  · extract_lets +onlyGivenNames v0
    clear_value v0
    extract_lets +onlyGivenNames v1
    clear_value v1
    extract_lets +onlyGivenNames v2
    have p3 : Kept b v2 := by
      unfold v2
      exact drainLog_kept _ _ h0
    clear_value v2
    extract_lets +onlyGivenNames v4
    clear_value v4
    extract_lets +onlyGivenNames v5
    clear_value v5
    extract_lets +onlyGivenNames v6
    clear_value v6
    extract_lets +onlyGivenNames v7
    clear_value v7
    exact kept_mk (kept_eta p3)

theorem startPf_kept{b : State} : ∀ x0 x1 x2 x3 x4, Kept b x0 → Kept b (startPf x0 x1 x2 x3 x4) := by
  intro x0 x1 x2 x3 x4 h0
  unfold startPf
  refine kept_ite ?_ ?_
  · exact kept_mk (kept_eta h0)
  · refine kept_ite ?_ ?_
    · extract_lets +onlyGivenNames v0
      have p1 : Kept b v0 := by
        unfold v0
        exact kept_mk (kept_eta h0)
      clear_value v0
      exact pf1Writes_kept _ (markGated_kept _ (gateAll_kept _ p1))
    · exact h0

theorem execPowerFailRecognition_kept{b : State} : ∀ x0 x1 x2, Kept b x2 → KeptO b (execPowerFailRecognition x0 x1 x2) := by
  intro x0 x1 x2 h2
  unfold execPowerFailRecognition
  exact guardWf_kept _ _ (keptO_next (startPf_kept _ _ _ _ _ (kept_mk (kept_eta h2))))

theorem keptOver_kept{b : State} : ∀ x0 x1, Kept b x0 → Kept b (keptOver x0 x1) := by
  intro x0 x1 h0
  unfold keptOver
  exact kept_mk (keptF_regNil (r := x0.bar0) (keptF_nil (m := x0.mem) (kept_eta h0)))

theorem resume_kept{b : State} : ∀ x0, Kept b x0 → Kept b (resume x0) := by
  intro x0 h0
  unfold resume
  extract_lets +onlyGivenNames v0
  have p1 : Kept b v0 := by
    unfold v0
    exact kept_mk (kept_eta h0)
  clear_value v0
  refine kept_ite ?_ ?_
  · exact p1
  · extract_lets +onlyGivenNames v2
    have p3 : Kept b v2 := by
      unfold v2
      exact leaf_kept _ _ _ (emit_kept _ _ _ _ p1)
    clear_value v2
    extract_lets +onlyGivenNames v4
    have p5 : Kept b v4 := by
      unfold v4
      exact kept_foldl (fun f6 i6 p6 => engSend_kept _ _ p6) _ p3
    clear_value v4
    extract_lets +onlyGivenNames v7
    have p8 : Kept b v7 := by
      unfold v7
      exact kept_foldl (fun f9 i9 p9 => gpSend_kept _ _ _ p9) _ p5
    clear_value v7
    exact kept_foldl (fun f10 i10 p10 => admitSe_kept _ _ _ p10) _ p8

theorem execPf1End_kept{b : State} : ∀ x0 x1 x2, Kept b x2 → KeptO b (execPf1End x0 x1 x2) := by
  intro x0 x1 x2 h2
  unfold execPf1End
  refine guardWf_kept _ _ ?_
  refine keptO_next ?_
  refine kept_ite ?_ ?_
  · exact h2
  · extract_lets +onlyGivenNames v0
    clear_value v0
    extract_lets +onlyGivenNames v1
    have p2 : Kept b v1 := by
      unfold v1
      exact kept_mk (kept_eta h2)
    clear_value v1
    refine kept_ite ?_ ?_
    · exact resume_kept _ (kept_mk (kept_eta p2))
    · extract_lets +onlyGivenNames v3
      have p4 : Kept b v3 := by
        unfold v3
        exact tearCal_kept _ p2
      clear_value v3
      exact kept_ite (keptOver_kept _ _ p4) (kept_ite (keptOver_kept _ _ p4) (keptOver_kept _ _ (kept_mk (kept_eta p4))))

theorem execColdRstNAssert_kept{b : State} : ∀ x0, Kept b x0 → KeptO b (execColdRstNAssert x0) := by
  intro x0 h0
  unfold execColdRstNAssert
  refine keptO_next ?_
  extract_lets +onlyGivenNames v0
  clear_value v0
  extract_lets +onlyGivenNames v1
  have p2 : Kept b v1 := by
    unfold v1
    exact kept_mk (kept_eta h0)
  clear_value v1
  split
  · exact startPf_kept _ _ _ _ _ (kept_mk (kept_eta p2))
  · exact startPf_kept _ _ _ _ _ (kept_mk (kept_eta p2))
  · exact kept_ite p2 (kept_mk (kept_eta p2))
  · exact kept_ite (kept_mk (kept_eta p2)) p2
  · exact p2

theorem rstCmdWrite_kept{b : State} : ∀ x0 x1 x2, Kept b x0 → Kept b (rstCmdWrite x0 x1 x2) := by
  intro x0 x1 x2 h0
  unfold rstCmdWrite
  refine kept_ite ?_ ?_
  · exact h0
  · extract_lets +onlyGivenNames v0
    have p1 : Kept b v0 := by
      unfold v0
      exact rstFields_kept _ _ h0
    clear_value v0
    refine kept_ite ?_ ?_
    · exact p1
    · split
      · exact resetStart_kept _ _ _ p1
      · exact kept_ite (rstResult_kept _ _ p1) (startPf_kept _ _ _ _ _ (kept_mk (kept_eta p1)))
      · exact rstResult_kept _ _ p1

theorem execRstCmdPartition_kept{b : State} : ∀ x0 x1 x2, Kept b x2 → KeptO b (execRstCmdPartition x0 x1 x2) := by
  intro x0 x1 x2 h2
  unfold execRstCmdPartition
  exact adminCmd_kept _ _ _ _ h2 (fun y0 k1 => rstCmdWrite_kept _ _ _ k1)

theorem execRstCmdPackage_kept{b : State} : ∀ x0 x1 x2, Kept b x2 → KeptO b (execRstCmdPackage x0 x1 x2) := by
  intro x0 x1 x2 h2
  unfold execRstCmdPackage
  exact adminCmd_kept _ _ _ _ h2 (fun y0 k1 => rstCmdWrite_kept _ _ _ k1)

theorem packageShutdown_kept{b : State} : ∀ x0 x1, Kept b x0 → Kept b (packageShutdown x0 x1) := by
  intro x0 x1 h0
  unfold packageShutdown
  extract_lets +onlyGivenNames v0
  clear_value v0
  extract_lets +onlyGivenNames v1
  have p2 : Kept b v1 := by
    unfold v1
    exact kept_mk (kept_eta h0)
  clear_value v1
  refine kept_ite ?_ ?_
  · exact p2
  · extract_lets +onlyGivenNames v3
    have p4 : Kept b v3 := by
      unfold v3
      exact emit_kept _ _ _ _ (kept_mk (kept_eta p2))
    clear_value v3
    refine kept_ite ?_ ?_
    · extract_lets +onlyGivenNames v5
      have p6 : Kept b v5 := by
        unfold v5
        exact startPf_kept _ _ _ _ _ p4
      clear_value v5
      exact kept_mk (kept_eta p6)
    · exact startPf_kept _ _ _ _ _ p4

theorem execSupplyGood_kept{b : State} : ∀ x0, Kept b x0 → KeptO b (execSupplyGood x0) := by
  intro x0 h0
  unfold execSupplyGood
  refine keptO_next ?_
  split
  · exact kept_mk (kept_eta h0)
  · exact kept_mk (kept_eta h0)
  · exact h0

theorem execSupplyLostBeforeReference_kept{b : State} : ∀ x0, Kept b x0 → KeptO b (execSupplyLostBeforeReference x0) := by
  intro x0 h0
  unfold execSupplyLostBeforeReference
  exact keptO_next (kept_ite (kept_mk (kept_eta h0)) h0)

theorem showThermal_kept{b : State} : ∀ x0, Kept b x0 → Kept b (showThermal x0) := by
  intro x0 h0
  unfold showThermal
  extract_lets +onlyGivenNames v0
  clear_value v0
  extract_lets +onlyGivenNames v1
  clear_value v1
  extract_lets +onlyGivenNames v2
  clear_value v2
  extract_lets +onlyGivenNames v3
  have p4 : Kept b v3 := by
    unfold v3
    exact setReg_kept _ _ _ h0
  clear_value v3
  exact setReg_kept _ _ _ p4

theorem noteFault_kept{b : State} : ∀ x0 x1 x2, Kept b x0 → Kept b (noteFault x0 x1 x2) := by
  intro x0 x1 x2 h0
  unfold noteFault
  exact kept_ite (kept_mk (kept_eta h0)) (kept_ite h0 (leaf_kept _ _ _ (emit_kept _ _ _ _ (kept_mk (kept_eta h0)))))

theorem setStand_kept{b : State} : ∀ x0 x1 x2 x3 x4, Kept b x0 → Kept b (setStand x0 x1 x2 x3 x4) := by
  intro x0 x1 x2 x3 x4 h0
  unfold setStand
  extract_lets +onlyGivenNames v0
  clear_value v0
  extract_lets +onlyGivenNames v1
  clear_value v1
  extract_lets +onlyGivenNames v2
  have p3 : Kept b v2 := by
    unfold v2
    exact kept_mk (kept_eta h0)
  clear_value v2
  exact kept_foldl (fun f4 i4 p4 => kept_ite (leaf_kept _ _ _ (emit_kept _ _ _ _ p4)) p4) _ p3

theorem opticalDown_kept{b : State} : ∀ x0 x1, Kept b x0 → Kept b (opticalDown x0 x1) := by
  intro x0 x1 h0
  unfold opticalDown
  extract_lets +onlyGivenNames v0
  clear_value v0
  extract_lets +onlyGivenNames v1
  have p2 : Kept b v1 := by
    unfold v1
    exact setOpt_kept _ _ _ h0
  clear_value v1
  extract_lets +onlyGivenNames v3
  have p4 : Kept b v3 := by
    unfold v3
    exact kept_foldl (fun f5 i5 p5 => kept_ite p5 (linkFalls_kept _ _ p5)) _ p2
  clear_value v3
  exact health_kept _ (epochLeave_kept _ _ (gpFalls_kept _ _ p4))

theorem unitShutdown_kept{b : State} : ∀ x0 x1 x2, Kept b x0 → Kept b (unitShutdown x0 x1 x2) := by
  intro x0 x1 x2 h0
  unfold unitShutdown
  split
  · refine kept_ite ?_ ?_
    · exact h0
    · extract_lets +onlyGivenNames v3
      have p4 : Kept b v3 := by
        unfold v3
        exact leaf_kept _ _ _ (emit_kept _ _ _ _ h0)
      clear_value v3
      exact partitionDown_kept _ _ _ _ p4
  · extract_lets +onlyGivenNames v7
    clear_value v7
    exact kept_ite h0 (opticalDown_kept _ _ (leaf_kept _ _ _ (emit_kept _ _ _ _ h0)))

theorem noteBelow_kept{b : State} : ∀ x0 x1, Kept b x0 → Kept b (noteBelow x0 x1) := by
  intro x0 x1 h0
  unfold noteBelow
  extract_lets +onlyGivenNames v0
  clear_value v0
  extract_lets +onlyGivenNames v1
  clear_value v1
  extract_lets +onlyGivenNames v2
  clear_value v2
  exact kept_mk (kept_eta h0)

theorem judgeUnit_kept{b : State} : ∀ x0 x1 x2, Kept b x0 → Kept b (judgeUnit x0 x1 x2) := by
  intro x0 x1 x2 h0
  unfold judgeUnit
  extract_lets +onlyGivenNames v0
  have p1 : Kept b v0 := by
    unfold v0
    refine kept_ite ?_ ?_
    · exact setStand_kept _ _ _ _ _ h0
    · split
      · exact h0
      · extract_lets +onlyGivenNames v7
        have p8 : Kept b v7 := by
          unfold v7
          exact setStand_kept _ _ _ _ _ h0
        clear_value v7
        exact kept_ite (unitShutdown_kept _ _ _ p8) p8
  clear_value v0
  exact noteBelow_kept _ _ p1

theorem hbmShow_kept{b : State} : ∀ x0 x1 x2, Kept b x0 → Kept b (hbmShow x0 x1 x2) := by
  intro x0 x1 x2 h0
  unfold hbmShow
  extract_lets +onlyGivenNames v0
  clear_value v0
  extract_lets +onlyGivenNames v1
  clear_value v1
  exact setRbit_kept _ _ _ _ (setRbit_kept _ _ _ _ (setRfld_kept _ _ _ _ _ h0))

theorem execDiodeReading_kept{b : State} : ∀ x0 x1 x2, Kept b x2 → KeptO b (execDiodeReading x0 x1 x2) := by
  intro x0 x1 x2 h2
  unfold execDiodeReading
  refine guardWf_kept _ _ ?_
  refine keptO_next ?_
  refine kept_ite ?_ ?_
  · exact h2
  · extract_lets +onlyGivenNames v0
    clear_value v0
    extract_lets +onlyGivenNames v1
    clear_value v1
    extract_lets +onlyGivenNames v2
    have p3 : Kept b v2 := by
      unfold v2
      exact setRfld_kept _ _ _ _ _ h2
    clear_value v2
    extract_lets +onlyGivenNames v4
    have p5 : Kept b v4 := by
      unfold v4
      split
      · exact kept_mk (kept_eta p3)
      · exact p3
    clear_value v4
    extract_lets +onlyGivenNames v9
    clear_value v9
    extract_lets +onlyGivenNames v10
    have p11 : Kept b v10 := by
      unfold v10
      exact judgeUnit_kept _ _ _ (noteFault_kept _ _ _ p5)
    clear_value v10
    refine showThermal_kept _ ?_
    split
    · exact kept_ite (hbmShow_kept _ _ _ p11) p11
    · exact kept_ite (setRbit_kept _ _ _ _ p11) p11

theorem execUnitRestart_kept{b : State} : ∀ x0 x1, Kept b x1 → KeptO b (execUnitRestart x0 x1) := by
  intro x0 x1 h1
  unfold execUnitRestart
  refine guardWf_kept _ _ ?_
  refine keptO_next ?_
  split
  · exact h1
  · refine kept_ite ?_ ?_
    · exact h1
    · extract_lets +onlyGivenNames v5
      clear_value v5
      extract_lets +onlyGivenNames v6
      have p7 : Kept b v6 := by
        unfold v6
        exact kept_mk (kept_eta h1)
      clear_value v6
      refine kept_ite ?_ ?_
      · exact kept_ite (showThermal_kept _ (health_kept _ (kept_mk (kept_eta p7)))) p7
      · extract_lets +onlyGivenNames v8
        clear_value v8
        exact kept_ite p7 (showThermal_kept _ (health_kept _ (optReturns_kept _ _ (setOpt_kept _ _ _ p7))))

theorem execThrottleStep_kept{b : State} : ∀ x0, Kept b x0 → KeptO b (execThrottleStep x0) := by
  intro x0 h0
  unfold execThrottleStep
  refine keptO_next ?_
  refine kept_ite ?_ ?_
  · exact h0
  · extract_lets +onlyGivenNames v0
    clear_value v0
    extract_lets +onlyGivenNames v1
    clear_value v1
    extract_lets +onlyGivenNames v2
    clear_value v2
    extract_lets +onlyGivenNames v3
    have p4 : Kept b v3 := by
      unfold v3
      exact kept_foldl (fun f5 i5 p5 => setStack_kept _ _ _ p5) _ h0
    clear_value v3
    exact markGated_kept _ (kept_mk (kept_eta p4))

theorem floorOn_kept{b : State} : ∀ x0, Kept b x0 → Kept b (floorOn x0) := by
  intro x0 h0
  unfold floorOn
  extract_lets +onlyGivenNames v0
  have p1 : Kept b v0 := by
    unfold v0
    exact kept_ite h0 (leaf_kept _ _ _ (setRbit_kept _ _ _ _ h0))
  clear_value v0
  extract_lets +onlyGivenNames v2
  have p3 : Kept b v2 := by
    unfold v2
    exact kept_ite p1 (leaf_kept _ _ _ (setRbit_kept _ _ _ _ p1))
  clear_value v2
  exact markGated_kept _ (gateAll_kept _ p3)

theorem floorOff_kept{b : State} : ∀ x0, Kept b x0 → Kept b (floorOff x0) := by
  intro x0 h0
  unfold floorOff
  refine kept_ite ?_ ?_
  · exact h0
  · extract_lets +onlyGivenNames v0
    have p1 : Kept b v0 := by
      unfold v0
      exact setRbit_kept _ _ _ _ (setRbit_kept _ _ _ _ h0)
    clear_value v0
    exact kept_mk (kept_eta p1)

theorem showCool_kept{b : State} : ∀ x0, Kept b x0 → Kept b (showCool x0) := by
  intro x0 h0
  unfold showCool
  exact setRbit_kept _ _ _ _ (setRbit_kept _ _ _ _ h0)

theorem coolEvent_kept{b : State} : ∀ x0 x1, Kept b x0 → Kept b (coolEvent x0 x1) := by
  intro x0 x1 h0
  unfold coolEvent
  exact emit_kept _ _ _ _ h0

theorem discrepancy_kept{b : State} : ∀ x0, Kept b x0 → Kept b (discrepancy x0) := by
  intro x0 h0
  unfold discrepancy
  extract_lets +onlyGivenNames v0
  clear_value v0
  extract_lets +onlyGivenNames v1
  have p2 : Kept b v1 := by
    unfold v1
    exact kept_mk (kept_eta h0)
  clear_value v1
  exact health_kept _ (coolEvent_kept _ _ (leaf_kept _ _ _ (setRbit_kept _ _ _ _ p2)))

theorem setCoolPin_kept{b : State} : ∀ x0 x1 x2, Kept b x0 → Kept b (setCoolPin x0 x1 x2) := by
  intro x0 x1 x2 h0
  unfold setCoolPin
  exact showCool_kept _ (kept_mk (kept_eta h0))

theorem coolLate_kept{b : State} : ∀ x0, Kept b x0 → Kept b (coolLate x0) := by
  intro x0 h0
  unfold coolLate
  split
  · exact kept_ite (discrepancy_kept _ h0) h0
  · exact h0

theorem coolAssert_kept{b : State} : ∀ x0 x1, Kept b x0 → Kept b (coolAssert x0 x1) := by
  intro x0 x1 h0
  unfold coolAssert
  extract_lets +onlyGivenNames v0
  have p1 : Kept b v0 := by
    unfold v0
    exact coolLate_kept _ h0
  clear_value v0
  extract_lets +onlyGivenNames v2
  clear_value v2
  extract_lets +onlyGivenNames v3
  clear_value v3
  extract_lets +onlyGivenNames v4
  have p5 : Kept b v4 := by
    unfold v4
    exact setCoolPin_kept _ _ _ (kept_mk (kept_eta p1))
  clear_value v4
  exact kept_ite (coolEvent_kept _ _ (floorOn_kept _ (kept_mk (kept_eta p5)))) (kept_ite (packageShutdown_kept _ _ (coolEvent_kept _ _ (kept_mk (kept_eta p5)))) p5)

theorem execCoolFailAssert_kept{b : State} : ∀ x0 x1, Kept b x1 → KeptO b (execCoolFailAssert x0 x1) := by
  intro x0 x1 h1
  unfold execCoolFailAssert
  exact guardWf_kept _ _ (keptO_next (kept_ite h1 (kept_ite (coolAssert_kept _ _ h1) (kept_mk (kept_eta h1)))))

theorem execCoolantDiscrepancy_kept{b : State} : ∀ x0, Kept b x0 → KeptO b (execCoolantDiscrepancy x0) := by
  intro x0 h0
  unfold execCoolantDiscrepancy
  refine keptO_next ?_
  split
  · exact h0
  · exact kept_ite (discrepancy_kept _ (kept_mk (kept_eta h0))) h0

theorem execCoolFailDeassert_kept{b : State} : ∀ x0 x1, Kept b x1 → KeptO b (execCoolFailDeassert x0 x1) := by
  intro x0 x1 h1
  unfold execCoolFailDeassert
  refine guardWf_kept _ _ ?_
  refine keptO_next ?_
  refine kept_ite ?_ ?_
  · exact h1
  · refine kept_ite ?_ ?_
    · exact kept_mk (kept_eta h1)
    · extract_lets +onlyGivenNames v0
      have p1 : Kept b v0 := by
        unfold v0
        exact setCoolPin_kept _ _ _ (coolLate_kept _ h1)
      clear_value v0
      extract_lets +onlyGivenNames v2
      clear_value v2
      extract_lets +onlyGivenNames v3
      have p4 : Kept b v3 := by
        unfold v3
        exact kept_ite (leaf_kept _ _ _ (emit_kept _ _ _ _ (kept_mk (kept_eta p1)))) p1
      clear_value v3
      exact kept_ite (kept_mk (kept_eta p4)) p4

theorem execCoolantReturn_kept{b : State} : ∀ x0, Kept b x0 → KeptO b (execCoolantReturn x0) := by
  intro x0 h0
  unfold execCoolantReturn
  refine keptO_next ?_
  split
  · refine kept_ite ?_ ?_
    · exact h0
    · extract_lets +onlyGivenNames v5
      clear_value v5
      extract_lets +onlyGivenNames v6
      have p7 : Kept b v6 := by
        unfold v6
        exact kept_mk (kept_eta h0)
      clear_value v6
      exact health_kept _ (floorOff_kept _ (setRbit_kept _ _ _ _ p7))
  · exact h0

theorem outletDoubt_kept{b : State} : ∀ x0 x1, Kept b x0 → Kept b (outletDoubt x0 x1) := by
  intro x0 x1 h0
  unfold outletDoubt
  refine kept_ite ?_ ?_
  · exact floorOn_kept _ (kept_mk (kept_eta h0))
  · refine kept_ite ?_ ?_
    · exact h0
    · extract_lets +onlyGivenNames v0
      clear_value v0
      exact kept_ite (floorOff_kept _ (kept_mk (kept_eta h0))) (kept_mk (kept_eta h0))

theorem judgeOutlet_kept{b : State} : ∀ x0 x1, Kept b x0 → Kept b (judgeOutlet x0 x1) := by
  intro x0 x1 h0
  unfold judgeOutlet
  extract_lets +onlyGivenNames v0
  have p1 : Kept b v0 := by
    unfold v0
    exact setStand_kept _ _ _ _ _ h0
  clear_value v0
  extract_lets +onlyGivenNames v2
  have p3 : Kept b v2 := by
    unfold v2
    exact kept_ite (kept_mk (kept_eta p1)) p1
  clear_value v2
  exact kept_ite (packageShutdown_kept _ _ p3) p3

theorem execThermistorReading_kept{b : State} : ∀ x0 x1 x2, Kept b x2 → KeptO b (execThermistorReading x0 x1 x2) := by
  intro x0 x1 x2 h2
  unfold execThermistorReading
  refine guardWf_kept _ _ ?_
  refine keptO_next ?_
  refine kept_ite ?_ ?_
  · exact h2
  · extract_lets +onlyGivenNames v0
    clear_value v0
    extract_lets +onlyGivenNames v1
    have p2 : Kept b v1 := by
      unfold v1
      exact noteFault_kept _ _ _ h2
    clear_value v1
    extract_lets +onlyGivenNames v3
    have p4 : Kept b v3 := by
      unfold v3
      split
      · exact setReg_kept _ _ _ p2
      · exact setRbit_kept _ _ _ _ p2
    clear_value v3
    extract_lets +onlyGivenNames v8
    have p9 : Kept b v8 := by
      unfold v8
      exact kept_ite (outletDoubt_kept _ _ p4) p4
    clear_value v8
    refine showThermal_kept _ ?_
    split
    · exact setStand_kept _ _ _ _ _ p9
    · exact judgeOutlet_kept _ _ p9
    · exact p9

theorem execHubReadingsTimeout_kept{b : State} : ∀ x0 x1, Kept b x1 → KeptO b (execHubReadingsTimeout x0 x1) := by
  intro x0 x1 h1
  unfold execHubReadingsTimeout
  refine guardWf_kept _ _ ?_
  refine keptO_next ?_
  extract_lets +onlyGivenNames v0
  clear_value v0
  refine kept_ite ?_ ?_
  · exact h1
  · extract_lets +onlyGivenNames v1
    have p2 : Kept b v1 := by
      unfold v1
      exact kept_mk (kept_eta h1)
    clear_value v1
    extract_lets +onlyGivenNames v3
    clear_value v3
    extract_lets +onlyGivenNames v4
    clear_value v4
    extract_lets +onlyGivenNames v5
    have p6 : Kept b v5 := by
      unfold v5
      exact setHub_kept _ _ _ p2
    clear_value v5
    exact setRfld_kept _ _ _ _ _ p6

theorem bootIdentity_kept{b : State} : ∀ x0, Kept b x0 → Kept b (bootIdentity x0) := by
  intro x0 h0
  unfold bootIdentity
  extract_lets +onlyGivenNames v0
  have p1 : Kept b v0 := by
    unfold v0
    exact setReg_kept _ _ _ h0
  clear_value v0
  extract_lets +onlyGivenNames v2
  have p3 : Kept b v2 := by
    unfold v2
    exact setReg_kept _ _ _ p1
  clear_value v2
  exact setRbit_kept _ _ _ _ (setReg_kept _ _ _ p3)

theorem bootClocks_kept{b : State} : ∀ x0, Kept b x0 → Kept b (bootClocks x0) := by
  intro x0 h0
  unfold bootClocks
  extract_lets +onlyGivenNames v0
  clear_value v0
  extract_lets +onlyGivenNames v1
  clear_value v1
  extract_lets +onlyGivenNames v2
  have p3 : Kept b v2 := by
    unfold v2
    exact setReg_kept _ _ _ h0
  clear_value v2
  exact kept_mk (kept_eta p3)

theorem applyCal_kept{b : State} : ∀ x0 x1, Kept b x0 → Kept b (applyCal x0 x1) := by
  intro x0 x1 h0
  unfold applyCal
  extract_lets +onlyGivenNames v0
  have p1 : ∀ y1000 y1001, Kept b y1000 → Kept b (v0 y1000 y1001) := by
    unfold v0
    exact fun y2 y3 k4 => kept_foldl (fun f5 i5 p5 => setReg_kept _ _ _ p5) _ k4
  clear_value v0
  extract_lets +onlyGivenNames v6
  have p7 : Kept b v6 := by
    unfold v6
    exact kept_mk (kept_eta h0)
  clear_value v6
  extract_lets +onlyGivenNames v8
  have p9 : Kept b v8 := by
    unfold v8
    exact kept_foldl (fun f10 i10 p10 => setRbit_kept _ _ _ _ p10) _ p7
  clear_value v8
  exact p1 _ _ (p1 _ _ (p1 _ _ p9))

theorem bootCal_kept{b : State} : ∀ x0, Kept b x0 → Kept b (bootCal x0) := by
  intro x0 h0
  unfold bootCal
  split
  · extract_lets +onlyGivenNames v2
    have p3 : Kept b v2 := by
      unfold v2
      exact applyCal_kept _ _ h0
    clear_value v2
    extract_lets +onlyGivenNames v4
    have p5 : Kept b v4 := by
      unfold v4
      exact setRbit_kept _ _ _ _ (showCal_kept _ _ (kept_mk (kept_eta p3)))
    clear_value v4
    exact leaf_kept _ _ _ (emit_kept _ _ _ _ p5)
  · extract_lets +onlyGivenNames v10
    have p11 : Kept b v10 := by
      unfold v10
      exact showCal_kept _ _ (applyCal_kept _ _ h0)
    clear_value v10
    refine kept_ite ?_ ?_
    · exact p11
    · extract_lets +onlyGivenNames v12
      clear_value v12
      exact leaf_kept _ _ _ (emit_kept _ _ _ _ (setRbit_kept _ _ _ _ (kept_mk (kept_eta p11))))

theorem bootFw_kept{b : State} : ∀ x0 x1, Kept b x0 → Kept b (bootFw x0 x1) := by
  intro x0 x1 h0
  unfold bootFw
  extract_lets +onlyGivenNames v0
  have p1 : Kept b v0 := by
    unfold v0
    exact setRfld_kept _ _ _ _ _ (setRfld_kept _ _ _ _ _ (fwCheck_kept _ h0))
  clear_value v0
  exact setRfld_kept _ _ _ _ _ p1

theorem bootPf_kept{b : State} : ∀ x0, Kept b x0 → Kept b (bootPf x0) := by
  intro x0 h0
  unfold bootPf
  extract_lets +onlyGivenNames v0
  clear_value v0
  extract_lets +onlyGivenNames v1
  have p2 : Kept b v1 := by
    unfold v1
    exact setReg_kept _ _ _ h0
  clear_value v1
  split
  · exact p2
  · exact emit_kept _ _ _ _ p2

theorem bootIdents_kept{b : State} : ∀ x0, Kept b x0 → Kept b (bootIdents x0) := by
  intro x0 h0
  unfold bootIdents
  refine kept_foldl (fun f0 i0 p0 => ?_) _ ?_
  · extract_lets +onlyGivenNames v1
    have p2 : Kept b v1 := by
      unfold v1
      exact setRbit_kept _ _ _ _ (identEvent_kept _ _ p0)
    clear_value v1
    exact kept_ite (setOpt_kept _ _ _ p2) (holdPart_kept _ _ _ p2)
  · exact h0

theorem bootLinks_kept{b : State} : ∀ x0 x1, Kept b x0 → Kept b (bootLinks x0 x1) := by
  intro x0 x1 h0
  unfold bootLinks
  extract_lets +onlyGivenNames v0
  have p1 : Kept b v0 := by
    unfold v0
    refine kept_foldl (fun f2 i2 p2 => ?_) _ ?_
    · extract_lets +onlyGivenNames v3
      clear_value v3
      exact kept_ite p2 (emit_kept _ _ _ _ (kept_mk (kept_eta p2)))
    · exact h0
  clear_value v0
  exact kept_foldl (fun f4 i4 p4 => kept_ite p4 (holdPart_kept _ _ _ p4)) _ p1

theorem bootMemory_kept{b : State} : ∀ x0 x1, Kept b x0 → Kept b (bootMemory x0 x1) := by
  intro x0 x1 h0
  unfold bootMemory
  refine kept_foldl (fun f0 i0 p0 => ?_) _ ?_
  · refine kept_ite ?_ ?_
    · exact p0
    · extract_lets +onlyGivenNames v1
      clear_value v1
      split
      rename_i z5
      exact kept_ite (kept_of_eq_2 z5 (trainPart_kept _ _ _ p0)) (holdPart_kept _ _ _ (kept_of_eq_2 z5 (trainPart_kept _ _ _ p0)))
  · exact h0

theorem bootCoolant_kept{b : State} : ∀ x0, Kept b x0 → Kept b (bootCoolant x0) := by
  intro x0 h0
  unfold bootCoolant
  extract_lets +onlyGivenNames v0
  clear_value v0
  extract_lets +onlyGivenNames v1
  clear_value v1
  extract_lets +onlyGivenNames v2
  clear_value v2
  extract_lets +onlyGivenNames v3
  have p4 : Kept b v3 := by
    unfold v3
    exact kept_mk (kept_eta h0)
  clear_value v3
  extract_lets +onlyGivenNames v5
  have p6 : Kept b v5 := by
    unfold v5
    exact kept_ite (coolAssert_kept _ _ p4) p4
  clear_value v5
  exact kept_ite (coolAssert_kept _ _ p6) p6

theorem halt_kept{b : State} : ∀ x0, Kept b x0 → Kept b (halt x0) := by
  intro x0 h0
  unfold halt
  extract_lets +onlyGivenNames v0
  have p1 : Kept b v0 := by
    unfold v0
    exact setRfld_kept _ _ _ _ _ (kept_mk (kept_eta h0))
  clear_value v0
  exact portTrain_kept _ _ (portTrain_kept _ _ p1)

theorem bootUp_kept{b : State} : ∀ x0 x1 x2, Kept b x0 → Kept b (bootUp x0 x1 x2) := by
  intro x0 x1 x2 h0
  unfold bootUp
  extract_lets +onlyGivenNames v0
  clear_value v0
  extract_lets +onlyGivenNames v1
  have p2 : Kept b v1 := by
    unfold v1
    exact kept_mk (kept_eta h0)
  clear_value v1
  extract_lets +onlyGivenNames v3
  have p4 : Kept b v3 := by
    unfold v3
    exact bootPf_kept _ (bootFw_kept _ _ p2)
  clear_value v3
  extract_lets +onlyGivenNames v5
  have p6 : Kept b v5 := by
    unfold v5
    exact bootMemory_kept _ _ (bootLinks_kept _ _ (bootIdents_kept _ p4))
  clear_value v5
  extract_lets +onlyGivenNames v7
  have p8 : Kept b v7 := by
    unfold v7
    exact setRfld_kept _ _ _ _ _ p6
  clear_value v7
  extract_lets +onlyGivenNames v9
  have p10 : Kept b v9 := by
    unfold v9
    exact setRbit_kept _ _ _ _ p8
  clear_value v9
  extract_lets +onlyGivenNames v11
  have p12 : Kept b v11 := by
    unfold v11
    exact portTrain_kept _ _ (portTrain_kept _ _ p10)
  clear_value v11
  exact health_kept _ (bootCoolant_kept _ p12)

theorem execColdStartReference_kept{b : State} : ∀ x0 x1, Kept b x1 → KeptO b (execColdStartReference x0 x1) := by
  intro x0 x1 h1
  unfold execColdStartReference
  refine guardWf_kept _ _ ?_
  refine keptO_next ?_
  refine kept_ite ?_ ?_
  · exact h1
  · extract_lets +onlyGivenNames v0
    clear_value v0
    extract_lets +onlyGivenNames v1
    have p2 : Kept b v1 := by
      unfold v1
      exact keptOver_kept _ _ (kept_mk (kept_eta h1))
    clear_value v1
    extract_lets +onlyGivenNames v3
    have p4 : Kept b v3 := by
      unfold v3
      exact setReg_kept _ _ _ p2
    clear_value v3
    extract_lets +onlyGivenNames v5
    have p6 : Kept b v5 := by
      unfold v5
      exact bootClocks_kept _ (bootIdentity_kept _ p4)
    clear_value v5
    refine kept_ite ?_ ?_
    · exact halt_kept _ p6
    · extract_lets +onlyGivenNames v7
      have p8 : Kept b v7 := by
        unfold v7
        exact bootCal_kept _ p6
      clear_value v7
      split
      · exact halt_kept _ p8
      · exact bootUp_kept _ _ _ p8

theorem showCaps_kept{b : State} : ∀ x0, Kept b x0 → Kept b (showCaps x0) := by
  intro x0 h0
  unfold showCaps
  extract_lets +onlyGivenNames v0
  clear_value v0
  extract_lets +onlyGivenNames v1
  clear_value v1
  extract_lets +onlyGivenNames v2
  clear_value v2
  extract_lets +onlyGivenNames v3
  have p4 : Kept b v3 := by
    unfold v3
    exact setRfld_kept _ _ _ _ _ (setRfld_kept _ _ _ _ _ h0)
  clear_value v3
  extract_lets +onlyGivenNames v5
  have p6 : Kept b v5 := by
    unfold v5
    exact kept_ite (setRfld_kept _ _ _ _ _ p4) p4
  clear_value v5
  extract_lets +onlyGivenNames v7
  clear_value v7
  extract_lets +onlyGivenNames v8
  clear_value v8
  extract_lets +onlyGivenNames v9
  clear_value v9
  extract_lets +onlyGivenNames v10
  have p11 : Kept b v10 := by
    unfold v10
    exact setReg_kept _ _ _ p6
  clear_value v10
  extract_lets +onlyGivenNames v12
  clear_value v12
  extract_lets +onlyGivenNames v13
  have p14 : Kept b v13 := by
    unfold v13
    exact setReg_kept _ _ _ p11
  clear_value v13
  extract_lets +onlyGivenNames v15
  have p16 : Kept b v15 := by
    unfold v15
    exact setReg_kept _ _ _ p14
  clear_value v15
  extract_lets +onlyGivenNames v17
  have p18 : Kept b v17 := by
    unfold v17
    exact setReg_kept _ _ _ p16
  clear_value v17
  exact setReg_kept _ _ _ p18

theorem tableDone_kept{b : State} : ∀ x0, Kept b x0 → Kept b (tableDone x0) := by
  intro x0 h0
  unfold tableDone
  exact kept_ite (kept_ite (showCaps_kept _ (setRfld_kept _ _ _ _ _ h0)) h0) (kept_ite (showCaps_kept _ h0) h0)

theorem execCapabilityRecord_kept{b : State} : ∀ x0 x1 x2, Kept b x2 → KeptO b (execCapabilityRecord x0 x1 x2) := by
  intro x0 x1 x2 h2
  unfold execCapabilityRecord
  refine guardWf_kept _ _ ?_
  refine keptO_next ?_
  extract_lets +onlyGivenNames v0
  clear_value v0
  extract_lets +onlyGivenNames v1
  clear_value v1
  exact kept_ite h2 (tableDone_kept _ (setValid_kept _ _ _ (capChange_kept _ _ _ h2)))

theorem execOpticalDieReady_kept{b : State} : ∀ x0 x1, Kept b x1 → KeptO b (execOpticalDieReady x0 x1) := by
  intro x0 x1 h1
  unfold execOpticalDieReady
  refine guardWf_kept _ _ ?_
  refine keptO_next ?_
  extract_lets +onlyGivenNames v0
  clear_value v0
  refine kept_ite ?_ ?_
  · exact h1
  · extract_lets +onlyGivenNames v1
    clear_value v1
    split
    extract_lets +onlyGivenNames v6
    have p7 : Kept b v6 := by
      unfold v6
      exact setOpt_kept _ _ _ h1
    clear_value v6
    extract_lets +onlyGivenNames v8
    have p9 : Kept b v8 := by
      unfold v8
      exact kept_foldl (fun f10 i10 p10 => setPort'_kept _ _ _ p10) _ p7
    clear_value v8
    exact checkReady_kept _ (health_kept _ (markPlanes_kept _ _ _ p9))

theorem execMclaim_kept{b : State} : ∀ x0 x1 x2, Kept b x2 → KeptO b (execMclaim x0 x1 x2) := by
  intro x0 x1 x2 h2
  unfold execMclaim
  refine issue_kept _ _ _ _ _ ?_ ?_
  · exact h2
  · intro y0 y1 k2
    extract_lets +onlyGivenNames v3
    clear_value v3
    extract_lets +onlyGivenNames v4
    clear_value v4
    extract_lets +onlyGivenNames v5
    clear_value v5
    extract_lets +onlyGivenNames v6
    clear_value v6
    refine kept_ite ?_ ?_
    · exact fin_kept _ _ _ k2
    · extract_lets +onlyGivenNames v7
      have p8 : Kept b v7 := by
        unfold v7
        exact setCore_kept _ _ _ k2
      clear_value v7
      exact fin_kept _ _ _ p8

theorem enqueue_kept{b : State} : ∀ x0 x1 x2 x3, Kept b x0 → Kept b (enqueue x0 x1 x2 x3) := by
  intro x0 x1 x2 x3 h0
  unfold enqueue
  extract_lets +onlyGivenNames v0
  clear_value v0
  extract_lets +onlyGivenNames v1
  clear_value v1
  exact kept_ite h0 (fin_kept _ _ _ (setCore_kept _ _ _ h0))

theorem withClaim_kept{b : State} : ∀ x0 x1 x2 x3, Kept b x0 → (∀ y0, Kept b (x3 y0)) → Kept b (withClaim x0 x1 x2 x3) := by
  intro x0 x1 x2 x3 h0 h3
  unfold withClaim
  extract_lets +onlyGivenNames v0
  clear_value v0
  exact kept_ite (h3 _) (takeTrap_kept _ _ _ _ h0)

theorem execMrel_kept{b : State} : ∀ x0 x1 x2, Kept b x2 → KeptO b (execMrel x0 x1 x2) := by
  intro x0 x1 x2 h2
  unfold execMrel
  exact issue_kept _ _ _ _ _ h2 (fun y0 y1 k2 => withClaim_kept _ _ _ _ k2 (fun y3 => enqueue_kept _ _ _ _ k2))

theorem execMcfg_kept{b : State} : ∀ x0 x1 x2, Kept b x2 → KeptO b (execMcfg x0 x1 x2) := by
  intro x0 x1 x2 h2
  unfold execMcfg
  refine issue_kept _ _ _ _ _ ?_ ?_
  · exact h2
  · intro y0 y1 k2
    refine withClaim_kept _ _ _ _ ?_ ?_
    · exact k2
    · intro y3
      extract_lets +onlyGivenNames v4
      clear_value v4
      split
      · exact takeTrap_kept _ _ _ _ k2
      · exact enqueue_kept _ _ _ _ k2

theorem execMstream_kept{b : State} : ∀ x0 x1 x2, Kept b x2 → KeptO b (execMstream x0 x1 x2) := by
  intro x0 x1 x2 h2
  unfold execMstream
  exact issue_kept _ _ _ _ _ h2 (fun y0 y1 k2 => withClaim_kept _ _ _ _ k2 (fun y3 => enqueue_kept _ _ _ _ k2))

theorem execMrun_kept{b : State} : ∀ x0 x1 x2, Kept b x2 → KeptO b (execMrun x0 x1 x2) := by
  intro x0 x1 x2 h2
  unfold execMrun
  exact issue_kept _ _ _ _ _ h2 (fun y0 y1 k2 => withClaim_kept _ _ _ _ k2 (fun y3 => enqueue_kept _ _ _ _ k2))

theorem execMswap_kept{b : State} : ∀ x0 x1 x2, Kept b x2 → KeptO b (execMswap x0 x1 x2) := by
  intro x0 x1 x2 h2
  unfold execMswap
  exact issue_kept _ _ _ _ _ h2 (fun y0 y1 k2 => withClaim_kept _ _ _ _ k2 (fun y3 => enqueue_kept _ _ _ _ k2))

theorem execMzero_kept{b : State} : ∀ x0 x1 x2, Kept b x2 → KeptO b (execMzero x0 x1 x2) := by
  intro x0 x1 x2 h2
  unfold execMzero
  exact issue_kept _ _ _ _ _ h2 (fun y0 y1 k2 => withClaim_kept _ _ _ _ k2 (fun y3 => enqueue_kept _ _ _ _ k2))

theorem execMstat_kept{b : State} : ∀ x0 x1 x2, Kept b x2 → KeptO b (execMstat x0 x1 x2) := by
  intro x0 x1 x2 h2
  unfold execMstat
  exact issue_kept _ _ _ _ _ h2 (fun y0 y1 k2 => withClaim_kept _ _ _ _ k2 (fun y3 => enqueue_kept _ _ _ _ k2))

theorem execMatrixQueueRetire_kept{b : State} : ∀ x0 x1, Kept b x1 → KeptO b (execMatrixQueueRetire x0 x1) := by
  intro x0 x1 h1
  unfold execMatrixQueueRetire
  refine guardWf_kept _ _ ?_
  refine keptO_next ?_
  extract_lets +onlyGivenNames v0
  clear_value v0
  extract_lets +onlyGivenNames v1
  clear_value v1
  split
  · exact h1
  · exact kept_ite h1 (setCore_kept _ _ _ h1)

theorem readRanges_kept{b : State} : ∀ x0 x1 x2 x3, Kept b x0 → Kept b (readRanges x0 x1 x2 x3).2.2 := by
  intro x0 x1 x2 x3 h0
  unfold readRanges
  refine kept_ite_2_2 ?_ ?_
  · exact h0
  · split
    · rename_i z3
      extract_lets +onlyGivenNames v4
      clear_value v4
      exact kept_ite_2_2 (kept_of_eq_2_2 z3 (tvaReadList_kept _ _ _ _ _ h0)) (kept_of_eq_2_2 z3 (tvaReadList_kept _ _ _ _ _ h0))
    · rename_i z10
      exact kept_of_eq_2_2 z10 (tvaReadList_kept _ _ _ _ _ h0)

theorem rangePieces_kept{b : State} : ∀ x0 x1 x2 x3 x4, Kept b x0 → Kept b (rangePieces x0 x1 x2 x3 x4).2.2 := by
  intro x0 x1 x2 x3 x4
  induction x2 generalizing x0 x1 x3 x4 with
  | zero =>
    intro h0
    unfold rangePieces
    exact h0
  | succ n ih =>
    intro h0
    unfold rangePieces
    refine kept_ite_2_2 ?_ ?_
    · exact h0
    · extract_lets +onlyGivenNames v0
      clear_value v0
      split
      · rename_i z5
        refine kept_ite_2_2 ?_ ?_
        · exact kept_of_eq_2_2_2 z5 (hubTranslate_kept _ _ _ _ h0)
        · split
          rename_i z10
          exact kept_of_eq_2_2 z10 (ih _ _ _ _ (kept_of_eq_2_2_2 z5 (hubTranslate_kept _ _ _ _ h0)))
      · rename_i z17
        exact kept_of_eq_2_2_2 z17 (hubTranslate_kept _ _ _ _ h0)

theorem allRuns_kept{b : State} : ∀ x0 x1 x2, Kept b x0 → Kept b (allRuns x0 x1 x2).2.2 := by
  intro x0 x1 x2
  induction x2 generalizing x0 x1 with
  | nil =>
    intro h0
    unfold allRuns
    exact h0
  | cons a l ih =>
    intro h0
    unfold allRuns
    split
    · rename_i z3
      split
      rename_i z8
      exact kept_of_eq_2_2 z8 (ih _ _ (kept_of_eq_2_2 z3 (rangePieces_kept _ _ _ _ _ h0)))
    · rename_i z14
      exact kept_of_eq_2_2 z14 (rangePieces_kept _ _ _ _ _ h0)

theorem beginStep_kept{b : State} : ∀ x0 x1 x2 x3, Kept b x0 → Kept b (beginStep x0 x1 x2 x3) := by
  intro x0 x1 x2 x3 h0
  unfold beginStep
  extract_lets +onlyGivenNames v0
  clear_value v0
  extract_lets +onlyGivenNames v1
  clear_value v1
  extract_lets +onlyGivenNames v2
  have p3 : ∀ y3000 y3001, Kept b y3000 → Kept b (v2 y3000 y3001) := by
    unfold v2
    exact fun y4 y5 k6 => finishUnit_kept _ _ _ _ (setRing_kept _ _ _ _ k6)
  clear_value v2
  refine kept_ite ?_ ?_
  · exact p3 _ _ h0
  · split
    · rename_i z10
      split
      · rename_i z14
        extract_lets +onlyGivenNames v15
        clear_value v15
        refine kept_ite ?_ ?_
        · exact p3 _ _ (kept_of_eq_2_2 z14 (allRuns_kept _ _ _ (kept_of_eq_2_2 z10 (readRanges_kept _ _ _ _ h0))))
        · refine kept_ite ?_ ?_
          · exact p3 _ _ (kept_of_eq_2_2 z14 (allRuns_kept _ _ _ (kept_of_eq_2_2 z10 (readRanges_kept _ _ _ _ h0))))
          · extract_lets +onlyGivenNames v16
            clear_value v16
            extract_lets +onlyGivenNames v17
            clear_value v17
            extract_lets +onlyGivenNames v18
            have p19 : Kept b v18 := by
              unfold v18
              exact setHub_kept _ _ _ (kept_of_eq_2_2 z14 (allRuns_kept _ _ _ (kept_of_eq_2_2 z10 (readRanges_kept _ _ _ _ h0))))
            clear_value v18
            exact finishUnit_kept _ _ _ _ (setRing_kept _ _ _ _ p19)
      · rename_i z25
        exact p3 _ _ (kept_of_eq_2_2 z25 (allRuns_kept _ _ _ (kept_of_eq_2_2 z10 (readRanges_kept _ _ _ _ h0))))
    · rename_i z31
      exact p3 _ _ (kept_of_eq_2_2 z31 (readRanges_kept _ _ _ _ h0))

theorem execStepBegin_kept{b : State} : ∀ x0 x1 x2, Kept b x2 → KeptO b (execStepBegin x0 x1 x2) := by
  intro x0 x1 x2 h2
  unfold execStepBegin
  exact onChosen_kept _ _ _ _ _ h2 (fun y0 => beginStep_kept _ _ _ _ h2)

theorem rangeBytes_kept{b : State} : ∀ x0 x1 x2, Kept b x0 → Kept b (rangeBytes x0 x1 x2).2.2 := by
  intro x0 x1 x2
  induction x2 generalizing x0 x1 with
  | nil =>
    intro h0
    unfold rangeBytes
    exact h0
  | cons a l ih =>
    intro h0
    unfold rangeBytes
    split
    · rename_i z3
      split
      rename_i z8
      exact kept_of_eq_2_2 z8 (ih _ _ (kept_of_eq_2_2 z3 (tvaReadList_kept _ _ _ _ _ h0)))
    · rename_i z14
      exact kept_of_eq_2_2 z14 (tvaReadList_kept _ _ _ _ _ h0)

theorem commitEnd_kept{b : State} : ∀ x0 x1 x2, Kept b x0 → Kept b (commitEnd x0 x1 x2).2.2.2 := by
  intro x0 x1 x2 h0
  unfold commitEnd
  split
  · rename_i z3
    refine kept_ite_2_2_2 ?_ ?_
    · exact kept_of_eq_2_2 z3 (readRanges_kept _ _ _ _ h0)
    · split
      · rename_i z7
        exact kept_of_eq_2_2 z7 (rangeBytes_kept _ _ _ (kept_of_eq_2_2 z3 (readRanges_kept _ _ _ _ h0)))
      · rename_i z13
        exact kept_of_eq_2_2 z13 (rangeBytes_kept _ _ _ (kept_of_eq_2_2 z3 (readRanges_kept _ _ _ _ h0)))
  · rename_i z19
    exact kept_of_eq_2_2 z19 (readRanges_kept _ _ _ _ h0)

theorem commitStep.setFailed_kept{b : State} : ∀ x0 x1 x2, Kept b x0 → Kept b (commitStep.setFailed x0 x1 x2) := by
  intro x0 x1 x2 h0
  unfold commitStep.setFailed
  split
  · exact setStep_kept _ _ _ _ h0
  · exact h0

theorem commitStep_kept{b : State} : ∀ x0 x1 x2 x3, Kept b x0 → Kept b (commitStep x0 x1 x2 x3) := by
  intro x0 x1 x2 x3 h0
  unfold commitStep
  split
  · exact finishUnit_kept _ _ _ _ h0
  · split
    · exact finishUnit_kept _ _ _ _ h0
    · refine kept_ite ?_ ?_
      · exact finishUnit_kept _ _ _ _ h0
      · split
        · rename_i z14
          exact closeStep_kept _ _ _ (finishRaw_kept _ _ _ _ _ _ (kept_of_eq_2_2_2 z14 (commitEnd_kept _ _ _ (setStep_kept _ _ _ _ h0))))
        · rename_i z21
          exact commitStep.setFailed_kept _ _ _ (finishRaw_kept _ _ _ _ _ _ (kept_of_eq_2_2_2 z21 (commitEnd_kept _ _ _ (setStep_kept _ _ _ _ h0))))

theorem execStepCommit_kept{b : State} : ∀ x0 x1 x2, Kept b x2 → KeptO b (execStepCommit x0 x1 x2) := by
  intro x0 x1 x2 h2
  unfold execStepCommit
  exact onChosen_kept _ _ _ _ _ h2 (fun y0 => commitStep_kept _ _ _ _ h2)

theorem execStepAbort_kept{b : State} : ∀ x0 x1 x2, Kept b x2 → KeptO b (execStepAbort x0 x1 x2) := by
  intro x0 x1 x2 h2
  unfold execStepAbort
  refine onChosen_kept _ _ _ _ _ ?_ ?_
  · exact h2
  · intro y0
    split
    · exact abortStep_kept _ _ _ _ (setOp_kept _ _ _ _ h2)
    · exact finishUnit_kept _ _ _ _ h2

theorem execStepReplay_kept{b : State} : ∀ x0 x1 x2, Kept b x2 → KeptO b (execStepReplay x0 x1 x2) := by
  intro x0 x1 x2 h2
  unfold execStepReplay
  refine onChosen_kept _ _ _ _ _ ?_ ?_
  · exact h2
  · intro y0
    split
    · split
      · exact finishUnit_kept _ _ _ _ h2
      · refine kept_ite ?_ ?_
        · exact finishUnit_kept _ _ _ _ h2
        · refine kept_ite ?_ ?_
          · exact finishUnit_kept _ _ _ _ (emit_kept _ _ _ _ h2)
          · extract_lets +onlyGivenNames v10
            have p11 : Kept b v10 := by
              unfold v10
              exact setStep_kept _ _ _ _ h2
            clear_value v10
            extract_lets +onlyGivenNames v12
            clear_value v12
            exact finishUnit_kept _ _ _ _ (setHub_kept _ _ _ p11)
    · exact finishUnit_kept _ _ _ _ h2

theorem rereadSlots_kept{b : State} : ∀ x0 x1 x2 x3 x4, Kept b x0 → Kept b (rereadSlots x0 x1 x2 x3 x4).2.2 := by
  intro x0 x1 x2 x3 x4
  induction x3 generalizing x0 x1 x2 x4 with
  | zero =>
    intro h0
    unfold rereadSlots
    exact h0
  | succ n ih =>
    intro h0
    unfold rereadSlots
    split
    · rename_i z3
      split
      rename_i z8
      exact kept_of_eq_2_2 z8 (ih _ _ _ _ (kept_of_eq_2_2 z3 (readSlot_kept _ _ _ _ h0)))
    · rename_i z14
      exact kept_of_eq_2_2 z14 (readSlot_kept _ _ _ _ h0)

theorem execStepReexecution_kept{b : State} : ∀ x0 x1 x2, Kept b x2 → KeptO b (execStepReexecution x0 x1 x2) := by
  intro x0 x1 x2 h2
  unfold execStepReexecution
  refine guardWf_kept _ _ ?_
  refine keptO_next ?_
  split
  · exact h2
  · refine kept_ite ?_ ?_
    · exact h2
    · extract_lets +onlyGivenNames v5
      clear_value v5
      extract_lets +onlyGivenNames v6
      clear_value v6
      split
      · rename_i z10
        extract_lets +onlyGivenNames v11
        clear_value v11
        exact setRing_kept _ _ _ _ (setStep_kept _ _ _ _ (forgetSince_kept _ _ _ (kept_of_eq_2_2 z10 (rereadSlots_kept _ _ _ _ _ h2))))
      · rename_i z17
        exact ringError_kept _ _ _ _ (kept_of_eq_2_2 z17 (rereadSlots_kept _ _ _ _ _ h2))

theorem pkgNumSet_kept{b : State} : ∀ x0 x1 x2, Kept b x0 → Kept b (pkgNumSet x0 x1 x2) := by
  intro x0 x1 x2 h0
  unfold pkgNumSet
  exact kept_ite h0 (setRbit_kept _ _ _ _ (setReg_kept _ _ _ h0))

theorem tenCfgWrite_kept{b : State} : ∀ x0 x1 x2 x3, Kept b x0 → Kept b (tenCfgWrite x0 x1 x2 x3) := by
  intro x0 x1 x2 x3 h0
  unfold tenCfgWrite
  extract_lets +onlyGivenNames v0
  clear_value v0
  exact kept_ite (writeRefused_kept _ _ _ h0) (setReg_kept _ _ _ h0)

theorem partCfgWrite_kept{b : State} : ∀ x0 x1 x2 x3, Kept b x0 → Kept b (partCfgWrite x0 x1 x2 x3) := by
  intro x0 x1 x2 x3 h0
  unfold partCfgWrite
  exact kept_ite (writeRefused_kept _ _ _ h0) (writeReg_kept _ _ _ h0)

theorem ownWrite_kept{b : State} : ∀ x0 x1 x2 x3 x4, Kept b x0 → Kept b (ownWrite x0 x1 x2 x3 x4) := by
  intro x0 x1 x2 x3 x4 h0
  unfold ownWrite
  extract_lets +onlyGivenNames v0
  clear_value v0
  extract_lets +onlyGivenNames v1
  have p2 : ∀ y2000 y2001 y2002, Kept b y2000 → Kept b (v1 y2000 y2001 y2002) := by
    unfold v1
    intro y3 y4 y5 k6
    refine kept_ite ?_ ?_
    · exact k6
    · extract_lets +onlyGivenNames v7
      clear_value v7
      exact setHub_kept _ _ _ k6
  clear_value v1
  exact p2 _ _ _ (p2 _ _ _ h0)

theorem treeWrite_kept{b : State} : ∀ x0 x1 x2 x3, Kept b x0 → Kept b (treeWrite x0 x1 x2 x3) := by
  intro x0 x1 x2 x3 h0
  unfold treeWrite
  exact kept_ite (treeWrite0_kept _ _ _ h0) (kept_ite h0 (writeReg_kept _ _ _ h0))

theorem connWrite_kept{b : State} : ∀ x0 x1 x2 x3 x4, Kept b x0 → Kept b (connWrite x0 x1 x2 x3 x4) := by
  intro x0 x1 x2 x3 x4 h0
  unfold connWrite
  exact kept_ite (connWrite0_kept _ _ _ _ h0) (kept_ite h0 (writeReg_kept _ _ _ h0))

theorem pkgWrite_kept{b : State} : ∀ x0 x1 x2 x3 x4, Kept b x0 → Kept b (pkgWrite x0 x1 x2 x3 x4) := by
  intro x0 x1 x2 x3 x4 h0
  unfold pkgWrite
  refine kept_ite ?_ ?_
  · exact pkgNumSet_kept _ _ _ h0
  · refine kept_ite ?_ ?_
    · exact kept_ite (preferWrite_kept _ _ h0) h0
    · refine kept_ite ?_ ?_
      · exact rstCmdWrite_kept _ _ _ h0
      · exact kept_ite (kept_ite (prepareWrite_kept _ _ h0) h0) (kept_ite (commitWrite_kept _ _ h0) (kept_ite (kept_ite h0 (writeReg_kept _ _ _ h0)) (kept_ite (evtCtlWrite_kept _ _ h0) (kept_ite (kept_ite (evtHeadWrite_kept _ _ h0) h0) (kept_ite (fwCmdWrite_kept _ _ h0) (kept_ite (dbgCtlSet_kept _ _ h0) (kept_ite (pwrCtlWrite_kept _ _ h0) (kept_ite (treeWrite_kept _ _ _ _ h0) (writeReg_kept _ _ _ h0)))))))))

theorem partRegWrite_kept{b : State} : ∀ x0 x1 x2 x3 x4 x5, Kept b x0 → Kept b (partRegWrite x0 x1 x2 x3 x4 x5) := by
  intro x0 x1 x2 x3 x4 x5 h0
  unfold partRegWrite
  refine kept_ite ?_ ?_
  · exact ringCmdWrite_kept _ _ _ h0
  · refine kept_ite ?_ ?_
    · exact kept_ite h0 (writeReg_kept _ _ _ h0)
    · refine kept_ite ?_ ?_
      · exact partCfgWrite_kept _ _ _ _ h0
      · refine kept_ite ?_ ?_
        · exact tlbInvWrite_kept _ _ _ h0
        · refine kept_ite ?_ ?_
          · extract_lets +onlyGivenNames v0
            clear_value v0
            extract_lets +onlyGivenNames v1
            clear_value v1
            exact segModeWrite_kept _ _ _ _ h0
          · refine kept_ite ?_ ?_
            · exact rdcCtlWrite_kept _ _ _ h0
            · refine kept_ite ?_ ?_
              · extract_lets +onlyGivenNames v2
                clear_value v2
                extract_lets +onlyGivenNames v3
                clear_value v3
                extract_lets +onlyGivenNames v4
                clear_value v4
                exact kept_ite (kept_ite h0 (setGrpWord_kept _ _ _ _ _ h0)) (grpWrite_kept _ _ _ _ h0)
              · exact kept_ite (ownWrite_kept _ _ _ _ _ h0) (writeReg_kept _ _ _ h0)

theorem optWrite_kept{b : State} : ∀ x0 x1 x2 x3 x4, Kept b x0 → Kept b (optWrite x0 x1 x2 x3 x4) := by
  intro x0 x1 x2 x3 x4 h0
  unfold optWrite
  refine kept_ite ?_ ?_
  · exact steerCmdWrite_kept _ _ _ h0
  · refine kept_ite ?_ ?_
    · exact writeRefused_kept _ _ _ h0
    · refine kept_ite ?_ ?_
      · extract_lets +onlyGivenNames v0
        have p1 : Kept b v0 := by
          unfold v0
          exact writeReg_kept _ _ _ h0
        clear_value v0
        exact kept_ite p1 (health_kept _ (freePlanes_kept _ _ (kept_mk (kept_eta p1))))
      · exact kept_ite (health_kept _ (freePlanes_kept _ _ (writeReg_kept _ _ _ h0))) (writeReg_kept _ _ _ h0)

theorem regWrite_kept{b : State} : ∀ x0 x1 x2 x3 x4, Kept b x0 → Kept b (regWrite x0 x1 x2 x3 x4) := by
  intro x0 x1 x2 x3 x4 h0
  unfold regWrite
  split
  · exact h0
  · extract_lets +onlyGivenNames v5
    clear_value v5
    split
    · exact pkgWrite_kept _ _ _ _ _ h0
    · exact partRegWrite_kept _ _ _ _ _ _ h0
    · exact optWrite_kept _ _ _ _ _ h0
    · exact kept_ite (connWrite_kept _ _ _ _ _ h0) (writeReg_kept _ _ _ h0)
    · exact kept_ite (tenCfgWrite_kept _ _ _ _ h0) (writeReg_kept _ _ _ h0)

theorem barWrite_kept{b : State} : ∀ x0 x1 x2 x3 x4, Kept b x0 → Kept b (barWrite x0 x1 x2 x3 x4) := by
  intro x0 x1 x2 x3 x4 h0
  unfold barWrite
  extract_lets +onlyGivenNames v0
  clear_value v0
  extract_lets +onlyGivenNames v1
  clear_value v1
  exact kept_ite (kept_ite h0 (writeRefused_kept _ _ _ (kept_ite (renewLease_kept _ h0) h0))) (kept_ite (lockWrite_kept _ _ _ _ h0) (adminWrite_kept _ _ _ _ h0 (fun y2 k3 => regWrite_kept _ _ _ _ _ k3)))

theorem barWrites_kept{b : State} : ∀ x0 x1 x2 x3 x4, Kept b x4 → Kept b (barWrites x0 x1 x2 x3 x4) := by
  intro x0 x1 x2 x3 x4
  induction x1 generalizing x0 x2 x3 x4 with
  | zero =>
    intro h4
    unfold barWrites
    exact h4
  | succ n ih =>
    intro h4
    unfold barWrites
    exact ih _ _ _ _ (barWrite_kept _ _ _ _ _ h4)

theorem execRegisterWrite_kept{b : State} : ∀ x0 x1 x2 x3 x4, Kept b x4 → KeptO b (execRegisterWrite x0 x1 x2 x3 x4) := by
  intro x0 x1 x2 x3 x4 h3
  unfold execRegisterWrite
  exact guardWf_kept _ _ (keptO_next (kept_ite h3 (kept_ite (barWrites_kept _ _ _ _ _ h3) (barWrite_kept _ _ _ _ _ h3))))

theorem execPkgNumWrite_kept{b : State} : ∀ x0 x1 x2, Kept b x2 → KeptO b (execPkgNumWrite x0 x1 x2) := by
  intro x0 x1 x2 h2
  unfold execPkgNumWrite
  exact adminCmd_kept _ _ _ _ h2 (fun y0 k1 => pkgNumSet_kept _ _ _ k1)

theorem execMctpMessage_kept{b : State} : ∀ x0 x1, Kept b x1 → KeptO b (execMctpMessage x0 x1) := by
  intro x0 x1 h1
  unfold execMctpMessage
  exact guardWf_kept _ _ (keptO_next (kept_ite h1 (kept_mk (kept_eta h1))))

theorem vDone_kept{b : State} : ∀ x0 x1 x2 x3 x4 x5, Kept b x0 → Kept b (vDone x0 x1 x2 x3 x4 x5) := by
  intro x0 x1 x2 x3 x4 x5 h0
  unfold vDone
  extract_lets +onlyGivenNames v0
  clear_value v0
  exact fin_kept _ _ _ (setCore_kept _ _ _ h0)

theorem vScalar_kept{b : State} : ∀ x0 x1 x2 x3 x4 x5, Kept b x0 → Kept b (vScalar x0 x1 x2 x3 x4 x5) := by
  intro x0 x1 x2 x3 x4 x5 h0
  unfold vScalar
  extract_lets +onlyGivenNames v0
  clear_value v0
  exact fin_kept _ _ _ (setCore_kept _ _ _ h0)

theorem execVint_kept{b : State} : ∀ x0 x1 x2, Kept b x2 → KeptO b (execVint x0 x1 x2) := by
  intro x0 x1 x2 h2
  unfold execVint
  refine issue_kept _ _ _ _ _ ?_ ?_
  · exact h2
  · intro y0 y1 k2
    extract_lets +onlyGivenNames v3
    clear_value v3
    extract_lets +onlyGivenNames v4
    clear_value v4
    extract_lets +onlyGivenNames v5
    clear_value v5
    exact vDone_kept _ _ _ _ _ _ k2

theorem execVlog_kept{b : State} : ∀ x0 x1 x2, Kept b x2 → KeptO b (execVlog x0 x1 x2) := by
  intro x0 x1 x2 h2
  unfold execVlog
  refine issue_kept _ _ _ _ _ ?_ ?_
  · exact h2
  · intro y0 y1 k2
    extract_lets +onlyGivenNames v3
    clear_value v3
    extract_lets +onlyGivenNames v4
    clear_value v4
    exact vDone_kept _ _ _ _ _ _ k2

theorem execVshf_kept{b : State} : ∀ x0 x1 x2, Kept b x2 → KeptO b (execVshf x0 x1 x2) := by
  intro x0 x1 x2 h2
  unfold execVshf
  refine issue_kept _ _ _ _ _ ?_ ?_
  · exact h2
  · intro y0 y1 k2
    extract_lets +onlyGivenNames v3
    clear_value v3
    extract_lets +onlyGivenNames v4
    clear_value v4
    extract_lets +onlyGivenNames v5
    clear_value v5
    extract_lets +onlyGivenNames v6
    clear_value v6
    extract_lets +onlyGivenNames v7
    clear_value v7
    exact vDone_kept _ _ _ _ _ _ k2

theorem execVfp_kept{b : State} : ∀ x0 x1 x2, Kept b x2 → KeptO b (execVfp x0 x1 x2) := by
  intro x0 x1 x2 h2
  unfold execVfp
  refine issue_kept _ _ _ _ _ ?_ ?_
  · exact h2
  · intro y0 y1 k2
    extract_lets +onlyGivenNames v3
    clear_value v3
    extract_lets +onlyGivenNames v4
    clear_value v4
    exact vDone_kept _ _ _ _ _ _ k2

theorem execVfma_kept{b : State} : ∀ x0 x1 x2, Kept b x2 → KeptO b (execVfma x0 x1 x2) := by
  intro x0 x1 x2 h2
  unfold execVfma
  refine issue_kept _ _ _ _ _ ?_ ?_
  · exact h2
  · intro y0 y1 k2
    extract_lets +onlyGivenNames v3
    clear_value v3
    extract_lets +onlyGivenNames v4
    clear_value v4
    extract_lets +onlyGivenNames v5
    clear_value v5
    exact vDone_kept _ _ _ _ _ _ k2

theorem execVcmp_kept{b : State} : ∀ x0 x1 x2, Kept b x2 → KeptO b (execVcmp x0 x1 x2) := by
  intro x0 x1 x2 h2
  unfold execVcmp
  refine issue_kept _ _ _ _ _ ?_ ?_
  · exact h2
  · intro y0 y1 k2
    extract_lets +onlyGivenNames v3
    clear_value v3
    extract_lets +onlyGivenNames v4
    clear_value v4
    extract_lets +onlyGivenNames v5
    clear_value v5
    extract_lets +onlyGivenNames v6
    clear_value v6
    exact vScalar_kept _ _ _ _ _ _ k2

theorem execVsel_kept{b : State} : ∀ x0 x1 x2, Kept b x2 → KeptO b (execVsel x0 x1 x2) := by
  intro x0 x1 x2 h2
  unfold execVsel
  refine issue_kept _ _ _ _ _ ?_ ?_
  · exact h2
  · intro y0 y1 k2
    extract_lets +onlyGivenNames v3
    clear_value v3
    extract_lets +onlyGivenNames v4
    clear_value v4
    extract_lets +onlyGivenNames v5
    clear_value v5
    extract_lets +onlyGivenNames v6
    clear_value v6
    exact vDone_kept _ _ _ _ _ _ k2

theorem execVmov_kept{b : State} : ∀ x0 x1 x2, Kept b x2 → KeptO b (execVmov x0 x1 x2) := by
  intro x0 x1 x2 h2
  unfold execVmov
  refine issue_kept _ _ _ _ _ ?_ ?_
  · exact h2
  · intro y0 y1 k2
    extract_lets +onlyGivenNames v3
    clear_value v3
    exact vDone_kept _ _ _ _ _ _ k2

theorem execVext_kept{b : State} : ∀ x0 x1 x2, Kept b x2 → KeptO b (execVext x0 x1 x2) := by
  intro x0 x1 x2 h2
  unfold execVext
  refine issue_kept _ _ _ _ _ ?_ ?_
  · exact h2
  · intro y0 y1 k2
    extract_lets +onlyGivenNames v3
    clear_value v3
    exact vScalar_kept _ _ _ _ _ _ k2

theorem execVins_kept{b : State} : ∀ x0 x1 x2, Kept b x2 → KeptO b (execVins x0 x1 x2) := by
  intro x0 x1 x2 h2
  unfold execVins
  refine issue_kept _ _ _ _ _ ?_ ?_
  · exact h2
  · intro y0 y1 k2
    extract_lets +onlyGivenNames v3
    clear_value v3
    exact vDone_kept _ _ _ _ _ _ k2

theorem execVapx_kept{b : State} : ∀ x0 x1 x2, Kept b x2 → KeptO b (execVapx x0 x1 x2) := by
  intro x0 x1 x2 h2
  unfold execVapx
  refine issue_kept _ _ _ _ _ ?_ ?_
  · exact h2
  · intro y0 y1 k2
    extract_lets +onlyGivenNames v3
    clear_value v3
    exact vDone_kept _ _ _ _ _ _ k2

theorem execVf2i_kept{b : State} : ∀ x0 x1 x2, Kept b x2 → KeptO b (execVf2i x0 x1 x2) := by
  intro x0 x1 x2 h2
  unfold execVf2i
  refine issue_kept _ _ _ _ _ ?_ ?_
  · exact h2
  · intro y0 y1 k2
    extract_lets +onlyGivenNames v3
    clear_value v3
    exact vDone_kept _ _ _ _ _ _ k2

theorem execVi2f_kept{b : State} : ∀ x0 x1 x2, Kept b x2 → KeptO b (execVi2f x0 x1 x2) := by
  intro x0 x1 x2 h2
  unfold execVi2f
  refine issue_kept _ _ _ _ _ ?_ ?_
  · exact h2
  · intro y0 y1 k2
    extract_lets +onlyGivenNames v3
    clear_value v3
    exact vDone_kept _ _ _ _ _ _ k2

theorem execVpack_kept{b : State} : ∀ x0 x1 x2, Kept b x2 → KeptO b (execVpack x0 x1 x2) := by
  intro x0 x1 x2 h2
  unfold execVpack
  refine issue_kept _ _ _ _ _ ?_ ?_
  · exact h2
  · intro y0 y1 k2
    extract_lets +onlyGivenNames v3
    clear_value v3
    extract_lets +onlyGivenNames v4
    clear_value v4
    extract_lets +onlyGivenNames v5
    clear_value v5
    extract_lets +onlyGivenNames v6
    clear_value v6
    extract_lets +onlyGivenNames v7
    clear_value v7
    exact vDone_kept _ _ _ _ _ _ k2

theorem execVunpk_kept{b : State} : ∀ x0 x1 x2, Kept b x2 → KeptO b (execVunpk x0 x1 x2) := by
  intro x0 x1 x2 h2
  unfold execVunpk
  refine issue_kept _ _ _ _ _ ?_ ?_
  · exact h2
  · intro y0 y1 k2
    extract_lets +onlyGivenNames v3
    clear_value v3
    extract_lets +onlyGivenNames v4
    clear_value v4
    extract_lets +onlyGivenNames v5
    clear_value v5
    extract_lets +onlyGivenNames v6
    clear_value v6
    exact vDone_kept _ _ _ _ _ _ k2

theorem execVmde_kept{b : State} : ∀ x0 x1 x2, Kept b x2 → KeptO b (execVmde x0 x1 x2) := by
  intro x0 x1 x2 h2
  unfold execVmde
  refine issue_kept _ _ _ _ _ ?_ ?_
  · exact h2
  · intro y0 y1 k2
    extract_lets +onlyGivenNames v3
    clear_value v3
    exact vDone_kept _ _ _ _ _ _ k2

theorem execVmdd_kept{b : State} : ∀ x0 x1 x2, Kept b x2 → KeptO b (execVmdd x0 x1 x2) := by
  intro x0 x1 x2 h2
  unfold execVmdd
  refine issue_kept _ _ _ _ _ ?_ ?_
  · exact h2
  · intro y0 y1 k2
    extract_lets +onlyGivenNames v3
    clear_value v3
    extract_lets +onlyGivenNames v4
    clear_value v4
    exact vDone_kept _ _ _ _ _ _ k2

theorem execVscale_kept{b : State} : ∀ x0 x1 x2, Kept b x2 → KeptO b (execVscale x0 x1 x2) := by
  intro x0 x1 x2 h2
  unfold execVscale
  exact issue_kept _ _ _ _ _ h2 (fun y0 y1 k2 => vScalar_kept _ _ _ _ _ _ k2)

theorem execVred_kept{b : State} : ∀ x0 x1 x2, Kept b x2 → KeptO b (execVred x0 x1 x2) := by
  intro x0 x1 x2 h2
  unfold execVred
  refine issue_kept _ _ _ _ _ ?_ ?_
  · exact h2
  · intro y0 y1 k2
    extract_lets +onlyGivenNames v3
    clear_value v3
    exact vScalar_kept _ _ _ _ _ _ k2

end Sys2Proof.Machine
end

