-- ==== Sys2Proof/Laws/KeptStep.lean ====
section
/-! SUPPORT. `f_kept` (Laws/Kept.lean) for the functions of every command. -/
namespace Sys2Proof.Machine

theorem exec_kept{b : State} : ∀ x0 x1, Kept b x1 → KeptO b (exec x0 x1) := by
  intro x0 x1 h1
  unfold exec
  split
  · exact execColdStartReference_kept _ _ h1
  · exact execCapabilityRecord_kept _ _ _ h1
  · exact execPartitionReady_kept _ _ h1
  · exact execPcieConfigRequest_kept _ _ _ _ h1
  · exact execPcieEarlyBarAccess_kept _ _ _ h1
  · exact execUcieModuleRetrain_kept _ _ _ _ _ h1
  · exact execPartUnreachable_kept _ _ _ _ _ h1
  · exact execRefclkLoss_kept _ _ h1
  · exact execRefclkSwitchover_kept _ h1
  · exact execRefclkGood_kept _ _ h1
  · exact execRefclkPreferWrite_kept _ _ _ h1
  · exact execTsSync_kept _ _ h1
  · exact execTbLockLoss_kept _ h1
  · exact execOperatingPointChange_kept _ _ _ h1
  · exact execOscillatorCheck_kept _ _ _ h1
  · exact execMclaim_kept _ _ _ h1
  · exact execMrel_kept _ _ _ h1
  · exact execMcfg_kept _ _ _ h1
  · exact execMstream_kept _ _ _ h1
  · exact execMrun_kept _ _ _ h1
  · exact execMswap_kept _ _ _ h1
  · exact execMzero_kept _ _ _ h1
  · exact execMstat_kept _ _ _ h1
  · exact execAlu_kept _ _ _ h1
  · exact execAlui_kept _ _ _ h1
  · exact execCmp_kept _ _ _ h1
  · exact execCmpi_kept _ _ _ h1
  · exact execMovi_kept _ _ _ h1
  · exact execMovhi_kept _ _ _ h1
  · exact execSel_kept _ _ _ h1
  · exact execPlog_kept _ _ _ h1
  · exact execRdsr_kept _ _ _ _ h1
  · exact execBr_kept _ _ _ h1
  · exact execJal_kept _ _ _ h1
  · exact execJr_kept _ _ _ h1
  · exact execEndThread_kept _ _ _ h1
  · exact execYield_kept _ _ _ h1
  · exact execYieldExpiry_kept _ _ h1
  · exact execLdl_kept _ _ _ h1
  · exact execStl_kept _ _ _ h1
  · exact execLdr_kept _ _ _ h1
  · exact execStr_kept _ _ _ h1
  · exact execLdg_kept _ _ _ _ h1
  · exact execStg_kept _ _ _ _ h1
  · exact execAtom_kept _ _ _ h1
  · exact execStoreFault_kept _ _ _ _ h1
  · exact execFenceRel_kept _ _ _ h1
  · exact execFenceAcq_kept _ _ _ h1
  · exact execFenceFull_kept _ _ _ h1
  · exact execWaitl_kept _ _ _ h1
  · exact execWaitc_kept _ _ _ h1
  · exact execWaitInstrTimeout_kept _ _ h1
  · exact execBarc_kept _ _ _ h1
  · exact execBarl_kept _ _ _ h1
  · exact execLcset_kept _ _ _ h1
  · exact execLcadd_kept _ _ _ h1
  · exact execPref_kept _ _ _ h1
  · exact execSpset_kept _ _ _ h1
  · exact execSpstop_kept _ _ _ h1
  · exact execCpreq_kept _ _ _ h1
  · exact execNop_kept _ _ _ h1
  · exact execTrap_kept _ _ _ h1
  · exact execNwread_kept _ _ _ h1
  · exact execPhint_kept _ _ _ h1
  · exact execVint_kept _ _ _ h1
  · exact execVlog_kept _ _ _ h1
  · exact execVshf_kept _ _ _ h1
  · exact execVfp_kept _ _ _ h1
  · exact execVfma_kept _ _ _ h1
  · exact execVcmp_kept _ _ _ h1
  · exact execVsel_kept _ _ _ h1
  · exact execVmov_kept _ _ _ h1
  · exact execVext_kept _ _ _ h1
  · exact execVins_kept _ _ _ h1
  · exact execVapx_kept _ _ _ h1
  · exact execVf2i_kept _ _ _ h1
  · exact execVi2f_kept _ _ _ h1
  · exact execVpack_kept _ _ _ h1
  · exact execVunpk_kept _ _ _ h1
  · exact execVmde_kept _ _ _ h1
  · exact execVmdd_kept _ _ _ h1
  · exact execVscale_kept _ _ _ h1
  · exact execVred_kept _ _ _ h1
  · exact execIdlePublication_kept _ _ _ h1
  · exact execSeOpen_kept _ _ h1
  · exact execSeClose_kept _ _ h1
  · exact execSeAttend_kept _ _ h1
  · exact execSeSelect_kept _ _ h1
  · exact execSeAttendSel_kept _ _ h1
  · exact execSeAppend_kept _ _ h1
  · exact execSeMoveKeepRange_kept _ _ h1
  · exact execSeMoveKeepList_kept _ _ h1
  · exact execSeMoveOut_kept _ _ h1
  · exact execSeMoveIn_kept _ _ h1
  · exact execSeStatsContext_kept _ _ h1
  · exact execSeStatsStack_kept _ _ h1
  · exact execHubLineRead_kept _ _ _ h1
  · exact execHubLineWrite_kept _ _ _ _ h1
  · exact execHubAtomic_kept _ _ _ _ _ h1
  · exact execAccessDeniedWindowClose_kept _ _ _ h1
  · exact execTlbInv_kept _ _ _ _ h1
  · exact execTlbInvDone_kept _ _ h1
  · exact execHbmSegModeWrite_kept _ _ _ _ _ h1
  · exact execHbmSegModeApply_kept _ _ _ h1
  · exact execRdcInv_kept _ _ _ _ h1
  · exact execCopy_kept _ _ _ h1
  · exact execCopyUnitAck_kept _ _ _ _ h1
  · exact execLaunchStart_kept _ _ h1
  · exact execKernelComplete_kept _ _ _ h1
  · exact execKernelTimeout_kept _ _ _ h1
  · exact execCoreFault_kept _ _ h1
  · exact execClusterCutout_kept _ _ _ h1
  · exact execBrambleToken_kept _ _ _ h1
  · exact execBrambleArrival_kept _ _ _ _ h1
  · exact execHubRoute_kept _ _ _ h1
  · exact execRouteFailover_kept _ _ _ h1
  · exact execLinkTimeout_kept _ _ _ h1
  · exact execDescriptorFetch_kept _ _ _ _ h1
  · exact execDispatch_kept _ _ h1
  · exact execEnergyGateStarvation_kept _ _ _ h1
  · exact execSqDb_kept _ _ _ h1
  · exact execCqDb_kept _ _ _ h1
  · exact execSqAdd_kept _ _ _ h1
  · exact execRingCreate_kept _ _ _ _ h1
  · exact execRingDestroy_kept _ _ _ _ h1
  · exact execRingReset_kept _ _ _ _ h1
  · exact execRingQuery_kept _ _ _ _ h1
  · exact execRingClosingDone_kept _ _ _ h1
  · exact execKernel_kept _ _ _ h1
  · exact execSeCmd_kept _ _ _ h1
  · exact execWaitCounter_kept _ _ _ h1
  · exact execWaitWord_kept _ _ _ h1
  · exact execWaitWordPoll_kept _ _ _ h1
  · exact execWaitTimeout_kept _ _ _ h1
  · exact execCounterAdd_kept _ _ _ h1
  · exact execCounterSet_kept _ _ _ h1
  · exact execWrite64_kept _ _ _ h1
  · exact execSignalSqAdd_kept _ _ _ h1
  · exact execFenceDescRel_kept _ _ _ h1
  · exact execFenceDescAcq_kept _ _ _ h1
  · exact execFenceDescFull_kept _ _ _ h1
  · exact execStepBegin_kept _ _ _ h1
  · exact execStepCommit_kept _ _ _ h1
  · exact execStepAbort_kept _ _ _ h1
  · exact execStepReplay_kept _ _ _ h1
  · exact execStepReexecution_kept _ _ _ h1
  · exact execHint_kept _ _ _ h1
  · exact execHintRampStart_kept _ _ _ h1
  · exact execHintEnd_kept _ _ _ h1
  · exact execFieldTest_kept _ _ _ h1
  · exact execFieldTestDrainTimeout_kept _ h1
  · exact execFieldTestResult_kept _ _ h1
  · exact execNopDescriptor_kept _ _ _ h1
  · exact execAllReduce_kept _ _ _ h1
  · exact execReduceScatter_kept _ _ _ h1
  · exact execAllGather_kept _ _ _ h1
  · exact execBroadcast_kept _ _ _ h1
  · exact execAllToAll_kept _ _ _ h1
  · exact execReduce_kept _ _ _ h1
  · exact execBarrier_kept _ _ _ h1
  · exact execCollectiveJoin_kept _ _ _ h1
  · exact execCollectivePacket_kept _ _ _ h1
  · exact execCollectiveAbort_kept _ _ _ h1
  · exact execCollectiveTimeout_kept _ _ _ h1
  · exact execPhaseBoundary_kept _ _ _ h1
  · exact execGroupReady_kept _ _ _ _ h1
  · exact execGroupDisarm_kept _ _ _ _ h1
  · exact execCurrantBarrier_kept _ _ _ h1
  · exact execSmallAllReduce_kept _ _ _ h1
  · exact execSmallBcast_kept _ _ _ h1
  · exact execUp_kept _ _ h1
  · exact execDown_kept _ _ h1
  · exact execTreeAbort_kept _ _ h1
  · exact execCurrantAck_kept _ _ _ h1
  · exact execCurrantResend_kept _ _ h1
  · exact execCurrantTreeTimeout_kept _ _ _ h1
  · exact execCurTreeValidSet_kept _ _ _ _ h1
  · exact execCurTreeValidClear_kept _ _ _ _ h1
  · exact execSteeringRequest_kept _ _ h1
  · exact execSteeringPoint_kept _ _ h1
  · exact execRelockDone_kept _ _ _ h1
  · exact execCalibrationPeriod_kept _ _ _ h1
  · exact execSwapOut_kept _ _ _ h1
  · exact execRetuneEnd_kept _ _ _ _ h1
  · exact execSwapBack_kept _ _ _ h1
  · exact execSparelessOut_kept _ _ _ h1
  · exact execSparelessReturn_kept _ _ _ _ h1
  · exact execLaserBiasControl_kept _ _ _ _ h1
  · exact execLaserFailure_kept _ _ _ _ h1
  · exact execOmaMeasurement_kept _ _ _ _ h1
  · exact execRxOmaPublish_kept _ _ h1
  · exact execPortSpareTimeout_kept _ _ h1
  · exact execDataFlit_kept _ _ _ h1
  · exact execIdleFlit_kept _ _ _ h1
  · exact execReplayTimeout_kept _ _ h1
  · exact execNakRepeat_kept _ _ h1
  · exact execCredit_kept _ _ _ h1
  · exact execRxPower_kept _ _ _ h1
  · exact execSteerAnn_kept _ _ _ _ h1
  · exact execLaneChg_kept _ _ _ h1
  · exact execLaneChangeBoundary_kept _ _ _ h1
  · exact execRoleMap_kept _ _ _ _ h1
  · exact execCalReq_kept _ _ _ h1
  · exact execLinkId_kept _ _ _ h1
  · exact execControlMessageSend_kept _ _ _ h1
  · exact execAlignmentMarker_kept _ _ _ _ _ h1
  · exact execWavelengthLoss_kept _ _ _ h1
  · exact execCodewordLockRegained_kept _ _ h1
  · exact execLinkTraining_kept _ _ _ _ h1
  · exact execLinkDown_kept _ _ h1
  · exact execRetrain_kept _ _ h1
  · exact execGpData_kept _ _ _ h1
  · exact execGpAck_kept _ _ _ h1
  · exact execGpNak_kept _ _ _ h1
  · exact execGpSync_kept _ _ _ h1
  · exact execGpRto_kept _ _ _ h1
  · exact execPfcFrame_kept _ _ _ _ h1
  · exact execGpConnValidSet_kept _ _ _ _ _ h1
  · exact execPowerEstimate_kept _ _ h1
  · exact execAllowance_kept _ h1
  · exact execPauseLevelUpdate_kept _ _ h1
  · exact execKUpdate_kept _ _ h1
  · exact execPmbusLost_kept _ h1
  · exact execPmbAlert_kept _ _ _ h1
  · exact execOpAutoMove_kept _ _ h1
  · exact execVin48Sample_kept _ _ h1
  · exact execDiodeReading_kept _ _ _ h1
  · exact execThermistorReading_kept _ _ _ h1
  · exact execThrottleStep_kept _ h1
  · exact execUnitRestart_kept _ _ h1
  · exact execCoolFailAssert_kept _ _ h1
  · exact execCoolantDiscrepancy_kept _ h1
  · exact execCoolFailDeassert_kept _ _ h1
  · exact execCoolantReturn_kept _ h1
  · exact execHubReadingsTimeout_kept _ _ h1
  · exact execPowerFailRecognition_kept _ _ _ h1
  · exact execPf1End_kept _ _ _ h1
  · exact execColdRstNAssert_kept _ h1
  · exact execRstCmdPackage_kept _ _ _ h1
  · exact execRstCmdPartition_kept _ _ _ h1
  · exact execPartitionResetDone_kept _ _ _ h1
  · exact execPerstNAssert_kept _ _ h1
  · exact execPerstNDeassert_kept _ _ h1
  · exact execFlr_kept _ _ h1
  · exact execFlrDone_kept _ _ h1
  · exact execLockTake_kept _ _ _ h1
  · exact execLockRelease_kept _ _ _ h1
  · exact execLockRenew_kept _ _ _ h1
  · exact execLeaseExpiry_kept _ h1
  · exact execRegisterWrite_kept _ _ _ _ _ h1
  · exact execPkgNumWrite_kept _ _ _ h1
  · exact execFwStage_kept _ _ _ h1
  · exact execFwStageDone_kept _ _ h1
  · exact execFwActivate_kept _ _ _ h1
  · exact execFwCommit_kept _ _ _ h1
  · exact execFwRevert_kept _ _ _ h1
  · exact execSaleyReattach_kept _ h1
  · exact execMgmtWatchdog_kept _ h1
  · exact execTrialTimeout_kept _ h1
  · exact execCalRecordWrite_kept _ h1
  · exact execEventArrival_kept _ _ _ _ h1
  · exact execEventRecordWrite_kept _ _ h1
  · exact execEvtCtlWrite_kept _ _ _ h1
  · exact execEvtHeadWrite_kept _ _ _ h1
  · exact execMctpMessage_kept _ _ h1
  · exact execTapReset_kept _ h1
  · exact execExtest_kept _ _ h1
  · exact execIdcode_kept _ h1
  · exact execSamplePreload_kept _ _ h1
  · exact execBypass_kept _ h1
  · exact execDbgHalt_kept _ _ h1
  · exact execDbgResume_kept _ _ h1
  · exact execDbgStep_kept _ _ h1
  · exact execDbgRegRead_kept _ _ h1
  · exact execDbgRegWrite_kept _ _ h1
  · exact execDbgLsRead_kept _ _ h1
  · exact execDbgLsWrite_kept _ _ h1
  · exact execDbgAddr_kept _ _ h1
  · exact execDbgMemRead_kept _ _ h1
  · exact execDbgMemWrite_kept _ _ h1
  · exact execDbgBpSet_kept _ _ h1
  · exact execDbgBpClr_kept _ _ h1
  · exact execDbgWpSet_kept _ _ h1
  · exact execDbgWpClr_kept _ _ h1
  · exact execDbgStatus_kept _ _ h1
  · exact execDbgCtlWrite_kept _ _ _ h1
  · exact execEpochPrepare_kept _ _ _ h1
  · exact execEpochAck_kept _ _ h1
  · exact execEpochPrepareTimeout_kept _ h1
  · exact execEpochCommit_kept _ _ _ h1
  · exact execEpochBoundary_kept _ h1
  · exact execEpochDrainDone_kept _ h1
  · exact execHbmChannelTrainingLoss_kept _ _ _ _ _ h1
  · exact execGpLinkDown_kept _ _ h1
  · exact execGpLinkUp_kept _ _ h1
  · exact execPcieLinkDown_kept _ _ h1
  · exact execAtsInvalidation_kept _ _ _ _ h1
  · exact execNotifyClear_kept _ _ _ _ h1
  · exact execOpticalDieReady_kept _ _ h1
  · exact execStateEngineRequestDone_kept _ _ _ h1
  · exact execMatrixQueueRetire_kept _ _ h1
  · exact execSupplyGood_kept _ h1
  · exact execSupplyLostBeforeReference_kept _ h1

end Sys2Proof.Machine
end

