-- ==== Sys2Proof/Laws/State.lean ====
section
/-! SUPPORT. Every field of the state under every named update: what the update sets, and that all else stays. -/
namespace Sys2Proof.Machine

variable (s : State)

section setReg
variable (o : Nat) (v : Word)
@[simp] theorem setReg_pending : (setReg s o v).pending = s.pending := rfl
@[simp] theorem setReg_free : (setReg s o v).free = s.free := rfl
@[simp] theorem setReg_fuses : (setReg s o v).fuses = s.fuses := rfl
@[simp] theorem setReg_pins : (setReg s o v).pins = s.pins := rfl
@[simp] theorem setReg_stage : (setReg s o v).stage = s.stage := rfl
@[simp] theorem setReg_timebase : (setReg s o v).timebase = s.timebase := rfl
@[simp] theorem setReg_tbStarted : (setReg s o v).tbStarted = s.tbStarted := rfl
@[simp] theorem setReg_bar0 : (setReg s o v).bar0 = mput o v s.bar0 := rfl
@[simp] theorem setReg_mem : (setReg s o v).mem = s.mem := rfl
@[simp] theorem setReg_segUndef : (setReg s o v).segUndef = s.segUndef := rfl
@[simp] theorem setReg_segWritten : (setReg s o v).segWritten = s.segWritten := rfl
@[simp] theorem setReg_ue : (setReg s o v).ue = s.ue := rfl
@[simp] theorem setReg_hbmMap : (setReg s o v).hbmMap = s.hbmMap := rfl
@[simp] theorem setReg_hostMem : (setReg s o v).hostMem = s.hostMem := rfl
@[simp] theorem setReg_hostAns : (setReg s o v).hostAns = s.hostAns := rfl
@[simp] theorem setReg_hostTr : (setReg s o v).hostTr = s.hostTr := rfl
@[simp] theorem setReg_ports : (setReg s o v).ports = s.ports := rfl
@[simp] theorem setReg_restarting : (setReg s o v).restarting = s.restarting := rfl
@[simp] theorem setReg_leaseAt : (setReg s o v).leaseAt = s.leaseAt := rfl
@[simp] theorem setReg_unreach : (setReg s o v).unreach = s.unreach := rfl
@[simp] theorem setReg_cores : (setReg s o v).cores = s.cores := rfl
@[simp] theorem setReg_clusters : (setReg s o v).clusters = s.clusters := rfl
@[simp] theorem setReg_brRings : (setReg s o v).brRings = s.brRings := rfl
@[simp] theorem setReg_brStops : (setReg s o v).brStops = s.brStops := rfl
@[simp] theorem setReg_hubs : (setReg s o v).hubs = s.hubs := rfl
@[simp] theorem setReg_seStacks : (setReg s o v).seStacks = s.seStacks := rfl
@[simp] theorem setReg_copies : (setReg s o v).copies = s.copies := rfl
@[simp] theorem setReg_nextJob : (setReg s o v).nextJob = s.nextJob := rfl
@[simp] theorem setReg_opts : (setReg s o v).opts = s.opts := rfl
@[simp] theorem setReg_engs : (setReg s o v).engs = s.engs := rfl
@[simp] theorem setReg_trees : (setReg s o v).trees = s.trees := rfl
@[simp] theorem setReg_gconns : (setReg s o v).gconns = s.gconns := rfl
@[simp] theorem setReg_gbuf : (setReg s o v).gbuf = s.gbuf := rfl
@[simp] theorem setReg_physCl : (setReg s o v).physCl = s.physCl := rfl
@[simp] theorem setReg_physCore : (setReg s o v).physCore = s.physCore := rfl
@[simp] theorem setReg_partOut : (setReg s o v).partOut = s.partOut := rfl
@[simp] theorem setReg_clusterOut : (setReg s o v).clusterOut = s.clusterOut := rfl
@[simp] theorem setReg_clGone : (setReg s o v).clGone = s.clGone := rfl
@[simp] theorem setReg_coreGone : (setReg s o v).coreGone = s.coreGone := rfl
@[simp] theorem setReg_chUe : (setReg s o v).chUe = s.chUe := rfl
@[simp] theorem setReg_chFence : (setReg s o v).chFence = s.chFence := rfl
@[simp] theorem setReg_ucieDown : (setReg s o v).ucieDown = s.ucieDown := rfl
@[simp] theorem setReg_tests : (setReg s o v).tests = s.tests := rfl
@[simp] theorem setReg_pow : (setReg s o v).pow = s.pow := rfl
@[simp] theorem setReg_thm : (setReg s o v).thm = s.thm := rfl
@[simp] theorem setReg_idle : (setReg s o v).idle = s.idle := rfl
@[simp] theorem setReg_evFifo : (setReg s o v).evFifo = s.evFifo := rfl
@[simp] theorem setReg_evDrops : (setReg s o v).evDrops = s.evDrops := rfl
@[simp] theorem setReg_evLastDrop : (setReg s o v).evLastDrop = s.evLastDrop := rfl
@[simp] theorem setReg_evSeries : (setReg s o v).evSeries = s.evSeries := rfl
@[simp] theorem setReg_evResume : (setReg s o v).evResume = s.evResume := rfl
@[simp] theorem setReg_hist : (setReg s o v).hist = s.hist := rfl
@[simp] theorem setReg_flashA : (setReg s o v).flashA = s.flashA := rfl
@[simp] theorem setReg_flashB : (setReg s o v).flashB = s.flashB := rfl
@[simp] theorem setReg_calDirty : (setReg s o v).calDirty = s.calDirty := rfl
@[simp] theorem setReg_calPref : (setReg s o v).calPref = s.calPref := rfl
@[simp] theorem setReg_nextCause : (setReg s o v).nextCause = s.nextCause := rfl
@[simp] theorem setReg_heatWait : (setReg s o v).heatWait = s.heatWait := rfl
@[simp] theorem setReg_pf : (setReg s o v).pf = s.pf := rfl
@[simp] theorem setReg_resetEpoch : (setReg s o v).resetEpoch = s.resetEpoch := rfl
@[simp] theorem setReg_prepAt : (setReg s o v).prepAt = s.prepAt := rfl
@[simp] theorem setReg_boundAt : (setReg s o v).boundAt = s.boundAt := rfl
@[simp] theorem setReg_fwSt : (setReg s o v).fwSt = s.fwSt := rfl
@[simp] theorem setReg_dbg : (setReg s o v).dbg = s.dbg := rfl
@[simp] theorem setReg_smb : (setReg s o v).smb = s.smb := rfl
@[simp] theorem setReg_syncAt : (setReg s o v).syncAt = s.syncAt := rfl
@[simp] theorem setReg_slew : (setReg s o v).slew = s.slew := rfl
@[simp] theorem setReg_slewAt : (setReg s o v).slewAt = s.slewAt := rfl
@[simp] theorem setReg_comp : (setReg s o v).comp = s.comp := rfl
@[simp] theorem setReg_hbmCe : (setReg s o v).hbmCe = s.hbmCe := rfl
@[simp] theorem setReg_calOther : (setReg s o v).calOther = s.calOther := rfl
@[simp] theorem setReg_streams : (setReg s o v).streams = s.streams := rfl
end setReg

section setRfld
variable (o hi lo x : Nat)
@[simp] theorem setRfld_pending : (setRfld s o hi lo x).pending = s.pending := rfl
@[simp] theorem setRfld_free : (setRfld s o hi lo x).free = s.free := rfl
@[simp] theorem setRfld_fuses : (setRfld s o hi lo x).fuses = s.fuses := rfl
@[simp] theorem setRfld_pins : (setRfld s o hi lo x).pins = s.pins := rfl
@[simp] theorem setRfld_stage : (setRfld s o hi lo x).stage = s.stage := rfl
@[simp] theorem setRfld_timebase : (setRfld s o hi lo x).timebase = s.timebase := rfl
@[simp] theorem setRfld_tbStarted : (setRfld s o hi lo x).tbStarted = s.tbStarted := rfl
@[simp] theorem setRfld_mem : (setRfld s o hi lo x).mem = s.mem := rfl
@[simp] theorem setRfld_segUndef : (setRfld s o hi lo x).segUndef = s.segUndef := rfl
@[simp] theorem setRfld_segWritten : (setRfld s o hi lo x).segWritten = s.segWritten := rfl
@[simp] theorem setRfld_ue : (setRfld s o hi lo x).ue = s.ue := rfl
@[simp] theorem setRfld_hbmMap : (setRfld s o hi lo x).hbmMap = s.hbmMap := rfl
@[simp] theorem setRfld_hostMem : (setRfld s o hi lo x).hostMem = s.hostMem := rfl
@[simp] theorem setRfld_hostAns : (setRfld s o hi lo x).hostAns = s.hostAns := rfl
@[simp] theorem setRfld_hostTr : (setRfld s o hi lo x).hostTr = s.hostTr := rfl
@[simp] theorem setRfld_ports : (setRfld s o hi lo x).ports = s.ports := rfl
@[simp] theorem setRfld_restarting : (setRfld s o hi lo x).restarting = s.restarting := rfl
@[simp] theorem setRfld_leaseAt : (setRfld s o hi lo x).leaseAt = s.leaseAt := rfl
@[simp] theorem setRfld_unreach : (setRfld s o hi lo x).unreach = s.unreach := rfl
@[simp] theorem setRfld_cores : (setRfld s o hi lo x).cores = s.cores := rfl
@[simp] theorem setRfld_clusters : (setRfld s o hi lo x).clusters = s.clusters := rfl
@[simp] theorem setRfld_brRings : (setRfld s o hi lo x).brRings = s.brRings := rfl
@[simp] theorem setRfld_brStops : (setRfld s o hi lo x).brStops = s.brStops := rfl
@[simp] theorem setRfld_hubs : (setRfld s o hi lo x).hubs = s.hubs := rfl
@[simp] theorem setRfld_seStacks : (setRfld s o hi lo x).seStacks = s.seStacks := rfl
@[simp] theorem setRfld_copies : (setRfld s o hi lo x).copies = s.copies := rfl
@[simp] theorem setRfld_nextJob : (setRfld s o hi lo x).nextJob = s.nextJob := rfl
@[simp] theorem setRfld_opts : (setRfld s o hi lo x).opts = s.opts := rfl
@[simp] theorem setRfld_engs : (setRfld s o hi lo x).engs = s.engs := rfl
@[simp] theorem setRfld_trees : (setRfld s o hi lo x).trees = s.trees := rfl
@[simp] theorem setRfld_gconns : (setRfld s o hi lo x).gconns = s.gconns := rfl
@[simp] theorem setRfld_gbuf : (setRfld s o hi lo x).gbuf = s.gbuf := rfl
@[simp] theorem setRfld_physCl : (setRfld s o hi lo x).physCl = s.physCl := rfl
@[simp] theorem setRfld_physCore : (setRfld s o hi lo x).physCore = s.physCore := rfl
@[simp] theorem setRfld_partOut : (setRfld s o hi lo x).partOut = s.partOut := rfl
@[simp] theorem setRfld_clusterOut : (setRfld s o hi lo x).clusterOut = s.clusterOut := rfl
@[simp] theorem setRfld_clGone : (setRfld s o hi lo x).clGone = s.clGone := rfl
@[simp] theorem setRfld_coreGone : (setRfld s o hi lo x).coreGone = s.coreGone := rfl
@[simp] theorem setRfld_chUe : (setRfld s o hi lo x).chUe = s.chUe := rfl
@[simp] theorem setRfld_chFence : (setRfld s o hi lo x).chFence = s.chFence := rfl
@[simp] theorem setRfld_ucieDown : (setRfld s o hi lo x).ucieDown = s.ucieDown := rfl
@[simp] theorem setRfld_tests : (setRfld s o hi lo x).tests = s.tests := rfl
@[simp] theorem setRfld_pow : (setRfld s o hi lo x).pow = s.pow := rfl
@[simp] theorem setRfld_thm : (setRfld s o hi lo x).thm = s.thm := rfl
@[simp] theorem setRfld_idle : (setRfld s o hi lo x).idle = s.idle := rfl
@[simp] theorem setRfld_evFifo : (setRfld s o hi lo x).evFifo = s.evFifo := rfl
@[simp] theorem setRfld_evDrops : (setRfld s o hi lo x).evDrops = s.evDrops := rfl
@[simp] theorem setRfld_evLastDrop : (setRfld s o hi lo x).evLastDrop = s.evLastDrop := rfl
@[simp] theorem setRfld_evSeries : (setRfld s o hi lo x).evSeries = s.evSeries := rfl
@[simp] theorem setRfld_evResume : (setRfld s o hi lo x).evResume = s.evResume := rfl
@[simp] theorem setRfld_hist : (setRfld s o hi lo x).hist = s.hist := rfl
@[simp] theorem setRfld_flashA : (setRfld s o hi lo x).flashA = s.flashA := rfl
@[simp] theorem setRfld_flashB : (setRfld s o hi lo x).flashB = s.flashB := rfl
@[simp] theorem setRfld_calDirty : (setRfld s o hi lo x).calDirty = s.calDirty := rfl
@[simp] theorem setRfld_calPref : (setRfld s o hi lo x).calPref = s.calPref := rfl
@[simp] theorem setRfld_nextCause : (setRfld s o hi lo x).nextCause = s.nextCause := rfl
@[simp] theorem setRfld_heatWait : (setRfld s o hi lo x).heatWait = s.heatWait := rfl
@[simp] theorem setRfld_pf : (setRfld s o hi lo x).pf = s.pf := rfl
@[simp] theorem setRfld_resetEpoch : (setRfld s o hi lo x).resetEpoch = s.resetEpoch := rfl
@[simp] theorem setRfld_prepAt : (setRfld s o hi lo x).prepAt = s.prepAt := rfl
@[simp] theorem setRfld_boundAt : (setRfld s o hi lo x).boundAt = s.boundAt := rfl
@[simp] theorem setRfld_fwSt : (setRfld s o hi lo x).fwSt = s.fwSt := rfl
@[simp] theorem setRfld_dbg : (setRfld s o hi lo x).dbg = s.dbg := rfl
@[simp] theorem setRfld_smb : (setRfld s o hi lo x).smb = s.smb := rfl
@[simp] theorem setRfld_syncAt : (setRfld s o hi lo x).syncAt = s.syncAt := rfl
@[simp] theorem setRfld_slew : (setRfld s o hi lo x).slew = s.slew := rfl
@[simp] theorem setRfld_slewAt : (setRfld s o hi lo x).slewAt = s.slewAt := rfl
@[simp] theorem setRfld_comp : (setRfld s o hi lo x).comp = s.comp := rfl
@[simp] theorem setRfld_hbmCe : (setRfld s o hi lo x).hbmCe = s.hbmCe := rfl
@[simp] theorem setRfld_calOther : (setRfld s o hi lo x).calOther = s.calOther := rfl
@[simp] theorem setRfld_streams : (setRfld s o hi lo x).streams = s.streams := rfl
end setRfld

section setRbit
variable (o i : Nat) (b : Bool)
@[simp] theorem setRbit_pending : (setRbit s o i b).pending = s.pending := rfl
@[simp] theorem setRbit_free : (setRbit s o i b).free = s.free := rfl
@[simp] theorem setRbit_fuses : (setRbit s o i b).fuses = s.fuses := rfl
@[simp] theorem setRbit_pins : (setRbit s o i b).pins = s.pins := rfl
@[simp] theorem setRbit_stage : (setRbit s o i b).stage = s.stage := rfl
@[simp] theorem setRbit_timebase : (setRbit s o i b).timebase = s.timebase := rfl
@[simp] theorem setRbit_tbStarted : (setRbit s o i b).tbStarted = s.tbStarted := rfl
@[simp] theorem setRbit_mem : (setRbit s o i b).mem = s.mem := rfl
@[simp] theorem setRbit_segUndef : (setRbit s o i b).segUndef = s.segUndef := rfl
@[simp] theorem setRbit_segWritten : (setRbit s o i b).segWritten = s.segWritten := rfl
@[simp] theorem setRbit_ue : (setRbit s o i b).ue = s.ue := rfl
@[simp] theorem setRbit_hbmMap : (setRbit s o i b).hbmMap = s.hbmMap := rfl
@[simp] theorem setRbit_hostMem : (setRbit s o i b).hostMem = s.hostMem := rfl
@[simp] theorem setRbit_hostAns : (setRbit s o i b).hostAns = s.hostAns := rfl
@[simp] theorem setRbit_hostTr : (setRbit s o i b).hostTr = s.hostTr := rfl
@[simp] theorem setRbit_ports : (setRbit s o i b).ports = s.ports := rfl
@[simp] theorem setRbit_restarting : (setRbit s o i b).restarting = s.restarting := rfl
@[simp] theorem setRbit_leaseAt : (setRbit s o i b).leaseAt = s.leaseAt := rfl
@[simp] theorem setRbit_unreach : (setRbit s o i b).unreach = s.unreach := rfl
@[simp] theorem setRbit_cores : (setRbit s o i b).cores = s.cores := rfl
@[simp] theorem setRbit_clusters : (setRbit s o i b).clusters = s.clusters := rfl
@[simp] theorem setRbit_brRings : (setRbit s o i b).brRings = s.brRings := rfl
@[simp] theorem setRbit_brStops : (setRbit s o i b).brStops = s.brStops := rfl
@[simp] theorem setRbit_hubs : (setRbit s o i b).hubs = s.hubs := rfl
@[simp] theorem setRbit_seStacks : (setRbit s o i b).seStacks = s.seStacks := rfl
@[simp] theorem setRbit_copies : (setRbit s o i b).copies = s.copies := rfl
@[simp] theorem setRbit_nextJob : (setRbit s o i b).nextJob = s.nextJob := rfl
@[simp] theorem setRbit_opts : (setRbit s o i b).opts = s.opts := rfl
@[simp] theorem setRbit_engs : (setRbit s o i b).engs = s.engs := rfl
@[simp] theorem setRbit_trees : (setRbit s o i b).trees = s.trees := rfl
@[simp] theorem setRbit_gconns : (setRbit s o i b).gconns = s.gconns := rfl
@[simp] theorem setRbit_gbuf : (setRbit s o i b).gbuf = s.gbuf := rfl
@[simp] theorem setRbit_physCl : (setRbit s o i b).physCl = s.physCl := rfl
@[simp] theorem setRbit_physCore : (setRbit s o i b).physCore = s.physCore := rfl
@[simp] theorem setRbit_partOut : (setRbit s o i b).partOut = s.partOut := rfl
@[simp] theorem setRbit_clusterOut : (setRbit s o i b).clusterOut = s.clusterOut := rfl
@[simp] theorem setRbit_clGone : (setRbit s o i b).clGone = s.clGone := rfl
@[simp] theorem setRbit_coreGone : (setRbit s o i b).coreGone = s.coreGone := rfl
@[simp] theorem setRbit_chUe : (setRbit s o i b).chUe = s.chUe := rfl
@[simp] theorem setRbit_chFence : (setRbit s o i b).chFence = s.chFence := rfl
@[simp] theorem setRbit_ucieDown : (setRbit s o i b).ucieDown = s.ucieDown := rfl
@[simp] theorem setRbit_tests : (setRbit s o i b).tests = s.tests := rfl
@[simp] theorem setRbit_pow : (setRbit s o i b).pow = s.pow := rfl
@[simp] theorem setRbit_thm : (setRbit s o i b).thm = s.thm := rfl
@[simp] theorem setRbit_idle : (setRbit s o i b).idle = s.idle := rfl
@[simp] theorem setRbit_evFifo : (setRbit s o i b).evFifo = s.evFifo := rfl
@[simp] theorem setRbit_evDrops : (setRbit s o i b).evDrops = s.evDrops := rfl
@[simp] theorem setRbit_evLastDrop : (setRbit s o i b).evLastDrop = s.evLastDrop := rfl
@[simp] theorem setRbit_evSeries : (setRbit s o i b).evSeries = s.evSeries := rfl
@[simp] theorem setRbit_evResume : (setRbit s o i b).evResume = s.evResume := rfl
@[simp] theorem setRbit_hist : (setRbit s o i b).hist = s.hist := rfl
@[simp] theorem setRbit_flashA : (setRbit s o i b).flashA = s.flashA := rfl
@[simp] theorem setRbit_flashB : (setRbit s o i b).flashB = s.flashB := rfl
@[simp] theorem setRbit_calDirty : (setRbit s o i b).calDirty = s.calDirty := rfl
@[simp] theorem setRbit_calPref : (setRbit s o i b).calPref = s.calPref := rfl
@[simp] theorem setRbit_nextCause : (setRbit s o i b).nextCause = s.nextCause := rfl
@[simp] theorem setRbit_heatWait : (setRbit s o i b).heatWait = s.heatWait := rfl
@[simp] theorem setRbit_pf : (setRbit s o i b).pf = s.pf := rfl
@[simp] theorem setRbit_resetEpoch : (setRbit s o i b).resetEpoch = s.resetEpoch := rfl
@[simp] theorem setRbit_prepAt : (setRbit s o i b).prepAt = s.prepAt := rfl
@[simp] theorem setRbit_boundAt : (setRbit s o i b).boundAt = s.boundAt := rfl
@[simp] theorem setRbit_fwSt : (setRbit s o i b).fwSt = s.fwSt := rfl
@[simp] theorem setRbit_dbg : (setRbit s o i b).dbg = s.dbg := rfl
@[simp] theorem setRbit_smb : (setRbit s o i b).smb = s.smb := rfl
@[simp] theorem setRbit_syncAt : (setRbit s o i b).syncAt = s.syncAt := rfl
@[simp] theorem setRbit_slew : (setRbit s o i b).slew = s.slew := rfl
@[simp] theorem setRbit_slewAt : (setRbit s o i b).slewAt = s.slewAt := rfl
@[simp] theorem setRbit_comp : (setRbit s o i b).comp = s.comp := rfl
@[simp] theorem setRbit_hbmCe : (setRbit s o i b).hbmCe = s.hbmCe := rfl
@[simp] theorem setRbit_calOther : (setRbit s o i b).calOther = s.calOther := rfl
@[simp] theorem setRbit_streams : (setRbit s o i b).streams = s.streams := rfl
end setRbit

section leaf
variable (src b : Nat)
@[simp] theorem leaf_pending : (leaf s src b).pending = s.pending := rfl
@[simp] theorem leaf_free : (leaf s src b).free = s.free := rfl
@[simp] theorem leaf_fuses : (leaf s src b).fuses = s.fuses := rfl
@[simp] theorem leaf_pins : (leaf s src b).pins = s.pins := rfl
@[simp] theorem leaf_stage : (leaf s src b).stage = s.stage := rfl
@[simp] theorem leaf_timebase : (leaf s src b).timebase = s.timebase := rfl
@[simp] theorem leaf_tbStarted : (leaf s src b).tbStarted = s.tbStarted := rfl
@[simp] theorem leaf_mem : (leaf s src b).mem = s.mem := rfl
@[simp] theorem leaf_segUndef : (leaf s src b).segUndef = s.segUndef := rfl
@[simp] theorem leaf_segWritten : (leaf s src b).segWritten = s.segWritten := rfl
@[simp] theorem leaf_ue : (leaf s src b).ue = s.ue := rfl
@[simp] theorem leaf_hbmMap : (leaf s src b).hbmMap = s.hbmMap := rfl
@[simp] theorem leaf_hostMem : (leaf s src b).hostMem = s.hostMem := rfl
@[simp] theorem leaf_hostAns : (leaf s src b).hostAns = s.hostAns := rfl
@[simp] theorem leaf_hostTr : (leaf s src b).hostTr = s.hostTr := rfl
@[simp] theorem leaf_ports : (leaf s src b).ports = s.ports := rfl
@[simp] theorem leaf_restarting : (leaf s src b).restarting = s.restarting := rfl
@[simp] theorem leaf_leaseAt : (leaf s src b).leaseAt = s.leaseAt := rfl
@[simp] theorem leaf_unreach : (leaf s src b).unreach = s.unreach := rfl
@[simp] theorem leaf_cores : (leaf s src b).cores = s.cores := rfl
@[simp] theorem leaf_clusters : (leaf s src b).clusters = s.clusters := rfl
@[simp] theorem leaf_brRings : (leaf s src b).brRings = s.brRings := rfl
@[simp] theorem leaf_brStops : (leaf s src b).brStops = s.brStops := rfl
@[simp] theorem leaf_hubs : (leaf s src b).hubs = s.hubs := rfl
@[simp] theorem leaf_seStacks : (leaf s src b).seStacks = s.seStacks := rfl
@[simp] theorem leaf_copies : (leaf s src b).copies = s.copies := rfl
@[simp] theorem leaf_nextJob : (leaf s src b).nextJob = s.nextJob := rfl
@[simp] theorem leaf_opts : (leaf s src b).opts = s.opts := rfl
@[simp] theorem leaf_engs : (leaf s src b).engs = s.engs := rfl
@[simp] theorem leaf_trees : (leaf s src b).trees = s.trees := rfl
@[simp] theorem leaf_gconns : (leaf s src b).gconns = s.gconns := rfl
@[simp] theorem leaf_gbuf : (leaf s src b).gbuf = s.gbuf := rfl
@[simp] theorem leaf_physCl : (leaf s src b).physCl = s.physCl := rfl
@[simp] theorem leaf_physCore : (leaf s src b).physCore = s.physCore := rfl
@[simp] theorem leaf_partOut : (leaf s src b).partOut = s.partOut := rfl
@[simp] theorem leaf_clusterOut : (leaf s src b).clusterOut = s.clusterOut := rfl
@[simp] theorem leaf_clGone : (leaf s src b).clGone = s.clGone := rfl
@[simp] theorem leaf_coreGone : (leaf s src b).coreGone = s.coreGone := rfl
@[simp] theorem leaf_chUe : (leaf s src b).chUe = s.chUe := rfl
@[simp] theorem leaf_chFence : (leaf s src b).chFence = s.chFence := rfl
@[simp] theorem leaf_ucieDown : (leaf s src b).ucieDown = s.ucieDown := rfl
@[simp] theorem leaf_tests : (leaf s src b).tests = s.tests := rfl
@[simp] theorem leaf_pow : (leaf s src b).pow = s.pow := rfl
@[simp] theorem leaf_thm : (leaf s src b).thm = s.thm := rfl
@[simp] theorem leaf_idle : (leaf s src b).idle = s.idle := rfl
@[simp] theorem leaf_evFifo : (leaf s src b).evFifo = s.evFifo := rfl
@[simp] theorem leaf_evDrops : (leaf s src b).evDrops = s.evDrops := rfl
@[simp] theorem leaf_evLastDrop : (leaf s src b).evLastDrop = s.evLastDrop := rfl
@[simp] theorem leaf_evSeries : (leaf s src b).evSeries = s.evSeries := rfl
@[simp] theorem leaf_evResume : (leaf s src b).evResume = s.evResume := rfl
@[simp] theorem leaf_hist : (leaf s src b).hist = s.hist := rfl
@[simp] theorem leaf_flashA : (leaf s src b).flashA = s.flashA := rfl
@[simp] theorem leaf_flashB : (leaf s src b).flashB = s.flashB := rfl
@[simp] theorem leaf_calDirty : (leaf s src b).calDirty = s.calDirty := rfl
@[simp] theorem leaf_calPref : (leaf s src b).calPref = s.calPref := rfl
@[simp] theorem leaf_nextCause : (leaf s src b).nextCause = s.nextCause := rfl
@[simp] theorem leaf_heatWait : (leaf s src b).heatWait = s.heatWait := rfl
@[simp] theorem leaf_pf : (leaf s src b).pf = s.pf := rfl
@[simp] theorem leaf_resetEpoch : (leaf s src b).resetEpoch = s.resetEpoch := rfl
@[simp] theorem leaf_prepAt : (leaf s src b).prepAt = s.prepAt := rfl
@[simp] theorem leaf_boundAt : (leaf s src b).boundAt = s.boundAt := rfl
@[simp] theorem leaf_fwSt : (leaf s src b).fwSt = s.fwSt := rfl
@[simp] theorem leaf_dbg : (leaf s src b).dbg = s.dbg := rfl
@[simp] theorem leaf_smb : (leaf s src b).smb = s.smb := rfl
@[simp] theorem leaf_syncAt : (leaf s src b).syncAt = s.syncAt := rfl
@[simp] theorem leaf_slew : (leaf s src b).slew = s.slew := rfl
@[simp] theorem leaf_slewAt : (leaf s src b).slewAt = s.slewAt := rfl
@[simp] theorem leaf_comp : (leaf s src b).comp = s.comp := rfl
@[simp] theorem leaf_hbmCe : (leaf s src b).hbmCe = s.hbmCe := rfl
@[simp] theorem leaf_calOther : (leaf s src b).calOther = s.calOther := rfl
@[simp] theorem leaf_streams : (leaf s src b).streams = s.streams := rfl
end leaf

section setCore
variable (k : Nat) (x : CoreSt)
@[simp] theorem setCore_pending : (setCore s k x).pending = s.pending := rfl
@[simp] theorem setCore_free : (setCore s k x).free = s.free := rfl
@[simp] theorem setCore_fuses : (setCore s k x).fuses = s.fuses := rfl
@[simp] theorem setCore_pins : (setCore s k x).pins = s.pins := rfl
@[simp] theorem setCore_stage : (setCore s k x).stage = s.stage := rfl
@[simp] theorem setCore_timebase : (setCore s k x).timebase = s.timebase := rfl
@[simp] theorem setCore_tbStarted : (setCore s k x).tbStarted = s.tbStarted := rfl
@[simp] theorem setCore_bar0 : (setCore s k x).bar0 = s.bar0 := rfl
@[simp] theorem setCore_mem : (setCore s k x).mem = s.mem := rfl
@[simp] theorem setCore_segUndef : (setCore s k x).segUndef = s.segUndef := rfl
@[simp] theorem setCore_segWritten : (setCore s k x).segWritten = s.segWritten := rfl
@[simp] theorem setCore_ue : (setCore s k x).ue = s.ue := rfl
@[simp] theorem setCore_hbmMap : (setCore s k x).hbmMap = s.hbmMap := rfl
@[simp] theorem setCore_hostMem : (setCore s k x).hostMem = s.hostMem := rfl
@[simp] theorem setCore_hostAns : (setCore s k x).hostAns = s.hostAns := rfl
@[simp] theorem setCore_hostTr : (setCore s k x).hostTr = s.hostTr := rfl
@[simp] theorem setCore_ports : (setCore s k x).ports = s.ports := rfl
@[simp] theorem setCore_restarting : (setCore s k x).restarting = s.restarting := rfl
@[simp] theorem setCore_leaseAt : (setCore s k x).leaseAt = s.leaseAt := rfl
@[simp] theorem setCore_unreach : (setCore s k x).unreach = s.unreach := rfl
@[simp] theorem setCore_cores : (setCore s k x).cores = mput k x s.cores := rfl
@[simp] theorem setCore_clusters : (setCore s k x).clusters = s.clusters := rfl
@[simp] theorem setCore_brRings : (setCore s k x).brRings = s.brRings := rfl
@[simp] theorem setCore_brStops : (setCore s k x).brStops = s.brStops := rfl
@[simp] theorem setCore_hubs : (setCore s k x).hubs = s.hubs := rfl
@[simp] theorem setCore_seStacks : (setCore s k x).seStacks = s.seStacks := rfl
@[simp] theorem setCore_copies : (setCore s k x).copies = s.copies := rfl
@[simp] theorem setCore_nextJob : (setCore s k x).nextJob = s.nextJob := rfl
@[simp] theorem setCore_opts : (setCore s k x).opts = s.opts := rfl
@[simp] theorem setCore_engs : (setCore s k x).engs = s.engs := rfl
@[simp] theorem setCore_trees : (setCore s k x).trees = s.trees := rfl
@[simp] theorem setCore_gconns : (setCore s k x).gconns = s.gconns := rfl
@[simp] theorem setCore_gbuf : (setCore s k x).gbuf = s.gbuf := rfl
@[simp] theorem setCore_physCl : (setCore s k x).physCl = s.physCl := rfl
@[simp] theorem setCore_physCore : (setCore s k x).physCore = s.physCore := rfl
@[simp] theorem setCore_partOut : (setCore s k x).partOut = s.partOut := rfl
@[simp] theorem setCore_clusterOut : (setCore s k x).clusterOut = s.clusterOut := rfl
@[simp] theorem setCore_clGone : (setCore s k x).clGone = s.clGone := rfl
@[simp] theorem setCore_coreGone : (setCore s k x).coreGone = s.coreGone := rfl
@[simp] theorem setCore_chUe : (setCore s k x).chUe = s.chUe := rfl
@[simp] theorem setCore_chFence : (setCore s k x).chFence = s.chFence := rfl
@[simp] theorem setCore_ucieDown : (setCore s k x).ucieDown = s.ucieDown := rfl
@[simp] theorem setCore_tests : (setCore s k x).tests = s.tests := rfl
@[simp] theorem setCore_pow : (setCore s k x).pow = s.pow := rfl
@[simp] theorem setCore_thm : (setCore s k x).thm = s.thm := rfl
@[simp] theorem setCore_idle : (setCore s k x).idle = s.idle := rfl
@[simp] theorem setCore_evFifo : (setCore s k x).evFifo = s.evFifo := rfl
@[simp] theorem setCore_evDrops : (setCore s k x).evDrops = s.evDrops := rfl
@[simp] theorem setCore_evLastDrop : (setCore s k x).evLastDrop = s.evLastDrop := rfl
@[simp] theorem setCore_evSeries : (setCore s k x).evSeries = s.evSeries := rfl
@[simp] theorem setCore_evResume : (setCore s k x).evResume = s.evResume := rfl
@[simp] theorem setCore_hist : (setCore s k x).hist = s.hist := rfl
@[simp] theorem setCore_flashA : (setCore s k x).flashA = s.flashA := rfl
@[simp] theorem setCore_flashB : (setCore s k x).flashB = s.flashB := rfl
@[simp] theorem setCore_calDirty : (setCore s k x).calDirty = s.calDirty := rfl
@[simp] theorem setCore_calPref : (setCore s k x).calPref = s.calPref := rfl
@[simp] theorem setCore_nextCause : (setCore s k x).nextCause = s.nextCause := rfl
@[simp] theorem setCore_heatWait : (setCore s k x).heatWait = s.heatWait := rfl
@[simp] theorem setCore_pf : (setCore s k x).pf = s.pf := rfl
@[simp] theorem setCore_resetEpoch : (setCore s k x).resetEpoch = s.resetEpoch := rfl
@[simp] theorem setCore_prepAt : (setCore s k x).prepAt = s.prepAt := rfl
@[simp] theorem setCore_boundAt : (setCore s k x).boundAt = s.boundAt := rfl
@[simp] theorem setCore_fwSt : (setCore s k x).fwSt = s.fwSt := rfl
@[simp] theorem setCore_dbg : (setCore s k x).dbg = s.dbg := rfl
@[simp] theorem setCore_smb : (setCore s k x).smb = s.smb := rfl
@[simp] theorem setCore_syncAt : (setCore s k x).syncAt = s.syncAt := rfl
@[simp] theorem setCore_slew : (setCore s k x).slew = s.slew := rfl
@[simp] theorem setCore_slewAt : (setCore s k x).slewAt = s.slewAt := rfl
@[simp] theorem setCore_comp : (setCore s k x).comp = s.comp := rfl
@[simp] theorem setCore_hbmCe : (setCore s k x).hbmCe = s.hbmCe := rfl
@[simp] theorem setCore_calOther : (setCore s k x).calOther = s.calOther := rfl
@[simp] theorem setCore_streams : (setCore s k x).streams = s.streams := rfl
end setCore

section putThread
variable (t : ThreadRef) (x : ThreadSt)
@[simp] theorem putThread_pending : (putThread s t x).pending = s.pending := rfl
@[simp] theorem putThread_free : (putThread s t x).free = s.free := rfl
@[simp] theorem putThread_fuses : (putThread s t x).fuses = s.fuses := rfl
@[simp] theorem putThread_pins : (putThread s t x).pins = s.pins := rfl
@[simp] theorem putThread_stage : (putThread s t x).stage = s.stage := rfl
@[simp] theorem putThread_timebase : (putThread s t x).timebase = s.timebase := rfl
@[simp] theorem putThread_tbStarted : (putThread s t x).tbStarted = s.tbStarted := rfl
@[simp] theorem putThread_bar0 : (putThread s t x).bar0 = s.bar0 := rfl
@[simp] theorem putThread_mem : (putThread s t x).mem = s.mem := rfl
@[simp] theorem putThread_segUndef : (putThread s t x).segUndef = s.segUndef := rfl
@[simp] theorem putThread_segWritten : (putThread s t x).segWritten = s.segWritten := rfl
@[simp] theorem putThread_ue : (putThread s t x).ue = s.ue := rfl
@[simp] theorem putThread_hbmMap : (putThread s t x).hbmMap = s.hbmMap := rfl
@[simp] theorem putThread_hostMem : (putThread s t x).hostMem = s.hostMem := rfl
@[simp] theorem putThread_hostAns : (putThread s t x).hostAns = s.hostAns := rfl
@[simp] theorem putThread_hostTr : (putThread s t x).hostTr = s.hostTr := rfl
@[simp] theorem putThread_ports : (putThread s t x).ports = s.ports := rfl
@[simp] theorem putThread_restarting : (putThread s t x).restarting = s.restarting := rfl
@[simp] theorem putThread_leaseAt : (putThread s t x).leaseAt = s.leaseAt := rfl
@[simp] theorem putThread_unreach : (putThread s t x).unreach = s.unreach := rfl
@[simp] theorem putThread_clusters : (putThread s t x).clusters = s.clusters := rfl
@[simp] theorem putThread_brRings : (putThread s t x).brRings = s.brRings := rfl
@[simp] theorem putThread_brStops : (putThread s t x).brStops = s.brStops := rfl
@[simp] theorem putThread_hubs : (putThread s t x).hubs = s.hubs := rfl
@[simp] theorem putThread_seStacks : (putThread s t x).seStacks = s.seStacks := rfl
@[simp] theorem putThread_copies : (putThread s t x).copies = s.copies := rfl
@[simp] theorem putThread_nextJob : (putThread s t x).nextJob = s.nextJob := rfl
@[simp] theorem putThread_opts : (putThread s t x).opts = s.opts := rfl
@[simp] theorem putThread_engs : (putThread s t x).engs = s.engs := rfl
@[simp] theorem putThread_trees : (putThread s t x).trees = s.trees := rfl
@[simp] theorem putThread_gconns : (putThread s t x).gconns = s.gconns := rfl
@[simp] theorem putThread_gbuf : (putThread s t x).gbuf = s.gbuf := rfl
@[simp] theorem putThread_physCl : (putThread s t x).physCl = s.physCl := rfl
@[simp] theorem putThread_physCore : (putThread s t x).physCore = s.physCore := rfl
@[simp] theorem putThread_partOut : (putThread s t x).partOut = s.partOut := rfl
@[simp] theorem putThread_clusterOut : (putThread s t x).clusterOut = s.clusterOut := rfl
@[simp] theorem putThread_clGone : (putThread s t x).clGone = s.clGone := rfl
@[simp] theorem putThread_coreGone : (putThread s t x).coreGone = s.coreGone := rfl
@[simp] theorem putThread_chUe : (putThread s t x).chUe = s.chUe := rfl
@[simp] theorem putThread_chFence : (putThread s t x).chFence = s.chFence := rfl
@[simp] theorem putThread_ucieDown : (putThread s t x).ucieDown = s.ucieDown := rfl
@[simp] theorem putThread_tests : (putThread s t x).tests = s.tests := rfl
@[simp] theorem putThread_pow : (putThread s t x).pow = s.pow := rfl
@[simp] theorem putThread_thm : (putThread s t x).thm = s.thm := rfl
@[simp] theorem putThread_idle : (putThread s t x).idle = s.idle := rfl
@[simp] theorem putThread_evFifo : (putThread s t x).evFifo = s.evFifo := rfl
@[simp] theorem putThread_evDrops : (putThread s t x).evDrops = s.evDrops := rfl
@[simp] theorem putThread_evLastDrop : (putThread s t x).evLastDrop = s.evLastDrop := rfl
@[simp] theorem putThread_evSeries : (putThread s t x).evSeries = s.evSeries := rfl
@[simp] theorem putThread_evResume : (putThread s t x).evResume = s.evResume := rfl
@[simp] theorem putThread_hist : (putThread s t x).hist = s.hist := rfl
@[simp] theorem putThread_flashA : (putThread s t x).flashA = s.flashA := rfl
@[simp] theorem putThread_flashB : (putThread s t x).flashB = s.flashB := rfl
@[simp] theorem putThread_calDirty : (putThread s t x).calDirty = s.calDirty := rfl
@[simp] theorem putThread_calPref : (putThread s t x).calPref = s.calPref := rfl
@[simp] theorem putThread_nextCause : (putThread s t x).nextCause = s.nextCause := rfl
@[simp] theorem putThread_heatWait : (putThread s t x).heatWait = s.heatWait := rfl
@[simp] theorem putThread_pf : (putThread s t x).pf = s.pf := rfl
@[simp] theorem putThread_resetEpoch : (putThread s t x).resetEpoch = s.resetEpoch := rfl
@[simp] theorem putThread_prepAt : (putThread s t x).prepAt = s.prepAt := rfl
@[simp] theorem putThread_boundAt : (putThread s t x).boundAt = s.boundAt := rfl
@[simp] theorem putThread_fwSt : (putThread s t x).fwSt = s.fwSt := rfl
@[simp] theorem putThread_dbg : (putThread s t x).dbg = s.dbg := rfl
@[simp] theorem putThread_smb : (putThread s t x).smb = s.smb := rfl
@[simp] theorem putThread_syncAt : (putThread s t x).syncAt = s.syncAt := rfl
@[simp] theorem putThread_slew : (putThread s t x).slew = s.slew := rfl
@[simp] theorem putThread_slewAt : (putThread s t x).slewAt = s.slewAt := rfl
@[simp] theorem putThread_comp : (putThread s t x).comp = s.comp := rfl
@[simp] theorem putThread_hbmCe : (putThread s t x).hbmCe = s.hbmCe := rfl
@[simp] theorem putThread_calOther : (putThread s t x).calOther = s.calOther := rfl
@[simp] theorem putThread_streams : (putThread s t x).streams = s.streams := rfl
end putThread

section setCl
variable (k : Nat) (x : ClusterSt)
@[simp] theorem setCl_pending : (setCl s k x).pending = s.pending := rfl
@[simp] theorem setCl_free : (setCl s k x).free = s.free := rfl
@[simp] theorem setCl_fuses : (setCl s k x).fuses = s.fuses := rfl
@[simp] theorem setCl_pins : (setCl s k x).pins = s.pins := rfl
@[simp] theorem setCl_stage : (setCl s k x).stage = s.stage := rfl
@[simp] theorem setCl_timebase : (setCl s k x).timebase = s.timebase := rfl
@[simp] theorem setCl_tbStarted : (setCl s k x).tbStarted = s.tbStarted := rfl
@[simp] theorem setCl_bar0 : (setCl s k x).bar0 = s.bar0 := rfl
@[simp] theorem setCl_mem : (setCl s k x).mem = s.mem := rfl
@[simp] theorem setCl_segUndef : (setCl s k x).segUndef = s.segUndef := rfl
@[simp] theorem setCl_segWritten : (setCl s k x).segWritten = s.segWritten := rfl
@[simp] theorem setCl_ue : (setCl s k x).ue = s.ue := rfl
@[simp] theorem setCl_hbmMap : (setCl s k x).hbmMap = s.hbmMap := rfl
@[simp] theorem setCl_hostMem : (setCl s k x).hostMem = s.hostMem := rfl
@[simp] theorem setCl_hostAns : (setCl s k x).hostAns = s.hostAns := rfl
@[simp] theorem setCl_hostTr : (setCl s k x).hostTr = s.hostTr := rfl
@[simp] theorem setCl_ports : (setCl s k x).ports = s.ports := rfl
@[simp] theorem setCl_restarting : (setCl s k x).restarting = s.restarting := rfl
@[simp] theorem setCl_leaseAt : (setCl s k x).leaseAt = s.leaseAt := rfl
@[simp] theorem setCl_unreach : (setCl s k x).unreach = s.unreach := rfl
@[simp] theorem setCl_cores : (setCl s k x).cores = s.cores := rfl
@[simp] theorem setCl_clusters : (setCl s k x).clusters = mput k x s.clusters := rfl
@[simp] theorem setCl_brRings : (setCl s k x).brRings = s.brRings := rfl
@[simp] theorem setCl_brStops : (setCl s k x).brStops = s.brStops := rfl
@[simp] theorem setCl_hubs : (setCl s k x).hubs = s.hubs := rfl
@[simp] theorem setCl_seStacks : (setCl s k x).seStacks = s.seStacks := rfl
@[simp] theorem setCl_copies : (setCl s k x).copies = s.copies := rfl
@[simp] theorem setCl_nextJob : (setCl s k x).nextJob = s.nextJob := rfl
@[simp] theorem setCl_opts : (setCl s k x).opts = s.opts := rfl
@[simp] theorem setCl_engs : (setCl s k x).engs = s.engs := rfl
@[simp] theorem setCl_trees : (setCl s k x).trees = s.trees := rfl
@[simp] theorem setCl_gconns : (setCl s k x).gconns = s.gconns := rfl
@[simp] theorem setCl_gbuf : (setCl s k x).gbuf = s.gbuf := rfl
@[simp] theorem setCl_physCl : (setCl s k x).physCl = s.physCl := rfl
@[simp] theorem setCl_physCore : (setCl s k x).physCore = s.physCore := rfl
@[simp] theorem setCl_partOut : (setCl s k x).partOut = s.partOut := rfl
@[simp] theorem setCl_clusterOut : (setCl s k x).clusterOut = s.clusterOut := rfl
@[simp] theorem setCl_clGone : (setCl s k x).clGone = s.clGone := rfl
@[simp] theorem setCl_coreGone : (setCl s k x).coreGone = s.coreGone := rfl
@[simp] theorem setCl_chUe : (setCl s k x).chUe = s.chUe := rfl
@[simp] theorem setCl_chFence : (setCl s k x).chFence = s.chFence := rfl
@[simp] theorem setCl_ucieDown : (setCl s k x).ucieDown = s.ucieDown := rfl
@[simp] theorem setCl_tests : (setCl s k x).tests = s.tests := rfl
@[simp] theorem setCl_pow : (setCl s k x).pow = s.pow := rfl
@[simp] theorem setCl_thm : (setCl s k x).thm = s.thm := rfl
@[simp] theorem setCl_idle : (setCl s k x).idle = s.idle := rfl
@[simp] theorem setCl_evFifo : (setCl s k x).evFifo = s.evFifo := rfl
@[simp] theorem setCl_evDrops : (setCl s k x).evDrops = s.evDrops := rfl
@[simp] theorem setCl_evLastDrop : (setCl s k x).evLastDrop = s.evLastDrop := rfl
@[simp] theorem setCl_evSeries : (setCl s k x).evSeries = s.evSeries := rfl
@[simp] theorem setCl_evResume : (setCl s k x).evResume = s.evResume := rfl
@[simp] theorem setCl_hist : (setCl s k x).hist = s.hist := rfl
@[simp] theorem setCl_flashA : (setCl s k x).flashA = s.flashA := rfl
@[simp] theorem setCl_flashB : (setCl s k x).flashB = s.flashB := rfl
@[simp] theorem setCl_calDirty : (setCl s k x).calDirty = s.calDirty := rfl
@[simp] theorem setCl_calPref : (setCl s k x).calPref = s.calPref := rfl
@[simp] theorem setCl_nextCause : (setCl s k x).nextCause = s.nextCause := rfl
@[simp] theorem setCl_heatWait : (setCl s k x).heatWait = s.heatWait := rfl
@[simp] theorem setCl_pf : (setCl s k x).pf = s.pf := rfl
@[simp] theorem setCl_resetEpoch : (setCl s k x).resetEpoch = s.resetEpoch := rfl
@[simp] theorem setCl_prepAt : (setCl s k x).prepAt = s.prepAt := rfl
@[simp] theorem setCl_boundAt : (setCl s k x).boundAt = s.boundAt := rfl
@[simp] theorem setCl_fwSt : (setCl s k x).fwSt = s.fwSt := rfl
@[simp] theorem setCl_dbg : (setCl s k x).dbg = s.dbg := rfl
@[simp] theorem setCl_smb : (setCl s k x).smb = s.smb := rfl
@[simp] theorem setCl_syncAt : (setCl s k x).syncAt = s.syncAt := rfl
@[simp] theorem setCl_slew : (setCl s k x).slew = s.slew := rfl
@[simp] theorem setCl_slewAt : (setCl s k x).slewAt = s.slewAt := rfl
@[simp] theorem setCl_comp : (setCl s k x).comp = s.comp := rfl
@[simp] theorem setCl_hbmCe : (setCl s k x).hbmCe = s.hbmCe := rfl
@[simp] theorem setCl_calOther : (setCl s k x).calOther = s.calOther := rfl
@[simp] theorem setCl_streams : (setCl s k x).streams = s.streams := rfl
end setCl

section setHub
variable (k : Nat) (x : HubSt)
@[simp] theorem setHub_pending : (setHub s k x).pending = s.pending := rfl
@[simp] theorem setHub_free : (setHub s k x).free = s.free := rfl
@[simp] theorem setHub_fuses : (setHub s k x).fuses = s.fuses := rfl
@[simp] theorem setHub_pins : (setHub s k x).pins = s.pins := rfl
@[simp] theorem setHub_stage : (setHub s k x).stage = s.stage := rfl
@[simp] theorem setHub_timebase : (setHub s k x).timebase = s.timebase := rfl
@[simp] theorem setHub_tbStarted : (setHub s k x).tbStarted = s.tbStarted := rfl
@[simp] theorem setHub_bar0 : (setHub s k x).bar0 = s.bar0 := rfl
@[simp] theorem setHub_mem : (setHub s k x).mem = s.mem := rfl
@[simp] theorem setHub_segUndef : (setHub s k x).segUndef = s.segUndef := rfl
@[simp] theorem setHub_segWritten : (setHub s k x).segWritten = s.segWritten := rfl
@[simp] theorem setHub_ue : (setHub s k x).ue = s.ue := rfl
@[simp] theorem setHub_hbmMap : (setHub s k x).hbmMap = s.hbmMap := rfl
@[simp] theorem setHub_hostMem : (setHub s k x).hostMem = s.hostMem := rfl
@[simp] theorem setHub_hostAns : (setHub s k x).hostAns = s.hostAns := rfl
@[simp] theorem setHub_hostTr : (setHub s k x).hostTr = s.hostTr := rfl
@[simp] theorem setHub_ports : (setHub s k x).ports = s.ports := rfl
@[simp] theorem setHub_restarting : (setHub s k x).restarting = s.restarting := rfl
@[simp] theorem setHub_leaseAt : (setHub s k x).leaseAt = s.leaseAt := rfl
@[simp] theorem setHub_unreach : (setHub s k x).unreach = s.unreach := rfl
@[simp] theorem setHub_cores : (setHub s k x).cores = s.cores := rfl
@[simp] theorem setHub_clusters : (setHub s k x).clusters = s.clusters := rfl
@[simp] theorem setHub_brRings : (setHub s k x).brRings = s.brRings := rfl
@[simp] theorem setHub_brStops : (setHub s k x).brStops = s.brStops := rfl
@[simp] theorem setHub_hubs : (setHub s k x).hubs = mput k x s.hubs := rfl
@[simp] theorem setHub_seStacks : (setHub s k x).seStacks = s.seStacks := rfl
@[simp] theorem setHub_copies : (setHub s k x).copies = s.copies := rfl
@[simp] theorem setHub_nextJob : (setHub s k x).nextJob = s.nextJob := rfl
@[simp] theorem setHub_opts : (setHub s k x).opts = s.opts := rfl
@[simp] theorem setHub_engs : (setHub s k x).engs = s.engs := rfl
@[simp] theorem setHub_trees : (setHub s k x).trees = s.trees := rfl
@[simp] theorem setHub_gconns : (setHub s k x).gconns = s.gconns := rfl
@[simp] theorem setHub_gbuf : (setHub s k x).gbuf = s.gbuf := rfl
@[simp] theorem setHub_physCl : (setHub s k x).physCl = s.physCl := rfl
@[simp] theorem setHub_physCore : (setHub s k x).physCore = s.physCore := rfl
@[simp] theorem setHub_partOut : (setHub s k x).partOut = s.partOut := rfl
@[simp] theorem setHub_clusterOut : (setHub s k x).clusterOut = s.clusterOut := rfl
@[simp] theorem setHub_clGone : (setHub s k x).clGone = s.clGone := rfl
@[simp] theorem setHub_coreGone : (setHub s k x).coreGone = s.coreGone := rfl
@[simp] theorem setHub_chUe : (setHub s k x).chUe = s.chUe := rfl
@[simp] theorem setHub_chFence : (setHub s k x).chFence = s.chFence := rfl
@[simp] theorem setHub_ucieDown : (setHub s k x).ucieDown = s.ucieDown := rfl
@[simp] theorem setHub_tests : (setHub s k x).tests = s.tests := rfl
@[simp] theorem setHub_pow : (setHub s k x).pow = s.pow := rfl
@[simp] theorem setHub_thm : (setHub s k x).thm = s.thm := rfl
@[simp] theorem setHub_idle : (setHub s k x).idle = s.idle := rfl
@[simp] theorem setHub_evFifo : (setHub s k x).evFifo = s.evFifo := rfl
@[simp] theorem setHub_evDrops : (setHub s k x).evDrops = s.evDrops := rfl
@[simp] theorem setHub_evLastDrop : (setHub s k x).evLastDrop = s.evLastDrop := rfl
@[simp] theorem setHub_evSeries : (setHub s k x).evSeries = s.evSeries := rfl
@[simp] theorem setHub_evResume : (setHub s k x).evResume = s.evResume := rfl
@[simp] theorem setHub_hist : (setHub s k x).hist = s.hist := rfl
@[simp] theorem setHub_flashA : (setHub s k x).flashA = s.flashA := rfl
@[simp] theorem setHub_flashB : (setHub s k x).flashB = s.flashB := rfl
@[simp] theorem setHub_calDirty : (setHub s k x).calDirty = s.calDirty := rfl
@[simp] theorem setHub_calPref : (setHub s k x).calPref = s.calPref := rfl
@[simp] theorem setHub_nextCause : (setHub s k x).nextCause = s.nextCause := rfl
@[simp] theorem setHub_heatWait : (setHub s k x).heatWait = s.heatWait := rfl
@[simp] theorem setHub_pf : (setHub s k x).pf = s.pf := rfl
@[simp] theorem setHub_resetEpoch : (setHub s k x).resetEpoch = s.resetEpoch := rfl
@[simp] theorem setHub_prepAt : (setHub s k x).prepAt = s.prepAt := rfl
@[simp] theorem setHub_boundAt : (setHub s k x).boundAt = s.boundAt := rfl
@[simp] theorem setHub_fwSt : (setHub s k x).fwSt = s.fwSt := rfl
@[simp] theorem setHub_dbg : (setHub s k x).dbg = s.dbg := rfl
@[simp] theorem setHub_smb : (setHub s k x).smb = s.smb := rfl
@[simp] theorem setHub_syncAt : (setHub s k x).syncAt = s.syncAt := rfl
@[simp] theorem setHub_slew : (setHub s k x).slew = s.slew := rfl
@[simp] theorem setHub_slewAt : (setHub s k x).slewAt = s.slewAt := rfl
@[simp] theorem setHub_comp : (setHub s k x).comp = s.comp := rfl
@[simp] theorem setHub_hbmCe : (setHub s k x).hbmCe = s.hbmCe := rfl
@[simp] theorem setHub_calOther : (setHub s k x).calOther = s.calOther := rfl
@[simp] theorem setHub_streams : (setHub s k x).streams = s.streams := rfl
end setHub

section setStack
variable (k : Nat) (x : StackSt)
@[simp] theorem setStack_pending : (setStack s k x).pending = s.pending := rfl
@[simp] theorem setStack_free : (setStack s k x).free = s.free := rfl
@[simp] theorem setStack_fuses : (setStack s k x).fuses = s.fuses := rfl
@[simp] theorem setStack_pins : (setStack s k x).pins = s.pins := rfl
@[simp] theorem setStack_stage : (setStack s k x).stage = s.stage := rfl
@[simp] theorem setStack_timebase : (setStack s k x).timebase = s.timebase := rfl
@[simp] theorem setStack_tbStarted : (setStack s k x).tbStarted = s.tbStarted := rfl
@[simp] theorem setStack_bar0 : (setStack s k x).bar0 = s.bar0 := rfl
@[simp] theorem setStack_mem : (setStack s k x).mem = s.mem := rfl
@[simp] theorem setStack_segUndef : (setStack s k x).segUndef = s.segUndef := rfl
@[simp] theorem setStack_segWritten : (setStack s k x).segWritten = s.segWritten := rfl
@[simp] theorem setStack_ue : (setStack s k x).ue = s.ue := rfl
@[simp] theorem setStack_hbmMap : (setStack s k x).hbmMap = s.hbmMap := rfl
@[simp] theorem setStack_hostMem : (setStack s k x).hostMem = s.hostMem := rfl
@[simp] theorem setStack_hostAns : (setStack s k x).hostAns = s.hostAns := rfl
@[simp] theorem setStack_hostTr : (setStack s k x).hostTr = s.hostTr := rfl
@[simp] theorem setStack_ports : (setStack s k x).ports = s.ports := rfl
@[simp] theorem setStack_restarting : (setStack s k x).restarting = s.restarting := rfl
@[simp] theorem setStack_leaseAt : (setStack s k x).leaseAt = s.leaseAt := rfl
@[simp] theorem setStack_unreach : (setStack s k x).unreach = s.unreach := rfl
@[simp] theorem setStack_cores : (setStack s k x).cores = s.cores := rfl
@[simp] theorem setStack_clusters : (setStack s k x).clusters = s.clusters := rfl
@[simp] theorem setStack_brRings : (setStack s k x).brRings = s.brRings := rfl
@[simp] theorem setStack_brStops : (setStack s k x).brStops = s.brStops := rfl
@[simp] theorem setStack_hubs : (setStack s k x).hubs = s.hubs := rfl
@[simp] theorem setStack_seStacks : (setStack s k x).seStacks = mput k x s.seStacks := rfl
@[simp] theorem setStack_copies : (setStack s k x).copies = s.copies := rfl
@[simp] theorem setStack_nextJob : (setStack s k x).nextJob = s.nextJob := rfl
@[simp] theorem setStack_opts : (setStack s k x).opts = s.opts := rfl
@[simp] theorem setStack_engs : (setStack s k x).engs = s.engs := rfl
@[simp] theorem setStack_trees : (setStack s k x).trees = s.trees := rfl
@[simp] theorem setStack_gconns : (setStack s k x).gconns = s.gconns := rfl
@[simp] theorem setStack_gbuf : (setStack s k x).gbuf = s.gbuf := rfl
@[simp] theorem setStack_physCl : (setStack s k x).physCl = s.physCl := rfl
@[simp] theorem setStack_physCore : (setStack s k x).physCore = s.physCore := rfl
@[simp] theorem setStack_partOut : (setStack s k x).partOut = s.partOut := rfl
@[simp] theorem setStack_clusterOut : (setStack s k x).clusterOut = s.clusterOut := rfl
@[simp] theorem setStack_clGone : (setStack s k x).clGone = s.clGone := rfl
@[simp] theorem setStack_coreGone : (setStack s k x).coreGone = s.coreGone := rfl
@[simp] theorem setStack_chUe : (setStack s k x).chUe = s.chUe := rfl
@[simp] theorem setStack_chFence : (setStack s k x).chFence = s.chFence := rfl
@[simp] theorem setStack_ucieDown : (setStack s k x).ucieDown = s.ucieDown := rfl
@[simp] theorem setStack_tests : (setStack s k x).tests = s.tests := rfl
@[simp] theorem setStack_pow : (setStack s k x).pow = s.pow := rfl
@[simp] theorem setStack_thm : (setStack s k x).thm = s.thm := rfl
@[simp] theorem setStack_idle : (setStack s k x).idle = s.idle := rfl
@[simp] theorem setStack_evFifo : (setStack s k x).evFifo = s.evFifo := rfl
@[simp] theorem setStack_evDrops : (setStack s k x).evDrops = s.evDrops := rfl
@[simp] theorem setStack_evLastDrop : (setStack s k x).evLastDrop = s.evLastDrop := rfl
@[simp] theorem setStack_evSeries : (setStack s k x).evSeries = s.evSeries := rfl
@[simp] theorem setStack_evResume : (setStack s k x).evResume = s.evResume := rfl
@[simp] theorem setStack_hist : (setStack s k x).hist = s.hist := rfl
@[simp] theorem setStack_flashA : (setStack s k x).flashA = s.flashA := rfl
@[simp] theorem setStack_flashB : (setStack s k x).flashB = s.flashB := rfl
@[simp] theorem setStack_calDirty : (setStack s k x).calDirty = s.calDirty := rfl
@[simp] theorem setStack_calPref : (setStack s k x).calPref = s.calPref := rfl
@[simp] theorem setStack_nextCause : (setStack s k x).nextCause = s.nextCause := rfl
@[simp] theorem setStack_heatWait : (setStack s k x).heatWait = s.heatWait := rfl
@[simp] theorem setStack_pf : (setStack s k x).pf = s.pf := rfl
@[simp] theorem setStack_resetEpoch : (setStack s k x).resetEpoch = s.resetEpoch := rfl
@[simp] theorem setStack_prepAt : (setStack s k x).prepAt = s.prepAt := rfl
@[simp] theorem setStack_boundAt : (setStack s k x).boundAt = s.boundAt := rfl
@[simp] theorem setStack_fwSt : (setStack s k x).fwSt = s.fwSt := rfl
@[simp] theorem setStack_dbg : (setStack s k x).dbg = s.dbg := rfl
@[simp] theorem setStack_smb : (setStack s k x).smb = s.smb := rfl
@[simp] theorem setStack_syncAt : (setStack s k x).syncAt = s.syncAt := rfl
@[simp] theorem setStack_slew : (setStack s k x).slew = s.slew := rfl
@[simp] theorem setStack_slewAt : (setStack s k x).slewAt = s.slewAt := rfl
@[simp] theorem setStack_comp : (setStack s k x).comp = s.comp := rfl
@[simp] theorem setStack_hbmCe : (setStack s k x).hbmCe = s.hbmCe := rfl
@[simp] theorem setStack_calOther : (setStack s k x).calOther = s.calOther := rfl
@[simp] theorem setStack_streams : (setStack s k x).streams = s.streams := rfl
end setStack

section setRing_
variable (d r : Nat) (cw : Bool) (x : BrRing)
@[simp] theorem setRing'_pending : (setRing' s d r cw x).pending = s.pending := rfl
@[simp] theorem setRing'_free : (setRing' s d r cw x).free = s.free := rfl
@[simp] theorem setRing'_fuses : (setRing' s d r cw x).fuses = s.fuses := rfl
@[simp] theorem setRing'_pins : (setRing' s d r cw x).pins = s.pins := rfl
@[simp] theorem setRing'_stage : (setRing' s d r cw x).stage = s.stage := rfl
@[simp] theorem setRing'_timebase : (setRing' s d r cw x).timebase = s.timebase := rfl
@[simp] theorem setRing'_tbStarted : (setRing' s d r cw x).tbStarted = s.tbStarted := rfl
@[simp] theorem setRing'_bar0 : (setRing' s d r cw x).bar0 = s.bar0 := rfl
@[simp] theorem setRing'_mem : (setRing' s d r cw x).mem = s.mem := rfl
@[simp] theorem setRing'_segUndef : (setRing' s d r cw x).segUndef = s.segUndef := rfl
@[simp] theorem setRing'_segWritten : (setRing' s d r cw x).segWritten = s.segWritten := rfl
@[simp] theorem setRing'_ue : (setRing' s d r cw x).ue = s.ue := rfl
@[simp] theorem setRing'_hbmMap : (setRing' s d r cw x).hbmMap = s.hbmMap := rfl
@[simp] theorem setRing'_hostMem : (setRing' s d r cw x).hostMem = s.hostMem := rfl
@[simp] theorem setRing'_hostAns : (setRing' s d r cw x).hostAns = s.hostAns := rfl
@[simp] theorem setRing'_hostTr : (setRing' s d r cw x).hostTr = s.hostTr := rfl
@[simp] theorem setRing'_ports : (setRing' s d r cw x).ports = s.ports := rfl
@[simp] theorem setRing'_restarting : (setRing' s d r cw x).restarting = s.restarting := rfl
@[simp] theorem setRing'_leaseAt : (setRing' s d r cw x).leaseAt = s.leaseAt := rfl
@[simp] theorem setRing'_unreach : (setRing' s d r cw x).unreach = s.unreach := rfl
@[simp] theorem setRing'_cores : (setRing' s d r cw x).cores = s.cores := rfl
@[simp] theorem setRing'_clusters : (setRing' s d r cw x).clusters = s.clusters := rfl
@[simp] theorem setRing'_brRings : (setRing' s d r cw x).brRings = mput (brKey d r cw) x s.brRings := rfl
@[simp] theorem setRing'_brStops : (setRing' s d r cw x).brStops = s.brStops := rfl
@[simp] theorem setRing'_hubs : (setRing' s d r cw x).hubs = s.hubs := rfl
@[simp] theorem setRing'_seStacks : (setRing' s d r cw x).seStacks = s.seStacks := rfl
@[simp] theorem setRing'_copies : (setRing' s d r cw x).copies = s.copies := rfl
@[simp] theorem setRing'_nextJob : (setRing' s d r cw x).nextJob = s.nextJob := rfl
@[simp] theorem setRing'_opts : (setRing' s d r cw x).opts = s.opts := rfl
@[simp] theorem setRing'_engs : (setRing' s d r cw x).engs = s.engs := rfl
@[simp] theorem setRing'_trees : (setRing' s d r cw x).trees = s.trees := rfl
@[simp] theorem setRing'_gconns : (setRing' s d r cw x).gconns = s.gconns := rfl
@[simp] theorem setRing'_gbuf : (setRing' s d r cw x).gbuf = s.gbuf := rfl
@[simp] theorem setRing'_physCl : (setRing' s d r cw x).physCl = s.physCl := rfl
@[simp] theorem setRing'_physCore : (setRing' s d r cw x).physCore = s.physCore := rfl
@[simp] theorem setRing'_partOut : (setRing' s d r cw x).partOut = s.partOut := rfl
@[simp] theorem setRing'_clusterOut : (setRing' s d r cw x).clusterOut = s.clusterOut := rfl
@[simp] theorem setRing'_clGone : (setRing' s d r cw x).clGone = s.clGone := rfl
@[simp] theorem setRing'_coreGone : (setRing' s d r cw x).coreGone = s.coreGone := rfl
@[simp] theorem setRing'_chUe : (setRing' s d r cw x).chUe = s.chUe := rfl
@[simp] theorem setRing'_chFence : (setRing' s d r cw x).chFence = s.chFence := rfl
@[simp] theorem setRing'_ucieDown : (setRing' s d r cw x).ucieDown = s.ucieDown := rfl
@[simp] theorem setRing'_tests : (setRing' s d r cw x).tests = s.tests := rfl
@[simp] theorem setRing'_pow : (setRing' s d r cw x).pow = s.pow := rfl
@[simp] theorem setRing'_thm : (setRing' s d r cw x).thm = s.thm := rfl
@[simp] theorem setRing'_idle : (setRing' s d r cw x).idle = s.idle := rfl
@[simp] theorem setRing'_evFifo : (setRing' s d r cw x).evFifo = s.evFifo := rfl
@[simp] theorem setRing'_evDrops : (setRing' s d r cw x).evDrops = s.evDrops := rfl
@[simp] theorem setRing'_evLastDrop : (setRing' s d r cw x).evLastDrop = s.evLastDrop := rfl
@[simp] theorem setRing'_evSeries : (setRing' s d r cw x).evSeries = s.evSeries := rfl
@[simp] theorem setRing'_evResume : (setRing' s d r cw x).evResume = s.evResume := rfl
@[simp] theorem setRing'_hist : (setRing' s d r cw x).hist = s.hist := rfl
@[simp] theorem setRing'_flashA : (setRing' s d r cw x).flashA = s.flashA := rfl
@[simp] theorem setRing'_flashB : (setRing' s d r cw x).flashB = s.flashB := rfl
@[simp] theorem setRing'_calDirty : (setRing' s d r cw x).calDirty = s.calDirty := rfl
@[simp] theorem setRing'_calPref : (setRing' s d r cw x).calPref = s.calPref := rfl
@[simp] theorem setRing'_nextCause : (setRing' s d r cw x).nextCause = s.nextCause := rfl
@[simp] theorem setRing'_heatWait : (setRing' s d r cw x).heatWait = s.heatWait := rfl
@[simp] theorem setRing'_pf : (setRing' s d r cw x).pf = s.pf := rfl
@[simp] theorem setRing'_resetEpoch : (setRing' s d r cw x).resetEpoch = s.resetEpoch := rfl
@[simp] theorem setRing'_prepAt : (setRing' s d r cw x).prepAt = s.prepAt := rfl
@[simp] theorem setRing'_boundAt : (setRing' s d r cw x).boundAt = s.boundAt := rfl
@[simp] theorem setRing'_fwSt : (setRing' s d r cw x).fwSt = s.fwSt := rfl
@[simp] theorem setRing'_dbg : (setRing' s d r cw x).dbg = s.dbg := rfl
@[simp] theorem setRing'_smb : (setRing' s d r cw x).smb = s.smb := rfl
@[simp] theorem setRing'_syncAt : (setRing' s d r cw x).syncAt = s.syncAt := rfl
@[simp] theorem setRing'_slew : (setRing' s d r cw x).slew = s.slew := rfl
@[simp] theorem setRing'_slewAt : (setRing' s d r cw x).slewAt = s.slewAt := rfl
@[simp] theorem setRing'_comp : (setRing' s d r cw x).comp = s.comp := rfl
@[simp] theorem setRing'_hbmCe : (setRing' s d r cw x).hbmCe = s.hbmCe := rfl
@[simp] theorem setRing'_calOther : (setRing' s d r cw x).calOther = s.calOther := rfl
@[simp] theorem setRing'_streams : (setRing' s d r cw x).streams = s.streams := rfl
end setRing_

section setStop
variable (d r k : Nat) (x : BrStop)
@[simp] theorem setStop_pending : (setStop s d r k x).pending = s.pending := rfl
@[simp] theorem setStop_free : (setStop s d r k x).free = s.free := rfl
@[simp] theorem setStop_fuses : (setStop s d r k x).fuses = s.fuses := rfl
@[simp] theorem setStop_pins : (setStop s d r k x).pins = s.pins := rfl
@[simp] theorem setStop_stage : (setStop s d r k x).stage = s.stage := rfl
@[simp] theorem setStop_timebase : (setStop s d r k x).timebase = s.timebase := rfl
@[simp] theorem setStop_tbStarted : (setStop s d r k x).tbStarted = s.tbStarted := rfl
@[simp] theorem setStop_bar0 : (setStop s d r k x).bar0 = s.bar0 := rfl
@[simp] theorem setStop_mem : (setStop s d r k x).mem = s.mem := rfl
@[simp] theorem setStop_segUndef : (setStop s d r k x).segUndef = s.segUndef := rfl
@[simp] theorem setStop_segWritten : (setStop s d r k x).segWritten = s.segWritten := rfl
@[simp] theorem setStop_ue : (setStop s d r k x).ue = s.ue := rfl
@[simp] theorem setStop_hbmMap : (setStop s d r k x).hbmMap = s.hbmMap := rfl
@[simp] theorem setStop_hostMem : (setStop s d r k x).hostMem = s.hostMem := rfl
@[simp] theorem setStop_hostAns : (setStop s d r k x).hostAns = s.hostAns := rfl
@[simp] theorem setStop_hostTr : (setStop s d r k x).hostTr = s.hostTr := rfl
@[simp] theorem setStop_ports : (setStop s d r k x).ports = s.ports := rfl
@[simp] theorem setStop_restarting : (setStop s d r k x).restarting = s.restarting := rfl
@[simp] theorem setStop_leaseAt : (setStop s d r k x).leaseAt = s.leaseAt := rfl
@[simp] theorem setStop_unreach : (setStop s d r k x).unreach = s.unreach := rfl
@[simp] theorem setStop_cores : (setStop s d r k x).cores = s.cores := rfl
@[simp] theorem setStop_clusters : (setStop s d r k x).clusters = s.clusters := rfl
@[simp] theorem setStop_brRings : (setStop s d r k x).brRings = s.brRings := rfl
@[simp] theorem setStop_brStops : (setStop s d r k x).brStops = mput (stopKey d r k) x s.brStops := rfl
@[simp] theorem setStop_hubs : (setStop s d r k x).hubs = s.hubs := rfl
@[simp] theorem setStop_seStacks : (setStop s d r k x).seStacks = s.seStacks := rfl
@[simp] theorem setStop_copies : (setStop s d r k x).copies = s.copies := rfl
@[simp] theorem setStop_nextJob : (setStop s d r k x).nextJob = s.nextJob := rfl
@[simp] theorem setStop_opts : (setStop s d r k x).opts = s.opts := rfl
@[simp] theorem setStop_engs : (setStop s d r k x).engs = s.engs := rfl
@[simp] theorem setStop_trees : (setStop s d r k x).trees = s.trees := rfl
@[simp] theorem setStop_gconns : (setStop s d r k x).gconns = s.gconns := rfl
@[simp] theorem setStop_gbuf : (setStop s d r k x).gbuf = s.gbuf := rfl
@[simp] theorem setStop_physCl : (setStop s d r k x).physCl = s.physCl := rfl
@[simp] theorem setStop_physCore : (setStop s d r k x).physCore = s.physCore := rfl
@[simp] theorem setStop_partOut : (setStop s d r k x).partOut = s.partOut := rfl
@[simp] theorem setStop_clusterOut : (setStop s d r k x).clusterOut = s.clusterOut := rfl
@[simp] theorem setStop_clGone : (setStop s d r k x).clGone = s.clGone := rfl
@[simp] theorem setStop_coreGone : (setStop s d r k x).coreGone = s.coreGone := rfl
@[simp] theorem setStop_chUe : (setStop s d r k x).chUe = s.chUe := rfl
@[simp] theorem setStop_chFence : (setStop s d r k x).chFence = s.chFence := rfl
@[simp] theorem setStop_ucieDown : (setStop s d r k x).ucieDown = s.ucieDown := rfl
@[simp] theorem setStop_tests : (setStop s d r k x).tests = s.tests := rfl
@[simp] theorem setStop_pow : (setStop s d r k x).pow = s.pow := rfl
@[simp] theorem setStop_thm : (setStop s d r k x).thm = s.thm := rfl
@[simp] theorem setStop_idle : (setStop s d r k x).idle = s.idle := rfl
@[simp] theorem setStop_evFifo : (setStop s d r k x).evFifo = s.evFifo := rfl
@[simp] theorem setStop_evDrops : (setStop s d r k x).evDrops = s.evDrops := rfl
@[simp] theorem setStop_evLastDrop : (setStop s d r k x).evLastDrop = s.evLastDrop := rfl
@[simp] theorem setStop_evSeries : (setStop s d r k x).evSeries = s.evSeries := rfl
@[simp] theorem setStop_evResume : (setStop s d r k x).evResume = s.evResume := rfl
@[simp] theorem setStop_hist : (setStop s d r k x).hist = s.hist := rfl
@[simp] theorem setStop_flashA : (setStop s d r k x).flashA = s.flashA := rfl
@[simp] theorem setStop_flashB : (setStop s d r k x).flashB = s.flashB := rfl
@[simp] theorem setStop_calDirty : (setStop s d r k x).calDirty = s.calDirty := rfl
@[simp] theorem setStop_calPref : (setStop s d r k x).calPref = s.calPref := rfl
@[simp] theorem setStop_nextCause : (setStop s d r k x).nextCause = s.nextCause := rfl
@[simp] theorem setStop_heatWait : (setStop s d r k x).heatWait = s.heatWait := rfl
@[simp] theorem setStop_pf : (setStop s d r k x).pf = s.pf := rfl
@[simp] theorem setStop_resetEpoch : (setStop s d r k x).resetEpoch = s.resetEpoch := rfl
@[simp] theorem setStop_prepAt : (setStop s d r k x).prepAt = s.prepAt := rfl
@[simp] theorem setStop_boundAt : (setStop s d r k x).boundAt = s.boundAt := rfl
@[simp] theorem setStop_fwSt : (setStop s d r k x).fwSt = s.fwSt := rfl
@[simp] theorem setStop_dbg : (setStop s d r k x).dbg = s.dbg := rfl
@[simp] theorem setStop_smb : (setStop s d r k x).smb = s.smb := rfl
@[simp] theorem setStop_syncAt : (setStop s d r k x).syncAt = s.syncAt := rfl
@[simp] theorem setStop_slew : (setStop s d r k x).slew = s.slew := rfl
@[simp] theorem setStop_slewAt : (setStop s d r k x).slewAt = s.slewAt := rfl
@[simp] theorem setStop_comp : (setStop s d r k x).comp = s.comp := rfl
@[simp] theorem setStop_hbmCe : (setStop s d r k x).hbmCe = s.hbmCe := rfl
@[simp] theorem setStop_calOther : (setStop s d r k x).calOther = s.calOther := rfl
@[simp] theorem setStop_streams : (setStop s d r k x).streams = s.streams := rfl
end setStop

section setTree
variable (k : Nat) (x : TreeSt)
@[simp] theorem setTree_pending : (setTree s k x).pending = s.pending := rfl
@[simp] theorem setTree_free : (setTree s k x).free = s.free := rfl
@[simp] theorem setTree_fuses : (setTree s k x).fuses = s.fuses := rfl
@[simp] theorem setTree_pins : (setTree s k x).pins = s.pins := rfl
@[simp] theorem setTree_stage : (setTree s k x).stage = s.stage := rfl
@[simp] theorem setTree_timebase : (setTree s k x).timebase = s.timebase := rfl
@[simp] theorem setTree_tbStarted : (setTree s k x).tbStarted = s.tbStarted := rfl
@[simp] theorem setTree_bar0 : (setTree s k x).bar0 = s.bar0 := rfl
@[simp] theorem setTree_mem : (setTree s k x).mem = s.mem := rfl
@[simp] theorem setTree_segUndef : (setTree s k x).segUndef = s.segUndef := rfl
@[simp] theorem setTree_segWritten : (setTree s k x).segWritten = s.segWritten := rfl
@[simp] theorem setTree_ue : (setTree s k x).ue = s.ue := rfl
@[simp] theorem setTree_hbmMap : (setTree s k x).hbmMap = s.hbmMap := rfl
@[simp] theorem setTree_hostMem : (setTree s k x).hostMem = s.hostMem := rfl
@[simp] theorem setTree_hostAns : (setTree s k x).hostAns = s.hostAns := rfl
@[simp] theorem setTree_hostTr : (setTree s k x).hostTr = s.hostTr := rfl
@[simp] theorem setTree_ports : (setTree s k x).ports = s.ports := rfl
@[simp] theorem setTree_restarting : (setTree s k x).restarting = s.restarting := rfl
@[simp] theorem setTree_leaseAt : (setTree s k x).leaseAt = s.leaseAt := rfl
@[simp] theorem setTree_unreach : (setTree s k x).unreach = s.unreach := rfl
@[simp] theorem setTree_cores : (setTree s k x).cores = s.cores := rfl
@[simp] theorem setTree_clusters : (setTree s k x).clusters = s.clusters := rfl
@[simp] theorem setTree_brRings : (setTree s k x).brRings = s.brRings := rfl
@[simp] theorem setTree_brStops : (setTree s k x).brStops = s.brStops := rfl
@[simp] theorem setTree_hubs : (setTree s k x).hubs = s.hubs := rfl
@[simp] theorem setTree_seStacks : (setTree s k x).seStacks = s.seStacks := rfl
@[simp] theorem setTree_copies : (setTree s k x).copies = s.copies := rfl
@[simp] theorem setTree_nextJob : (setTree s k x).nextJob = s.nextJob := rfl
@[simp] theorem setTree_opts : (setTree s k x).opts = s.opts := rfl
@[simp] theorem setTree_engs : (setTree s k x).engs = s.engs := rfl
@[simp] theorem setTree_trees : (setTree s k x).trees = mput k x s.trees := rfl
@[simp] theorem setTree_gconns : (setTree s k x).gconns = s.gconns := rfl
@[simp] theorem setTree_gbuf : (setTree s k x).gbuf = s.gbuf := rfl
@[simp] theorem setTree_physCl : (setTree s k x).physCl = s.physCl := rfl
@[simp] theorem setTree_physCore : (setTree s k x).physCore = s.physCore := rfl
@[simp] theorem setTree_partOut : (setTree s k x).partOut = s.partOut := rfl
@[simp] theorem setTree_clusterOut : (setTree s k x).clusterOut = s.clusterOut := rfl
@[simp] theorem setTree_clGone : (setTree s k x).clGone = s.clGone := rfl
@[simp] theorem setTree_coreGone : (setTree s k x).coreGone = s.coreGone := rfl
@[simp] theorem setTree_chUe : (setTree s k x).chUe = s.chUe := rfl
@[simp] theorem setTree_chFence : (setTree s k x).chFence = s.chFence := rfl
@[simp] theorem setTree_ucieDown : (setTree s k x).ucieDown = s.ucieDown := rfl
@[simp] theorem setTree_tests : (setTree s k x).tests = s.tests := rfl
@[simp] theorem setTree_pow : (setTree s k x).pow = s.pow := rfl
@[simp] theorem setTree_thm : (setTree s k x).thm = s.thm := rfl
@[simp] theorem setTree_idle : (setTree s k x).idle = s.idle := rfl
@[simp] theorem setTree_evFifo : (setTree s k x).evFifo = s.evFifo := rfl
@[simp] theorem setTree_evDrops : (setTree s k x).evDrops = s.evDrops := rfl
@[simp] theorem setTree_evLastDrop : (setTree s k x).evLastDrop = s.evLastDrop := rfl
@[simp] theorem setTree_evSeries : (setTree s k x).evSeries = s.evSeries := rfl
@[simp] theorem setTree_evResume : (setTree s k x).evResume = s.evResume := rfl
@[simp] theorem setTree_hist : (setTree s k x).hist = s.hist := rfl
@[simp] theorem setTree_flashA : (setTree s k x).flashA = s.flashA := rfl
@[simp] theorem setTree_flashB : (setTree s k x).flashB = s.flashB := rfl
@[simp] theorem setTree_calDirty : (setTree s k x).calDirty = s.calDirty := rfl
@[simp] theorem setTree_calPref : (setTree s k x).calPref = s.calPref := rfl
@[simp] theorem setTree_nextCause : (setTree s k x).nextCause = s.nextCause := rfl
@[simp] theorem setTree_heatWait : (setTree s k x).heatWait = s.heatWait := rfl
@[simp] theorem setTree_pf : (setTree s k x).pf = s.pf := rfl
@[simp] theorem setTree_resetEpoch : (setTree s k x).resetEpoch = s.resetEpoch := rfl
@[simp] theorem setTree_prepAt : (setTree s k x).prepAt = s.prepAt := rfl
@[simp] theorem setTree_boundAt : (setTree s k x).boundAt = s.boundAt := rfl
@[simp] theorem setTree_fwSt : (setTree s k x).fwSt = s.fwSt := rfl
@[simp] theorem setTree_dbg : (setTree s k x).dbg = s.dbg := rfl
@[simp] theorem setTree_smb : (setTree s k x).smb = s.smb := rfl
@[simp] theorem setTree_syncAt : (setTree s k x).syncAt = s.syncAt := rfl
@[simp] theorem setTree_slew : (setTree s k x).slew = s.slew := rfl
@[simp] theorem setTree_slewAt : (setTree s k x).slewAt = s.slewAt := rfl
@[simp] theorem setTree_comp : (setTree s k x).comp = s.comp := rfl
@[simp] theorem setTree_hbmCe : (setTree s k x).hbmCe = s.hbmCe := rfl
@[simp] theorem setTree_calOther : (setTree s k x).calOther = s.calOther := rfl
@[simp] theorem setTree_streams : (setTree s k x).streams = s.streams := rfl
end setTree

section setEng
variable (k : Nat) (x : EngSt)
@[simp] theorem setEng_pending : (setEng s k x).pending = s.pending := rfl
@[simp] theorem setEng_free : (setEng s k x).free = s.free := rfl
@[simp] theorem setEng_fuses : (setEng s k x).fuses = s.fuses := rfl
@[simp] theorem setEng_pins : (setEng s k x).pins = s.pins := rfl
@[simp] theorem setEng_stage : (setEng s k x).stage = s.stage := rfl
@[simp] theorem setEng_timebase : (setEng s k x).timebase = s.timebase := rfl
@[simp] theorem setEng_tbStarted : (setEng s k x).tbStarted = s.tbStarted := rfl
@[simp] theorem setEng_bar0 : (setEng s k x).bar0 = s.bar0 := rfl
@[simp] theorem setEng_mem : (setEng s k x).mem = s.mem := rfl
@[simp] theorem setEng_segUndef : (setEng s k x).segUndef = s.segUndef := rfl
@[simp] theorem setEng_segWritten : (setEng s k x).segWritten = s.segWritten := rfl
@[simp] theorem setEng_ue : (setEng s k x).ue = s.ue := rfl
@[simp] theorem setEng_hbmMap : (setEng s k x).hbmMap = s.hbmMap := rfl
@[simp] theorem setEng_hostMem : (setEng s k x).hostMem = s.hostMem := rfl
@[simp] theorem setEng_hostAns : (setEng s k x).hostAns = s.hostAns := rfl
@[simp] theorem setEng_hostTr : (setEng s k x).hostTr = s.hostTr := rfl
@[simp] theorem setEng_ports : (setEng s k x).ports = s.ports := rfl
@[simp] theorem setEng_restarting : (setEng s k x).restarting = s.restarting := rfl
@[simp] theorem setEng_leaseAt : (setEng s k x).leaseAt = s.leaseAt := rfl
@[simp] theorem setEng_unreach : (setEng s k x).unreach = s.unreach := rfl
@[simp] theorem setEng_cores : (setEng s k x).cores = s.cores := rfl
@[simp] theorem setEng_clusters : (setEng s k x).clusters = s.clusters := rfl
@[simp] theorem setEng_brRings : (setEng s k x).brRings = s.brRings := rfl
@[simp] theorem setEng_brStops : (setEng s k x).brStops = s.brStops := rfl
@[simp] theorem setEng_hubs : (setEng s k x).hubs = s.hubs := rfl
@[simp] theorem setEng_seStacks : (setEng s k x).seStacks = s.seStacks := rfl
@[simp] theorem setEng_copies : (setEng s k x).copies = s.copies := rfl
@[simp] theorem setEng_nextJob : (setEng s k x).nextJob = s.nextJob := rfl
@[simp] theorem setEng_opts : (setEng s k x).opts = s.opts := rfl
@[simp] theorem setEng_engs : (setEng s k x).engs = mput k x s.engs := rfl
@[simp] theorem setEng_trees : (setEng s k x).trees = s.trees := rfl
@[simp] theorem setEng_gconns : (setEng s k x).gconns = s.gconns := rfl
@[simp] theorem setEng_gbuf : (setEng s k x).gbuf = s.gbuf := rfl
@[simp] theorem setEng_physCl : (setEng s k x).physCl = s.physCl := rfl
@[simp] theorem setEng_physCore : (setEng s k x).physCore = s.physCore := rfl
@[simp] theorem setEng_partOut : (setEng s k x).partOut = s.partOut := rfl
@[simp] theorem setEng_clusterOut : (setEng s k x).clusterOut = s.clusterOut := rfl
@[simp] theorem setEng_clGone : (setEng s k x).clGone = s.clGone := rfl
@[simp] theorem setEng_coreGone : (setEng s k x).coreGone = s.coreGone := rfl
@[simp] theorem setEng_chUe : (setEng s k x).chUe = s.chUe := rfl
@[simp] theorem setEng_chFence : (setEng s k x).chFence = s.chFence := rfl
@[simp] theorem setEng_ucieDown : (setEng s k x).ucieDown = s.ucieDown := rfl
@[simp] theorem setEng_tests : (setEng s k x).tests = s.tests := rfl
@[simp] theorem setEng_pow : (setEng s k x).pow = s.pow := rfl
@[simp] theorem setEng_thm : (setEng s k x).thm = s.thm := rfl
@[simp] theorem setEng_idle : (setEng s k x).idle = s.idle := rfl
@[simp] theorem setEng_evFifo : (setEng s k x).evFifo = s.evFifo := rfl
@[simp] theorem setEng_evDrops : (setEng s k x).evDrops = s.evDrops := rfl
@[simp] theorem setEng_evLastDrop : (setEng s k x).evLastDrop = s.evLastDrop := rfl
@[simp] theorem setEng_evSeries : (setEng s k x).evSeries = s.evSeries := rfl
@[simp] theorem setEng_evResume : (setEng s k x).evResume = s.evResume := rfl
@[simp] theorem setEng_hist : (setEng s k x).hist = s.hist := rfl
@[simp] theorem setEng_flashA : (setEng s k x).flashA = s.flashA := rfl
@[simp] theorem setEng_flashB : (setEng s k x).flashB = s.flashB := rfl
@[simp] theorem setEng_calDirty : (setEng s k x).calDirty = s.calDirty := rfl
@[simp] theorem setEng_calPref : (setEng s k x).calPref = s.calPref := rfl
@[simp] theorem setEng_nextCause : (setEng s k x).nextCause = s.nextCause := rfl
@[simp] theorem setEng_heatWait : (setEng s k x).heatWait = s.heatWait := rfl
@[simp] theorem setEng_pf : (setEng s k x).pf = s.pf := rfl
@[simp] theorem setEng_resetEpoch : (setEng s k x).resetEpoch = s.resetEpoch := rfl
@[simp] theorem setEng_prepAt : (setEng s k x).prepAt = s.prepAt := rfl
@[simp] theorem setEng_boundAt : (setEng s k x).boundAt = s.boundAt := rfl
@[simp] theorem setEng_fwSt : (setEng s k x).fwSt = s.fwSt := rfl
@[simp] theorem setEng_dbg : (setEng s k x).dbg = s.dbg := rfl
@[simp] theorem setEng_smb : (setEng s k x).smb = s.smb := rfl
@[simp] theorem setEng_syncAt : (setEng s k x).syncAt = s.syncAt := rfl
@[simp] theorem setEng_slew : (setEng s k x).slew = s.slew := rfl
@[simp] theorem setEng_slewAt : (setEng s k x).slewAt = s.slewAt := rfl
@[simp] theorem setEng_comp : (setEng s k x).comp = s.comp := rfl
@[simp] theorem setEng_hbmCe : (setEng s k x).hbmCe = s.hbmCe := rfl
@[simp] theorem setEng_calOther : (setEng s k x).calOther = s.calOther := rfl
@[simp] theorem setEng_streams : (setEng s k x).streams = s.streams := rfl
end setEng

section setConn
variable (g i : Nat) (x : GpConn)
@[simp] theorem setConn_pending : (setConn s g i x).pending = s.pending := rfl
@[simp] theorem setConn_free : (setConn s g i x).free = s.free := rfl
@[simp] theorem setConn_fuses : (setConn s g i x).fuses = s.fuses := rfl
@[simp] theorem setConn_pins : (setConn s g i x).pins = s.pins := rfl
@[simp] theorem setConn_stage : (setConn s g i x).stage = s.stage := rfl
@[simp] theorem setConn_timebase : (setConn s g i x).timebase = s.timebase := rfl
@[simp] theorem setConn_tbStarted : (setConn s g i x).tbStarted = s.tbStarted := rfl
@[simp] theorem setConn_bar0 : (setConn s g i x).bar0 = s.bar0 := rfl
@[simp] theorem setConn_mem : (setConn s g i x).mem = s.mem := rfl
@[simp] theorem setConn_segUndef : (setConn s g i x).segUndef = s.segUndef := rfl
@[simp] theorem setConn_segWritten : (setConn s g i x).segWritten = s.segWritten := rfl
@[simp] theorem setConn_ue : (setConn s g i x).ue = s.ue := rfl
@[simp] theorem setConn_hbmMap : (setConn s g i x).hbmMap = s.hbmMap := rfl
@[simp] theorem setConn_hostMem : (setConn s g i x).hostMem = s.hostMem := rfl
@[simp] theorem setConn_hostAns : (setConn s g i x).hostAns = s.hostAns := rfl
@[simp] theorem setConn_hostTr : (setConn s g i x).hostTr = s.hostTr := rfl
@[simp] theorem setConn_ports : (setConn s g i x).ports = s.ports := rfl
@[simp] theorem setConn_restarting : (setConn s g i x).restarting = s.restarting := rfl
@[simp] theorem setConn_leaseAt : (setConn s g i x).leaseAt = s.leaseAt := rfl
@[simp] theorem setConn_unreach : (setConn s g i x).unreach = s.unreach := rfl
@[simp] theorem setConn_cores : (setConn s g i x).cores = s.cores := rfl
@[simp] theorem setConn_clusters : (setConn s g i x).clusters = s.clusters := rfl
@[simp] theorem setConn_brRings : (setConn s g i x).brRings = s.brRings := rfl
@[simp] theorem setConn_brStops : (setConn s g i x).brStops = s.brStops := rfl
@[simp] theorem setConn_hubs : (setConn s g i x).hubs = s.hubs := rfl
@[simp] theorem setConn_seStacks : (setConn s g i x).seStacks = s.seStacks := rfl
@[simp] theorem setConn_copies : (setConn s g i x).copies = s.copies := rfl
@[simp] theorem setConn_nextJob : (setConn s g i x).nextJob = s.nextJob := rfl
@[simp] theorem setConn_opts : (setConn s g i x).opts = s.opts := rfl
@[simp] theorem setConn_engs : (setConn s g i x).engs = s.engs := rfl
@[simp] theorem setConn_trees : (setConn s g i x).trees = s.trees := rfl
@[simp] theorem setConn_gconns : (setConn s g i x).gconns = mput (gKey g i) x s.gconns := rfl
@[simp] theorem setConn_gbuf : (setConn s g i x).gbuf = s.gbuf := rfl
@[simp] theorem setConn_physCl : (setConn s g i x).physCl = s.physCl := rfl
@[simp] theorem setConn_physCore : (setConn s g i x).physCore = s.physCore := rfl
@[simp] theorem setConn_partOut : (setConn s g i x).partOut = s.partOut := rfl
@[simp] theorem setConn_clusterOut : (setConn s g i x).clusterOut = s.clusterOut := rfl
@[simp] theorem setConn_clGone : (setConn s g i x).clGone = s.clGone := rfl
@[simp] theorem setConn_coreGone : (setConn s g i x).coreGone = s.coreGone := rfl
@[simp] theorem setConn_chUe : (setConn s g i x).chUe = s.chUe := rfl
@[simp] theorem setConn_chFence : (setConn s g i x).chFence = s.chFence := rfl
@[simp] theorem setConn_ucieDown : (setConn s g i x).ucieDown = s.ucieDown := rfl
@[simp] theorem setConn_tests : (setConn s g i x).tests = s.tests := rfl
@[simp] theorem setConn_pow : (setConn s g i x).pow = s.pow := rfl
@[simp] theorem setConn_thm : (setConn s g i x).thm = s.thm := rfl
@[simp] theorem setConn_idle : (setConn s g i x).idle = s.idle := rfl
@[simp] theorem setConn_evFifo : (setConn s g i x).evFifo = s.evFifo := rfl
@[simp] theorem setConn_evDrops : (setConn s g i x).evDrops = s.evDrops := rfl
@[simp] theorem setConn_evLastDrop : (setConn s g i x).evLastDrop = s.evLastDrop := rfl
@[simp] theorem setConn_evSeries : (setConn s g i x).evSeries = s.evSeries := rfl
@[simp] theorem setConn_evResume : (setConn s g i x).evResume = s.evResume := rfl
@[simp] theorem setConn_hist : (setConn s g i x).hist = s.hist := rfl
@[simp] theorem setConn_flashA : (setConn s g i x).flashA = s.flashA := rfl
@[simp] theorem setConn_flashB : (setConn s g i x).flashB = s.flashB := rfl
@[simp] theorem setConn_calDirty : (setConn s g i x).calDirty = s.calDirty := rfl
@[simp] theorem setConn_calPref : (setConn s g i x).calPref = s.calPref := rfl
@[simp] theorem setConn_nextCause : (setConn s g i x).nextCause = s.nextCause := rfl
@[simp] theorem setConn_heatWait : (setConn s g i x).heatWait = s.heatWait := rfl
@[simp] theorem setConn_pf : (setConn s g i x).pf = s.pf := rfl
@[simp] theorem setConn_resetEpoch : (setConn s g i x).resetEpoch = s.resetEpoch := rfl
@[simp] theorem setConn_prepAt : (setConn s g i x).prepAt = s.prepAt := rfl
@[simp] theorem setConn_boundAt : (setConn s g i x).boundAt = s.boundAt := rfl
@[simp] theorem setConn_fwSt : (setConn s g i x).fwSt = s.fwSt := rfl
@[simp] theorem setConn_dbg : (setConn s g i x).dbg = s.dbg := rfl
@[simp] theorem setConn_smb : (setConn s g i x).smb = s.smb := rfl
@[simp] theorem setConn_syncAt : (setConn s g i x).syncAt = s.syncAt := rfl
@[simp] theorem setConn_slew : (setConn s g i x).slew = s.slew := rfl
@[simp] theorem setConn_slewAt : (setConn s g i x).slewAt = s.slewAt := rfl
@[simp] theorem setConn_comp : (setConn s g i x).comp = s.comp := rfl
@[simp] theorem setConn_hbmCe : (setConn s g i x).hbmCe = s.hbmCe := rfl
@[simp] theorem setConn_calOther : (setConn s g i x).calOther = s.calOther := rfl
@[simp] theorem setConn_streams : (setConn s g i x).streams = s.streams := rfl
end setConn

section setPort
variable (k : Nat) (x : PortSt)
@[simp] theorem setPort_pending : (setPort s k x).pending = s.pending := rfl
@[simp] theorem setPort_free : (setPort s k x).free = s.free := rfl
@[simp] theorem setPort_fuses : (setPort s k x).fuses = s.fuses := rfl
@[simp] theorem setPort_pins : (setPort s k x).pins = s.pins := rfl
@[simp] theorem setPort_stage : (setPort s k x).stage = s.stage := rfl
@[simp] theorem setPort_timebase : (setPort s k x).timebase = s.timebase := rfl
@[simp] theorem setPort_tbStarted : (setPort s k x).tbStarted = s.tbStarted := rfl
@[simp] theorem setPort_bar0 : (setPort s k x).bar0 = s.bar0 := rfl
@[simp] theorem setPort_mem : (setPort s k x).mem = s.mem := rfl
@[simp] theorem setPort_segUndef : (setPort s k x).segUndef = s.segUndef := rfl
@[simp] theorem setPort_segWritten : (setPort s k x).segWritten = s.segWritten := rfl
@[simp] theorem setPort_ue : (setPort s k x).ue = s.ue := rfl
@[simp] theorem setPort_hbmMap : (setPort s k x).hbmMap = s.hbmMap := rfl
@[simp] theorem setPort_hostMem : (setPort s k x).hostMem = s.hostMem := rfl
@[simp] theorem setPort_hostAns : (setPort s k x).hostAns = s.hostAns := rfl
@[simp] theorem setPort_hostTr : (setPort s k x).hostTr = s.hostTr := rfl
@[simp] theorem setPort_ports : (setPort s k x).ports = mput k x s.ports := rfl
@[simp] theorem setPort_restarting : (setPort s k x).restarting = s.restarting := rfl
@[simp] theorem setPort_leaseAt : (setPort s k x).leaseAt = s.leaseAt := rfl
@[simp] theorem setPort_unreach : (setPort s k x).unreach = s.unreach := rfl
@[simp] theorem setPort_cores : (setPort s k x).cores = s.cores := rfl
@[simp] theorem setPort_clusters : (setPort s k x).clusters = s.clusters := rfl
@[simp] theorem setPort_brRings : (setPort s k x).brRings = s.brRings := rfl
@[simp] theorem setPort_brStops : (setPort s k x).brStops = s.brStops := rfl
@[simp] theorem setPort_hubs : (setPort s k x).hubs = s.hubs := rfl
@[simp] theorem setPort_seStacks : (setPort s k x).seStacks = s.seStacks := rfl
@[simp] theorem setPort_copies : (setPort s k x).copies = s.copies := rfl
@[simp] theorem setPort_nextJob : (setPort s k x).nextJob = s.nextJob := rfl
@[simp] theorem setPort_opts : (setPort s k x).opts = s.opts := rfl
@[simp] theorem setPort_engs : (setPort s k x).engs = s.engs := rfl
@[simp] theorem setPort_trees : (setPort s k x).trees = s.trees := rfl
@[simp] theorem setPort_gconns : (setPort s k x).gconns = s.gconns := rfl
@[simp] theorem setPort_gbuf : (setPort s k x).gbuf = s.gbuf := rfl
@[simp] theorem setPort_physCl : (setPort s k x).physCl = s.physCl := rfl
@[simp] theorem setPort_physCore : (setPort s k x).physCore = s.physCore := rfl
@[simp] theorem setPort_partOut : (setPort s k x).partOut = s.partOut := rfl
@[simp] theorem setPort_clusterOut : (setPort s k x).clusterOut = s.clusterOut := rfl
@[simp] theorem setPort_clGone : (setPort s k x).clGone = s.clGone := rfl
@[simp] theorem setPort_coreGone : (setPort s k x).coreGone = s.coreGone := rfl
@[simp] theorem setPort_chUe : (setPort s k x).chUe = s.chUe := rfl
@[simp] theorem setPort_chFence : (setPort s k x).chFence = s.chFence := rfl
@[simp] theorem setPort_ucieDown : (setPort s k x).ucieDown = s.ucieDown := rfl
@[simp] theorem setPort_tests : (setPort s k x).tests = s.tests := rfl
@[simp] theorem setPort_pow : (setPort s k x).pow = s.pow := rfl
@[simp] theorem setPort_thm : (setPort s k x).thm = s.thm := rfl
@[simp] theorem setPort_idle : (setPort s k x).idle = s.idle := rfl
@[simp] theorem setPort_evFifo : (setPort s k x).evFifo = s.evFifo := rfl
@[simp] theorem setPort_evDrops : (setPort s k x).evDrops = s.evDrops := rfl
@[simp] theorem setPort_evLastDrop : (setPort s k x).evLastDrop = s.evLastDrop := rfl
@[simp] theorem setPort_evSeries : (setPort s k x).evSeries = s.evSeries := rfl
@[simp] theorem setPort_evResume : (setPort s k x).evResume = s.evResume := rfl
@[simp] theorem setPort_hist : (setPort s k x).hist = s.hist := rfl
@[simp] theorem setPort_flashA : (setPort s k x).flashA = s.flashA := rfl
@[simp] theorem setPort_flashB : (setPort s k x).flashB = s.flashB := rfl
@[simp] theorem setPort_calDirty : (setPort s k x).calDirty = s.calDirty := rfl
@[simp] theorem setPort_calPref : (setPort s k x).calPref = s.calPref := rfl
@[simp] theorem setPort_nextCause : (setPort s k x).nextCause = s.nextCause := rfl
@[simp] theorem setPort_heatWait : (setPort s k x).heatWait = s.heatWait := rfl
@[simp] theorem setPort_pf : (setPort s k x).pf = s.pf := rfl
@[simp] theorem setPort_resetEpoch : (setPort s k x).resetEpoch = s.resetEpoch := rfl
@[simp] theorem setPort_prepAt : (setPort s k x).prepAt = s.prepAt := rfl
@[simp] theorem setPort_boundAt : (setPort s k x).boundAt = s.boundAt := rfl
@[simp] theorem setPort_fwSt : (setPort s k x).fwSt = s.fwSt := rfl
@[simp] theorem setPort_dbg : (setPort s k x).dbg = s.dbg := rfl
@[simp] theorem setPort_smb : (setPort s k x).smb = s.smb := rfl
@[simp] theorem setPort_syncAt : (setPort s k x).syncAt = s.syncAt := rfl
@[simp] theorem setPort_slew : (setPort s k x).slew = s.slew := rfl
@[simp] theorem setPort_slewAt : (setPort s k x).slewAt = s.slewAt := rfl
@[simp] theorem setPort_comp : (setPort s k x).comp = s.comp := rfl
@[simp] theorem setPort_hbmCe : (setPort s k x).hbmCe = s.hbmCe := rfl
@[simp] theorem setPort_calOther : (setPort s k x).calOther = s.calOther := rfl
@[simp] theorem setPort_streams : (setPort s k x).streams = s.streams := rfl
end setPort

section setOpt
variable (k : Nat) (x : OptSt)
@[simp] theorem setOpt_pending : (setOpt s k x).pending = s.pending := rfl
@[simp] theorem setOpt_free : (setOpt s k x).free = s.free := rfl
@[simp] theorem setOpt_fuses : (setOpt s k x).fuses = s.fuses := rfl
@[simp] theorem setOpt_pins : (setOpt s k x).pins = s.pins := rfl
@[simp] theorem setOpt_stage : (setOpt s k x).stage = s.stage := rfl
@[simp] theorem setOpt_timebase : (setOpt s k x).timebase = s.timebase := rfl
@[simp] theorem setOpt_tbStarted : (setOpt s k x).tbStarted = s.tbStarted := rfl
@[simp] theorem setOpt_bar0 : (setOpt s k x).bar0 = s.bar0 := rfl
@[simp] theorem setOpt_mem : (setOpt s k x).mem = s.mem := rfl
@[simp] theorem setOpt_segUndef : (setOpt s k x).segUndef = s.segUndef := rfl
@[simp] theorem setOpt_segWritten : (setOpt s k x).segWritten = s.segWritten := rfl
@[simp] theorem setOpt_ue : (setOpt s k x).ue = s.ue := rfl
@[simp] theorem setOpt_hbmMap : (setOpt s k x).hbmMap = s.hbmMap := rfl
@[simp] theorem setOpt_hostMem : (setOpt s k x).hostMem = s.hostMem := rfl
@[simp] theorem setOpt_hostAns : (setOpt s k x).hostAns = s.hostAns := rfl
@[simp] theorem setOpt_hostTr : (setOpt s k x).hostTr = s.hostTr := rfl
@[simp] theorem setOpt_ports : (setOpt s k x).ports = s.ports := rfl
@[simp] theorem setOpt_restarting : (setOpt s k x).restarting = s.restarting := rfl
@[simp] theorem setOpt_leaseAt : (setOpt s k x).leaseAt = s.leaseAt := rfl
@[simp] theorem setOpt_unreach : (setOpt s k x).unreach = s.unreach := rfl
@[simp] theorem setOpt_cores : (setOpt s k x).cores = s.cores := rfl
@[simp] theorem setOpt_clusters : (setOpt s k x).clusters = s.clusters := rfl
@[simp] theorem setOpt_brRings : (setOpt s k x).brRings = s.brRings := rfl
@[simp] theorem setOpt_brStops : (setOpt s k x).brStops = s.brStops := rfl
@[simp] theorem setOpt_hubs : (setOpt s k x).hubs = s.hubs := rfl
@[simp] theorem setOpt_seStacks : (setOpt s k x).seStacks = s.seStacks := rfl
@[simp] theorem setOpt_copies : (setOpt s k x).copies = s.copies := rfl
@[simp] theorem setOpt_nextJob : (setOpt s k x).nextJob = s.nextJob := rfl
@[simp] theorem setOpt_opts : (setOpt s k x).opts = mput k x s.opts := rfl
@[simp] theorem setOpt_engs : (setOpt s k x).engs = s.engs := rfl
@[simp] theorem setOpt_trees : (setOpt s k x).trees = s.trees := rfl
@[simp] theorem setOpt_gconns : (setOpt s k x).gconns = s.gconns := rfl
@[simp] theorem setOpt_gbuf : (setOpt s k x).gbuf = s.gbuf := rfl
@[simp] theorem setOpt_physCl : (setOpt s k x).physCl = s.physCl := rfl
@[simp] theorem setOpt_physCore : (setOpt s k x).physCore = s.physCore := rfl
@[simp] theorem setOpt_partOut : (setOpt s k x).partOut = s.partOut := rfl
@[simp] theorem setOpt_clusterOut : (setOpt s k x).clusterOut = s.clusterOut := rfl
@[simp] theorem setOpt_clGone : (setOpt s k x).clGone = s.clGone := rfl
@[simp] theorem setOpt_coreGone : (setOpt s k x).coreGone = s.coreGone := rfl
@[simp] theorem setOpt_chUe : (setOpt s k x).chUe = s.chUe := rfl
@[simp] theorem setOpt_chFence : (setOpt s k x).chFence = s.chFence := rfl
@[simp] theorem setOpt_ucieDown : (setOpt s k x).ucieDown = s.ucieDown := rfl
@[simp] theorem setOpt_tests : (setOpt s k x).tests = s.tests := rfl
@[simp] theorem setOpt_pow : (setOpt s k x).pow = s.pow := rfl
@[simp] theorem setOpt_thm : (setOpt s k x).thm = s.thm := rfl
@[simp] theorem setOpt_idle : (setOpt s k x).idle = s.idle := rfl
@[simp] theorem setOpt_evFifo : (setOpt s k x).evFifo = s.evFifo := rfl
@[simp] theorem setOpt_evDrops : (setOpt s k x).evDrops = s.evDrops := rfl
@[simp] theorem setOpt_evLastDrop : (setOpt s k x).evLastDrop = s.evLastDrop := rfl
@[simp] theorem setOpt_evSeries : (setOpt s k x).evSeries = s.evSeries := rfl
@[simp] theorem setOpt_evResume : (setOpt s k x).evResume = s.evResume := rfl
@[simp] theorem setOpt_hist : (setOpt s k x).hist = s.hist := rfl
@[simp] theorem setOpt_flashA : (setOpt s k x).flashA = s.flashA := rfl
@[simp] theorem setOpt_flashB : (setOpt s k x).flashB = s.flashB := rfl
@[simp] theorem setOpt_calDirty : (setOpt s k x).calDirty = s.calDirty := rfl
@[simp] theorem setOpt_calPref : (setOpt s k x).calPref = s.calPref := rfl
@[simp] theorem setOpt_nextCause : (setOpt s k x).nextCause = s.nextCause := rfl
@[simp] theorem setOpt_heatWait : (setOpt s k x).heatWait = s.heatWait := rfl
@[simp] theorem setOpt_pf : (setOpt s k x).pf = s.pf := rfl
@[simp] theorem setOpt_resetEpoch : (setOpt s k x).resetEpoch = s.resetEpoch := rfl
@[simp] theorem setOpt_prepAt : (setOpt s k x).prepAt = s.prepAt := rfl
@[simp] theorem setOpt_boundAt : (setOpt s k x).boundAt = s.boundAt := rfl
@[simp] theorem setOpt_fwSt : (setOpt s k x).fwSt = s.fwSt := rfl
@[simp] theorem setOpt_dbg : (setOpt s k x).dbg = s.dbg := rfl
@[simp] theorem setOpt_smb : (setOpt s k x).smb = s.smb := rfl
@[simp] theorem setOpt_syncAt : (setOpt s k x).syncAt = s.syncAt := rfl
@[simp] theorem setOpt_slew : (setOpt s k x).slew = s.slew := rfl
@[simp] theorem setOpt_slewAt : (setOpt s k x).slewAt = s.slewAt := rfl
@[simp] theorem setOpt_comp : (setOpt s k x).comp = s.comp := rfl
@[simp] theorem setOpt_hbmCe : (setOpt s k x).hbmCe = s.hbmCe := rfl
@[simp] theorem setOpt_calOther : (setOpt s k x).calOther = s.calOther := rfl
@[simp] theorem setOpt_streams : (setOpt s k x).streams = s.streams := rfl
end setOpt

end Sys2Proof.Machine
end

