-- ==== Sys2Proof/Laws/Ops.lean ====
section
/-! SUPPORT. What the shared operations answer: registers and their fields, the parts of the state, threads, events and leaves, the
gates that commands pass. -/
namespace Sys2Proof.Machine

/-! ## Bit fields -/

/-- Every bit of a word with a field replaced. -/
theorem getLsbD_setFld {w : Nat} (v : BitVec w) (hi lo x i : Nat) :
    (setFld v hi lo x).getLsbD i = if lo ≤ i ∧ i ≤ hi ∧ i < w then x.testBit (i - lo) else v.getLsbD i := by
  have hm : ∀ j, ((2 ^ (hi + 1 - lo) - 1) * 2 ^ lo).testBit j = (decide (lo ≤ j) && decide (j - lo < hi + 1 - lo)) := fun j => by
    rw [Nat.testBit_mul_two_pow, Nat.testBit_two_pow_sub_one]
  have hx : (x * 2 ^ lo).testBit i = (decide (lo ≤ i) && x.testBit (i - lo)) := Nat.testBit_mul_two_pow ..
  rw [setFld, BitVec.getLsbD_or, BitVec.getLsbD_and, BitVec.getLsbD_and, BitVec.getLsbD_not, BitVec.getLsbD_ofNat, BitVec.getLsbD_ofNat,
    hm, hx]
  by_cases hw : i < w
  · by_cases hl : lo ≤ i
    · by_cases hh : i ≤ hi
      · have h : i - lo < hi + 1 - lo := by omega
        simp only [hw, hl, hh, h, decide_true, Bool.true_and, Bool.and_true, Bool.not_true, Bool.and_false, Bool.false_or, and_self, if_true]
      · have h : ¬ i - lo < hi + 1 - lo := by omega
        simp only [hw, hl, hh, h, decide_true, decide_false, Bool.true_and, Bool.and_false, Bool.not_false, Bool.and_true, Bool.or_false,
          and_false, false_and, if_false]
    · simp only [hw, hl, decide_true, decide_false, Bool.true_and, Bool.and_false, Bool.false_and, Bool.not_false, Bool.and_true, Bool.or_false,
        false_and, if_false]
  · rw [BitVec.getLsbD_of_ge _ _ (Nat.le_of_not_lt hw), if_neg (by omega)]
    simp only [hw, decide_false, Bool.false_and, Bool.or_self]

/-- The bits of a field. -/
theorem testBit_fld {w : Nat} (v : BitVec w) (hi lo i : Nat) : (fld v hi lo).testBit i = (decide (i < hi + 1 - lo) && v.getLsbD (lo + i)) := by
  simp [fld, nbits, Nat.testBit_mod_two_pow, Nat.testBit_div_two_pow, BitVec.getLsbD, Nat.add_comm]

theorem fld_lt {w : Nat} (v : BitVec w) (hi lo : Nat) : fld v hi lo < 2 ^ (hi + 1 - lo) := Nat.mod_lt _ (Nat.two_pow_pos _)

/-- A field read back. -/
theorem fld_setFld_same {w : Nat} (v : BitVec w) (hi lo x : Nat) (h : hi < w) : fld (setFld v hi lo x) hi lo = x % 2 ^ (hi + 1 - lo) := by
  apply Nat.eq_of_testBit_eq
  intro i
  rw [testBit_fld, getLsbD_setFld, Nat.testBit_mod_two_pow]
  by_cases hi' : i < hi + 1 - lo
  · rw [if_pos ⟨by omega, by omega, by omega⟩]; simp
  · simp [hi']

/-- Another field is as it was. -/
theorem fld_setFld_ne {w : Nat} (v : BitVec w) {hi lo x h l : Nat} (d : h < lo ∨ hi < l) : fld (setFld v hi lo x) h l = fld v h l := by
  apply Nat.eq_of_testBit_eq
  intro i
  simp only [testBit_fld, getLsbD_setFld]
  by_cases hi' : i < h + 1 - l
  · rw [if_neg (by omega)]
  · simp [hi']

@[simp] theorem getLsbD_setBit_same {w : Nat} (v : BitVec w) (i : Nat) (b : Bool) (h : i < w) : (setBit v i b).getLsbD i = b := by
  rw [setBit, getLsbD_setFld, if_pos ⟨Nat.le_refl _, Nat.le_refl _, h⟩]; cases b <;> simp

theorem getLsbD_setBit_ne {w : Nat} (v : BitVec w) {i j : Nat} (b : Bool) (h : j ≠ i) : (setBit v i b).getLsbD j = v.getLsbD j := by
  rw [setBit, getLsbD_setFld, if_neg (by omega)]

/-! ## Registers -/

@[simp] theorem small_setReg (s : State) (o : Nat) (v : Word) : small (setReg s o v) = small s := rfl

/-- A register after a write. -/
theorem reg_setReg (s : State) (o : Nat) (v : Word) (o' : Nat) : reg (setReg s o v) o' = if o' = o then v else reg s o' := by
  unfold reg setReg
  by_cases h : o' = o
  · subst h; simp
  · simp only [mfind_mput_ne _ _ h, if_neg h]; rfl

@[simp] theorem reg_setReg_same (s : State) (o : Nat) (v : Word) : reg (setReg s o v) o = v := by simp [reg_setReg]

theorem reg_setReg_ne (s : State) {o o' : Nat} (v : Word) (h : o' ≠ o) : reg (setReg s o v) o' = reg s o' := by simp [reg_setReg, h]

theorem reg_setRfld_ne (s : State) {o o' hi lo x : Nat} (h : o' ≠ o) : reg (setRfld s o hi lo x) o' = reg s o' := reg_setReg_ne s _ h

theorem reg_setRbit_ne (s : State) {o o' i : Nat} (b : Bool) (h : o' ≠ o) : reg (setRbit s o i b) o' = reg s o' := reg_setReg_ne s _ h

/-- A field of a register read back. -/
theorem rfld_setRfld_same (s : State) (o hi lo x : Nat) (h : hi < 64) : rfld (setRfld s o hi lo x) o hi lo = x % 2 ^ (hi + 1 - lo) := by
  simp [rfld, setRfld, fld_setFld_same _ hi lo x h]

theorem rfld_setRfld_ne (s : State) {o hi lo x o' h l : Nat} (d : o' ≠ o ∨ h < lo ∨ hi < l) : rfld (setRfld s o hi lo x) o' h l = rfld s o' h l := by
  by_cases e : o' = o
  · subst e; simp [rfld, setRfld, fld_setFld_ne _ (d.resolve_left (· rfl))]
  · simp [rfld, setRfld, reg_setReg_ne s _ e]

theorem rbit_setRfld (s : State) (o hi lo x o' i : Nat) :
    rbit (setRfld s o hi lo x) o' i = if o' = o ∧ lo ≤ i ∧ i ≤ hi ∧ i < 64 then x.testBit (i - lo) else rbit s o' i := by
  by_cases e : o' = o
  · subst e; simp [rbit, setRfld, getLsbD_setFld]
  · simp [rbit, setRfld, reg_setReg_ne s _ e, e]

@[simp] theorem rbit_setRbit_same (s : State) (o i : Nat) (b : Bool) (h : i < 64) : rbit (setRbit s o i b) o i = b := by
  rw [rbit, setRbit, reg_setReg_same, getLsbD_setBit_same _ _ _ h]

theorem rbit_setRbit_ne (s : State) {o i o' j : Nat} (b : Bool) (d : o' ≠ o ∨ j ≠ i) : rbit (setRbit s o i b) o' j = rbit s o' j := by
  by_cases e : o' = o
  · subst e; simp [rbit, setRbit, getLsbD_setBit_ne _ b (d.resolve_left (· rfl))]
  · simp [rbit, setRbit, reg_setReg_ne s _ e]

theorem rfld_setRbit_ne (s : State) {o i o' h l : Nat} (b : Bool) (d : o' ≠ o ∨ h < i ∨ i < l) : rfld (setRbit s o i b) o' h l = rfld s o' h l :=
  rfld_setRfld_ne s d

/-- A leaf is set; no bit of a register is cleared by it. -/
theorem rbit_leaf (s : State) (src b o i : Nat) (h : b < 64) : rbit (leaf s src b) o i = (decide (o = rIntL1 src ∧ i = b) || rbit s o i) := by
  by_cases d : o = rIntL1 src ∧ i = b
  · obtain ⟨rfl, rfl⟩ := d; simp [leaf, h]
  · rw [leaf, rbit_setRbit_ne _ _ (by omega)]; simp [d]

/-! ## Parts of the state -/

theorem getCore_setCore (s : State) (k : Nat) (x : CoreSt) (j : Nat) : getCore (setCore s k x) j = if j = k then x else getCore s j := mget_mput ..
theorem getCl_setCl (s : State) (k : Nat) (x : ClusterSt) (j : Nat) : getCl (setCl s k x) j = if j = k then x else getCl s j := mget_mput ..
theorem getHub_setHub (s : State) (k : Nat) (x : HubSt) (j : Nat) : getHub (setHub s k x) j = if j = k then x else getHub s j := mget_mput ..
theorem getStack_setStack (s : State) (k : Nat) (x : StackSt) (j : Nat) :
    getStack (setStack s k x) j = if j = k then x else getStack s j := mget_mput ..
theorem getEng_setEng (s : State) (k : Nat) (x : EngSt) (j : Nat) : getEng (setEng s k x) j = if j = k then x else getEng s j := mget_mput ..
theorem getOpt_setOpt (s : State) (k : Nat) (x : OptSt) (j : Nat) : getOpt (setOpt s k x) j = if j = k then x else getOpt s j := mget_mput ..
theorem getPort_setPort (s : State) (k : Nat) (x : PortSt) (j : Nat) : getPort (setPort s k x) j = if j = k then x else getPort s j := mget_mput ..
theorem getTree_setTree (s : State) (k : Nat) (x : TreeSt) (j : Nat) : getTree (setTree s k x) j = if j = k then x else getTree s j := mget_mput ..
theorem getConn_setConn (s : State) (g i : Nat) (x : GpConn) (h j : Nat) :
    getConn (setConn s g i x) h j = if gKey h j = gKey g i then x else getConn s h j := mget_mput ..

@[simp] theorem getCore_setReg (s : State) (o : Nat) (v : Word) (j : Nat) : getCore (setReg s o v) j = getCore s j := rfl
@[simp] theorem getCl_setReg (s : State) (o : Nat) (v : Word) (j : Nat) : getCl (setReg s o v) j = getCl s j := rfl
@[simp] theorem getHub_setReg (s : State) (o : Nat) (v : Word) (j : Nat) : getHub (setReg s o v) j = getHub s j := rfl
@[simp] theorem getEng_setReg (s : State) (o : Nat) (v : Word) (j : Nat) : getEng (setReg s o v) j = getEng s j := rfl
@[simp] theorem getOpt_setReg (s : State) (o : Nat) (v : Word) (j : Nat) : getOpt (setReg s o v) j = getOpt s j := rfl
@[simp] theorem reg_setCore (s : State) (k : Nat) (x : CoreSt) (o : Nat) : reg (setCore s k x) o = reg s o := rfl
@[simp] theorem reg_setCl (s : State) (k : Nat) (x : ClusterSt) (o : Nat) : reg (setCl s k x) o = reg s o := rfl
@[simp] theorem reg_setHub (s : State) (k : Nat) (x : HubSt) (o : Nat) : reg (setHub s k x) o = reg s o := rfl
@[simp] theorem reg_setEng (s : State) (k : Nat) (x : EngSt) (o : Nat) : reg (setEng s k x) o = reg s o := rfl
@[simp] theorem reg_setOpt (s : State) (k : Nat) (x : OptSt) (o : Nat) : reg (setOpt s k x) o = reg s o := rfl
@[simp] theorem reg_setConn (s : State) (g i : Nat) (x : GpConn) (o : Nat) : reg (setConn s g i x) o = reg s o := rfl
@[simp] theorem reg_setPort (s : State) (k : Nat) (x : PortSt) (o : Nat) : reg (setPort s k x) o = reg s o := rfl

/-- A thread of a core after one is replaced. -/
theorem getThread_setThread (c : CoreSt) (t : Nat) (x : ThreadSt) (u : Nat) (h : t < 16) :
    getThread (setThread c t x) u = if u = t then x else getThread c u := by
  unfold getThread setThread vget vset
  by_cases e : u = t
  · subst e; simp [h]
  · simp [Vector.getElem?_setIfInBounds, e, Ne.symm e]

/-- A thread after one is replaced. -/
theorem threadOf_putThread (s : State) (t : ThreadRef) (x : ThreadSt) (u : ThreadRef) (h : t.th < 16) :
    threadOf (putThread s t x) u = if tKey u = tKey t ∧ u.th = t.th then x else threadOf s u := by
  unfold threadOf putThread
  rw [getCore_setCore]
  by_cases e : tKey u = tKey t
  · rw [if_pos (by exact e), getThread_setThread _ _ _ _ h]
    by_cases e' : u.th = t.th
    · simp [e, e']
    · simp only [e', if_false, and_false]; rw [show coreKey u.die u.cl u.core = coreKey t.die t.cl t.core from e]
  · rw [if_neg (by exact e)]; simp [e]

/-! ## Events -/

/-- An event raised changes only what waits to be recorded: Saley's FIFO and drop counts, a hub's, and the DROPPED leaf. -/
theorem emitEv_frame (s : State) (e : Event) :
    ∃ f d l h, emitEv s e = { s with evFifo := f, evDrops := d, evLastDrop := l, hubs := h } ∨
      emitEv s e = leaf { s with evFifo := f, evDrops := d, evLastDrop := l, hubs := h } 27 1 := by
  unfold emitEv
  split
  · rw [holdEv]
    by_cases r : (getHub s (eventHub e)).events.length < 256
    · rw [if_pos r]; exact ⟨s.evFifo, s.evDrops, s.evLastDrop, _, Or.inl rfl⟩
    · rw [if_neg r]; exact ⟨s.evFifo, s.evDrops, _, _, Or.inr rfl⟩
  · rw [fifoEv]
    by_cases r : s.evFifo.length < 1024
    · rw [if_pos r]; exact ⟨_, s.evDrops, s.evLastDrop, s.hubs, Or.inl rfl⟩
    · rw [if_neg r]; exact ⟨s.evFifo, _, _, s.hubs, Or.inr rfl⟩

/-- An event reaches Saley's FIFO where Saley is there and the FIFO has room. -/
theorem emitEv_fifo (s : State) (e : Event) (h : saleyAway s e = false) (r : s.evFifo.length < 1024) :
    emitEv s e = { s with evFifo := s.evFifo ++ [e] } := by
  simp [emitEv, fifoEv, h, r]

/-- An event clears no bit of a register, and of the registers it changes only the event log's leaves. -/
theorem reg_emitEv (s : State) (e : Event) (o : Nat) (h : o ≠ rIntL1 27) : reg (emitEv s e) o = reg s o := by
  obtain ⟨f, d, l, u, r | r⟩ := emitEv_frame s e
  · rw [r]; rfl
  · rw [r, leaf, reg_setRbit_ne _ _ h]; rfl

theorem rbit_emitEv (s : State) (e : Event) (o i : Nat) (h : rbit s o i = true) : rbit (emitEv s e) o i = true := by
  obtain ⟨f, d, l, u, r | r⟩ := emitEv_frame s e
  · rw [r]; exact h
  · rw [r, rbit_leaf _ _ _ _ _ (by decide), Bool.or_eq_true]; exact Or.inr h

/-! ## Gates -/

@[simp] theorem guardWf_true (o : Out) : guardWf true o = o := rfl
@[simp] theorem guardWf_false (o : Out) : guardWf false o = illFormed := rfl

/-- What an instruction's fate makes of it. -/
theorem issue_of_fate (r : CoreRow) (t : ThreadRef) (w : Word) (s : State) (body : State → ThreadSt → State) :
    (fateOf r t w s = .go → issue r t w s body = .next (body (fetched s t) (threadOf s t))) ∧
    (∀ c, fateOf r t w s = .trap c → issue r t w s body = .next (takeTrap (fetched s t) t c [])) ∧
    (fateOf r t w s = .skip → issue r t w s body = .next (fin (fetched s t) t (threadOf s t))) ∧
    (fateOf r t w s = .hold → issue r t w s body = .next s) ∧
    (∀ q, fateOf r t w s = .refuse q → issue r t w s body = .refused q) := by
  refine ⟨fun h => ?_, fun c h => ?_, fun h => ?_, fun h => ?_, fun q h => ?_⟩ <;> simp [issue, h]

/-- An engine's row, the engine there and live. -/
theorem onEng_live (s : State) (eng : Nat) (f : State) (h : eng < 64) (l : engLive s eng = true) : onEng s eng true f = .next f := by
  simp [onEng, h, l]

/-- A general port's row, the port there and its die up. -/
theorem onGp_live (s : State) (g : Nat) (f : State) (h : g < 8) (p : optPresent s g = true) (r : running s = true) (u : optUp s g = true) :
    onGp s g true f = .next f := by
  simp [onGp, h, p, r, u]

end Sys2Proof.Machine
end

