-- ==== Sys2Proof/Laws/Wire.lean ====
section
/-! SUPPORT. The flits that a sender makes are those that a receiver takes (R338, R339). -/
namespace Sys2Proof.Machine

theorem toBytes_length : ∀ n v, (toBytes n v).length = n
  | 0, _ => rfl
  | n + 1, v => by simp [toBytes, toBytes_length n]

theorem ofBytes_lt : ∀ l : List (BitVec 8), ofBytes l < 256 ^ l.length
  | [] => by simp [ofBytes]
  | b :: l => by
    have h := ofBytes_lt l
    have := b.isLt
    simp only [ofBytes, List.length_cons, Nat.pow_succ]
    omega

theorem ofBytes_append : ∀ a b : List (BitVec 8), ofBytes (a ++ b) = ofBytes a + 256 ^ a.length * ofBytes b
  | [], b => by simp [ofBytes]
  | x :: a, b => by
    simp only [List.cons_append, ofBytes, List.length_cons, ofBytes_append a b, Nat.pow_succ]
    rw [Nat.mul_add, Nat.mul_comm (256 ^ a.length) 256, Nat.mul_assoc]
    omega

theorem ofBytes_toBytes : ∀ n v, ofBytes (toBytes n v) = v % 256 ^ n
  | 0, v => by simp [toBytes, ofBytes, Nat.mod_one]
  | n + 1, v => by
    simp only [toBytes, ofBytes, ofBytes_toBytes n, BitVec.toNat_ofNat, Nat.pow_succ]
    rw [Nat.mul_comm (256 ^ n) 256, Nat.mod_mul (x := v) (a := 256) (b := 256 ^ n)]

/-- The bytes of what a list spells are the list. -/
theorem toBytes_ofBytes : ∀ (a b : List (BitVec 8)), toBytes a.length (ofBytes (a ++ b)) = a
  | [], _ => rfl
  | x :: a, b => by
    have hx := x.isLt
    have h1 : (x.toNat + 256 * ofBytes (a ++ b)) / 256 = ofBytes (a ++ b) := by omega
    simp only [List.length_cons, List.cons_append, toBytes, ofBytes, h1, toBytes_ofBytes a b]
    congr 1
    apply BitVec.eq_of_toNat_eq
    simp only [BitVec.toNat_ofNat]
    omega

theorem padTo_length (n : Nat) (l : List Byte) : (padTo n l).length = n := by
  simp only [padTo, List.length_take, List.length_append, List.length_replicate]
  omega

/-- A flit's number: its header word, its payload, its CRC. -/
theorem flitBits_toNat (h : FlitHead) (p : List Byte) :
    (flitBits h p).toNat = ofBytes (flitBytes h p) ∧ (flitBytes h p).length = 256 := by
  have hl : (flitBytes h p).length = 256 := by simp [flitBytes, toBytes_length, padTo_length]
  refine ⟨?_, hl⟩
  have := ofBytes_lt (flitBytes h p)
  rw [hl] at this
  simp only [flitBits, BitVec.toNat_ofNat]
  exact Nat.mod_eq_of_lt (by omega)

/-- The CRC of a flit as it is made passes (R339). -/
theorem crcGood_flitBits (h : FlitHead) (p : List Byte) : crcGood (flitBits h p) = true := by
  have hb : (toBytes 8 h.word ++ padTo 240 p).length = 248 := by simp [toBytes_length, padTo_length]
  have ht : toBytes 248 (flitBits h p).toNat = toBytes 8 h.word ++ padTo 240 p := by
    rw [(flitBits_toNat h p).1]
    have := toBytes_ofBytes (toBytes 8 h.word ++ padTo 240 p) (toBytes 8 (crc64 (toBytes 8 h.word ++ padTo 240 p)).toNat)
    rwa [hb] at this
  simp only [crcGood, ht, beq_iff_eq]
  rw [(flitBits_toNat h p).1]
  simp only [flitBytes, ofBytes_append, hb, ofBytes_toBytes, nbits]
  have h1 := ofBytes_lt (toBytes 8 h.word ++ padTo 240 p)
  rw [hb, ofBytes_append, ofBytes_toBytes] at h1
  have h2 := (crc64 (toBytes 8 h.word ++ padTo 240 p)).isLt
  omega

/-- A flit's payload comes back (R338). -/
theorem payloadOf_flitBits (h : FlitHead) (p : List Byte) : payloadOf (flitBits h p) = padTo 240 p := by
  have hw : (toBytes 8 h.word).length = 8 := toBytes_length _ _
  have hx : ofBytes (flitBytes h p) / 2 ^ 64 = ofBytes (padTo 240 p ++ toBytes 8 (crc64 (toBytes 8 h.word ++ padTo 240 p)).toNat) := by
    have h1 := ofBytes_lt (toBytes 8 h.word)
    rw [hw] at h1
    simp only [flitBytes, List.append_assoc]
    rw [ofBytes_append, hw]
    omega
  have := toBytes_ofBytes (padTo 240 p) (toBytes 8 (crc64 (toBytes 8 h.word ++ padTo 240 p)).toNat)
  rw [padTo_length] at this
  rw [payloadOf, (flitBits_toNat h p).1, hx, this]

/-- The header word of a flit's bits. -/
theorem flitBits_word (h : FlitHead) (p : List Byte) : (flitBits h p).toNat % 2 ^ 64 = h.word := by
  have hw : h.word < 2 ^ 64 := by
    have hb : ∀ b : Bool, b2n b ≤ 1 := by decide
    have := hb h.sop; have := hb h.eop; have := hb h.ackV; have := hb h.nak
    simp only [FlitHead.word]
    omega
  rw [(flitBits_toNat h p).1]
  simp only [flitBytes, List.append_assoc]
  rw [ofBytes_append, toBytes_length, ofBytes_toBytes]
  omega

/-- A header comes back from the flit that carries it (R338). -/
theorem headOf_flitBits (h : FlitHead) (p : List Byte) (hk : h.kind < 8) (hv : h.valid < 256) (hc : h.cls < 4) (hs : h.seq < 4096)
    (ha : h.ack < 4096) : headOf (flitBits h p) = h := by
  obtain ⟨kind, sop, eop, valid, cls, seq, ack, ackV, nak⟩ := h
  have hw := flitBits_word ⟨kind, sop, eop, valid, cls, seq, ack, ackV, nak⟩ p
  generalize flitBits ⟨kind, sop, eop, valid, cls, seq, ack, ackV, nak⟩ p = f at hw
  have hb : ∀ b : Bool, b2n b ≤ 1 := by decide
  have b1 : ∀ (b : Bool) (i : Nat), f.toNat / 2 ^ i % 2 = b2n b → f.getLsbD i = b := by
    intro b i he
    rw [BitVec.getLsbD, Nat.testBit_eq_decide_div_mod_eq, he]
    cases b <;> decide
  have := hb sop; have := hb eop; have := hb ackV; have := hb nak
  simp only [FlitHead.word] at hw hk hv hc hs ha
  simp only [headOf, fld, nbits]
  congr 1
  · omega
  · exact b1 _ _ (by omega)
  · exact b1 _ _ (by omega)
  · omega
  · omega
  · omega
  · omega
  · exact b1 _ _ (by omega)
  · exact b1 _ _ (by omega)

/-- A flit as it is made is taken: the receiver's checks of R338 and R339 pass. -/
theorem flitSound_flitBits (h : FlitHead) (p : List Byte) (hk : h.kind < 3) (hv : h.valid < 256) (hc : h.cls < 4) (hs : h.seq < 4096)
    (ha : h.ack < 4096) : flitSound (flitBits h p) = (h.kind != 1 || (h.cls != 3 && decide (1 ≤ h.valid) && decide (h.valid ≤ 240))) := by
  have hh := headOf_flitBits h p (by omega) hv hc hs ha
  have hw := flitBits_word h p
  have hb : ∀ b : Bool, b2n b ≤ 1 := by decide
  have := hb h.sop; have := hb h.eop; have := hb h.ackV; have := hb h.nak
  have h15 : (flitBits h p).getLsbD 15 = false := by
    rw [BitVec.getLsbD, Nat.testBit_eq_decide_div_mod_eq]
    simp only [FlitHead.word] at hw
    simp only [decide_eq_false_iff_not]
    omega
  have hr : nbits (flitBits h p).toNat 63 42 = 0 := by
    simp only [FlitHead.word] at hw
    simp only [nbits]
    omega
  simp only [flitSound, hh, crcGood_flitBits, h15, hr, hk]
  simp

end Sys2Proof.Machine
end

