-- ==== Sys2Proof/Tests/Slice0.lean ====
section
/-! SUPPORT. Tests: ill-formed operands refused, what commands do on small states, and, for every statement, states and operands that
meet its hypotheses. -/
set_option Elab.async false

namespace Sys2Proof.Tests
open Sys2Proof Sys2Proof.Machine

/-! ## Small states -/

/-- Up, all sixteen partitions ready, Saley reaching hub 0, tenant 0 holding ADMIN_LOCK. -/
def up0 : State :=
  { State.reset with
    stage := .up, bar0 := [(rAdminLock, 0x03E80001#64), (rDevStatus, 0xFFFF0041#64), (rEgr 0, 0x1000000#64)] }

/-- The next state of an outcome; reset where there is none. -/
def nx (o : Out) : State :=
  match o with
  | .next t => t
  | _ => State.reset

def isNext (o : Out) : Bool :=
  match o with
  | .next _ => true
  | _ => false

/-- A command refused as ill-formed. -/
def isIll (o : Out) : Bool :=
  match o with
  | .refused .illFormed => true
  | _ => false

/-- An instruction word. -/
def mkw (major minor dst a b c imm : Nat) : Word :=
  BitVec.ofNat 64 (major * 2 ^ 58 + minor * 2 ^ 52 + dst * 2 ^ 47 + a * 2 ^ 42 + b * 2 ^ 37 + c * 2 ^ 32 + imm)

/-- The first thread of the package. -/
def th0 : ThreadRef := ⟨0, 0, 0, 0⟩

/-- A page of the state stack's memory that its owner may read, write and run. -/
def page0 : Tlb := { tenant := 0, big := false, vpage := 0, gpage := 0x80002, w := true, x := true, attr := 0 }

/-- A thread that runs at 0 with all vector registers. -/
def run0 : ThreadSt := { stat := .run, quota := 16 }

def launch0 : Launch := { part := 0, op := 0, nthr := 1, total := 1 }

/-- A state in which the first thread is `x`, its core otherwise `c`. -/
def upC (c : CoreSt) (x : ThreadSt) : State :=
  { up0 with
    cores := [(0, { c with launch := some launch0, threads := c.threads.setIfInBounds 0 x })],
    clusters := [(0, { tlb := [page0] })],
    hubs := [(0, { own := [(98306, 0x100000#32)], ops := [(0, { desc := {}, phase := .chosen })] })] }

def upT (x : ThreadSt) : State := upC {} x

def th : State := upT run0

/-- A valid word of every row of the instruction tables, by the MAJOR and MINOR that R98 to R126 and R49 to R77 give it. -/
def rowWords1 : List (CoreRow × Word) :=
  [(.mclaim, mkw 0x20 0 1 0 0 0 1), (.mrel, mkw 0x20 1 0 0 0 0 1), (.mcfg, mkw 0x21 0 0 1 0 0 0), (.mstream, mkw 0x22 3 0 1 2 0 3),
   (.mrun, mkw 0x23 0 0 1 0 0 1), (.mswap, mkw 0x24 0 0 0 0 0 15), (.mzero, mkw 0x25 1 0 0 0 0 15), (.mstat, mkw 0x26 1 5 0 0 0 0),
   (.alu, mkw 0 14 31 30 29 0 0), (.alui, mkw 1 14 31 30 0 0 0xFFFFFFFF), (.cmp, mkw 2 5 7 1 2 0 0), (.cmpi, mkw 3 5 7 1 0 0 0x80000000),
   (.movi, mkw 4 0 31 0 0 0 0xFFFFFFFF), (.movhi, mkw 4 1 1 0 0 0 1), (.sel, mkw 4 2 1 2 3 0 7), (.plog, mkw 5 3 7 6 5 0 0),
   (.rdsr, mkw 6 0 1 0 0 0 0x3F), (.br, mkw 0x10 0 0 0 0 0 0xFFFFFFFF), (.jal, mkw 0x11 0 31 0 0 0 1), (.jr, mkw 0x12 0 1 2 0 0 0),
   (.endThread, mkw 0x13 0 0 0 0 0 0), (.yield, mkw 0x14 0 0 0 0 0 0xFFFF)]

def rowWords2 : List (CoreRow × Word) :=
  [(.ldl, mkw 0x18 7 15 1 0 0 0), (.stl, mkw 0x19 7 0 1 15 0 0), (.ldr, mkw 0x1A 6 31 1 2 0 0), (.str, mkw 0x1B 3 0 1 2 31 0),
   (.ldg, mkw 0x1C 0x17 15 1 0 0 0), (.stg, mkw 0x1D 0x17 0 1 15 0 0), (.atom, mkw 0x1E 11 1 2 3 4 0), (.fenceRel, mkw 0x38 0 0 0 0 0 0),
   (.fenceAcq, mkw 0x38 1 0 0 0 0 0), (.fenceFull, mkw 0x38 2 0 0 0 0 0), (.waitl, mkw 0x39 0 7 1 0 0 0), (.waitc, mkw 0x39 1 7 1 2 0 0),
   (.barc, mkw 0x3A 0 0 0 0 0 0xFFFF), (.barl, mkw 0x3A 1 0 1 0 0 7), (.lcset, mkw 0x3B 0 0 1 0 0 31), (.lcadd, mkw 0x3B 1 0 1 0 0 31),
   (.pref, mkw 0x3C 2 0 1 2 0 0), (.spset, mkw 0x3D 0 0 1 2 0 0), (.spstop, mkw 0x3D 1 0 0 0 0 7), (.sereq, mkw 0x3E 0 0 1 0 0 0xFF),
   (.cpreq, mkw 0x3E 1 0 1 0 0 0), (.curreq, mkw 0x3E 2 0 1 0 0 0), (.nop, mkw 0x3F 0 0 0 0 0 0), (.trap, mkw 0x3F 1 0 0 0 0 0xFFFF),
   (.nwread, mkw 0x3F 2 1 0 0 0 7), (.phint, mkw 0x3F 3 0 0 0 0 0xFFFF000F)]

def rowWords3 : List (CoreRow × Word) :=
  [(.vint, mkw 0x28 4 15 14 13 0 0x60), (.vlog, mkw 0x29 3 0 1 2 0 0), (.vshf, mkw 0x2A 3 0 1 2 0 0), (.vfp, mkw 0x2B 4 0 1 2 0 0),
   (.vfma, mkw 0x2C 2 0 1 2 15 0), (.vcmp, mkw 0x2D 7 31 1 2 0 0), (.vsel, mkw 0x2E 0 0 1 2 31 0), (.vmov, mkw 0x2E 1 0 1 0 0 0),
   (.vext, mkw 0x2E 2 31 15 0 0 0x1F00), (.vins, mkw 0x2E 3 15 31 0 0 0x1F00), (.vapx, mkw 0x2F 3 0 1 0 0 0), (.vf2i, mkw 0x30 0 0 1 0 0 0),
   (.vi2f, mkw 0x30 1 0 1 0 0 0), (.vpack, mkw 0x31 0 0 1 0 0 0x500), (.vunpk, mkw 0x32 0 0 1 0 0 0), (.vmde, mkw 0x33 0 0 1 0 0 0x400),
   (.vmdd, mkw 0x33 1 0 1 0 0 0), (.vscale, mkw 0x34 0 1 1 0 0 0x500), (.vred, mkw 0x35 3 1 1 0 0 0)]

/-- Every row of the instruction tables takes effect in `th` with the word given for it. -/
theorem test_rows_go :
    ((rowWords1 ++ rowWords2 ++ rowWords3).all fun e => rowOf e.2 == some e.1 && fateOf e.1 th0 e.2 th == .go) = true := by decide +kernel

/-- The other fates: a false guard, a breakpoint, a quota exceeded, a pc not a multiple of 8, an undefined word, a reserved field, a page
without X, a thread halted, another row's word. -/
theorem test_fates :
    fateOf .nop th0 (mkw 0x3F 0 0 0 0 8 0) th = .skip ∧
    fateOf .nop th0 (mkw 0x3F 0 0 0 0 0 0) (upC { bps := [(0, ⟨0, 1⟩)] } run0) = .break_ ∧
    fateOf .vmov th0 (mkw 0x2E 1 4 0 0 0 0) (upT { run0 with quota := 4 }) = .trap .vregQuota ∧
    fateOf .nop th0 (mkw 0x3F 0 0 0 0 0 0) (upT { run0 with pc := 4 }) = .trap .misaligned ∧
    fateOf .nop th0 (mkw 0x07 0 0 0 0 0 0) th = .trap .illegal ∧ rowOf (mkw 0x07 0 0 0 0 0 0) = none ∧
    fateOf .nop th0 (mkw 0x3F 0 0 0 0 16 0) th = .trap .illegal ∧
    fateOf .nop th0 (mkw 0x3F 0 0 0 0 0 0) { th with clusters := [(0, { tlb := [{ page0 with x := false }] })] } = .trap .memAccess ∧
    fateOf .nop th0 (mkw 0x3F 0 0 0 0 0 0) (upT { run0 with halted := true }) = .hold ∧
    fateOf .nop th0 (mkw 0 0 1 2 3 0 0) th = .refuse .notThisCommand ∧
    fateOf .nop ⟨64, 0, 0, 0⟩ (mkw 0x3F 0 0 0 0 0 0) th = .refuse .illFormed := by decide +kernel

/-! ## Witnesses: steps and the scalar instructions -/

theorem wit_StepRunsFrontCommand : ({ up0 with pending := [.tapReset, .bypass] } : State).pending = .tapReset :: [.bypass] := rfl

theorem wit_IdleStepTicks : State.reset.pending = [] ∧ running State.reset = false ∧ up0.pending = [] ∧ up0.slew = 0 := by decide

theorem wit_StepKeepsCanonicalForm :
    (Memory.wf ({ up0 with pending := [.tapReset] } : State).mem && mapWf up0.bar0) = true ∧
      isNext (step { up0 with pending := [.tapReset] }) = true := by decide +kernel

theorem wit_RunsKeepIdentity : RunsTo 1 { State.reset with pending := [.tapReset] } State.reset := ⟨State.reset, by rfl, rfl⟩

theorem wit_TrapEndsLaunch : th0.th < 16 ∧ (getCore th (tKey th0)).launch = some launch0 ∧
    (threadOf (takeTrap th th0 .illegal []) th0).stat = .trapped .illegal ∧ rbit (takeTrap th th0 .illegal []) (rIntL1 0) 50 = true := by
  decide +kernel

/-- ALU by its MINOR on 2^63 and 3 (R98): the wrapping sum, the high products, the shifts, the comparisons of sign. -/
def aluOf (m : Nat) : Word :=
  rd (threadOf (nx (exec (.alu th0 (mkw 0 m 1 2 3 0 0)) (upT (wr (wr run0 2 (BitVec.ofNat 64 (2 ^ 63))) 3 3)))) th0) 1

theorem test_alu :
    aluOf 0 = 0x8000000000000003#64 ∧ aluOf 1 = 0x7FFFFFFFFFFFFFFD#64 ∧ aluOf 2 = 0x8000000000000000#64 ∧ aluOf 3 = 1 ∧
    aluOf 4 = 0xFFFFFFFFFFFFFFFE#64 ∧ aluOf 8 = 0 ∧ aluOf 9 = 0x1000000000000000#64 ∧ aluOf 10 = 0xF000000000000000#64 ∧
    aluOf 11 = 0x8000000000000000#64 ∧ aluOf 12 = 3 ∧ aluOf 13 = 3 ∧ aluOf 14 = 0x8000000000000000#64 := by decide +kernel

theorem test_s0 : (threadOf (nx (exec (.alui th0 (mkw 1 0 0 0 0 0 5)) th)) th0).regs = run0.regs ∧
    (threadOf (nx (exec (.alui th0 (mkw 1 0 0 0 0 0 5)) th)) th0).pc = 8 := by decide +kernel

theorem wit_ScalarInstructions :
    ([(CoreRow.alu, mkw 0 0 1 2 3 0 0), (.alui, mkw 1 0 1 2 0 0 5), (.cmp, mkw 2 0 1 2 3 0 0), (.cmpi, mkw 3 0 1 2 0 0 5), (.movi, mkw 4 0 1 0 0 0 5),
      (.movhi, mkw 4 1 1 0 0 0 5), (.sel, mkw 4 2 1 2 3 0 1), (.plog, mkw 5 0 1 2 3 0 0), (.rdsr, mkw 6 0 1 0 0 0 5), (.nop, mkw 0x3F 0 0 0 0 0 0),
      (.trap, mkw 0x3F 1 0 0 0 0 9)].all fun e => fateOf e.1 th0 e.2 th == .go) = true := by decide +kernel

theorem test_cmp_signed : rdP (threadOf (nx (exec (.cmpi th0 (mkw 3 2 1 2 0 0 0)) (upT (wr run0 2 (BitVec.ofNat 64 (2 ^ 63)))))) th0) 1 = true ∧
    rdP (threadOf (nx (exec (.cmpi th0 (mkw 3 4 1 2 0 0 0)) (upT (wr run0 2 (BitVec.ofNat 64 (2 ^ 63)))))) th0) 1 = false := by decide +kernel

theorem test_movhi : rd (threadOf (nx (exec (.movhi th0 (mkw 4 1 1 0 0 0 0x12345678)) (upT (wr run0 1 0xFFFFFFFFFFFFFFFF#64)))) th0) 1
    = 0x12345678FFFFFFFF#64 := by decide +kernel

theorem wit_RegisterZeroes : (0 < 31 ∧ 31 < 32) ∧ (0 < 7 ∧ 7 < 8) := by decide

theorem wit_ControlFlow :
    th0.th < 16 ∧ fateOf .br th0 (mkw 0x10 0 0 0 0 0 0xFFFFFFFF) th = .go ∧ fateOf .jal th0 (mkw 0x11 0 1 0 0 0 1) th = .go ∧
    fateOf .jr th0 (mkw 0x12 0 1 2 0 0 0) th = .go ∧ (fateOf .endThread th0 (mkw 0x13 0 0 0 0 0 0) th = .go ∧ run0.pend = none) ∧
    fateOf .endThread th0 (mkw 0x13 0 0 0 0 0 0) (upT { run0 with pend := some (.access, 0) }) = .go ∧
    fateOf .yield th0 (mkw 0x14 0 0 0 0 0 0) th = .go ∧ fateOf .yield th0 (mkw 0x14 0 0 0 0 0 1) th = .go ∧
    refOk (upT { run0 with stat := .yielding 1 }) th0 = true ∧ (threadOf (upT { run0 with stat := .yielding 1 }) th0).stat = .yielding 1 := by
  decide +kernel

/-- BR goes back by 8 from 16; JR takes the target before it writes the return address (R100). -/
theorem test_branches :
    (threadOf (nx (exec (.br th0 (mkw 0x10 0 0 0 0 0 0xFFFFFFFF)) (upT { run0 with pc := 16 }))) th0).pc = 8 ∧
    (threadOf (nx (exec (.jr th0 (mkw 0x12 0 1 1 0 0 0)) (upT (wr run0 1 0x100)))) th0).pc = 0x100 ∧
    rd (threadOf (nx (exec (.jr th0 (mkw 0x12 0 1 1 0 0 0)) (upT (wr run0 1 0x100)))) th0) 1 = 8 := by decide +kernel

/-- A thread that waits for local counter 3 until 1,000 ns. -/
def waitT : ThreadSt := { run0 with stat := .waitLocal 3 5 1 (some 1000) }

theorem wit_CountersAndBarriers :
    fateOf .lcset th0 (mkw 0x3B 0 0 1 0 0 31) th = .go ∧ fateOf .lcadd th0 (mkw 0x3B 1 0 1 0 0 31) th = .go ∧
    (fateOf .waitl th0 (mkw 0x39 0 7 1 0 0 0) th = .go ∧ (vget 0 (getCore th 0).lc 0 - (rd run0 1).setWidth 32).toInt ≥ 0) ∧
    (fateOf .waitl th0 (mkw 0x39 0 7 1 0 0 0) (upT (wr run0 1 1)) = .go ∧
      (vget 0 (getCore th 0).lc 0 - (rd (wr run0 1 1) 1).setWidth 32 : Word32).toInt < 0) ∧
    (fateOf .waitc th0 (mkw 0x39 1 7 1 2 0 0) th = .go ∧ run0.pend = none ∧ 0 < nParts th ∧
      (getArr th 0 0 - (rd run0 2).setWidth 32 : Word32).toInt ≥ 0) ∧
    (getArr th 0 0 - (rd (wr run0 2 1) 2).setWidth 32 : Word32).toInt < 0 ∧
    nParts { th with fuses := { th.fuses with variant := .lcr0800A } } ≤ 15 ∧
    (refOk (upT waitT) th0 = true ∧ (threadOf (upT waitT) th0).stat = .waitLocal 3 5 1 (some 1000)) ∧
    (threadOf (upT { run0 with stat := .waitCounter 0 3 5 1 (some 1000) }) th0).stat = .waitCounter 0 3 5 1 (some 1000) ∧
    fateOf .nwread th0 (mkw 0x3F 2 1 0 0 0 7) th = .go ∧
    (fateOf .barc th0 (mkw 0x3A 0 0 0 0 0 2) th = .go ∧ nbit 2 0 = false) ∧ (fateOf .barc th0 (mkw 0x3A 0 0 0 0 0 1) th = .go ∧ nbit 1 0 = true) ∧
    (fateOf .barl th0 (mkw 0x3A 1 0 1 0 0 7) th = .go) := by decide +kernel

theorem test_wait_timeout :
    (threadOf (nx (exec (.waitInstrTimeout th0) (upT waitT))) th0).stat = .run ∧ (nx (exec (.waitInstrTimeout th0) (upT waitT))).timebase = 1000 ∧
    rdP (threadOf (nx (exec (.waitInstrTimeout th0) (upT waitT))) th0) 1 = false := by decide +kernel

/-- A barrier of one goes on at once; one of two waits (R125). -/
theorem test_barc :
    (threadOf (nx (exec (.barc th0 (mkw 0x3A 0 0 0 0 0 1)) th)) th0).pc = 8 ∧
    (threadOf (nx (exec (.barc th0 (mkw 0x3A 0 0 0 0 0 3)) (upC { threads := (Vector.replicate 16 {}).setIfInBounds 1 run0 } run0))) th0).stat =
      .barCore 3 := by decide +kernel

/-- A thread whose s1 and s2 hold an address and a value. -/
def regs12 (a v : Word) : State := upT (wr (wr run0 1 a) 2 v)

theorem wit_LocalStore :
    (fateOf .ldl th0 (mkw 0x18 3 2 1 0 0 4) th = .go ∧ alignedFor 3 4 = false) ∧
    (fateOf .ldl th0 (mkw 0x18 3 2 1 0 0 8) th = .go ∧ alignedFor 3 8 = true ∧ watchHit (getCore th 0) 0 true 8 8 1 = false) ∧
    (fateOf .stl th0 (mkw 0x19 3 0 1 2 0 4) th = .go ∧ alignedFor 3 4 = false) ∧
    (fateOf .stl th0 (mkw 0x19 3 0 1 2 0 0xFFF8) th = .go ∧ alignedFor 3 0xFFF8 = true ∧ watchHit (getCore th 0) 0 true 0xFFF8 8 2 = false) ∧
    (fateOf .ldr th0 (mkw 0x1A 3 2 1 3 0 8) th = .go ∧ fld (rd run0 3) 6 0 < 120) ∧
    (fateOf .ldr th0 (mkw 0x1A 3 2 1 3 0 8) (upT (wr run0 3 120)) = .go ∧ 120 ≤ fld (rd (wr run0 3 120) 3) 6 0) ∧
    (fateOf .str th0 (mkw 0x1B 3 0 1 3 2 8) th = .go) ∧
    (fateOf .str th0 (mkw 0x1B 3 0 1 3 2 8) (upT (wr run0 3 120)) = .go) := by decide +kernel

/-- STL then LDL: the low bytes, little-endian, and a sign-extended load (R101). -/
theorem test_local_store :
    lsRead (getCore (nx (exec (.stl th0 (mkw 0x19 1 0 1 2 0 0)) (regs12 0x100 0x8899))) 0) 0x100 4 = 0x8899 ∧
    rd (threadOf (nx (exec (.ldl th0 (mkw 0x18 5 3 1 0 0 0)) (nx (exec (.stl th0 (mkw 0x19 1 0 1 2 0 0)) (regs12 0x100 0x8899))))) th0) 3
      = 0xFFFFFFFFFFFF8899#64 := by decide +kernel

/-! ## Witnesses: global memory, fences and requests -/

/-- A segment that waits for a new mode holds accesses to it. -/
def heldS (x : ThreadSt) : State :=
  let s := setRfld (upT x) (rSegLimit 0) 7 0 192
  { s with clusters := [(0, { tlb := [page0, { page0 with vpage := 1, gpage := 0 }] })],
           hubs := [(0, { getHub s 0 with segPend := [(0, 1)], own := [(98306, 0x100000#32), (0, 0x100000#32)] })] }

theorem wit_GlobalAccess :
    (fateOf .ldg th0 (mkw 0x1C 3 2 1 0 0 4) th = .go ∧ alignedFor 3 4 = false) ∧
    (fateOf .ldg th0 (mkw 0x1C 3 2 1 0 0 0x200008) (heldS run0) = .go ∧ accessHeld (heldS run0) th0 0x200008 8 = true) ∧
    (fateOf .ldg th0 (mkw 0x1C 3 2 1 0 0 8) th = .go ∧ accessHeld th th0 8 8 = false ∧ (loadSplit th 0 (threadWho th th0) 8 8 0 .good).1 = .ok ∧
      watchHit (getCore th 0) 0 false 8 8 1 = false) ∧
    (fateOf .ldg th0 (mkw 0x1C 3 2 1 0 0 0x200000) th = .go ∧ accessHeld th th0 0x200000 8 = false ∧
      (loadSplit th 0 (threadWho th th0) 0x200000 8 0 .good).1 = .access) ∧
    (fateOf .stg th0 (mkw 0x1D 3 0 1 2 0 4) th = .go) ∧ (fateOf .stg th0 (mkw 0x1D 3 0 1 2 0 0x200008) (heldS run0) = .go) ∧
    (fateOf .stg th0 (mkw 0x1D 3 0 1 2 0 0xFFF8) th = .go ∧ accessHeld th th0 0xFFF8 8 = false ∧ watchHit (getCore th 0) 0 false 0xFFF8 8 2 = false) ∧
    (fateOf .atom th0 (mkw 0x1E 1 3 1 2 0 0) (regs12 0x1004 1) = .go ∧ 0x1004 % (atomWidth 1 / 8) ≠ 0) ∧
    (fateOf .atom th0 (mkw 0x1E 1 3 1 2 0 0) (heldS (wr run0 1 0x200000)) = .go ∧ accessHeld (heldS run0) th0 0x200000 8 = true) ∧
    (fateOf .atom th0 (mkw 0x1E 1 3 1 2 0 0) (regs12 0x1008 1) = .go ∧ accessHeld (regs12 0x1008 1) th0 0x1008 8 = false ∧
      (clTranslate (regs12 0x1008 1) 0 (threadWho th th0) 0x1008 .write).1 = .ok ∧
      (cacheAtomic (regs12 0x1008 1) 0 (threadWho th th0) 0x10000401008 1 0x1008 0).1 = .ok ∧ watchHit (getCore th 0) 0 false 0x1008 8 3 = false) ∧
    refOk th th0 = true ∧ alive run0 = true ∧ alive (threadOf up0 th0) = false := by decide +kernel

/-- The store of `GlobalAccess`'s last clause, through an uncached page. -/
def uncached : State := { th with clusters := [(0, { tlb := [{ page0 with attr := 2 }] })] }

theorem wit_UncachedStore :
    fateOf .stg th0 (mkw 0x1D 3 0 1 2 0 0x1000) uncached = .go ∧ accessHeld uncached th0 0x1000 8 = false ∧
    (clTranslate uncached 0 (threadWho uncached th0) 0x1000 .write).1 = .ok ∧
    (clTranslate uncached 0 (threadWho uncached th0) 0x1000 .write).2.1 = 0x10000401000 ∧
    (clTranslate uncached 0 (threadWho uncached th0) 0x1000 .write).2.2.1 = 2 ∧ homeOf uncached 0x10000401000 = .mem 0 0x10000401000 := by
  decide +kernel

/-- An atomic add leaves the sum in memory and the old value in s_d (R102, R233). -/
theorem test_atom :
    rd (threadOf (nx (exec (.atom th0 (mkw 0x1E 1 3 1 2 0 0)) (nx (exec (.atom th0 (mkw 0x1E 1 3 1 2 0 0)) (regs12 0x1008 7))))) th0) 3 = 7 ∧
    memByte (nx (exec (.atom th0 (mkw 0x1E 1 3 1 2 0 0)) (nx (exec (.atom th0 (mkw 0x1E 1 3 1 2 0 0)) (regs12 0x1008 7)))))
      (memKey 0 0x10000401008) = 14 := by decide +kernel

theorem wit_FencesAndPrefetch :
    run0.pend = none ∧ fateOf .fenceRel th0 (mkw 0x38 0 0 0 0 0 1) th = .go ∧ fateOf .fenceAcq th0 (mkw 0x38 1 0 0 0 0 1) th = .go ∧
    fateOf .fenceFull th0 (mkw 0x38 2 0 0 0 0 1) th = .go ∧
    (let s := upT { run0 with pend := some (.access, 8) }
     fateOf .fenceRel th0 (mkw 0x38 0 0 0 0 0 1) s = .go ∧ fateOf .fenceAcq th0 (mkw 0x38 1 0 0 0 0 1) s = .go ∧
     fateOf .fenceFull th0 (mkw 0x38 2 0 0 0 0 1) s = .go) ∧
    fateOf .pref th0 (mkw 0x3C 2 0 1 2 0 0) (regs12 0 0x100001) = .go ∧ fateOf .pref th0 (mkw 0x3C 2 0 1 2 0 0) th = .go ∧
    fateOf .pref th0 (mkw 0x3C 2 0 1 2 0 0) (regs12 0 0x100000) = .go ∧ fateOf .spset th0 (mkw 0x3D 0 0 1 2 0 8) (regs12 0 4097) = .go ∧
    fateOf .spset th0 (mkw 0x3D 0 0 1 2 0 8) (regs12 0 4096) = .go ∧ fateOf .spstop th0 (mkw 0x3D 1 0 0 0 0 7) th = .go := by decide +kernel

/-- A store through the shared cache reaches memory at the thread's FENCE.REL of package scope and not before (R235). -/
theorem test_fence_rel :
    (fun s : State =>
     memByte s (memKey 0 0x10000401000) = 0 ∧ memByte (nx (exec (.fenceRel th0 (mkw 0x38 0 0 0 0 0 2)) s)) (memKey 0 0x10000401000) = 0x5A ∧
     rd (threadOf (nx (exec (.ldg th0 (mkw 0x1C 0 5 1 0 0 0) .good) s)) th0) 5 = 0x5A)
      (nx (exec (.stg th0 (mkw 0x1D 0 0 1 2 0 0) .good) (regs12 0x1000 0x5A))) := by decide +kernel

/-- A state whose first core's local store holds word 0 `w` of a request at 0x100. -/
def blk (w : Word) (rest : List Word) : State :=
  upC { ls := ((List.range 8).zip (w :: rest)).foldr (fun e m => (List.range 8).foldr (fun i m =>
    if fld e.2 (8 * i + 7) (8 * i) = 0 then m else (0x100 + 8 * e.1 + i, BitVec.ofNat 8 (fld e.2 (8 * i + 7) (8 * i))) :: m) m) [] }
    (wr run0 1 0x100)

/-- A core that has 64 requests uncompleted. -/
def fullS (w : Word) : State :=
  upC { getCore (blk w []) 0 with reqs := List.range 64 } (wr run0 1 0x100)

theorem wit_ThreadRequests :
    fateOf .cpreq th0 (mkw 0x3E 1 0 1 0 0 1) (blk 1 []) = .go ∧ fateOf .cpreq th0 (mkw 0x3E 1 0 1 0 0 0) (fullS 1) = .go ∧
    fateOf .cpreq th0 (mkw 0x3E 1 0 1 0 0 0) (blk 0x4001 []) = .go ∧ word0Ok 0x4001 = false ∧
    fateOf .cpreq th0 (mkw 0x3E 1 0 1 0 0 0) (blk 2 []) = .go ∧ word0Ok 2 = true ∧
    (fateOf .cpreq th0 (mkw 0x3E 1 0 1 0 0 0) (blk 1 [1, 2, 3, 4]) = .go ∧ blockWord (getCore (blk 1 [1, 2, 3, 4]) 0) 0x100 4 = 4 ∧
      blockWord (getCore (blk 1 [1, 2, 3, 4]) 0) 0x100 0 = 1) ∧
    (∀ k : Fin 3, fateOf .curreq th0 (mkw 0x3E 2 0 1 0 0 1) (blk (BitVec.ofNat 64 (k + 1)) []) = .go ∧
      fateOf .curreq th0 (mkw 0x3E 2 0 1 0 0 0) (fullS (BitVec.ofNat 64 (k + 1))) = .go ∧
      fateOf .curreq th0 (mkw 0x3E 2 0 1 0 0 0) (blk (BitVec.ofNat 64 (k + 1)) []) = .go ∧
      fateOf .curreq th0 (mkw 0x3E 2 0 1 0 0 0) (blk (BitVec.ofNat 64 (0x4001 + k)) []) = .go) := by decide +kernel

/-! ## Witnesses: the vector engine -/

/-- A state whose v1, v2 and v3 hold one word in every lane, s1 a mask or a code. -/
def vecS (a b c : Word32) (s1 : Word := 0) : State :=
  let rep (x : Word32) : VReg := BitVec.ofNat 1024 ((List.range 32).foldl (fun n _ => n * 2 ^ 32 + x.toNat) 0)
  upC { vregs := ((((Vector.replicate 16 0).setIfInBounds 1 (rep a)).setIfInBounds 2 (rep b)).setIfInBounds 3 (rep c)) } (wr run0 1 s1)

/-- Lane 31 of v4 after an instruction. -/
def v4 (i : Instr) (s : State) : Word32 := lane (rdV (getCore (nx (exec i s)) 0) (threadOf (nx (exec i s)) th0) 4) 31

theorem wit_VectorRows :
    ([(CoreRow.vint, mkw 0x28 0 4 1 2 0 0x20), (.vlog, mkw 0x29 0 4 1 2 0 0), (.vshf, mkw 0x2A 0 4 1 2 0 0x20), (.vsel, mkw 0x2E 0 4 1 2 1 0),
      (.vmov, mkw 0x2E 1 4 1 0 0 0), (.vins, mkw 0x2E 3 4 1 0 0 0x1F00), (.vext, mkw 0x2E 2 4 1 0 0 0x1F00), (.vcmp, mkw 0x2D 7 4 1 2 0 0),
      (.vfp, mkw 0x2B 4 4 1 2 0 0), (.vfma, mkw 0x2C 2 4 1 2 3 0), (.vapx, mkw 0x2F 3 4 1 0 0 0), (.vf2i, mkw 0x30 0 4 1 0 0 0),
      (.vi2f, mkw 0x30 1 4 1 0 0 0), (.vred, mkw 0x35 3 4 1 0 0 0), (.vpack, mkw 0x31 0 4 1 0 0 0x500), (.vunpk, mkw 0x32 0 4 1 0 0 0),
      (.vmde, mkw 0x33 0 4 1 0 0 0x400), (.vmdd, mkw 0x33 1 4 1 0 0 0), (.vscale, mkw 0x34 0 4 1 0 0 0x500)].all
        fun e => fateOf e.1 th0 e.2 (vecS 1 2 3) == .go) = true ∧ run0.vbase + 4 < 16 := by decide +kernel

/-- VADD of bytes wraps in each byte, or saturates signed; VSUB unsigned clamps at 0 (R108). -/
theorem test_vint :
    v4 (.vint th0 (mkw 0x28 0 4 1 2 0 0x00)) (vecS 0x7F80FF01 0x01800102 0) = 0x80000003 ∧
    v4 (.vint th0 (mkw 0x28 0 4 1 2 0 0xC0)) (vecS 0x7F80FF01 0x01800102 0) = 0x7F800003 ∧
    v4 (.vint th0 (mkw 0x28 1 4 1 2 0 0x40)) (vecS 0x7F80FF01 0x01810102 0) = 0x7E00FE00 := by decide +kernel

/-- 1.5 + 2.25 = 3.75, 1.5 x -2 = -3, 1.5 x 2 + 0.5 = 3.5, and infinity less infinity is the NaN 0x7FC00000 (R112, R127). -/
theorem test_vfp :
    v4 (.vfp th0 (mkw 0x2B 0 4 1 2 0 0)) (vecS 0x3FC00000 0x40100000 0) = 0x40700000 ∧
    v4 (.vfp th0 (mkw 0x2B 2 4 1 2 0 0)) (vecS 0x3FC00000 0xC0000000 0) = 0xC0400000 ∧
    v4 (.vfma th0 (mkw 0x2C 0 4 1 2 3 0)) (vecS 0x3FC00000 0x40000000 0x3F000000) = 0x40600000 ∧
    v4 (.vfp th0 (mkw 0x2B 1 4 1 2 0 0)) (vecS 0x7F800000 0x7F800000 0) = 0x7FC00000 ∧
    (threadOf (nx (exec (.vfp th0 (mkw 0x2B 1 4 1 2 0 0)) (vecS 0x7F800000 0x7F800000 0))) th0).fNan = true := by decide +kernel

/-- Conversions round to nearest even and clamp (R112). -/
theorem test_conversions :
    v4 (.vf2i th0 (mkw 0x30 0 4 1 0 0 0)) (vecS 0x40200000 0 0) = 2 ∧ v4 (.vf2i th0 (mkw 0x30 0 4 1 0 0 0)) (vecS 0x4F800000 0 0) = 0x7FFFFFFF ∧
    v4 (.vi2f th0 (mkw 0x30 1 4 1 0 0 0)) (vecS 0xFFFFFFFF 0 0) = 0xBF800000 := by decide +kernel

/-! ## Witnesses: matrix arrays -/

/-- A thread that claims arrays `m` with a configuration. -/
def claimS (m : BitVec 4) (g : MatCfg := {}) : State := upT { run0 with claim := m, mcfg := g }

theorem wit_MatrixClaimTraps :
    (claimView (getCore th 0) 0 = 0 ∧
      ([(CoreRow.mrel, mkw 0x20 1 0 0 0 0 1), (.mcfg, mkw 0x21 0 0 1 0 0 0), (.mstream, mkw 0x22 3 0 1 2 0 3), (.mrun, mkw 0x23 0 0 1 0 0 1),
        (.mswap, mkw 0x24 0 0 0 0 0 15), (.mzero, mkw 0x25 1 0 0 0 0 15), (.mstat, mkw 0x26 1 5 0 0 0 0)].all
          fun e => fateOf e.1 th0 e.2 th == .go) = true) ∧
    (claimView (getCore (claimS 1) 0) 0 = 1 ∧ (2 : BitVec 4) &&& ~~~ 1 ≠ 0 ∧ (1 : BitVec 4).getLsbD 3 = false ∧
      (getCore (claimS 1) 0).mq.length < 16 ∧
      ([(CoreRow.mrel, mkw 0x20 1 0 0 0 0 2), (.mrel, mkw 0x20 1 0 0 0 0 0), (.mswap, mkw 0x24 0 0 0 0 0 2), (.mswap, mkw 0x24 0 0 0 0 0 0),
        (.mzero, mkw 0x25 0 0 0 0 0 2), (.mzero, mkw 0x25 0 0 0 0 0 0), (.mstream, mkw 0x22 3 0 1 2 0 3)].all
          fun e => fateOf e.1 th0 e.2 (claimS 1) == .go) = true) := by decide +kernel

/-- Another thread's claim. -/
def claim2 : State :=
  upC { threads := (Vector.replicate 16 {}).setIfInBounds 1 { run0 with claim := 2 } } { run0 with claim := 1 }

theorem wit_MatrixClaims :
    fateOf .mclaim th0 (mkw 0x20 0 1 0 0 0 6) claim2 = .go ∧ (getThread (getCore claim2 0) 1).claim &&& 6 ≠ 0 ∧
    fateOf .mclaim th0 (mkw 0x20 0 1 0 0 0 9) claim2 = .go ∧
    (∀ i : Fin 16, i ≠ 0 → (getThread (getCore claim2 0) i).claim &&& 9 = 0) := by decide +kernel

/-- A thread without a grant leaves P1 false; with one it holds the array besides what it held (R50). -/
theorem test_mclaim :
    rdP (threadOf (nx (exec (.mclaim th0 (mkw 0x20 0 1 0 0 0 6)) claim2)) th0) 1 = false ∧
    (threadOf (nx (exec (.mclaim th0 (mkw 0x20 0 1 0 0 0 6)) claim2)) th0).claim = 1 ∧
    rdP (threadOf (nx (exec (.mclaim th0 (mkw 0x20 0 1 0 0 0 8)) claim2)) th0) 1 = true ∧
    (threadOf (nx (exec (.mclaim th0 (mkw 0x20 0 1 0 0 0 8)) claim2)) th0).claim = 9 := by decide +kernel

/-- A core with one entry in its matrix queue. -/
def queued (e : MatOp) (gp : Nat := 0) : State :=
  let s := upC { mq := [(0, e)] } { run0 with claim := 3 }
  { s with clusters := [(0, { tlb := [page0], gp := gp })] }

/-- Capability records without W4A8 and without decoding of Medlar formats. -/
def plainDie (s : State) : State := { s with bar0 := [(rAdminLock, 0x03E80001#64), (rDieCap 0 1, 1#64), (rDevStatus, 0xFFFF0041#64), (rEgr 0, 0x1000000#64)] }

theorem wit_MatrixQueue :
    claimView (getCore (claimS 3) 0) 0 ≠ 0 ∧ (3 : BitVec 4) &&& ~~~ 3 = 0 ∧ (3 : BitVec 4).getLsbD 1 = true ∧
    ([(CoreRow.mrel, mkw 0x20 1 0 0 0 0 3), (.mswap, mkw 0x24 0 0 0 0 0 1), (.mzero, mkw 0x25 1 0 0 0 0 2), (.mstream, mkw 0x22 3 0 1 2 0 1),
      (.mrun, mkw 0x23 0 0 1 0 0 1), (.mstat, mkw 0x26 1 5 0 0 0 0), (.mcfg, mkw 0x21 0 0 1 0 0 0x00000002), (.mcfg, mkw 0x21 0 0 1 0 0 0x430),
      (.mcfg, mkw 0x21 0 0 1 0 0 0x122)].all fun e => fateOf e.1 th0 e.2 (claimS 3) == .go) = true ∧
    pairOf 2 0 false false false = none ∧ pairOf 0 3 false false true = some 7 ∧ pairOf 2 2 true false false = some 2 ∧
    dieW4a8 (plainDie (claimS 3)) 0 = false ∧ fateOf .mcfg th0 (mkw 0x21 0 0 1 0 0 0x430) (plainDie (claimS 3)) = .go ∧
    pairOf 0 7 false false false = some 9 ∧ dieMedlar (plainDie (claimS 3)) 0 = false ∧
    fateOf .mcfg th0 (mkw 0x21 0 0 1 0 0 0x070) (plainDie (claimS 3)) = .go ∧
    coreOk th ⟨0, 0, 0⟩ = true ∧ (getCore th 0).mq = [] ∧
    (getCore (queued (.run 3 {} 0 true) 16) 0).mq = (0, .run 3 {} 0 true) :: [] ∧ pauseOf (queued (.run 3 {} 0 true) 16) 0 = 16 ∧
    pauseOf (queued (.rel 1)) 0 ≠ 16 ∧ (getCore (queued (.stat 3 true 5)) 0).mq = (0, .stat 3 true 5) :: [] ∧
    alive (getThread (getCore (queued (.rel 1)) 0) 0) = true := by decide +kernel

/-- A core about to run MRUN of K = 2 on array 0, with streams A at 0 and B at 0x100 of the local store given. -/
def runS (g : MatCfg) (ls : List (Nat × Byte)) : State :=
  upC { ls := ls, mq := [(0, .run 1 g 2 true)],
        arrs := (Vector.replicate 4 {}).setIfInBounds 0 { sA := { base := 0, step := 4 }, sB := { base := 0x100, step := 32 } } }
    { run0 with claim := 1, mcfg := g }

/-- The word of array 0's fill bank at row i and column j. -/
def cell0 (s : State) (i j : Nat) : Word32 := lane (vget 0 (fillBank (vget {} (getCore s 0).arrs 0)) i) j

/-- INT8: 3 x 5 + 2 x 7 = 29; -1 x 5 = -5; 3 x -128 = -384 (R56, R59, R65). -/
theorem test_mrun_int8 :
    (fun s => cell0 s 0 0 = 29 ∧ cell0 s 1 0 = 0xFFFFFFFB ∧ cell0 s 0 1 = 0xFFFFFE80)
      (nx (exec (.matrixQueueRetire ⟨0, 0, 0⟩) (runS { afmt := 2, bfmt := 2, int := true, rows := 0xFFFF, cols := 0xFFFFFFFF }
        [(0, 3), (1, 0xFF), (4, 2), (0x100, 5), (0x101, 0x80), (0x120, 7)]))) := by decide +kernel

/-- FP8 E4M3: 1 x 1 + 1 x 1 = 2 in FP32 (R56, R63). -/
theorem test_mrun_fp8 :
    cell0 (nx (exec (.matrixQueueRetire ⟨0, 0, 0⟩) (runS { rows := 0xFFFF, cols := 1 } [(0, 0x38), (4, 0x38), (0x100, 0x38), (0x120, 0x38)]))) 0 0
      = 0x40000000 := by decide +kernel

theorem wit_Int32Accumulation :
    (let g : MatCfg := { afmt := 2, bfmt := 4, int := true, cols := 1 }
     g.int = true ∧ g.ascale = false ∧ g.bscale = false ∧ g.afmt = 2 ∧ g.bfmt = 4 ∧ g.cols.getLsbD 0 = true) := by decide

/-! ## Witnesses: the hub's memory -/

/-- A hub's request of the state stack, by its owner and by another domain, and of an arrival counter. -/
def rq (addr : Word) (domain : Nat := 0) : HubReq := ⟨0, addr, 0, domain, false, 0⟩

/-- A state whose counter page 0 may be written. -/
def cntS : State := { up0 with hubs := [(0, { own := [(98306, 0x100000#32), (ownIndex winBase, 0x100000#32)] })] }

theorem wit_HubLines :
    hubReqWf (rq 0x10000401000) = true ∧ running State.reset = false ∧ 0 < nParts th ∧ running th = true ∧ segHeld th 0x10000401000 = false ∧
    homeOf th 0x10000401000 = .mem 0 0x10000401000 ∧ (lineStatus th (reqWho (rq 0x10000401000)) 0x10000401000 true).1 = .ok ∧
    (lineStatus th (reqWho (rq 0x10000401000)) 0x10000401000 false).1 = .ok ∧ th.ue = [] ∧
    (lineStatus th (reqWho (rq 0x10000401000 1)) 0x10000401000 true).1 = .access ∧
    (lineStatus th (reqWho (rq 0x10000401000 1)) 0x10000401000 false).1 = .access := by decide +kernel

theorem wit_HubAtomics :
    hubReqWf (rq 0x10000401000) = true ∧ 0x10000401000 % (atomWidth 11 / 8) = 0 ∧ running th = true ∧ segHeld th 0x10000401000 = false ∧
    homeOf th 0x10000401000 = .mem 0 0x10000401000 ∧ (lineStatus th (reqWho (rq 0x10000401000)) 0x10000401000 true).1 = .ok ∧
    homeOf cntS (BitVec.ofNat 64 (winBase + 8)).toNat = .counter 0 2 ∧ segHeld cntS (winBase + 8) = false ∧
    (lineStatus cntS (reqWho (rq (BitVec.ofNat 64 (winBase + 8)))) (winBase + 8) true).1 = .ok := by decide +kernel

/-- MIN.S32 takes -1 before 1, and CAS writes only where the old value is the comparand (R233). -/
theorem test_hub_atomic :
    (let s := nx (exec (.hubLineWrite (rq 0x10000401000) 0xFF 0x1FFFFFFFF) th)
     memRead (nx (exec (.hubAtomic (rq 0x10000401000) 3 1 0) s)) (memKey 0 0x10000401000) 8 = 0x1FFFFFFFF ∧
     memRead (nx (exec (.hubAtomic (rq 0x10000401000) 8 5 0x1FFFFFFFF) s)) (memKey 0 0x10000401000) 8 = 5 ∧
     memRead (nx (exec (.hubAtomic (rq 0x10000401000) 8 5 0x2FFFFFFFF) s)) (memKey 0 0x10000401000) 8 = 0x1FFFFFFFF) := by decide +kernel

theorem wit_AdminWrites :
    bar0Open State.reset = false ∧ (bar0Open up0 = true ∧ ownerTenant up0 = some 0 ∧ some 256 ≠ ownerTenant up0) ∧
    blockReach up0 (blockOf (rRingCmd 0)).1 = .open_ ∧
    blockReach { up0 with fuses := { up0.fuses with variant := .lcr0800A } } (.part 15) = .absent ∧
    blockReach { up0 with bar0 := [(rStrap, 0x20#64)] } (.ten 256) = .absent ∧ blockReach { up0 with bar0 := [(rStrap, 0x20#64)] } (.ten 255) = .open_ ∧
    blockReach { up0 with bar0 := [(rAdminLock, 0x03E80001#64), (rDevStatus, 0x00010041#64), (rEgr 0, 0x1000000#64)] } (.part 3) = .notReady ∧
    blockReach { up0 with bar0 := [(rAdminLock, 0x03E80001#64), (rDevStatus, 0xFFFF0041#64)] } (.part 3) = .unreachable ∧
    up0.evFifo.length < 1024 ∧ saleyAway up0 { cause := 0x0008, source := 0, time := 0, data := [(8, 0), (8, 256)] } = false := by
  decide +kernel

/-- `up0` with one more word in its register map, at an offset above those it holds. -/
def withReg (o : Nat) (v : Word) : State := { up0 with bar0 := (up0.bar0.filter (fun e => e.1 < o)) ++ [(o, v)] ++ up0.bar0.filter (fun e => o < e.1) }

theorem wit_HubMaintenance :
    0 < nParts up0 ∧ writeOpen up0 0 (rTlbInv 0) ∧ rbit (withReg (rTlbInv 0) 0x800) (rTlbInv 0) 11 = true ∧
    writeOpen (withReg (rTlbInv 0) 0x800) 0 (rTlbInv 0) ∧ rbit up0 (rTlbInv 0) 11 = false ∧ (0x400 : Word).getLsbD 10 = true ∧
    (getHub up0 0).tlbInv = none ∧
    (getHub { up0 with hubs := [(0, { tlbInv := some (0, true, 0) })] } 0).tlbInv = some (fld (0x600 : Word) 8 0, (0x600 : Word).getLsbD 9, 0) ∧
    writeOpen up0 0 (rRdcCtl 0) ∧ (2 : Word).getLsbD 1 = true ∧ writeOpen up0 0 (rSegMode 0 2) ∧ mfind (getHub up0 0).segPend 2 = none ∧
    mfind (getHub { up0 with hubs := [(0, { segPend := [(2, 1)] })] } 0).segPend 2 = some 1 ∧ rbit up0 (rHbmStatus 0 3) 31 = false ∧
    rbit (withReg (rHbmStatus 0 3) 0x80000000) (rHbmStatus 0 3) 31 = true ∧ (getHub up0 0).deny[0]? = none ∧
    (getHub { up0 with hubs := [(0, { deny := [⟨0, 0, 0, 1, 5, false⟩] })] } 0).deny[0]? = some ⟨0, 0, 0, 1, 5, false⟩ := by
  unfold writeOpen; decide +kernel

/-! ## Witnesses: rings and network -/

def at5 : BrAt := ⟨0, 0, true, 5⟩

def pk5 : BrPacket :=
  { dst := .cluster 0, cls := 0, ty := 0, units := 1, epoch := 0, tag := 0, domain := 0, txid := 7, target := 0, poison := false, payload := 0, last := true }

/-- A packet for stop 5 of ring 0. -/
def sl5 : BrSlot := { dstRing := 0, dstStop := 5 }

/-- One packet waits at stop 5; another is in slot 3, for stop 5. -/
def brS (w : List BrWait) (marks : List Nat := []) (y : BrSlot := sl5) : State :=
  setStop (setRing' up0 0 0 true { taken := 1, slots := [(3, y)], marks := marks }) 0 0 5 { wait := w }

/-- A packet of stop 5 in line for cluster 8 of its ring. -/
def w6 : BrWait := brEnter { pk5 with dst := .cluster 8 }

theorem wit_BrambleRings :
    brAtWf at5 = true ∧ brAtOk (brS []) at5 = true ∧ brAtOk State.reset at5 = true ∧ running State.reset = false ∧ running (brS []) = true ∧
    brLine (brS []) at5 = [] ∧ brLine (brS [w6]) at5 = w6 :: [] ∧ brPass (brS [w6]) 0 0 5 = false ∧ brPass (brS [w6]) 0 0 10 = true ∧
    (getRing' (brS [w6]) 0 0 true).marks.head? = none ∧ isBridge 5 = false ∧ 2 + ((getRing' (brS [w6]) 0 0 true).taken - 0) ≤ brSlots 0 ∧
    brTokenWf at5 (some { pk5 with dst := .cluster 8 }) = true ∧ (getStop (brS []) 0 0 5).wait = [] ∧
    brCw 0 5 (brNext 0 (brStamp (brS []) 0 0 5 w6)) = true ∧ 3 < brSlots 0 ∧ mfind (getRing' (brS []) 0 0 true).slots 4 = none ∧
    mfind (getRing' (brS []) 0 0 true).slots 3 = some sl5 ∧ BrErr.good ≠ .header ∧ brNext 0 { dstRing := 0, dstStop := 6 } ≠ 5 ∧
    brNext 0 sl5 = 5 ∧ sl5.urgent = false ∧ (getStop (brS []) 0 0 5).buf.length + (getStop (brS []) 0 0 5).given.length < 8 := by decide +kernel

/-- A packet in line goes into a free slot of the ring it takes; a unit's own request is numbered by its stop (R287, R291, R293). -/
theorem test_bramble_token :
    (let t := nx (exec (.brambleToken at5 none) (brS [w6]))
     (getStop t 0 0 5).wait = [] ∧ (getRing' t 0 0 true).taken = 2 ∧
     ((getRing' t 0 0 true).slots.filter (fun e => e.1 != 3)).map (fun e => (e.2.dstStop, e.2.txid)) = [(brNext 0 (brStamp (brS []) 0 0 5 w6), 7)]) := by
  decide +kernel

/-- A packet of domain 0 for partition 1 of this package. -/
def pkt1 (target : Word) (answers : Option Nat := none) : RoutePacket :=
  ⟨target, 0, 0, 0, true, false, false, none, answers, 0, 0, none, 0, false, 0, 0, 0, 0, 0, [], false, []⟩

/-- `up0` with hub 0's link to hub 1 trained. -/
def linked : State := withReg (rEgr 0) 0x1000002

def heldReq : Outst := { pkt := pkt1 0x100000000000, off := 0x20110 }

def heldNet : State := { linked with hubs := [(0, { outst := [(9, heldReq)] })] }

theorem wit_HubNetwork :
    routeWf 0 (pkt1 0) = true ∧ running State.reset = false ∧
    (running linked = true ∧ partUp linked 0 = true ∧ (pkt1 0).track = [] ∧
      (nbits (pkt1 0).target.toNat 63 48 = pkgNum linked ∧ nbits (pkt1 0).target.toNat 47 44 = 0)) ∧
    routeWf 0 (pkt1 0 (some 3)) = true ∧
    (¬(nbits (0x1000000000000 : Word).toNat 63 48 = pkgNum linked) ∧ routeWf 0 (pkt1 0x1000000000000) = true ∧
      ((altsFor linked 0 (stampPkt (pkt1 0x1000000000000)) (entryFor linked (pkt1 0x1000000000000))).filter
        (fun a => a.valid && nbit a.dmask 0)).isEmpty = true) ∧
    (¬(nbits (0x100000000000 : Word).toNat 47 44 = 0) ∧ routeWf 0 (pkt1 0x100000000000) = true ∧
      entryFor linked (stampPkt (pkt1 0x100000000000)) = 0x20110 ∧
      chooseAlt linked 0 (altsFor linked 0 (stampPkt (pkt1 0x100000000000)) 0x20110) 0 0x100000000000 0 = .take 1 false ∧
      mustSettle linked 0 0x20110 1 (pkt1 0x100000000000) false = false ∧ epochWaits linked 0 0x20110 (pkt1 0x100000000000) = false ∧
      heldBefore linked 0 0x20110 0 = false ∧ vcCredit linked 0 1 (pkt1 0x100000000000) = true) ∧
    chooseAlt linked 0 (altsFor linked 0 (stampPkt { pkt1 0x100000000000 with hops := 4, srcPort := 0x12 }) 0x20110) 0 0x100000000000 0x12 = .take 1 false ∧
    ((getHub linked 0).outst.filter (fun q => q.2.off == 0x20110 && q.2.egress.isNone)) = [] ∧
    ((getHub heldNet 0).outst.filter (fun q => q.2.off == 0x20110 && q.2.egress.isNone)) = [(9, heldReq)] ∧
    heldBefore heldNet 0 0x20110 10 = true ∧
    mfind (getHub linked 0).outst 9 = none ∧ mfind (getHub heldNet 0).outst 9 = some heldReq ∧ heldReq.pkt.op = none ∧
    mfind (getStop (setStop up0 0 0 5 { opened := [(7, 0)] }) 0 0 5).opened 7 = some 0 := by decide +kernel

/-- A routed request takes its flits of the egress's level, and a fifth hop fails with LINK_LOST (R296). -/
theorem test_hub_route :
    (let t := nx (exec (.hubRoute 0 (pkt1 0x100000000000)) linked)
     (getHub t 0).routed = some (1, false) ∧ mget 0 (getHub t 0).vc (vcKey 1 0 0) = hubFlits (pkt1 0x100000000000)) ∧
    (getHub (nx (exec (.hubRoute 0 { pkt1 0x100000000000 with hops := 4, srcPort := 0x12 }) linked)) 0).resp.status = .linkLost := by decide +kernel

/-- The ownership entry of `page0`. -/
def own0 : AMap (BitVec 32) := [(98306, 0x100000#32)]

/-! ## Witnesses: command rings and descriptors -/

/-- Tenant 0's ring 0 as context 0 of hub 0, with `s` started operations. -/
def ringS (r : Ring) (ops : AMap Op := []) (more : State := up0) : State := { more with hubs := [(0, { rings := [(0, r)], ops := ops })] }

def r0 : Ring := { state := .active, log2sz := 4, sqBase := 0x10000200000 }

theorem wit_Doorbells :
    ¬(running State.reset = true) ∧ (flrBusy up0 0 = false ∧ running up0 = true) ∧ ringOf up0 0 = none ∧
    ringOf (ringS r0) 0 = some (0, 0, r0) ∧ getRing (ringS r0) 0 0 = r0 ∧ r0.state = .active ∧
    (fld (16 : Word) 63 32 = 0 ∧ tailOk r0 16 = true) ∧ fld (16 : Word) 63 17 = 0 ∧ tailOk r0 (r0.sqTail + 16) = true ∧
    cqHeadOk r0 0 = true ∧ r0.waiting = [] ∧ tailOk r0 17 = false ∧ cqHeadOk r0 1 = false ∧ (4 : Nat) ≠ 8 ∧
    fld (0x20000 : Word) 63 17 ≠ 0 ∧ windowOk up0 0 0 0 0 = false := by decide +kernel

theorem wit_RingCommands :
    writeOpen up0 0 (rRingCmd 0) ∧ rbit up0 (rRingCmd 0) 22 = false ∧ fld (0x240000 : Word) 21 21 = 1 ∧ fld (0x240000 : Word) 20 18 = 1 ∧
    fld (0x280000 : Word) 20 18 = 2 ∧ fld (0x2C0000 : Word) 20 18 = 3 ∧ fld (0x300000 : Word) 20 18 = 4 ∧
    createCheck (setRfld (renewLease up0) (rRingCmd 0) 20 0 (fld (0x240000 : Word) 20 0)) 0 0 = .badDesc ∧
    (let u := withReg (rTenCfg 0) 1
     let v := setRfld u (rRingArg 0 3) 4 0 4
     createCheck (setRfld (renewLease v) (rRingCmd 0) 20 0 (fld (0x240000 : Word) 20 0)) 0 0 = .ok ∧ writeOpen v 0 (rRingCmd 0)) ∧
    rbit (withReg (rRingCmd 0) 0x400000) (rRingCmd 0) 22 = true ∧ writeOpen (withReg (rRingCmd 0) 0x400000) 0 (rRingCmd 0) ∧
    ringAt up0 0 0 = none ∧ ringAt (ringS r0) 0 0 = some (0, r0) ∧ getRing (ringS r0) 0 0 = r0 ∧ r0.state ≠ .closing ∧
    writeOpen (ringS r0) 0 (rRingCmd 0) ∧
    (let c : Ring := { r0 with state := .closing, closing := some (true, 0) }
     (getRing (ringS c) 0 0).closing = some (true, 0) ∧ (getRing (ringS c) 0 0).mute = false ∧ ringOps (ringS c) 0 0 = []) ∧
    (getRing (ringS { r0 with state := .closing, closing := some (false, 0) }) 0 0).closing = some (false, 0) := by
  unfold writeOpen; decide +kernel

theorem wit_ExpectedPower :
    dOpc { words := [0x01] } = 0x01 ∧ dOpc { words := [0x02] } = 0x02 ∧ dOpc { words := [0x05] } = 0x05 ∧ dOpc { words := [0x04] } = 0x04 ∧
    dOpc { words := [0x3F] } ≠ 0x01 := by decide

theorem wit_DispatchAndFetch :
    State.reset.stage ≠ .up ∧ up0.stage = .up ∧ (getRing up0 0 0).state ≠ .active ∧
    ((getRing (ringS { r0 with sqTail := 1 }) 0 0).state = .active ∧ (getRing (ringS { r0 with sqTail := 1 }) 0 0).fetchPos ≠ 1) ∧
    (readSlot { up0 with hubs := [(0, { rings := [(0, { r0 with sqTail := 1, sqBase := 0x1000 })], tlb := [(0, [page0])], own := own0 })] } 0 0 0).1
      = .ok ∧
    dispatchOn State.reset 0 = false ∧ dispatchOn up0 0 = true ∧ candidates up0 0 = [] ∧ mfind (getHub up0 0).disp.waitSince 0 = none ∧
    mfind (getHub { up0 with hubs := [(0, { disp := { waitSince := [(0, 5)] } })] } 0).disp.waitSince 0 = some 5 := by decide +kernel

/-- An operation of tenant 0 with a descriptor. -/
def opS (ws : List Word) (ph : Phase := .chosen) (more : State := up0) : State := ringS r0 [(0, { desc := { words := ws }, phase := ph })] more

def op0 (ws : List Word) (ph : Phase := .chosen) : Op := { desc := { words := ws }, phase := ph }

theorem wit_WaitsAndSignals :
    getOp (opS [8, 0, 0, 1]) 0 0 = some (op0 [8, 0, 0, 1]) ∧ dOpc (op0 [8]).desc = 0x08 ∧ dFld (op0 [8, 0, 0, 1]).desc 2 0 0 = 0 ∧
    dWord (op0 [8, 0, 0, 1]).desc 3 ≠ 0 ∧ partCheck (opS [8, 0, 0xF00]) 15 0 = .ok ∧
    partCheck (opS [8, 0, 0xF00] .chosen { up0 with fuses := { up0.fuses with variant := .lcr0800A } }) 15 0 = .unsupported ∧
    (getArr (opS [8]) 0 0 - 0).toInt ≥ 0 ∧ (getArr (opS [8]) 0 0 - 1).toInt < 0 ∧
    dFld (op0 [8, 0, 1, 2]).desc 2 0 0 = 1 ∧ (dWord (op0 [8, 0, 1, 2]).desc 3).toNat % 4 ≠ 0 ∧
    (hubLoad th (opWho th 0 0 (op0 [8])) 0x1000 4).1 = .access ∧
    (hubLoad { opS [8, 0, 1, 0x1000] with hubs := [(0, { getHub (opS [8]) 0 with tlb := [(0, [page0])], own := own0 })] }
      (opWho th 0 0 (op0 [8])) 0x1000 4).1 = .ok ∧
    dFld (op0 [8, 0, 0, 0, 5]).desc 4 31 0 ≠ 0 ∧ dOpc (op0 [9]).desc = 0x09 ∧ dFld (op0 [9, 0, 0x11]).desc 2 5 4 ≠ 0 ∧
    dFld (op0 [9, 0, 0]).desc 2 2 0 = 0 ∧ dFld (op0 [9, 0, 1]).desc 2 2 0 = 1 ∧ dFld (op0 [9, 0, 2]).desc 2 2 0 = 2 ∧
    dFld (op0 [9, 0, 3]).desc 2 2 0 = 3 ∧ (lineStatus { opS [9] with hubs := [(0, { getHub (opS [9]) 0 with own := (getHub cntS 0).own })] } (opWho up0 0 0 (op0 [9]))
      (gaOf up0 (memKey 0 winBase)) true).1 = .ok ∧
    (lineStatus (opS [9]) (opWho up0 0 0 (op0 [9])) (gaOf up0 (memKey 0 winBase)) true).1 = .access ∧
    (dWord (op0 [9, 0, 2, 0, 4]).desc 4).toNat % 8 ≠ 0 ∧ dFld (op0 [9, 0, 0x22]).desc 2 5 4 = 2 ∧
    ringOf (opS [9]) (0 * 512 + 5) = none ∧ ringOf (opS [9]) 0 = some (0, 0, r0) ∧ partDomain (opS [9]) 0 = tenDomain (opS [9]) 0 ∧
    tailOk r0 (r0.sqTail + (16 : Word).setWidth 32) = true ∧ tailOk r0 (r0.sqTail + (17 : Word).setWidth 32) = false ∧
    r0.state = .active := by decide +kernel

theorem wit_DescriptorCommands :
    chosen (opS [0x3F]) 0 0 0x3F (op0 [0x3F]) ∧ chosen (opS [0x0A]) 0 0 0x0A (op0 [0x0A]) ∧ dFld (op0 [0x0A, 0, 1]).desc 2 1 0 = 1 ∧
    dFld (op0 [0x0A, 0, 2]).desc 2 1 0 = 2 ∧ chosen (opS [0x01]) 0 0 0x01 (op0 [0x01]) ∧ kernelOk (op0 [0x01]).desc = true ∧
    kernelOk (op0 [0x01, 0, 4]).desc = false ∧ (kernelClusters 0 (op0 [0x01]).desc).any (fun c => mfind (opS [1]).clusterOut c == some 0) = false ∧
    ([0] : List Nat).any (fun c => mfind { opS [1] with clusterOut := [(0, 0)] }.clusterOut c == some 0) = true ∧
    kernelClusters 0 (op0 [0x01]).desc = [0] ∧ chosen (opS [2, 0, 0, 0, 0, 0, 0, 0]) 0 0 0x02 (op0 [2, 0, 0, 0, 0, 0, 0, 0]) ∧
    chosen (opS [5]) 0 0 0x05 (op0 [5]) ∧ dFld (op0 [5]).desc 3 12 0 = 0 ∧ dFld (op0 [5, 0, 64, 4096, 16]).desc 3 12 0 = 4096 ∧
    chosen (opS [0x18]) 0 0 0x18 (op0 [0x18]) ∧ (getHub (opS [0x18]) 0).hints.length < 16 ∧
    16 ≤ (getHub { opS [0x18] with hubs := [(0, { getHub (opS [0x18]) 0 with hints := List.replicate 16 {} })] } 0).hints.length ∧
    (op0 [0x3F]).step = none ∧ mfind up0.copies 7 = none := by unfold chosen; decide +kernel

/-- A job of one unit. -/
def jobS (j : CopyJob) : State := { up0 with copies := [(0, j)] }

theorem wit_CopyUnits :
    (mfind (jobS { units := 1, len := 64 }).copies 0).isSome = true ∧
    (mfind ({ units := 1, resolved := [(0, .ok)] } : CopyJob).resolved 0).isSome = true ∧
    orderedWaits (jobS { units := 1 }) 0 { units := 1 } 0 = false ∧ unitHeld (jobS { units := 1 }) { units := 1 } 0 = false ∧
    ({ units := 1 } : CopyJob).xfmt ≠ 5 := by decide +kernel

theorem wit_KernelLife :
    coreOk up0 ⟨0, 0, 0⟩ = true ∧ State.reset.stage ≠ .up ∧ coreOk State.reset ⟨0, 0, 0⟩ = true ∧ (getCore up0 0).next = [] ∧
    (let s := { up0 with cores := [(0, { next := [launch0] })] }
     s.stage = .up ∧ (getCore s 0).launch = none ∧ mfind s.clusterOut (clOf 0) = none ∧ partUp s (partOf 0) = true ∧
       (getCore s 0).next = launch0 :: []) ∧
    getOp up0 0 0 = none ∧ getOp (opS [1]) 0 0 = some (op0 [1]) ∧ kernelDone (opS [1]) 0 0 (op0 [1]) = false ∧
    kernelDone (opS [1] .running) 0 0 (op0 [1] .running) = true ∧ dFld (op0 [1, 0, 0, 0, 0x500000000] .running).desc 4 63 32 ≠ 0 ∧
    (running up0 = true ∧ partUp up0 0 = true ∧ (getCore up0 0).fault = false ∧ mfind up0.clusterOut (clKey 0 0) = none) ∧
    running State.reset = false ∧ clusterOk up0 ⟨0, 0⟩ = true ∧ clusterOk State.reset ⟨0, 0⟩ = true := by decide +kernel

/-! ## Witnesses: State Engines and steps -/

/-- A batch that reads its blocks from `page0` at 0x1000; memory holds byte `b` of block 0. -/
def seBatch (b : Byte) : State :=
  let s := opS [5, 0, 0x1000, 1] .running
  { s with hubs := [(0, { getHub s 0 with tlb := [(0, [page0])], own := own0 })], mem := [(memKey 0 0x10000401000, b)] }

theorem wit_StateEngineRows :
    fateOf .sereq th0 (mkw 0x3E 0 0 1 0 0 1) (blk 1 []) = .go ∧ fateOf .sereq th0 (mkw 0x3E 0 0 1 0 0 0) (fullS 1) = .go ∧
    fateOf .sereq th0 (mkw 0x3E 0 0 1 0 0 0) (blk 0x4001 []) = .go ∧ word0Ok 0x4001 = false ∧
    ([0x01, 0x02, 0x10, 0x11, 0x12, 0x20, 0x30, 0x40].all fun k => word0Ok k &&
      fateOf .sereq th0 (mkw 0x3E 0 0 1 0 0 0) (blk k []) == .go && seOp [k] != none) = true ∧
    seOp [0x40] = some .statsCtx ∧ seOp [0x40, 0, 0x100000000] = some .statsStack ∧ seOp [0x30, 0, 0, 0, 0, 1] = some .keepList ∧
    seOp [0x30, 0, 0, 0, 0, 2] = some .moveOut ∧ seOp [0x30, 0, 0, 0, 0, 3] = some .moveIn ∧ seOp [0x30] = some .keepRange ∧
    getOp up0 0 0 = none ∧ getOp (opS [5, 0, 0x1000, 1] .running) 0 0 = some (op0 [5, 0, 0x1000, 1] .running) ∧
    (tvaReadList (opS [5, 0, 0x1000, 1] .running) (opWho up0 0 0 (op0 [5])) 2 0x1000 64).1 ≠ .ok ∧
    (tvaReadList (seBatch 1) (opWho up0 0 0 (op0 [5])) 2 0x1000 64).1 = .ok ∧
    mfind (getStack up0 0).reqs 0 = none ∧
    (mfind (getStack { up0 with seStacks := [(0, { reqs := [(0, {})] })] } 0).reqs 0 = some {} ∧ ({} : SeReq).started = false) ∧
    (mfind (getStack { up0 with seStacks := [(0, { reqs := [(0, { started := true })] })] } 0).reqs 0).isSome = true ∧ running up0 = true := by
  decide +kernel

/-- A stack whose context 3 belongs to job tag 5. -/
def stk (c : Ctx) : State := { up0 with seStacks := [(0, { ctx := [(3, c)], nextNew := 4 })] }

/-- A request that names it. -/
def rq3 (op tag : Nat) : SeReq := { who := { jobTag := tag }, words := [BitVec.ofNat 64 op, 0x10003] }

theorem wit_StateEngineJobTags :
    seOp (rq3 2 5).words = some .close ∧ seCtx (stk { gen := 1, jobTag := 5, isOpen := true }) 0 (rq3 2 5).words = some { gen := 1, jobTag := 5, isOpen := true } ∧
    (5 ≠ (rq3 2 6).who.jobTag) ∧ seWithin .close (rq3 2 5).words { gen := 1, jobTag := 5, isOpen := true } = true := by decide +kernel

theorem wit_StateEngineOpenClose :
    seOp (rq3 1 5).words = some .open_ ∧ (getStack (stk {}) 0).nextNew < 65536 ∧
    (getStack { up0 with seStacks := [(0, { nextNew := 65536 })] } 0).nextNew = 65536 ∧
    seCtx (stk { gen := 1, jobTag := 5, isOpen := true }) 0 (rq3 2 5).words = some { gen := 1, jobTag := 5, isOpen := true } := by decide +kernel

/-- A context named with another job tag answers ACCESS; CLOSE with its own frees it, and its handle stops naming it (R149, R151). -/
theorem test_close :
    (runSe (stk { gen := 1, jobTag := 5, isOpen := true }) 0 (rq3 2 6)).1.st = .access ∧
    (runSe (stk { gen := 1, jobTag := 5, isOpen := true }) 0 (rq3 2 5)).1.st = .ok ∧
    seCtx (runSe (stk { gen := 1, jobTag := 5, isOpen := true }) 0 (rq3 2 5)).2 0 (rq3 2 5).words = none ∧
    (getStack (runSe (stk { gen := 1, jobTag := 5, isOpen := true }) 0 (rq3 2 5)).2 0).freed = [3] := by decide +kernel

/-- A ring with a step, for an operation with a descriptor; a second ring, of queue id 1, with its own. -/
def stepS (ws : List Word) (x : StepSt) (st : Option Nat) (ph : Phase := .chosen) : State :=
  { up0 with hubs := [(0, { rings := [(0, r0), (1, { r0 with qid := 1, step := some 7 })],
                            ops := [(0, { desc := { words := ws }, phase := ph, step := st })], steps := [(7, x)] })] }

theorem wit_Steps :
    chosen (stepS [0x10] {} none) 0 0 0x10 (op0 [0x10]) ∧
    (getHub (stepS [0x10] {} none) 0).steps.any (fun e => e.2.tenant == 0 && e.2.stepId == dStep (op0 [0x10]).desc) = true ∧
    chosen (stepS [0x11] {} none) 0 0 0x11 (op0 [0x11]) ∧ (op0 [0x11]).step = none ∧
    chosen (stepS [0x11] {} (some 8)) 0 0 0x11 { op0 [0x11] with step := some 8 } ∧ getStep (stepS [0x11] {} (some 8)) 0 8 = none ∧
    getStep (stepS [0x11] { state := .failed } (some 7)) 0 7 = some { state := .failed } ∧ StepState.failed ≠ .open_ ∧
    getStep (stepS [0x11] {} (some 7)) 0 7 = some {} ∧
    (commitEnd (setStep (stepS [0x11] {} (some 7)) 0 7 { state := .committing }) (opWho up0 0 0 (op0 [0x11])) (op0 [0x11]).desc).1 = .ok ∧
    chosen (stepS [0x12] {} none) 0 0 0x12 (op0 [0x12]) ∧ (namedStep (stepS [0x12] {} none) 0 (op0 [0x12])).1 = .badDesc ∧
    namedStep (stepS [0x12, 0, 1] {} none) 0 (op0 [0x12, 0, 1]) = (.ok, 0, 7) ∧
    chosen (stepS [0x13, 0, 1] {} none) 0 0 0x13 (op0 [0x13, 0, 1]) ∧ namedStep (stepS [0x13, 0, 1] {} none) 0 (op0 [0x13, 0, 1]) = (.ok, 0, 7) ∧
    (getStep (stepS [0x13, 0, 1] { state := .failed, commit := some 4, attempt := 15 } none) 0 7).isSome = true ∧
    (getStep (stepS [0x13, 0, 1] { state := .failed, commit := some 4 } none) 0 7).isSome = true ∧
    ({} : StepSt).replayPending = false ∧ getStep (stepS [] { replayPending := true, commit := some 1 } none) 0 7 = some { replayPending := true, commit := some 1 } := by
  unfold chosen; decide +kernel

theorem wit_StepRereads :
    (let s := stepS [] { replayPending := true, commit := some 1 } none
     (rereadSlots s 0 0 1 1).1 = .access) ∧
    (rereadSlots { up0 with hubs := [(0, { rings := [(0, { r0 with sqBase := 0x1000 })], tlb := [(0, [page0])], own := own0 })] } 0 0 1 1).1 = .ok := by
  decide +kernel

/-! ## Witnesses: collectives and Currant -/

def collKey : CollKey := ⟨0, 0, 0, 0, false, 0⟩

/-- An instance of rank 0 of two, its partner at hub 1. -/
def coll2 : Coll := { key := collKey, opc := 0, count := 64, chunk := 0, members := [0, 1], ext := [1], joined := [0], timeout := 100 }

def collS (c : Coll) : State :=
  let s := opS [4] .running
  { s with hubs := [(0, { getHub s 0 with colls := [(0, c)] })] }

def join1 : JoinMsg := ⟨collKey, 0, 1, 0, 0, 0, 64, 0, 0, 2⟩

theorem wit_Collectives :
    (∀ k : Fin 7, chosen (opS [4, 0, BitVec.ofNat 64 k]) 0 0 0x04 (op0 [4, 0, BitVec.ofNat 64 k])) ∧
    min (dFld (op0 [4, 0, 6]).desc 2 3 0) 6 = 6 ∧ (getRing (opS [4]) 0 0).comm = false ∧
    collFields (op0 [4]).desc (dFld (op0 [4]).desc 2 22 16) (dFld (op0 [4]).desc 2 28 23) false = false ∧
    (getRing (ringS { r0 with comm := true } [(0, op0 [4])]) 0 0).comm = true ∧ grpFld (ringS { r0 with comm := true }) 0 0 0 19 19 = 0 ∧
    running State.reset = false ∧ running up0 = true ∧ partUp up0 0 = true ∧ findColl up0 0 collKey 0 = none ∧
    findColl (collS coll2) 0 collKey 0 = some (0, coll2) ∧ 0 ≤ topLevel coll2 ∧ 0 < chunks coll2 ∧ 1 < coll2.members.length ∧
    packetPhase coll2 0 < phaseLimit (collS coll2) 0 coll2 ∧ getColl (collS coll2) 0 0 = some coll2 ∧ getColl up0 0 0 = none ∧
    coll2.joined.length < coll2.members.length ∧ ({ coll2 with joined := [0, 1] } : Coll).members.length ≤ 2 ∧
    (let s : State := { up0 with stage := .powerFail, hubs := [(0, { ops := [(0, { op0 [4] with step := some 7 })], colls := [(0, coll2)] })] }
     getColl s 0 0 = some coll2 ∧ s.stage = .powerFail ∧ ((getOp s 0 coll2.op).bind (·.step)).isSome = true) := by
  unfold chosen; decide +kernel

/-- Hub 0's group 0 with the given state. -/
def grpS (w0 : Word) (colls : AMap Coll := []) : State := { up0 with hubs := [(0, { grp := [(0, { words := [w0, 0, 0, 0, 0, 0, 0, 0] })], colls := colls })] }

theorem wit_Groups :
    writeOpen up0 0 (rGrpSel 0 + 0x40) ∧ grpFld up0 0 0 0 18 18 = 0 ∧ (0x80000 : Word).getLsbD 19 = true ∧ (0 : Word).getLsbD 19 = false ∧
    writeOpen (grpS 0x40000) 0 (rGrpSel 0 + 0x40) ∧ grpFld (grpS 0x40000) 0 0 0 18 18 = 1 ∧ grpFld (grpS 0x40000) 0 0 0 19 19 = 0 ∧
    grpFld (grpS 0xC0000) 0 0 0 19 19 = 1 ∧ rfld (grpS 0x40000) (rGrpSel 0) 11 0 = 0 ∧
    (getHub (grpS 0xC0000) 0).colls.any (fun c => c.2.grp == some 0) = false ∧ getColl up0 0 0 = none ∧
    getColl (collS coll2) 0 0 = some coll2 ∧ coll2.grp = none := by unfold writeOpen; decide +kernel

/-- The state of engine 0 with its link in a state of R348. -/
def engS (st : Nat) (x : EngSt := {}) (more : List (Nat × Word) := []) : State :=
  let s := { withReg (rMlxState 0 0) (BitVec.ofNat 64 st) with opts := [(0, { ready := true })], engs := [(0, x)] }
  more.foldl (fun s e => { s with bar0 := (s.bar0.filter (fun f => f.1 < e.1)) ++ [e] ++ s.bar0.filter (fun f => e.1 < f.1) }) s

def tf1 (kind tid : Nat) : CurFrame := ⟨kind, 0, 0, 0, 0, tid, 0, 0, 0, []⟩

/-- The bytes of a sound frame. -/
def tf (kind lseq lack : Nat) (tid : Nat := 5) : List Byte := curBytes (tf1 kind tid) lseq lack

/-- Engine 0 is UP, and a child of tree 0, of id 5 and hub 0. -/
def treeS (x : EngSt := {}) : State := engS 4 x [(rCurTree 0 0, 0x50001), (rCurTree 0 2, 1)]

theorem wit_CurrantTrees :
    curUp (engS 4) 0 = true ∧ curUp (engS 0) 0 = false ∧
    (∀ k : Fin 4, (treeFrameOf (tf k 0 0)).sound = true ∧ (treeFrameOf (tf k 0 0)).f = tf1 k 5) ∧ (treeFrameOf (tf 1 0 0 ++ [0])).sound = false ∧
    (treeFrameOf (tf 1 0 0)).lseq = ((getEng (curAcked (treeS) 0 0) 0).cur.last + 1) % 256 ∧
    (treeFrameOf (tf 1 9 0)).lseq ≠ ((getEng (curAcked (treeS) 0 0) 0).cur.last + 1) % 256 ∧
    treeAt (engS 4) 0 5 = none ∧ treeAt treeS 0 5 = some 0 ∧ partUp treeS (treeHome treeS 0) = true ∧
    (let f := (treeFrameOf (tf 1 0 0)).f
     f.op ≤ 2 ∧ f.rop ≤ 2 ∧ f.nelem ≤ 16) ∧
    (getEng (engS 4) 0).cur.unack = [] ∧
    (let c := (getEng (engS 4 { cur := { lseq := 1, unack := [tf1 1 0] } }) 0).cur
     (0 + 256 - (c.lseq + 256 - c.unack.length) % 256) % 256 + 1 ≤ c.unack.length ∧ c.queue = [] ∧ c.unack ≠ []) ∧
    treeOp up0 255 0 = none ∧ treeOp { up0 with trees := [(0, { ops := [(0, { t0 := some 5 })] })] } 0 0 = some { t0 := some 5 } ∧
    (let s : State := { up0 with trees := [(0, { ops := [(0, { up := some 0, sent := true })] })] }
     treeOp s 0 0 = some { up := some 0, sent := true } ∧ treeKids s 0 = [] ∧ treeBroken s 0 = false) ∧ 0 ∈ treeKids treeS 0 ∧
    writeOpen up0 0 (rCurTree 255 0) ∧ treeValid up0 255 = false ∧ treeValid (withReg (rCurTree 0 0) 1) 0 = true ∧
    writeOpen (withReg (rCurTree 0 0) 1) 0 (rCurTree 0 0) := by unfold writeOpen; decide +kernel

/-! ## Witnesses: field tests and the optical edge -/

/-- A field test of cluster 0, as far as it is. -/
def testS (begun : Option Nat) (phys : Option (Nat × Bool)) : State := { opS [0x20] .running with tests := [⟨0, 0, 0, begun, phys⟩] }

def idle0 : IdleCount := ⟨0, 0, some 0, 0, 5⟩

theorem wit_FieldTests :
    (idle0.die / 4 = 0 ∧ idle0.cl < 40 ∧ idle0.cause < 11 ∧ idle0.tenant = some 0) ∧ running State.reset = false ∧
    (running up0 = true ∧ partUp up0 0 = true) ∧ chosen (opS [0x20]) 0 0 0x20 (op0 [0x20]) ∧ partUp (opS [0x20] .chosen { up0 with partOut := [(0, 0)] }) 0 = false ∧
    dFld (op0 [0x20, 0, 0x2800]).desc 2 13 8 ≥ 40 ∧ chosen (opS [0x20, 0, 0x2800]) 0 0 0x20 (op0 [0x20, 0, 0x2800]) ∧
    mfind (opS [0x20]).clusterOut (clKey 0 0) ≠ some 0 ∧ up0.tests = [] ∧ (testS none none).tests = ⟨0, 0, 0, none, none⟩ :: [] ∧
    (testS (some 5) none).tests = ⟨0, 0, 0, some 5, none⟩ :: [] ∧ clusterLaunches (testS (some 5) none) 0 = [] ∧
    (testS (some 5) (some (0, false))).tests = ⟨0, 0, 0, some 5, some (0, false)⟩ :: [] := by
  unfold chosen; decide +kernel

/-- A small package. -/
def smallS : State := { up0 with fuses := { up0.fuses with variant := .lcr0800A } }

theorem wit_Steering :
    writeOpen (engS 4) 0 (rSteerCmd 0) ∧ (0x10 : Word).getLsbD 4 = true ∧ small up0 = false ∧
    (reg (engS 4) (rSteerTime 0)).toNat < up0.timebase + 25000 ∧
    (let s := withReg (rSteerTime 0) 30000
     let s' : State := { s with opts := [(0, { ready := true })] }
     s'.timebase + 25000 ≤ (reg s' (rSteerTime 0)).toNat ∧ steerCheck s' 0 none 30000 = .ok ∧ writeOpen s' 0 (rSteerCmd 0) ∧
       (getOpt s' 0).points.length < 8) ∧
    (8 ≤ (getOpt { up0 with opts := [(0, { ready := true, points := (List.range 8).map (fun i => ⟨1000000 * (8 - i), 0, []⟩) })] } 0).points.length) ∧
    writeOpen { smallS with opts := [(0, { ready := true })] } 0 (rSteerCmd 0) ∧ small smallS = true ∧
    running State.reset = false ∧ rbit up0 (rQctl 0) 8 = false ∧ (getOpt up0 0).points = [] ∧
    (let s : State := { up0 with opts := [(0, { ready := true, points := [⟨5, 3, []⟩] })] }
     (getOpt s 0).points = ⟨5, 3, []⟩ :: [] ∧ running s = true ∧ optUp s 0 = true) ∧
    engReady (engS 4) 0 ∧ linkState (engS 4) 0 ≠ 5 ∧ engReady (engS 5) 0 ∧ linkState (engS 5) 0 = 5 ∧
    ¬ engPort (engS 5) 0 ∈ (getEng (engS 5) 0).stored ∧
    engPort (engS 5 { stored := List.range 16 }) 0 ∈ (getEng (engS 5 { stored := List.range 16 }) 0).stored ∧ ([] : List Nat).length ≤ 3 := by
  unfold writeOpen engReady; decide +kernel

/-- An UP link that calibrates wavelength 0, with a spare or none. -/
def calS (c : CalSt) (more : List (Nat × Word) := []) : State := engS 4 { tx := { cal := some c } } ((rCalCtl 0, 1) :: more)

theorem wit_WavelengthCalibration :
    engReady (calS ⟨0, 0, some 16, false, .outAt 5⟩) 0 ∧ linkState (calS ⟨0, 0, some 16, false, .outAt 5⟩) 0 = 4 ∧
    rbit (calS ⟨0, 0, some 16, false, .outAt 5⟩) (rCalCtl 0) 0 = true ∧ ¬(linkState (engS 0) 0 = 4) ∧ (getEng (engS 4) 0).tx.cal = none ∧
    (getEng (calS ⟨0, 0, some 16, false, .outAt 5⟩) 0).tx.cal = some ⟨0, 0, some 16, false, .outAt 5⟩ ∧
    (getEng (calS ⟨0, 0, some 16, false, .tuning⟩) 0).tx.cal = some ⟨0, 0, some 16, false, .tuning⟩ ∧
    (getEng (calS ⟨0, 0, none, true, .tuning⟩) 0).tx.cal = some ⟨0, 0, none, true, .tuning⟩ ∧
    (getEng (calS ⟨0, 0, some 16, false, .backAt 5⟩) 0).tx.cal = some ⟨0, 0, some 16, false, .backAt 5⟩ ∧
    (getEng (calS ⟨0, 0, none, false, .outAt 5⟩) 0).tx.cal = some ⟨0, 0, none, false, .outAt 5⟩ ∧
    ([0x10, 0x11].any fun n => role (engS 4) 0 true 16 == n || role (engS 4) 0 true 19 == n) = true ∧
    (optPresent (engS 4) 0 = true ∧ running (engS 4) = true ∧ optUp (engS 4) 0 = true ∧ laserOk (engS 4) 0 0 0 = true) ∧
    laserOk (engS 4 {} [(rLaser 0 0 0, 0x400000000)]) 0 0 0 = false ∧ laserMargin (engS 4) 0 0 0 = none ∧
    (laserMargin (engS 4 { feAt := [(0, 0)] } [(rFeOma 0 0 0, 0)]) 0 0 0 = some 90 ∧ (90 : Int) ≥ 5 ∧ mget 0 (getOpt (engS 4 { feAt := [(0, 0)] }) 0).steps 0 ≤ 120) := by
  unfold engReady; decide +kernel

/-- The header of a flit. -/
def fh (kind cls seq : Nat) : FlitHead := { kind := kind, valid := 32, cls := cls, seq := seq, sop := true }

/-- A flit with it, its CRC right. -/
def fl (kind cls seq : Nat) (p : List Byte := []) : Flit := ⟨flitBits (fh kind cls seq) p, []⟩

/-- The payload of a control flit. -/
def ctlP : List Byte := ctlPayload [.credit [1, 2, 3]]

/-- The messages of a control flit come back; the CRC-64 of no byte is that of two complements (R339, R343). -/
theorem test_control_flit : (ctlMsgs ctlP) = [.credit [1, 2, 3]] ∧ crc64 [] = 0 := by decide +kernel

/-- A packet of 32 bytes comes back from its bytes (R341). -/
theorem test_packet_bytes :
    ((packetOf 0x12 false (packetBytes { pkt1 0x100000000000 with domain := 5, jobTag := 77, txid := 1234 })).map
      (fun k => (k.target, k.domain, k.jobTag, k.txid))) = some (0x100000000000, 5, 77, 1234) := by decide +kernel

theorem wit_MeluxFlits :
    (engReady (engS 4) 0 ∧ linkState (engS 4) 0 = 4 ∧ linkState (engS 0) 0 = 0 ∧ engReady (engS 0) 0 ∧ linkState (engS 3) 0 = 3 ∧ engReady (engS 3) 0 ∧
    (fh 1 0 0).seq = (getEng (headerAck (engS 4) 0 (fh 1 0 0)) 0).expect ∧ (fh 1 0 1).seq ≠ (getEng (headerAck (engS 4) 0 (fh 1 0 1)) 0).expect ∧
    (let y := getEng (headerAck (engS 4) 0 (fh 1 0 0)) 0
     (lget 0 y.got 0 + 2 ^ 32 - lget 0 y.passed 0) % 2 ^ 32 < 1024) ∧
    linkState ([[(0, 3)]].foldl (codeword 0) (engS 4)) 0 = 4 ∧
    ([] : AMap Nat).foldl (fun a e => a + e.2) 0 = 0 ∧ ([(0, 3), (1, 12)] : AMap Nat).foldl (fun a e => a + e.2) 0 = 15 ∧
    (getEng (engS 4) 0).unack = [] ∧ (getEng (engS 4 { unack := [⟨0, true, true, 0, []⟩] }) 0).unack ≠ [] ∧ changePending (getEng (engS 4) 0).tx = false ∧
    (getEng (engS 4) 0).nak = false ∧ (getEng (engS 4 { nak := true }) 0).nak = true ∧ changePending (getEng (engS 4 { nak := true }) 0).rx = false ∧
    [0, 0, 0].length = 3 ∧ (List.replicate 20 255).all (fun n => n < 256) = true ∧ rbit (engS 4 {} [(rMlxCtl 0, 0)]) (rMlxCtl 0) 0 = false ∧
    rbit (engS 4) (rMlxCtl 0) 0 = true ∧ (getEng (engS 4) 0).oma = []) ∧
    (fl 1 0 0).cws = [] ∧ flitSound (fl 1 0 0).bits = true ∧ flitSound (fl 1 3 0).bits = false ∧ flitSound (fl 0 0 0).bits = true ∧
    flitSound (fl 2 0 0 ctlP).bits = true ∧ headOf (fl 0 0 0).bits = fh 0 0 0 ∧ headOf (fl 1 0 0).bits = fh 1 0 0 ∧
    headOf (fl 1 0 1).bits = fh 1 0 1 ∧ headOf (fl 2 0 0 ctlP).bits = fh 2 0 0 := by
  refine ⟨by unfold engReady; decide +kernel, rfl, ?_, ?_, ?_, ?_, headOf_flitBits _ _ ?_ ?_ ?_ ?_ ?_, headOf_flitBits _ _ ?_ ?_ ?_ ?_ ?_,
    headOf_flitBits _ _ ?_ ?_ ?_ ?_ ?_, headOf_flitBits _ _ ?_ ?_ ?_ ?_ ?_⟩ <;>
    first | (rw [fl, flitSound_flitBits] <;> decide) | decide

theorem wit_MeluxLinks :
    (∀ n : Fin 7, engReady (engS n) 0 ∧ linkState (engS n) 0 = n) ∧ engPort (engS 0) 0 = 15 ∧ engPort (engS 0 {} [(rEngStatus 0 0, 3)]) 0 ≠ 15 ∧
    engReady (engS 0 {} [(rEngStatus 0 0, 3)]) 0 ∧ (getEng (engS 3) 0).unlocked = [] ∧ (getEng (engS 3) 0).queue = [] ∧
    (dirOf (getEng (engS 4) 0) true).pend = [] ∧
    (dirOf (getEng (engS 4 { rx := { pend := [⟨0, 0, 0, 0, 0, 0⟩] } }) 0) false).pend = ⟨0, 0, 0, 0, 0, 0⟩ :: [] ∧
    ([0x1F].all (fun r => r < 32) = true ∧ (List.replicate 20 0x1F).all (fun r => r < 0x14) = false ∧ chgBad ⟨9, 0, 0, 0, 0, 0⟩ = true ∧
     chgBad ⟨4, 0, 0, 0x14, 0, 0⟩ = true ∧ chgBad ⟨7, 19, 0xFF, 0xFF, 0, 0⟩ = false) ∧
    role (engS 4) 0 false 5 < 16 ∧ role (engS 4) 0 false 5 ≠ 4 ∧ role (engS 4) 0 false 5 = 5 ∧ (getEng (engS 4) 0).rx.gen = 0 ∧
    (getEng (engS 4) 0).subst = none ∧ (getEng (engS 6 { subst := some (3, 9) }) 0).subst = some (3, 9) := by unfold engReady; decide +kernel

/-! ## Witnesses: general ports -/

/-- General port 0 with VALID connection 2, its peer's address 0. -/
def gpS (c : GpConn) (more : List (Nat × Word) := []) : State :=
  { engS 4 {} ([(rGpCtl 0, 1), (rGpStatus 0, 1), (gBase 0 + 8, 4791), (rGpConn 0 2 0, 1)] ++ more) with gconns := [(2, c)] }

/-- A DATA frame without packets that port 0 takes on connection 2, a byte string like that on the wire. -/
def gf (s : State) (typ : Nat := 0) (psn : Nat := 0) (conn : Nat := 2) : List Byte :=
  frameBytes { dstMac := rfld s (gBase 0 + 0x10) 47 0, srcMac := 7, prio := 0, vid := 0, v6 := false, dscp := 0, ttl := 64,
               srcIp := (peerIp s 0 2).toNat, dstIp := (ownIp s 0 false).toNat, entropy := 0, udp := rfld s (gBase 0 + 8) 15 0 }
    { typ := typ, npkt := 0, conn := conn, psn := psn, ackPsn := 0 } []

/-- The FCS of the nine digits is the check value of the IEEE 802.3 CRC-32 (R356), and its residue is what the bytes on the wire are. -/
theorem test_fcs : fcsOf [0x31, 0x32, 0x33, 0x34, 0x35, 0x36, 0x37, 0x38, 0x39] = [0x26, 0x39, 0xF4, 0xCB] := by decide +kernel

theorem wit_GeneralPorts :
    (optPresent (gpS {}) 0 = true ∧ running (gpS {}) = true ∧ optUp (gpS {}) 0 = true) ∧ (gpS {}).timebase = 0 ∧
    frameBad (gpS {}) 0 (gpFrameOf (gf (gpS {}) ++ [0])) = some 7 ∧ frameBad (gpS {}) 0 (gpFrameOf (gf (gpS {}) 4)) = some 2 ∧
    frameBad (gpS {}) 0 (gpFrameOf (gf (gpS {}) 0 0 3)) = some 3 ∧
    (∀ typ : Fin 4, frameBad (gpS {}) 0 (gpFrameOf (gf (gpS {}) typ)) = none ∧ (gpFrameOf (gf (gpS {}) typ)).t.typ = typ) ∧
    mget 0 (gpS {}).gbuf 0 + (gpFrameOf (gf (gpS {}))).body.length ≤ 524288 ∧
    524288 < mget 0 ({ gpS {} with gbuf := [(0, 524289)] } : State).gbuf 0 + (gpFrameOf (gf (gpS {}))).body.length ∧
    (gpFrameOf (gf (gpS {}))).t.psn = rfld (gpAcked (gpS {}) 0 2 0) (rGpConn 0 2 4) 63 32 ∧
    framePackets 0x20 (gpFrameOf (gf (gpS {}))).t.npkt (gpFrameOf (gf (gpS {}))).body = [] ∧
    (gpFrameOf (gf (gpS {}) 0 1)).t.psn ≠ rfld (gpAcked (gpS {}) 0 2 0) (rGpConn 0 2 4) 63 32 ∧
    (getConn (gpS {}) 0 2).unack = [] ∧ (getConn (gpS { unack := [[]] }) 0 2).unack ≠ [] ∧ 0 + 1 < max 1 (rfld (gpS {}) (rGpTimer 0) 19 16) ∧
    max 1 (rfld (gpS {} [(rGpTimer 0, 0)]) (rGpTimer 0) 19 16) ≤ 0 + 1 ∧ (gpS {}).hubs = [] ∧
    writeOpen (gpS {}) 0 (rGpConn 0 2 0) ∧ connValid (gpS {}) 0 2 = true ∧ connValid (gpS {}) 0 4095 = false ∧ writeOpen (gpS {}) 0 (rGpConn 0 4095 0) ∧
    rbit (gpS {}) (rGpStatus 0) 0 = true ∧ rbit (engS 4) (rGpStatus 0) 0 = false ∧ rbit (gpS {}) (rGpCtl 0) 0 = true ∧
    rbit (engS 4 {} [(rGpCtl 0, 0)]) (rGpCtl 0) 0 = false := by unfold writeOpen; decide +kernel

/-! ## Witnesses: power, heat and life -/

/-- `up0` with other words in its register map. -/
def regs (l : List (Nat × Word)) (s : State := up0) : State :=
  l.foldl (fun s e => { s with bar0 := (s.bar0.filter (fun f => f.1 < e.1)) ++ [e] ++ s.bar0.filter (fun f => e.1 < f.1) }) s

/-- One partition's governor and hints. -/
def powS (w : Pow) (hints : List Hint := []) (s : State := up0) : State := { s with hubs := [(0, { pow := w, hints := hints })] }

def cl0 (x : ClusterSt) (s : State) : State := { s with clusters := [(0, x)] }

theorem wit_PowerManagement :
    clusterOk up0 ⟨0, 0⟩ = true ∧ running up0 = true ∧ partUp up0 0 = true ∧
    (rbit (regs [(rPwrCtl, 0x800)]) rPwrCtl 11 = true ∧ opPermit (regs [(rPwrCtl, 0x800)]) 0 2 = true) ∧
    (rbit (regs [(rPwrCtl, 0)]) rPwrCtl 11 = false ∧ 4 = opDefault (regs [(rPwrCtl, 0)]) 0) ∧ opPermit up0 0 7 = false ∧
    rbit up0 rRefclk 4 = false ∧ rbit (regs [(rRefclk, 0x10)]) rRefclk 4 = true ∧ running State.reset = false ∧
    (let s := regs [(rPwrCtl, 0x800)] { cl0 { op := 4, gpHigh := some 0 } up0 with timebase := 1000000 }
     s.stage = .up ∧ rbit s rPwrCtl 11 = true ∧ (getCl s 0).gpHigh = some 0 ∧ 0 + 1000000 ≤ s.timebase ∧ 3 < (getCl s 0).op ∧ opPermit s 0 3 = true) ∧
    fateOf .phint th0 (mkw 0x3F 3 0 0 0 0 0x10001) th = .go ∧
    16 ≤ (getHub (powS {} (List.replicate 16 {})) 0).hints.length ∧ (getHub (powS {}) 0).hints[0]? = none ∧
    (getHub (powS {} [({} : Hint)]) 0).hints[0]? = some ({} : Hint) ∧
    (rampTime (powS { slope := 1000 } [{ target := 5000, tStart := 100000 }]) 0 { target := 5000, tStart := 100000 } < 100000 ∨
      slopeBase (powS {}) 0 = 0) ∧
    floorHeld up0 = false ∧ floorHeld { up0 with thm := { coolHeld := true } } = true ∧ up0.restarting = false ∧
    ({ up0 with pow := { vinCap := some 5 } } : State).pow.vinCap = some 5 ∧ up0.pow.vinCap = none ∧
    overPower { est := 1 } = true ∧ overPower {} = false ∧ rbit up0 rPwrStatus 49 = false ∧ rbit (regs [(rPwrStatus, 0x2000000000000)]) rPwrStatus 49 = true ∧
    extestOn up0 = false ∧ ¬ 0x47 ∈ up0.pow.pmbus ∧ 0x47 ∈ ({ up0 with pow := { pmbus := [0x47] } } : State).pow.pmbus := by decide +kernel

theorem wit_ThermalAndCoolant :
    unitPresent up0 (chUnit 415) = true ∧ running up0 = true ∧ up0.restarting = false ∧ running State.reset = false ∧ validReading none = none ∧
    validReading (some 2401) = none ∧ validReading (some 2400) = some 2400 ∧ unitLevel 160 2 ≤ 2400 ∧ validReading (some 320) = some 320 ∧
    (320 : Int) < unitLevel 160 2 ∧ (320 : Int) < unitLevel (chUnit 0) 2 ∧ chReading up0 1 = none ∧
    throttleOn up0 0 = false ∧ throttleOn { up0 with thm := { stand := [(0, 2)] } } 0 = true ∧ nbit (stands { up0 with thm := { stand := [(80, 2)] } } 80) 1 = true ∧
    mfind up0.thm.below 0 = none ∧
    (let s := regs [(rThmCtl, 1)] { up0 with thm := { below := [(0, 5), (16, 5)] }, partOut := [(0, 2)], opts := [(0, { ready := true, out := some 2 })] }
     mfind s.thm.below 0 = some 5 ∧ mfind s.thm.below 16 = some 5 ∧ rbit s rThmCtl 0 = true ∧ s.stage = .up ∧ mfind s.partOut 0 = some 2 ∧
       (getOpt s 0).out = some 2) ∧
    coolPin up0 0 = false ∧ coolPin up0 1 = false ∧ up0.thm.coolHeld = false ∧ up0.thm.coolRef = none ∧
    (let s : State := { up0 with thm := { coolRef := some 0, coolHeld := true }, pins := { up0.pins with coolA := true } }
     coolPin s 0 = true ∧ coolPin s 1 = false ∧ coolPin s (1 - 1) = true ∧ s.thm.coolRef = some 0 ∧ s.timebase ≤ 0 + discTime s) ∧
    coolPin State.reset 0 = false ∧ coolPin { State.reset with pins := { State.reset.pins with coolB := true } } 1 = true ∧
    (let s : State := { up0 with thm := { coolClear := some 0, coolHeld := true } }
     s.thm.coolHeld = true ∧ s.thm.coolClear = some 0 ∧ s.thm.in1Bad = false) ∧
    (let s : State := { up0 with restarting := true }
     s.restarting = true ∧ partUp s 0 = true ∧ (getHub s 0).pow.floor = false) := by decide +kernel

theorem wit_HubReadings : shareSum { up0 with restarting := true } (partsUp { up0 with restarting := true }) ≠ 0 := by decide +kernel

/-- A supply is good and COLD_RST_N deasserted. -/
def waitS : State := { State.reset with stage := .waitReference }

def boot0 : BootInputs := ⟨false, false, 0, false, [], [], [0x40]⟩

theorem wit_ColdReset :
    ({ up0 with stage := .powerFail } : State).pf.final = false ∧ ({ up0 with stage := .powerFail } : State).pf.cause < 3 ∧
    (let s : State := { up0 with stage := .powerFail, pf := { final := true, cause := 3 }, pins := { up0.pins with coldRst := true } }
     s.pf.final = true ∧ s.pf.rails = false ∧ s.pins.coldRst = true ∧ 3 ≤ s.pf.cause) ∧
    4 ≤ ({ up0 with stage := .off, nextCause := 4 } : State).nextCause ∧ ({ up0 with stage := .off, nextCause := 1 } : State).nextCause < 4 := by
  decide +kernel

/-- COLD_RST_N in a supply failure takes the return path away only; after a shut-down its release is awaited (R465, R531). -/
theorem test_cold_reset :
    (match execColdRstNAssert { up0 with stage := .powerFail } with
     | .next t => t.pf.final && !t.pf.rails && t.pins.coldRst | _ => false) = true ∧
    (match execColdRstNAssert { up0 with stage := .off, nextCause := 4 } with
     | .next t => t.stage == .waitReference && t.nextCause == 4 | _ => false) = true := by decide +kernel

theorem wit_PowerUpAndReset :
    State.reset.stage = .waitSupply ∧ waitS.stage = .waitReference ∧ up0.stage = .up ∧ ({ up0 with stage := .off } : State).stage = .off ∧
    ({ up0 with stage := .powerFail } : State).pf.final = false ∧ ({ up0 with stage := .powerFail, pf := { final := true, rails := true } } : State).pf.rails = true ∧
    ({ up0 with stage := .powerFail, pf := { halted := true } } : State).pf.halted = true ∧
    (0x80 : Word).getLsbD 7 = true ∧ writeOpen up0 0 rRstCmd ∧ fld (0x90 : Word) 6 4 = 1 ∧ fld (0xA0 : Word) 6 4 = 2 ∧
    rbit up0 rRstCmd 8 = false ∧ writeOpen (regs [(rRstCmd, 0x100)]) 0 rRstCmd ∧ rbit (regs [(rRstCmd, 0x100)]) rRstCmd 8 = true ∧
    fld (0xC50000A0 : Word) 31 24 = 0xC5 ∧ fld (0x90 : Word) 3 0 < nParts up0 ∧ partUp up0 1 = true ∧
    (nParts smallS ≤ fld (0x9F : Word) 3 0 ∧ writeOpen smallS 0 rRstCmd) ∧
    (let s := regs [(rDevStatus, 0x10041), (rEgr 0, 0x1000000)]
     writeOpen s 0 rRstCmd ∧ ∀ q : Fin 4, q ≠ 0 → partUp s q = false) ∧
    bootOk boot0 = true ∧ identOk waitS 152 = true ∧ (fwImage waitS 0).ok = true ∧ waitS.pins.coolA = false ∧
    (fwImage { waitS with flashA := { fw := { ok := false } }, flashB := { fw := { ok := false } } } 1).ok = false ∧
    diePresent up0 0 = true ∧ (List.replicate 8 (0 : Word)).length = 8 ∧ dieExpected up0 0 = true ∧ dieValid up0 0 = false ∧
    dieValid (regs [(rDieCap 0 7, 0x100000000)]) 0 = true ∧
    (let s := regs [(rDieCap 144 7, 0x100000000)]
     optPresent s 0 = true ∧ (getOpt s 0).ready = false ∧ (getOpt s 0).out = none ∧ dieValid s 144 = true) ∧
    mfind up0.partOut 0 ≠ some 3 ∧
    (let s : State := regs [(rDevStatus, 0xFFFE0041), (rRstCmd, 0x110)] { up0 with partOut := [(0, 3)] }
     mfind s.partOut 0 = some 3 ∧ (∀ i, i ∈ partDies 0 → identOk s i = true) ∧ partLinked s 0 = true ∧ (trainPart s 0 []).1 = true ∧
       (trainPart s 0 [0]).1 = false ∧ rbit s rRstCmd 8 = true ∧ rfld s rRstCmd 3 0 = 0) ∧
    (let s := regs ((rDevStatus, 0xFFFE0041) :: (partDies 0).map (fun i => (rDieCap i 7, 0x100000000)))
     s.heatWait = false ∧ mfind s.partOut 0 = none ∧ rbit s rDevStatus 16 = false ∧ ∀ i, i ∈ partDies 0 → rbit s (rDieCap i 7) 32 = true) := by
  unfold writeOpen; decide +kernel

/-- A cold start with good identities leaves stage 2 with a TIMEBASE of 0 (R457). -/
theorem test_cold_start :
    (nx (exec (.coldStartReference boot0) waitS)).stage = .up ∧ rfld (nx (exec (.coldStartReference boot0) waitS)) rDevStatus 7 4 = 2 ∧
    (nx (exec (.coldStartReference boot0) waitS)).pow.pmbus = [0x40] := by decide +kernel

/-- `up0` with ADMIN_LOCK and port 0 as given. -/
def lockS (v : Word) (p : PortSt := { up := true }) : State := { regs [(rAdminLock, v)] with ports := [(0, p)] }

theorem wit_LockAndPorts :
    bar0Open State.reset = false ∧ bar0Open (lockS 1) = true ∧ (4 : Word).getLsbD 2 = true ∧ (8 : Word).getLsbD 3 = true ∧
    (0x10 : Word).getLsbD 4 = true ∧ ownerTenant (lockS 1) = some 0 ∧ ownerTenant (lockS 0) = none ∧ ownerTenant (lockS 2) = some 256 ∧
    rbit (lockS 0x22) rAdminLock 5 = true ∧ rbit (lockS 2) rStrap 5 = false ∧ rbit (regs [(rStrap, 0x20)]) rStrap 5 = true ∧
    rfld (lockS 1) rAdminLock 31 16 = 0 ∧ rfld (lockS 0x50001) rAdminLock 31 16 = 5 ∧
    (running (lockS 1) = true ∧ (getPort (lockS 1) 0).up = true ∧ (getPort up0 0).up = false) ∧ tenantRings (lockS 1) 1 = [] ∧
    rbit up0 (rTenState 1) 10 = false ∧ rbit (regs [(rTenState 1, 0x400)]) (rTenState 1) 10 = true ∧
    tenantRings (ringS r0 [(0, op0 [])]) 0 = [(0, 0)] ∧ ringOps (ringS r0 [(0, op0 [])]) 0 0 ≠ [] ∧
    perstOf up0 0 = false ∧ extestOn up0 = false ∧ perstOf { up0 with pins := { up0.pins with perst0 := true } } 0 = true ∧
    extestOn { regs [(rDbgCtl, 1)] with dbg := { ir := 0 } } = true ∧
    (refPin up0 0 = true ∧ refPin { up0 with pins := { up0.pins with ref0 := false } } 0 = false) ∧
    (waitS.stage = .waitReference ∧ refPin waitS 0 = true ∧ perstOf waitS 0 = false) ∧
    refGood up0 0 = false ∧ refGood (regs [(rRefclk, 1)]) 0 = true ∧ refSel (regs [(rRefclk, 1)]) = 0 ∧ refGood (regs [(rRefclk, 3)]) 1 = true ∧
    (let s := regs [(rRefclk, 2)]
     refSel s = 0 ∧ refGood s 0 = false ∧ refGood s 1 = true) ∧
    writeOpen (regs [(rRefclk, 2)]) 0 rRefclk ∧ fld (8 : Word) 3 3 = 1 ∧ ({ up0 with stage := .halted } : State).stage = .halted := by
  unfold writeOpen; decide +kernel

theorem wit_LinksAndTimebase :
    linkOk up0 515 = true ∧ 0 < linkModules 515 ∧ linkOk up0 0 = true ∧ nbit (mget 0 up0.ucieDown 0) 7 = false ∧
    linkDead { up0 with ucieDown := [(0, 1)] } 0 = false ∧ linkDead { up0 with ucieDown := [(0, 255)] } 0 = true ∧
    (let s := regs [(rDevStatus, 0x41)] { up0 with ucieDown := [(0, 255)] }
     rbit s rDevStatus 16 = false ∧ mfind s.partOut 0 = none) ∧
    linkDead { up0 with ucieDown := [(515, 1)] } 515 = true ∧ nbit (mget 0 ({ up0 with ucieDown := [(0, 128)] } : State).ucieDown 0) 7 = true ∧
    (blockOf (rTenQos 3 0)).1 = .part 3 ∧ bar0Open up0 = true ∧ bar0Open State.reset = false ∧ ownerTenant up0 ≠ some 256 ∧
    blockReach (regs [(rEgr 3, 0x1000000)]) (.part 3) ≠ .unreachable ∧ bar0Open (regs [(rEgr 3, 0x1000000)]) = true ∧ blockReach (regs [(rEgr 0, 0)]) (.part 3) = .unreachable ∧
    engReady (engS 4) 0 ∧ linkState (engS 4) 0 = 4 ∧ linkState (engS 0) 0 ≠ 4 ∧ (getEng (engS 4) 0).tsNum = 0 ∧
    (engS 4).tbStarted = false ∧ rbit up0 rTbStatus 1 = false ∧ timeArmed up0 = false ∧ rbit (regs [(rTbStatus, 3)]) rTbStatus 1 = true ∧
    timeArmed { up0 with opts := [(0, { points := [⟨5, 0, []⟩] })] } = true ∧ rbit (regs [(rTbStatus, 3)]) rTbStatus 0 = true ∧
    rbit up0 rTbStatus 0 = false ∧ (getEng (engS 4 { tsLast := some (1, 5) }) 0).tsLast = some (1, 5) := by unfold engReady; decide +kernel

/-! ## Witnesses: firmware, events, epochs, debug -/

theorem wit_FirmwareAndCalibration :
    (8 : Word).getLsbD 3 = true ∧ writeOpen up0 0 rFwCmd ∧ writeOpen (regs [(rFwCmd, 0x10)]) 0 rFwCmd ∧ fwBusy up0 = false ∧
    fwBusy (regs [(rFwCmd, 0x11)]) = true ∧ fld (9 : Word) 2 0 = 1 ∧ fld (10 : Word) 2 0 = 2 ∧ fld (11 : Word) 2 0 = 3 ∧ fld (12 : Word) 2 0 = 4 ∧
    (let a := fwActive up0
     rbit (regs [(rFwStatus, 0)]) rFwStatus (3 - a) = false ∧ rbit (regs [(rFwStatus, 0xC)]) rFwStatus (3 - a) = true) ∧
    writeOpen (regs [(rFwStatus, 0xC)]) 0 rFwCmd ∧ up0.fwSt.trial = false ∧ ({ up0 with fwSt := { trial := true } } : State).fwSt.trial = true ∧
    writeOpen { up0 with fwSt := { trial := true } } 0 rFwCmd ∧ up0.tests = [] ∧ epochState up0 = 0 ∧ epochState (regs [(rEpochStatus, 2)]) = 2 ∧
    (let s := regs [(rFwCmd, 0x11)]
     s.stage = .up ∧ s.restarting = false ∧ rfld s rFwCmd 2 0 = 1) ∧
    (let s : State := { up0 with restarting := true }
     running s = true ∧ s.restarting = true ∧ (fwImage s s.fwSt.slot).ok = true) ∧
    (fwImage { up0 with flashA := { fw := { ok := false } } } 0).ok = false ∧ running State.reset = false ∧
    calNewest up0 = some (0, {}) ∧ calNow up0 0 = {} ∧ up0.calDirty = false ∧
    calNewest { up0 with flashA := { cal0 := .erased, cal1 := .valid {} }, flashB := { cal0 := .erased, cal1 := .valid {} } } = some (1, {}) ∧
    calNewest { up0 with flashA := { cal0 := .torn }, flashB := { cal0 := .torn } } = none := by unfold writeOpen; decide +kernel

/-- The event log is enabled on port 0's ring. -/
def evS (es : List Event) (more : List (Nat × Word) := [(rEvtCtl, 0x601)]) : State := { regs more with evFifo := es, ports := [(0, { up := true })] }

def ev1 : Event := { cause := 0x0012 }

theorem wit_EventsAndRegisterWrites :
    running up0 = true ∧ running State.reset = false ∧ saleyAway up0 ev1 = false ∧ up0.evFifo.length < 1024 ∧
    1024 ≤ (evS (List.replicate 1024 ev1)).evFifo.length ∧ saleyAway { up0 with restarting := true } ev1 = true ∧
    (getHub up0 (eventHub ev1)).events.length < 256 ∧ up0.restarting = false ∧ up0.evResume = none ∧ ringFull up0 = false ∧
    ringFull (evS [] [(rEvtCtl, 0x601), (rEvtTail, 64)]) = true ∧ nextSeq up0 ≠ 0xFFFFFFFF#32 ∧
    nextSeq (regs [(rEvtStatus, 0xFFFFFFFF00000000)]) = 0xFFFFFFFF#32 ∧ up0.evSeries = [] ∧ up0.evDrops = [] ∧ up0.evFifo = [] ∧
    (evS [ev1]).evFifo = ev1 :: [] ∧ ringOn up0 = false ∧ ringOn (evS [ev1]) = true ∧
    (hostPlace (evS [ev1]) (256 * rfld (evS [ev1]) rEvtCtl 1 1) 0).1 = .ok ∧
    (hostPlace { evS [ev1] with hostAns := [(0, .refused)] } 0 0).1 ≠ .ok := by decide +kernel

theorem wit_RegisterWrites :
    writeOpen up0 0 rEvtCtl ∧ rbit up0 rEvtCtl 0 = false ∧
    writeOpen (evS []) 0 rEvtCtl ∧ rbit (evS []) rEvtCtl 0 = true ∧ writeOpen up0 0 rEvtHead ∧
    (let v : Word := 0x80000000
     evtSize up0 < ((v.setWidth 32 : BitVec 32) - BitVec.ofNat 32 (rfld up0 rEvtHead 31 0)).toNat) ∧
    (let v : Word := 0
     ¬(evtSize up0 < ((v.setWidth 32 : BitVec 32) - BitVec.ofNat 32 (rfld up0 rEvtHead 31 0)).toNat ∨
       evtSize up0 < (BitVec.ofNat 32 (rfld up0 rEvtTail 31 0) - (v.setWidth 32 : BitVec 32)).toNat)) ∧
    (getPort (evS []) 0).up = true ∧ rbit (evS []) (rTenState 0) 10 = false ∧ (0x3FFFFF8 : Nat) < 0x4000000 ∧ writeOpen up0 0 rPwrLimit ∧
    (2 : Nat) ≠ 4 ∧ (3 : Nat) % 8 ≠ 0 ∧ regDesc 0x3FF8 = none ∧ writeOpen up0 0 0x3FF8 ∧ (blockOf rPwrLimit).1 = .pkg ∧ rPwrLimit % 8 = 0 ∧
    (regDesc rPwrLimit).isSome = true ∧ ¬ rPwrLimit ∈ [rAdminLock, rPkgNum, rRefclk, rRstCmd, rEpochPrepare] ∧ writeOpen up0 0 rPkgNum ∧
    rbit up0 rPkgNum 16 = false ∧ rbit (regs [(rPkgNum, 0x10000)]) rPkgNum 16 = true ∧ writeOpen (regs [(rPkgNum, 0x10000)]) 0 rPkgNum ∧
    extestOn up0 = false ∧ sensorOk (.gpio 3) = true ∧ ({ up0 with restarting := true } : State).restarting = true := by
  unfold writeOpen; decide +kernel

/-- A register write of a lock holder takes effect; of another administrator it does not (R252, R496). -/
theorem test_register_write :
    reg (nx (exec (.registerWrite 0 rThmCtl 8 1) up0)) rThmCtl = 1 ∧ reg (nx (exec (.registerWrite 256 rThmCtl 8 1) up0)) rThmCtl = reg up0 rThmCtl ∧
    (nx (exec (.registerWrite 256 rThmCtl 8 1) up0)).evFifo.map (·.cause) = [0x0008] := by decide +kernel

theorem wit_Epochs :
    writeOpen up0 0 rEpochPrepare ∧ epochState up0 = 0 ∧ fld (1 : Word) 31 0 = (rfld up0 rEpochCur 31 0 + 1) % 2 ^ 32 ∧
    ¬(fld (2 : Word) 31 0 = (rfld up0 rEpochCur 31 0 + 1) % 2 ^ 32) ∧ participantBits up0 ≠ 0 ∧
    (let s := regs [(rDevStatus, 0x41)]
     participantBits s = 0 ∧ writeOpen s 0 rEpochPrepare) ∧
    unitBit 64 = some 0 ∧ unitBit 144 = some 16 ∧ unitBit 80 = none ∧
    (let s := regs [(rEpochStatus, 1), (rEpochAck, 0x100000000)]
     epochState s = 1 ∧ rbit s rEpochAck 32 = true ∧ rbit s rEpochAck 0 = false ∧ hubChecks s 0 = true ∧ silent s = [64]) ∧
    (let s := regs [(rEpochStatus, 1), (rEpochAck, 0x100000000), (rOpTable 0, 0)]
     hubChecks s 0 = false) ∧
    silent (regs [(rEpochStatus, 1), (rEpochAck, 0x300000000)]) = [64, 65] ∧ writeOpen up0 0 rEpochCommit ∧
    (let s := regs [(rEpochStatus, 2)]
     epochState s = 2 ∧ writeOpen s 0 rEpochCommit) ∧
    epochState (regs [(rEpochStatus, 3)]) = 3 ∧ epochState (regs [(rEpochStatus, 4)]) = 4 ∧ oldPackets (regs [(rEpochStatus, 4)]) = 0 := by
  unfold writeOpen; decide +kernel

/-- A command to the first thread of the package. -/
def dc (arg : BitVec 16) (data : Word := 0) : DbgCmd := ⟨0, 0, 0, 0, 0, 0, arg, data⟩

/-- Debug enabled, the first thread as given. -/
def dbgS (x : ThreadSt) : State := { upT x with bar0 := (regs [(rDbgCtl, 1)]).bar0 }

theorem wit_DebugPort :
    tapOn State.reset = false ∧ tapOn up0 = true ∧ dbgOn up0 = false ∧ dbgOn (dbgS run0) = true ∧ dbgOk (dc 0) = true ∧
    segHeld up0 up0.dbg.addr.toNat = false ∧ segHeld { heldS run0 with dbg := { addr := 8 } } 8 = true ∧ saleyReaches (dbgS run0) = true ∧
    saleyReaches (regs [(rEgr 0, 0), (rDbgCtl, 1)]) = false ∧ (dc 0).pkg = pkgNum (dbgS run0) ∧ (40 : Nat) < 64 ∧ dbgOk { dc 0 with cl := 40 } = true ∧
    (homeOf (dbgS run0) 0x10000401000 = .mem 0 0x10000401000) ∧ mfind (dbgS run0).clusterOut (clOf (dbgKey (dc 0))) = none ∧
    (getCore (regs [(rDbgCtl, 1)]) 0).launch = none ∧ (getCore (dbgS run0) 0).launch.isSome = true ∧ isHalted run0 = false ∧
    isHalted { run0 with halted := true } = true ∧ dbgRegOk run0 0xFF = false ∧ fld (0x2D : BitVec 16) 7 0 = 0x20 + 13 ∧
    fld (0x40 : BitVec 16) 7 0 = 0x40 ∧ fld (0x41 : BitVec 16) 7 0 = 0x41 ∧ fld (0x8F : BitVec 16) 7 0 = 0x80 + 15 ∧ 15 < run0.quota ∧
    fld (0xC0 : BitVec 16) 7 4 ≤ 12 ∧ fld (0x1C0 : BitVec 16) 9 8 ≠ 0 ∧ 12 < fld (0xD0 : BitVec 16) 7 4 ∧ writeOpen up0 0 rDbgCtl ∧
    rbit up0 rStrap 1 = false ∧ writeOpen (dbgS run0) 0 rDbgCtl := by unfold writeOpen; decide +kernel

/-! ## Witnesses of further clauses -/

/-- A ring with one fetched descriptor, NOP. -/
def fetS : State := ringS { r0 with fetched := [{ n := 0, words := [0x3F] }], sqTail := 1 }

def cand0 : Cand1 := ⟨0, { r0 with fetched := [{ n := 0, words := [0x3F] }], sqTail := 1 }, { n := 0, words := [0x3F] }⟩

theorem wit_DispatchStarts :
    dispatchOn fetS 0 = true ∧ candidates fetS 0 = [cand0] ∧ energyGate (noteSince fetS 0 [cand0]) 0 [cand0] cand0 = true ∧
    0 < fld (qosOf fetS 0 (ringTenant cand0.ring)) 7 0 ∧ cand0.desc.replay = false ∧
    refusal (noteSince fetS 0 [cand0]) 0 (getRing fetS 0 cand0.ctx) cand0.desc = none := by decide +kernel

theorem wit_MatrixRetire :
    (getCore (queued (.renew 3 1)) 0).mq = (0, .renew 3 1) :: [] ∧ alive (getThread (getCore (queued (.renew 3 1)) 0) 0) = true ∧
    isRun (.renew 3 1) = false ∧ isRun (.run 1 {} 0 true) = false ∧ isRun (.run 1 {} 2 true) = true ∧
    (getCore (queued (.run 1 {} 0 true)) 0).mq = (0, .run 1 {} 0 true) :: [] ∧ (getCore (queued (.run 1 {} 2 true)) 0).mq = (0, .run 1 {} 2 true) :: [] ∧
    pauseOf (queued (.run 1 {} 2 true)) 0 ≠ 16 ∧
    (getCore (queued (.stream 0 1 2 3)) 0).mq = (0, .stream 0 1 2 3) :: [] ∧ (getCore (queued (.zero true 3)) 0).mq = (0, .zero true 3) :: [] ∧
    (getCore (queued (.swap 3)) 0).mq = (0, .swap 3) :: [] := by decide +kernel

/-- A step's descriptor without protected ranges, and step 9. -/
def beginS (steps : AMap StepSt := []) : State :=
  let s := opS [0x9000000000010, 0, 0, 0]
  { s with hubs := [(0, { getHub s 0 with steps := steps })] }

theorem wit_StepBegin :
    chosen (beginS) 0 0 0x10 (op0 [0x9000000000010, 0, 0, 0]) ∧
    ((getHub beginS 0).steps.any (fun e => e.2.tenant == 0 && e.2.stepId == dStep (op0 [0x9000000000010]).desc)) = false ∧
    (readRanges beginS (opWho beginS 0 0 (op0 [0x9000000000010, 0, 0, 0])) 0 0).1 = .ok ∧
    (readRanges beginS (opWho beginS 0 0 (op0 [0x9000000000010, 0, 8, 0])) 8 0).1 = .badDesc ∧
    (allRuns beginS (opWho beginS 0 0 (op0 [0x9000000000010, 0, 0, 0])) []).1 = .ok ∧
    (allRuns beginS (opWho beginS 0 0 (op0 [0x9000000000010, 0, 0, 0])) [⟨0, 64⟩]).1 ≠ .ok ∧
    ¬(1024 ≤ (getHub beginS 0).steps.length ∨ ∃ q, q < 16 ∧ 16384 < protUsed beginS q + 0) ∧
    1024 ≤ (getHub (beginS ((List.range 1024).map (fun i => (i, { stepId := 7 })))) 0).steps.length := by
  refine ⟨by unfold chosen; decide +kernel, by decide +kernel, by decide +kernel, by decide +kernel, by decide +kernel, by decide +kernel, ?_, by decide +kernel⟩
  rintro (h | ⟨q, h, h2⟩)
  · exact absurd h (by decide +kernel)
  · have : protUsed beginS q = 0 := rfl
    omega

/-- A member of a group of two packages, whose packets come from outside. -/
def coll3 : Coll := { key := { collKey with ident := 1 }, opc := 0, count := 1, chunk := 4, members := [0, 65536], ext := [1, 2], joined := [0, 1], timeout := 100 }

theorem wit_CollectiveData :
    findColl (collS coll3) 0 coll3.key 0 = some (0, coll3) ∧ 2 ≤ topLevel coll3 ∧ 0 < chunks coll3 ∧ 1 < coll3.members.length ∧
    packetPhase coll3 2 < phaseLimit (collS coll3) 0 coll3 ∧ reduces coll3.opc = true ∧
    ([7] : List Nat).length = ((chunkSpan coll3 0).2 - (chunkSpan coll3 0).1) / elemBytes coll3.dtype ∧
    ([] : List Nat).length ≠ ((chunkSpan coll3 0).2 - (chunkSpan coll3 0).1) / elemBytes coll3.dtype ∧
    (join1.key, join1.dest, join1.sender) ∉ (getHub (collS coll2) 0).lateJoins ∧
    (let s : State := { up0 with hubs := [(0, { lateJoins := [(join1.key, join1.dest, join1.sender)] })] }
     running s = true ∧ partUp s 0 = true ∧ findColl s 0 join1.key join1.dest = none ∧
       (join1.key, join1.dest, join1.sender) ∈ (getHub s 0).lateJoins) := by decide +kernel

/-- Hub 0's armed group 0, GID 1, which steers optical die 0, its preset of boundary 0 being 3. -/
def steerS (c : Coll) : State :=
  let s := collS c
  { s with hubs := [(0, { getHub s 0 with grp := [(0, { words := [0xC0000, 0, 0, 0, 0x83, 0x10000, 1, 0] })] })] }

/-- An instance at boundary 0 of its group, its preset now 2. -/
def coll4 : Coll := { coll3 with grp := some 0, preset := some 2 }

theorem wit_PhaseBoundary :
    getColl (steerS coll4) 0 0 = some coll4 ∧ coll4.grp = some 0 ∧ coll4.onTree = false ∧ coll4.resume = none ∧ coll4.barrier = false ∧
    nextSteered (steerS coll4) 0 coll4 = some (0, 3) ∧ (steeringMember (steerS coll4) coll4.key.ident).isSome = true ∧
    (keyColls (steerS coll4) coll4.key).all (fun x => phaseDone (steerS coll4) x.1 x.2.2 0) = true ∧
    (let c := { coll4 with joined := [] }
     (keyColls (steerS c) c.key).any (fun x => !(phaseDone (steerS c) x.1 x.2.2 0)) = true) := by decide +kernel

theorem wit_CopyUnitKinds :
    (let j : CopyJob := { units := 1, len := 64, dlen := 64, src := 0x1000 }
     mfind (jobS j).copies 0 = some j ∧ (unitBytes (jobS j) j 0 .good).1 ≠ .ok ∧ (mfind j.resolved 0).isSome = false ∧
       orderedWaits (jobS j) 0 j 0 = false ∧ unitHeld (jobS j) j 0 = false) ∧
    (let j : CopyJob := { units := 1, len := 64, dlen := 64, skind := 3, src := 0x10000401000 }
     let s : State := { jobS j with hubs := th.hubs }
     (unitBytes s j 0 .good).1 = .ok ∧ orderedWaits s 0 j 0 = false ∧ unitHeld s j 0 = false) ∧ ({ units := 1, xfmt := 5 } : CopyJob).xfmt = 5 := by decide +kernel

theorem wit_FieldTestEnds :
    (∀ c, c ∈ [idle0, { idle0 with cause := 10 }] → c.die / 4 = 0 ∧ c.cl < 40 ∧ c.cause < 11 ∧ ∀ t, c.tenant = some t → t < 512) ∧
    (testS none none).tests = [⟨0, 0, 0, none, none⟩] ∧ clusterLaunches (testS (some 5) none) 0 = [] ∧
    (({ image := true, failed := [127], cache := true } : TestResult).failed.all (fun x => x < 128) = true) ∧
    (({ image := false, failed := [], cache := true } : TestResult).image = false) := by
  refine ⟨?_, by decide +kernel, by decide +kernel, by decide, by decide⟩
  intro c hc
  simp only [List.mem_cons, List.not_mem_nil, or_false] at hc
  rcases hc with rfl | rfl <;> simp [idle0]

theorem wit_MeluxLinkCases :
    (getEng (engS 3 { gotMap := true }) 0).gotMap = true ∧ (getEng (engS 3) 0).gotMap = false ∧ (getEng (engS 3 { gotId := true }) 0).gotId = true ∧
    (1 + 256 - (getEng (engS 4) 0).rx.gen) % 256 = 1 ∧
    calYields ({ cal := some ⟨0, 0, some 16, false, .tuning⟩ } : DirSt) ⟨7, 16, 0, 0, 0, 0⟩ = true ∧
    calYields ({} : DirSt) ⟨4, 0, 16, 0, 0, 0⟩ = false ∧ markerOf 0 = none ∧ markerOf (markerBits 5 0 77) = some (5, 0, 77) ∧
    role (engS 4) 0 false 5 = 5 := by decide +kernel

theorem wit_SweepState :
    calPeriod (engS 4) 0 = 10000000000 ∧ (getEng (engS 4 { tx := { swept := some 7 } }) 0).tx.swept = some 7 ∧
    (getEng (engS 4 { rx := { cal := some ⟨3, 3, some 16, false, .tuning⟩ } }) 0).rx.cal = some ⟨3, 3, some 16, false, .tuning⟩ ∧
    (let c : CalSt := ⟨0, 0, some 17, false, .outAt 5⟩
     let s1 := atSwap (calS c) 0 5
     role s1 0 true 17 = 0x11 ∧ role s1 0 true c.w = c.role) ∧
    (let c : CalSt := ⟨0, 5, some 16, false, .outAt 5⟩
     role (atSwap (calS c) 0 5) 0 true c.w ≠ c.role) := by decide +kernel

/-- A record of what the state holds now, in slot 0. -/
def calKept (d : Bool) (s : State := up0) : State :=
  { s with calDirty := d, flashA := { s.flashA with cal0 := .valid (calNow s 0), cal1 := .erased }, flashB := { s.flashB with cal0 := .valid (calNow s 0), cal1 := .erased } }

theorem wit_CalRecords :
    calNewest (calKept false) = some (0, calNow (calKept false) 0) ∧ (calKept false).calDirty = false ∧
    rbit (calKept true (regs [(rDevStatus, 0xFFFF0040)])) rDevStatus 0 = false ∧
    calNewest (calKept true (regs [(rDevStatus, 0xFFFF0040)])) = some (0, calNow (calKept true (regs [(rDevStatus, 0xFFFF0040)])) 0) ∧
    (calKept true).calDirty = true ∧ rbit (calKept true) rDevStatus 0 = true ∧ (calKept true).stage = .up ∧
    (let s : State := { calKept false with coreGone := [(5, ())] }
     ∃ r, calNewest s = some (0, r) ∧ calNow s r.seq ≠ r) ∧
    rbit { up0 with flashA := { cal0 := .torn }, flashB := { cal0 := .torn } } rDevStatus 0 = true := by
  refine ⟨by decide +kernel, rfl, by decide +kernel, by decide +kernel, rfl, by decide +kernel, rfl, ⟨calNow (calKept false) 0, by decide +kernel⟩,
    by decide +kernel⟩

theorem wit_ResetAndPower :
    (let s := regs ([(rDevStatus, 0xFFFE0041), (rEgr 0, 0x1000000)] ++ (partDies 0).map (fun i => (rDieCap i 7, 0x100000000)))
     partLinked s 0 = true ∧ s.stage = .up ∧ s.heatWait = false ∧ s.restarting = false ∧ mfind s.partOut 0 = none ∧ rbit s rDevStatus 16 = false) ∧
    ({ up0 with calDirty := true } : State).calDirty = true ∧ ({ up0 with stage := .halted } : State).stage = .halted ∧
    writeOpen up0 0 rPwrCtl ∧ (0x800 : Word).getLsbD 11 = true ∧ (0 : Word).getLsbD 11 = false ∧
    up0.evFifo.length ≤ 1008 ∧ (up0.stage = .up ∧ (getHub (powS { est := 1 }) 0).pow.est = 1) := by
  unfold writeOpen; decide +kernel

theorem wit_LongWrites :
    (toBytes 8 5).length = 8 ∧ (toBytes 16 5).length % 8 = 0 ∧ toBytes 16 5 ≠ [] ∧ rPwrLimit + 8 < 0x4000000 ∧ (toBytes 3 5).length % 8 ≠ 0 ∧
    (toBytes 3 5).length ≠ 4 ∧ (toBytes 4 5).length % 8 ≠ 0 ∧ 2 % 4 ≠ 0 ∧
    (∃ d, regDesc rPwrLimit = some d ∧ d.rw &&& (d.w1c ||| d.w1s) = 0) := by
  refine ⟨rfl, by decide, by decide, by decide, by decide, by decide, by decide, by decide, ?_⟩
  cases h : regDesc rPwrLimit with
  | none => exact absurd h (by decide)
  | some d =>
    refine ⟨d, rfl, ?_⟩
    have : (match regDesc rPwrLimit with | some d => d.rw &&& (d.w1c ||| d.w1s) | none => 0) = 0 := by decide +kernel
    rw [h] at this
    exact this

/-! ## Ill-formed operands -/

/-- Every check of `WellFormed` refuses a term that breaks it, and takes the last value in range. -/
theorem test_ill_formed :
    Instr.wf (.nop ⟨64, 0, 0, 0⟩ 0) = false ∧ Instr.wf (.nop ⟨0, 40, 0, 0⟩ 0) = false ∧ Instr.wf (.nop ⟨0, 0, 120, 0⟩ 0) = false ∧
    Instr.wf (.nop ⟨0, 0, 0, 16⟩ 0) = false ∧ Instr.wf (.nop ⟨63, 39, 119, 15⟩ 0) = true ∧ Instr.wf (.coreFault ⟨0, 0, 120⟩) = false ∧
    Instr.wf (.opAutoMove ⟨0, 40⟩) = false ∧ Instr.wf (.hubLineRead ⟨16, 0, 0, 0, false, 0⟩ .good) = false ∧
    Instr.wf (.hubLineRead ⟨0, 0, 65536, 0, false, 0⟩ .good) = false ∧ Instr.wf (.hubLineRead ⟨0, 0, 0, 16, false, 0⟩ .good) = false ∧
    Instr.wf (.sqDb (.bar 512 0 0 8) 0) = false ∧ Instr.wf (.sqDb (.window 0 32768 0 8 0 0) 0) = false ∧ Instr.wf (.sqDb (.bar 511 511 0 8) 0) = true ∧
    Instr.wf (.dbgHalt { dc 0 with cl := 64 }) = false ∧ Instr.wf (.seOpen (.batch 16 0 0)) = false ∧
    Instr.wf (.brambleToken ⟨0, 4, true, 0⟩ none) = false ∧ Instr.wf (.dispatch 16) = false ∧ Instr.wf (.pcieLinkDown 2) = false ∧
    Instr.wf (.flr 512) = false ∧ Instr.wf (.descriptorFetch 0 32768 0) = false ∧ Instr.wf (.linkDown 64) = false ∧
    Instr.wf (.calReq 0 20) = false ∧ Instr.wf (.currantTreeTimeout 256 0) = false ∧ Instr.wf (.gpRto 0 4096) = false := by decide

/-- A meaning refuses operands that name nothing, by name, and every other command of the same kind goes on. -/
theorem test_refused :
    isIll (exec (.dispatch 16) up0) = true ∧ isIll (exec (.linkDown 64) up0) = true ∧ isIll (exec (.flr 512) up0) = true ∧
    isIll (exec (.laserFailure 0 2 0) up0) = true ∧ isIll (exec (.epochAck 80) up0) = true ∧ isNext (exec (.dispatch 15) up0) = true ∧
    isNext (exec (.flr 511) up0) = true := by decide +kernel

end Sys2Proof.Tests
end

section
/-! PROOF. The matrix instructions against their thread's claim (R51). -/
namespace Sys2Proof.Machine

/-- What an instruction does that nothing keeps from taking effect. -/
theorem issue_of_go {r : CoreRow} {t : ThreadRef} {w : Word} {s : State} (body : State → ThreadSt → State) (go : fateOf r t w s = .go) :
    issue r t w s body = .next (body (fetched s t) (threadOf s t)) := by
  rw [issue, go]

/-! ## The claim's check -/

/-- What a claim admits: it is not empty, and no named array lies outside it. -/
theorem claimOk_iff (view named : BitVec 4) : claimOk view named = true ↔ view ≠ 0 ∧ named &&& ~~~ view = 0 := by
  have inside : named &&& view = named ↔ named &&& ~~~ view = 0 := by
    constructor <;> intro h
    · calc named &&& ~~~ view = named &&& (view &&& ~~~ view) := by rw [← BitVec.and_assoc, h]
        _ = 0 := by simp
    · calc named &&& view = (named &&& view) ||| (named &&& ~~~ view) := by simp [h]
        _ = named := by rw [← BitVec.and_or_distrib_left, BitVec.or_not_self, BitVec.and_allOnes]
  simp [claimOk, inside]

/-- A mask written in IMM32[3:0]: the whole claim where its four bits are 0, else what they name. -/
theorem namedMask_imm (view : BitVec 4) (w : Word) :
    namedMask view (imm w 3 0) = if BitVec.ofNat 4 (fld w 3 0) = 0 then view else BitVec.ofNat 4 (fld w 3 0) := by
  have zero : BitVec.ofNat 4 (fld w 3 0) = 0 ↔ fld w 3 0 = 0 := by
    rw [← BitVec.toNat_inj, BitVec.toNat_ofNat, Nat.mod_eq_of_lt (fld_lt w 3 0), BitVec.ofNat_eq_ofNat, BitVec.toNat_ofNat, Nat.zero_mod]
  by_cases h : fld w 3 0 = 0
  · rw [namedMask, imm, if_pos h, if_pos (zero.2 h)]
  · rw [namedMask, imm, if_neg h, if_neg (mt zero.1 h)]

theorem claimOk_empty (named : BitVec 4) : claimOk 0 named = false := rfl

/-- The whole claim, named by a mask of 0. -/
theorem claimOk_whole {view : BitVec 4} (held : view ≠ 0) : claimOk view view = true :=
  (claimOk_iff view view).2 ⟨held, BitVec.and_not_self view⟩

/-- A mask with an array outside the claim. -/
theorem claimOk_mask_outside {view : BitVec 4} {w : Word} (out : BitVec.ofNat 4 (fld w 3 0) &&& ~~~ view ≠ 0) :
    claimOk view (namedMask view (imm w 3 0)) = false := by
  have named : BitVec.ofNat 4 (fld w 3 0) ≠ 0 := fun h => out (by rw [h]; exact BitVec.zero_and)
  rw [namedMask_imm, if_neg named]
  exact Bool.eq_false_iff.2 fun ok => out ((claimOk_iff _ _).1 ok).2

/-- The number of an array outside the claim. -/
theorem claimOk_array_outside {view : BitVec 4} {a : Nat} (lt : a < 4) (out : view.getLsbD a = false) :
    claimOk view (namedMask view (2 ^ a)) = false := by
  rw [namedMask, if_neg (Nat.ne_of_gt (Nat.two_pow_pos a))]
  refine Bool.eq_false_iff.2 fun ok => ?_
  have bit : (BitVec.ofNat 4 (2 ^ a) &&& ~~~ view).getLsbD a = true := by
    rw [BitVec.getLsbD_and, BitVec.getLsbD_not, out, BitVec.getLsbD_ofNat, Nat.testBit_two_pow_self]
    simp [lt]
  rw [((claimOk_iff _ _).1 ok).2] at bit
  simp at bit

/-! ## Instructions that name arrays -/

section
variable (t : ThreadRef) (w : Word) (s : State)

theorem exec_mrel : exec (.mrel t w) s =
    issue .mrel t w s (fun s x => withClaim s t (imm w 3 0) (fun m => enqueue s t x (.rel m))) := rfl

theorem exec_mcfg : exec (.mcfg t w) s =
    issue .mcfg t w s (fun s x => withClaim s t 0 (fun _ =>
      match cfgTrap s t.die (cfgOf w (rd x (wA w))) with
      | some q => takeTrap s t q []
      | none => enqueue s t { x with mcfg := cfgOf w (rd x (wA w)) } .cfg)) := rfl

theorem exec_mstream : exec (.mstream t w) s =
    issue .mstream t w s (fun s x => withClaim s t (2 ^ imm w 1 0) (fun _ =>
      enqueue s t x (.stream (wMinor w) (imm w 1 0) ((rd x (wA w)).setWidth 16) ((rd x (wB w)).setWidth 16)))) := rfl

theorem exec_mrun : exec (.mrun t w) s =
    issue .mrun t w s (fun s x => withClaim s t 0 (fun m =>
      enqueue s t x (.run m x.mcfg (fld (rd x (wA w)) 31 0) (imm w 0 0 == 1)))) := rfl

theorem exec_mswap : exec (.mswap t w) s =
    issue .mswap t w s (fun s x => withClaim s t (imm w 3 0) (fun m => enqueue s t x (.swap m))) := rfl

theorem exec_mzero : exec (.mzero t w) s =
    issue .mzero t w s (fun s x => withClaim s t (imm w 3 0) (fun m => enqueue s t x (.zero (wMinor w == 1) m))) := rfl

theorem exec_mstat : exec (.mstat t w) s =
    issue .mstat t w s (fun s x => withClaim s t 0 (fun m =>
      enqueue s t x (.stat m (wMinor w == 0) (BitVec.ofNat 5 (wDst w))))) := rfl

end

section
variable {i : Instr} {r : CoreRow} {t : ThreadRef} {w : Word} {s : State}

/-- The trap of an instruction whose arrays its claim does not admit. -/
theorem exec_eq_trap_of_claimOk_false {m : Nat} {k : State → ThreadSt → BitVec 4 → State}
    (row : exec i s = issue r t w s (fun s x => withClaim s t m (k s x)))
    (out : claimOk (claimView (getCore (fetched s t) (tKey t)) t.th) (namedMask (claimView (getCore (fetched s t) (tKey t)) t.th) m) = false)
    (go : fateOf r t w s = .go) : exec i s = .next (takeTrap (fetched s t) t .matrixClaim []) := by
  rw [row, issue_of_go _ go, withClaim, if_neg (by simp [out])]

/-- The queue entry of an instruction whose mask of 0 names its whole claim, where the queue has room (R52). -/
theorem exec_eq_entry_of_mask_zero {e : BitVec 4 → MatOp}
    (row : exec i s = issue r t w s (fun s x => withClaim s t (imm w 3 0) (fun m => enqueue s t x (e m))))
    (zero : BitVec.ofNat 4 (fld w 3 0) = 0) (held : claimView (getCore (fetched s t) (tKey t)) t.th ≠ 0)
    (room : (getCore (fetched s t) (tKey t)).mq.length < 16) (go : fateOf r t w s = .go) :
    exec i s = .next (fin (setCore (fetched s t) (tKey t)
      { getCore (fetched s t) (tKey t) with
        mq := (getCore (fetched s t) (tKey t)).mq ++ [(t.th, e (claimView (getCore (fetched s t) (tKey t)) t.th))] }) t (threadOf s t)) := by
  rw [row, issue_of_go _ go, withClaim, namedMask_imm, if_pos zero, if_pos (claimOk_whole held), enqueue, if_neg (Nat.not_le.2 room)]

end

/-- Settles O22: an empty claim admits nothing; else a mask or an array's number is refused for what lies outside the claim, and a mask
of 0 names the claim itself. -/
theorem matrixClaimTraps : Obligations.MatrixClaimTraps := by
  intro t w s q c v m trap entry
  refine ⟨fun none => ?_, fun out => ?_, fun out => ?_, fun zero held room => ?_⟩
  · have refused (n : Nat) : claimOk v (namedMask v n) = false := by rw [none, claimOk_empty]
    exact ⟨exec_eq_trap_of_claimOk_false (exec_mrel t w s) (refused _), exec_eq_trap_of_claimOk_false (exec_mcfg t w s) (refused _),
      exec_eq_trap_of_claimOk_false (exec_mstream t w s) (refused _), exec_eq_trap_of_claimOk_false (exec_mrun t w s) (refused _),
      exec_eq_trap_of_claimOk_false (exec_mswap t w s) (refused _), exec_eq_trap_of_claimOk_false (exec_mzero t w s) (refused _),
      exec_eq_trap_of_claimOk_false (exec_mstat t w s) (refused _)⟩
  · have refused : claimOk v (namedMask v (imm w 3 0)) = false := claimOk_mask_outside out
    exact ⟨exec_eq_trap_of_claimOk_false (exec_mrel t w s) refused, exec_eq_trap_of_claimOk_false (exec_mswap t w s) refused,
      exec_eq_trap_of_claimOk_false (exec_mzero t w s) refused⟩
  · exact exec_eq_trap_of_claimOk_false (exec_mstream t w s) (claimOk_array_outside (fld_lt w 1 0) out)
  · exact ⟨exec_eq_entry_of_mask_zero (exec_mrel t w s) zero held room, exec_eq_entry_of_mask_zero (exec_mswap t w s) zero held room,
      exec_eq_entry_of_mask_zero (exec_mzero t w s) zero held room⟩

end Sys2Proof.Machine
end

section
/-! PROOF. INT32 accumulation (R65): exact values that are integers, the clamp, a row's lanes, and the array's flag. -/
namespace Sys2Proof.Machine

/-! ## Exact values that are integers -/

/-- An exact value of exponent 0 is the integer `v`; a zero may stand with either sign. -/
def IsInt (x : FVal) (v : Int) : Prop := ∃ s m, x = .fin s m 0 ∧ asInt s m 0 0 = v

theorem asInt_zero (s : Bool) (m : Nat) : asInt s m 0 0 = if s then -(m : Int) else m := by simp [asInt]

theorem asInt_natAbs (v : Int) : asInt (decide (v < 0)) v.natAbs 0 0 = v := by
  rw [asInt_zero]
  by_cases h : v < 0 <;> simp only [h, decide_true, decide_false, if_true, Bool.false_eq_true, if_false] <;> omega

theorem isInt_zero : IsInt (.fin false 0 0) 0 := ⟨false, 0, rfl, rfl⟩

theorem isInt_decInt (w x : Nat) : IsInt (decInt w x) (sgn w x) := ⟨_, _, rfl, asInt_natAbs _⟩

theorem IsInt.mul {x y : FVal} {a b : Int} (hx : IsInt x a) (hy : IsInt y b) : IsInt (fvMul x y) (a * b) := by
  obtain ⟨s, m, rfl, rfl⟩ := hx
  obtain ⟨t, n, rfl, rfl⟩ := hy
  refine ⟨s != t, m * n, rfl, ?_⟩
  rw [asInt_zero, asInt_zero, asInt_zero, Int.natCast_mul]
  cases s <;> cases t
  · rfl
  · exact (Int.mul_neg _ _).symm
  · exact (Int.neg_mul _ _).symm
  · exact (Int.neg_mul_neg _ _).symm

theorem IsInt.add {x y : FVal} {a b : Int} (hx : IsInt x a) (hy : IsInt y b) : IsInt (fvAdd x y) (a + b) := by
  obtain ⟨s, m, rfl, rfl⟩ := hx
  obtain ⟨t, n, rfl, rfl⟩ := hy
  exact ⟨_, _, rfl, asInt_natAbs _⟩

/-- A sum of integers, started from one. -/
theorem IsInt.foldl_add {α : Type} {f : α → FVal} {v : α → Int} (l : List α) (term : ∀ q, IsInt (f q) (v q)) {x : FVal} {a : Int}
    (hx : IsInt x a) : IsInt ((l.map f).foldl fvAdd x) (a + (l.map v).sum) := by
  induction l generalizing x a with
  | nil => simpa using hx
  | cons q l ih =>
    have := ih (hx.add (term q))
    rwa [Int.add_assoc] at this

/-- An integer is not rounded. -/
theorem rneInt_exponent_zero (s : Bool) (m : Nat) : rneInt s m 0 = asInt s m 0 0 := by simp [rneInt, rneTo, asInt]

/-! ## The clamp -/

theorem clampS_fst (w : Nat) (v : Int) : (clampS w v).1 = max (-(2 ^ (w - 1))) (min (2 ^ (w - 1) - 1) v) := by
  have pos : (0 : Int) < 2 ^ (w - 1) := Int.pow_pos (by decide)
  rw [clampS]
  split
  · omega
  · split <;> dsimp only <;> omega

theorem clampS_sat (w : Nat) (v : Int) : (clampS w v).2.sat = decide (v < -(2 ^ (w - 1)) ∨ v > 2 ^ (w - 1) - 1) := by
  rw [clampS]
  split
  case isTrue high => simp [high]
  case isFalse high =>
    split
    case isTrue low => simp [low]
    case isFalse low => simp [high, low]

/-- An INT32 accumulator with an integer added (R65). -/
theorem accInt_of_isInt (acc : Word32) {x : FVal} {v : Int} (hx : IsInt x v) :
    (accInt acc x).1.toInt = max (-(2 ^ 31)) (min (2 ^ 31 - 1) (acc.toInt + v)) ∧
    (accInt acc x).2.sat = decide (acc.toInt + v < -(2 ^ 31) ∨ acc.toInt + v > 2 ^ 31 - 1) := by
  obtain ⟨s, m, rfl, rfl⟩ := hx
  simp only [accInt, rneInt_exponent_zero]
  refine ⟨?_, clampS_sat 32 _⟩
  rw [clampS_fst, BitVec.toInt_ofInt_eq_self (by decide) (by omega) (by omega)]

/-! ## A cell -/

/-- An element of an integer format: INT8 or INT4 (R54, R55). -/
theorem isInt_decElem {fmt : Nat} (int : fmt = 2 ∨ fmt = 4) (x : Nat) : IsInt (decElem fmt x) (sgn (elemWidth fmt) x) := by
  obtain rfl | rfl := int
  · exact isInt_decInt 8 x
  · exact isInt_decInt 4 x

section
variable {g : MatCfg} (c : CoreSt) (lead arr : ArraySt)

theorem isInt_aVal (scale : g.ascale = false) (fmt : g.afmt = 2 ∨ g.afmt = 4) (pos i : Nat) :
    IsInt (aVal c g arr pos i) (sgn (elemWidth g.afmt) (groupElem c (streamAddr arr.sA pos) (elemWidth g.afmt) i)) := by
  simpa [aVal, scale, sliceElem] using isInt_decElem fmt _

theorem isInt_bVal (scale : g.bscale = false) (fmt : g.bfmt = 2 ∨ g.bfmt = 4) (pos j : Nat) :
    IsInt (bVal c g lead pos j) (sgn (elemWidth g.bfmt) (groupElem c (streamAddr lead.sB pos) (elemWidth g.bfmt) j)) := by
  have plain : ¬ (g.bfmt = 6 ∨ g.bfmt = 7) := by omega
  simpa [bVal, plain, scale, sliceElem] using isInt_decElem fmt _

end

/-! ## A row's lanes -/

/-- A bit of the number that a list of lanes spells. -/
theorem testBit_foldr_lanes (l : List Word32) (j : Nat) {i : Nat} (lt : i < 32) :
    (l.foldr (fun (x : Word32) a => x.toNat + 2 ^ 32 * a) 0).testBit (32 * j + i) = (lget 0 l j).getLsbD i := by
  induction l generalizing j with
  | nil => simp [lget]
  | cons x l ih =>
    rw [List.foldr_cons, Nat.add_comm, Nat.testBit_two_pow_mul_add _ x.isLt]
    cases j with
    | zero => simp [lt, lget, BitVec.testBit_toNat]
    | succ j =>
      rw [if_neg (by omega), show 32 * (j + 1) + i - 32 = 32 * j + i by omega, ih]
      rfl

/-- A lane of a register made of lanes. -/
theorem lane_ofLanes (l : List Word32) {j : Nat} (lt : j < 32) : lane (ofLanes l) j = lget 0 l j := by
  apply BitVec.eq_of_getLsbD_eq
  intro i hi
  rw [lane, BitVec.getLsbD_ofNat, testBit_fld, ofLanes, BitVec.getLsbD_ofNat, testBit_foldr_lanes _ _ hi]
  simp only [hi, show i < 32 * j + 31 + 1 - 32 * j by omega, show 32 * j + i < 1024 by omega, decide_true, Bool.true_and]

/-- SAT stands once any of the conditions gathered has it. -/
theorem foldl_condOr_sat {α : Type} (l : List (α × Cond)) (k : Cond) :
    (l.foldl (fun k e => condOr k e.2) k).sat = (k.sat || l.any (fun e => e.2.sat)) := by
  induction l generalizing k with
  | nil => simp
  | cons e l ih => rw [List.foldl_cons, ih, List.any_cons, ← Bool.or_assoc]; rfl

section
variable (c : CoreSt) (g : MatCfg) (lead arr : ArraySt) (offs : List Nat) (first : Bool) (i : Nat) (row : VReg) {j : Nat}

/-- A column of the mask, after its row's step. -/
theorem lane_rowStep (lt : j < 32) (on : g.cols.getLsbD j = true) :
    lane (rowStep c g lead arr offs first i row).1 j = (cellStep c g lead arr offs i j (if first then 0 else lane row j)).1 := by
  rw [rowStep, lane_ofLanes _ lt]
  simp [lget, lt, on]

/-- A clamp in a column of the mask is a condition of its row. -/
theorem rowStep_sat (lt : j < 32) (on : g.cols.getLsbD j = true)
    (sat : (cellStep c g lead arr offs i j (if first then 0 else lane row j)).2.sat = true) :
    (rowStep c g lead arr offs first i row).2.sat = true := by
  rw [rowStep, foldl_condOr_sat, List.any_map, Bool.or_eq_true, List.any_eq_true]
  exact .inr ⟨j, List.mem_range.2 lt, by simpa [on] using sat⟩

end

/-- Settles O25: the products of integer elements are exact, so a cell's step clamps their sum once; a row, its bank and the array's flag
carry what the cell answers. -/
theorem int32Accumulation : Obligations.Int32Accumulation := by
  intro c g lead arr i j acc int noA noB fmtA fmtB av bv clamped
  refine ⟨fun offs => ?_, fun offs first row lt on => ?_, fun pair init a fuel q left b k pos => ?_, fun init a n => rfl⟩
  · have product (q : Nat) : IsInt (fvMul (aVal c g arr (arr.sA.pos + q) i) (bVal c g lead (lead.sB.pos + q) j)) (av q * bv q) :=
      (isInt_aVal c arr noA fmtA _ i).mul (isInt_bVal c lead noB fmtB _ j)
    have sum := IsInt.foldl_add offs product isInt_zero
    rw [Int.zero_add] at sum
    simpa only [clamped, cellStep, int, if_true] using accInt_of_isInt acc sum
  · exact ⟨lane_rowStep c g lead arr offs first i row lt on, rowStep_sat c g lead arr offs first i row lt on⟩
  · simp only [runSteps, if_neg (Nat.ne_of_gt pos)]

end Sys2Proof.Machine
end

section
/-! PROOF. Requests against a context's job tag (R149), OPEN and CLOSE (R141, R143, R151, R152). -/
namespace Sys2Proof.Machine

/-! ## The checks before an operation -/

theorem runSe_open {s : State} {k : Nat} {r : SeReq} (op : seOp r.words = some .open_) : runSe s k r = runOpen s k r := by
  rw [runSe, op]

/-- Checks 4 and 5 of R147, once the block's handle names a context. -/
theorem runSe_onCtx {s : State} {k : Nat} {r : SeReq} {o : SeOp} {c : Ctx} (op : seOp r.words = some o) (notOpen : o ≠ .open_)
    (notStack : o ≠ .statsStack) (ctx : seCtx s k r.words = some c) :
    runSe s k r = if c.jobTag ≠ r.who.jobTag then ({ st := .access }, s)
      else if !(seWithin o r.words c) then ({ st := .badDesc }, s)
      else runOn s k r o c := by
  rw [runSe, op]
  cases o with
  | open_ => exact absurd rfl notOpen
  | statsStack => exact absurd rfl notStack
  | _ => simp only [ctx]

/-- Settles O40: a named context's tag is looked at before its limits, and nothing has changed by then. -/
theorem stateEngineJobTags : Obligations.StateEngineJobTags := by
  intro s k r o c op notOpen notStack ctx
  rw [runSe_onCtx op notOpen notStack ctx]
  constructor
  · intro other
    rw [if_pos other]
    exact ⟨rfl, rfl⟩
  · intro own within
    rw [if_neg (not_not_intro own), within]
    rfl

/-! ## OPEN -/

/-- The context that OPEN makes of its block (R151), with its GEN and the time. -/
def openedCtx (r : SeReq) (gen now : Nat) : Ctx :=
  { gen := gen, jobTag := r.who.jobTag, isOpen := true, tOpen := now,
    fmtK := seFld r.words 2 35 32, fmtV := seFld r.words 2 39 36, h := seFld r.words 2 43 40 + 1, nb := seFld r.words 2 46 44 + 1,
    ptab := seFld r.words 5 36 0, pcap := seFld r.words 6 31 0 }

/-- GEN of the next context at an index (R141): one more than that of the last. -/
def ctxGen (x : StackSt) (i : Nat) : Nat := (mget {} x.ctx i).gen + 1

/-- What OPEN answers where it takes index i and leaves y of the stack, but for the context itself. -/
def openAt (s : State) (k : Nat) (r : SeReq) (i : Nat) (y : StackSt) : SeRes × State :=
  ({ done := 1, result := toBytes 8 (i + 2 ^ 16 * ctxGen y i) },
    setStack s k { y with ctx := mput i (openedCtx r (ctxGen y i) s.timebase) y.ctx })

section
variable {s : State} {k : Nat} {r : SeReq}

theorem runOpen_new (new : (getStack s k).nextNew < 65536) :
    runOpen s k r = openAt s k r (getStack s k).nextNew { getStack s k with nextNew := (getStack s k).nextNew + 1 } := by
  simp only [runOpen, if_pos new]
  rfl

theorem runOpen_freed {i : Nat} {is : List Nat} (used : 65536 ≤ (getStack s k).nextNew) (freed : (getStack s k).freed = i :: is) :
    runOpen s k r = openAt s k r i { getStack s k with freed := is } := by
  simp only [runOpen, if_neg (Nat.not_lt.2 used), freed]
  rfl

theorem runOpen_full (used : 65536 ≤ (getStack s k).nextNew) (noFreed : (getStack s k).freed = []) :
    runOpen s k r = ({ st := .noResource }, s) := by
  simp only [runOpen, if_neg (Nat.not_lt.2 used), noFreed]

/-- Where the stack has an index left, OPEN takes one and leaves the stack's other contexts as they were. -/
theorem runOpen_eq_openAt (room : (getStack s k).nextNew < 65536 ∨ (getStack s k).freed ≠ []) :
    ∃ i y, runOpen s k r = openAt s k r i y ∧ y.ctx = (getStack s k).ctx := by
  by_cases new : (getStack s k).nextNew < 65536
  · exact ⟨_, _, runOpen_new new, rfl⟩
  · obtain ⟨i, is, freed⟩ := List.exists_cons_of_ne_nil (room.resolve_left new)
    exact ⟨i, _, runOpen_freed (Nat.not_lt.1 new) freed, rfl⟩

theorem ctx_openAt (i : Nat) (y : StackSt) :
    (getStack (openAt s k r i y).2 k).ctx = mput i (openedCtx r (ctxGen y i) s.timebase) y.ctx := by
  simp only [openAt, getStack_setStack, if_true]

/-! ## CLOSE -/

theorem ctx_runClose (c : Ctx) :
    (getStack (runClose s k r c).2 k).ctx = mput (seFld r.words 1 15 0) { c with isOpen := false } (getStack s k).ctx := by
  simp only [runClose, setCtx, getStack_setStack, if_true]

/-- With the context's own tag, CLOSE is carried out: it has no limits of its own. -/
theorem runSe_close {c : Ctx} (op : seOp r.words = some .close) (ctx : seCtx s k r.words = some c) (own : c.jobTag = r.who.jobTag) :
    runSe s k r = runClose s k r c :=
  (stateEngineJobTags s k r .close c op nofun nofun ctx).2 own rfl

/-- A handle to a closed context names none. -/
theorem seCtx_closed {ws : List Word} {c : Ctx} (held : mfind (getStack s k).ctx (seFld ws 1 15 0) = some c) (closed : c.isOpen = false) :
    seCtx s k ws = none := by
  simp [seCtx, held, closed]

end

/-- Settles O41: OPEN puts the block's context at an index that was never used or was freed, and CLOSE puts the closed context back at the
block's own index; each writes that one place of the context table. -/
theorem stateEngineOpenClose : Obligations.StateEngineOpenClose := by
  intro s k r x q
  refine ⟨fun op room => ?_, fun op used noFreed => ?_, fun c op ctx own => ?_⟩
  · obtain ⟨i, y, opens, same⟩ := runOpen_eq_openAt (r := r) room
    have answer : q = openAt s k r i y := (runSe_open op).trans opens
    have table : (getStack q.2 k).ctx = mput i (openedCtx r (ctxGen y i) s.timebase) x.ctx := by rw [answer, ctx_openAt, same]
    have next : ctxGen y i = (mget {} x.ctx i).gen + 1 := by rw [ctxGen, same]
    have frame : q.2 = { s with seStacks := q.2.seStacks } := by rw [answer]; rfl
    refine ⟨i, openedCtx r (ctxGen y i) s.timebase, by rw [table, mfind_mput_same], rfl, rfl, rfl, rfl, rfl, rfl, rfl, rfl, rfl, next, ?st, ?result,
      fun j ne => by rw [table, mfind_mput_ne _ _ ne], frame⟩
    all_goals rw [answer]; rfl
  · have answer : q = ({ st := .noResource }, s) := (runSe_open op).trans (runOpen_full used noFreed)
    rw [answer]
    exact ⟨rfl, rfl⟩
  · have answer : q = runClose s k r c := runSe_close op ctx own
    have table : (getStack q.2 k).ctx = mput (seFld r.words 1 15 0) { c with isOpen := false } x.ctx := by rw [answer, ctx_runClose]
    have closed : mfind (getStack q.2 k).ctx (seFld r.words 1 15 0) = some { c with isOpen := false } := by rw [table, mfind_mput_same]
    exact ⟨by rw [answer]; rfl, seCtx_closed closed rfl, fun j ne => by rw [table, mfind_mput_ne _ _ ne]⟩

end Sys2Proof.Machine
end

section
/-! PROOF. The expected power of a descriptor by its opcode (R414). -/
namespace Sys2Proof.Machine

/-! ## Opcodes the energy gate weighs -/

/-- KERNEL, COPY, SE_CMD and COLL. -/
theorem gatedOpc_iff (o : Nat) : gatedOpc o = true ↔ o = 0x01 ∨ o = 0x02 ∨ o = 0x04 ∨ o = 0x05 := by
  simp only [gatedOpc, Bool.or_eq_true, beq_iff_eq, or_assoc]

/-! ## Expected power -/

section
variable {d : Desc}

theorem descPower_kernel (kernel : dOpc d = 0x01) : descPower d = dEcls d * 8 * kernelCores d := by
  simp only [descPower, kernel]

theorem descPower_of_ne_kernel (other : dOpc d ≠ 0x01) : descPower d = if gatedOpc (dOpc d) then dEcls d * 8 * 160 else 0 := by
  unfold descPower
  split
  · contradiction
  · rfl

theorem descPower_gated (other : dOpc d ≠ 0x01) (gated : gatedOpc (dOpc d) = true) : descPower d = dEcls d * 8 * 160 := by
  rw [descPower_of_ne_kernel other, if_pos gated]

theorem descPower_ungated (ungated : ¬ gatedOpc (dOpc d) = true) : descPower d = 0 := by
  have other : dOpc d ≠ 0x01 := fun kernel => ungated ((gatedOpc_iff _).2 (.inl kernel))
  rw [descPower_of_ne_kernel other, if_neg ungated]

end

/-- Settles O34: a KERNEL weighs the cores it names, each other opcode of the energy gate 160, and an opcode outside the gate nothing. -/
theorem expectedPower : Obligations.ExpectedPower := by
  intro d
  refine ⟨descPower_kernel, fun fixed => ?fixed, fun kernel copy coll se => ?ungated, Nat.mul_assoc _ 8 15⟩
  case fixed => exact descPower_gated (by omega) ((gatedOpc_iff _).2 (by omega))
  case ungated => exact descPower_ungated (by rw [gatedOpc_iff]; omega)

end Sys2Proof.Machine
end
